-- ==== Sys2Proof/Word.lean ====
section
/-!
DEFINITION. The word types of Orsel 4 (R1 to R8): 64-bit operand-slot values, 32-bit instruction words, bytes.
-/
namespace Sys2Proof

/-- A value in an operand slot, a carried register or a device register: 64 bits (R76). -/
abbrev Word := BitVec 64

/-- One 32-bit instruction, header or table word (R3, R58). -/
abbrev IWord := BitVec 32

/-- One byte of memory. -/
abbrev Byte := BitVec 8

end Sys2Proof
end

