-- ==== Sys2Proof/Config.lean ====
section
/-!
DEFINITION. What one implementation fixes and the spec leaves open. Each constant is opaque: no statement can rest on its value.
-/
namespace Sys2Proof.Config

/-- Cycles beyond the least that the n-th timed operation takes: results of loads, special functions and engines, links and
tokens between cores (R53, R165, R259). Free value (log 2). -/
opaque latency : Nat → Nat

/-- The value of a carried register that `gempty` emptied or a dropped register's lent bytes: the spec leaves it unspecified
(R195). Free value (log 12). -/
opaque freeWord : Nat → Word

/-- Whether the carry unit drops values when a matching-store move finds no room: not architectural (R203). Free value (log 12). -/
opaque dropNow : Nat → Bool

/-- The byte that the n-th context save leaves at an address of the overflow area: the spec does not give an image's layout (R288, R289).
Free value (log 34). -/
opaque ctxImage : Nat → Nat → Byte

/-- Bytes of the launch engine's state in the n-th context save, up to the bound of R288. Free value (log 34). -/
opaque launchBytes : Nat → Nat

/-! ## What one part has fused, and what only its controller computes (log 3) -/

/-- FEATOFFER: the features the part offers (R461). -/
opaque featOffer : Word

/-- The SM3 digest of some bytes (R467, R475), a number of 256 bits. -/
opaque sm3 : List Byte → Nat

/-- Whether a 512-bit number is the SM2 signature, by the key with a hash, of some bytes (R467). -/
opaque sm2Valid : Nat → List Byte → Nat → Bool

/-- The SM2 signature of some bytes by the identity key (R475). -/
opaque sm2Sign : List Byte → List Byte

/-- The hashes of the two keys fused, and whether each has been revoked (R467). -/
opaque fusedKey : Bool → Nat
opaque keyRevoked : Bool → Bool

/-- The boot ROM and the recovery loader, and the fused digest of the loader (R467). -/
opaque bootRom : List Byte
opaque romLoader : List Byte
opaque loaderDigest : Nat

/-- The module's certificate chain (R475). -/
opaque certChain : List Byte

/-- A sensor's n-th reading (R474): the spec gives no values. -/
opaque sensor : Nat → Nat → Word

/-- Which sensors report the count of corrected errors (R474): the spec gives no numbers. -/
opaque countsErrors : Nat → Bool

/-- Errors that the n-th pass of the patrol scrubber corrects (R477). -/
opaque correctedErrors : Nat → Nat

/-- What a base discovery command returns (R474): DSP0240 gives it. -/
opaque pldmBase : Nat → List Byte

end Sys2Proof.Config
end

