-- ==== Sys2Proof/Machine/Bits.lean ====
section
/-!
DEFINITION. Bit fields, sign extension, byte order, packed elements (R4, R76, R77) and sparse maps by number.
-/
namespace Sys2Proof.Machine

/-- Bits [hi:lo] of a word as a natural number. -/
def bits (x : Word) (hi lo : Nat) : Nat := (x.toNat >>> lo) % 2 ^ (hi + 1 - lo)

/-- Bit k of a word. -/
def bit (x : Word) (k : Nat) : Bool := x.toNat.testBit k

/-- Bits [hi:lo] of a natural number. -/
def natBits (x hi lo : Nat) : Nat := (x >>> lo) % 2 ^ (hi + 1 - lo)

/-- A natural number written into bits [hi:lo] of a word, the rest kept. -/
def setBits (x : Word) (hi lo v : Nat) : Word :=
  let m := 2 ^ (hi + 1 - lo)
  BitVec.ofNat 64 (x.toNat - bits x hi lo * 2 ^ lo + (v % m) * 2 ^ lo)

/-- A Boolean as the number 0 or 1. -/
def b2n (b : Bool) : Nat := if b then 1 else 0

/-- The low w bits of n read as two's complement (R77). -/
def toSigned (w n : Nat) : Int :=
  let k := n % 2 ^ w
  if k < 2 ^ (w - 1) then (k : Int) else (k : Int) - 2 ^ w

/-- An integer taken modulo 2^w (R77). -/
def wrapTo (w : Nat) (x : Int) : Nat := (x % (2 ^ w : Int)).toNat

/-- A 64-bit word of an integer, modulo 2^64. -/
def wordOfInt (x : Int) : Word := BitVec.ofNat 64 (wrapTo 64 x)

/-- Number of bits of n: the position above its highest 1 bit; 0 for 0. -/
def bitLen (n : Nat) : Nat := if n = 0 then 0 else n.log2 + 1

/-- Little-endian bytes of n, `len` of them (R4). -/
def leBytes : Nat → Nat → List Byte
  | 0, _ => []
  | len + 1, n => BitVec.ofNat 8 n :: leBytes len (n / 256)

/-- The number whose little-endian bytes are given (R4). -/
def ofLE : List Byte → Nat
  | [] => 0
  | b :: bs => b.toNat + 256 * ofLE bs

/-- Number of 1 bits among the low k bits of n. -/
def popCount : Nat → Nat → Nat
  | 0, _ => 0
  | k + 1, n => n % 2 + popCount k (n / 2)

/-- The low k bits of n in reversed order. -/
def revBits : Nat → Nat → Nat
  | 0, _ => 0
  | k + 1, n => (n % 2) * 2 ^ k + revBits k (n / 2)

/-- Sum over i below n of f i placed at bit w·i. -/
def packAt (w : Nat) (f : Nat → Nat) : Nat → Nat
  | 0 => 0
  | n + 1 => packAt w f n + (f n % 2 ^ w) * 2 ^ (w * n)

/-- n rounded up to a multiple of m. -/
def roundUp (n m : Nat) : Nat := (n + m - 1) / m * m

/-- The first element of a list that satisfies a test, with its position. -/
def findAt {α : Type} (p : α → Bool) : List α → Option (Nat × α)
  | [] => none
  | x :: xs => if p x then some (0, x) else (findAt p xs).map (fun q => (q.1 + 1, q.2))

/-- Position of the first element satisfying a test. -/
def findPos {α : Type} (p : α → Bool) (l : List α) : Option Nat := (findAt p l).map (·.1)

/-- Insertion of one element into a sorted list, before the first that it precedes. -/
def insertBy {α : Type} (le : α → α → Bool) (x : α) : List α → List α
  | [] => [x]
  | y :: ys => if le x y then x :: y :: ys else y :: insertBy le x ys

/-- Insertion sort; stable for a reflexive `le`. -/
def sortBy {α : Type} (le : α → α → Bool) : List α → List α
  | [] => []
  | x :: xs => insertBy le x (sortBy le xs)

/-- The least element under `le`; ties keep the earlier one. -/
def minBy {α : Type} (le : α → α → Bool) : List α → Option α
  | [] => none
  | x :: xs =>
    match minBy le xs with
    | none => some x
    | some y => if le x y then some x else some y

/-- Keep the first occurrence of each element. -/
def dedup {α : Type} [BEq α] : List α → List α
  | [] => []
  | x :: xs => x :: (dedup xs).filter (fun y => !(y == x))

/-- A sparse map from numbers, sorted by key. A key that is not listed holds the field's reset value. -/
abbrev NMap (α : Type) := List (Nat × α)

/-- The entry of a key. -/
def NMap.get? {α : Type} : NMap α → Nat → Option α
  | [], _ => none
  | (k, v) :: m, i => if i = k then some v else NMap.get? m i

/-- The entry of a key, or the reset value d. -/
def NMap.getD {α : Type} (m : NMap α) (i : Nat) (d : α) : α := (NMap.get? m i).getD d

/-- The map with key i set to v, sorted. -/
def NMap.set {α : Type} : NMap α → Nat → α → NMap α
  | [], i, v => [(i, v)]
  | (k, w) :: m, i, v =>
    if i < k then (i, v) :: (k, w) :: m
    else if i = k then (i, v) :: m
    else (k, w) :: NMap.set m i v

/-- The map without key i. -/
def NMap.erase {α : Type} (m : NMap α) (i : Nat) : NMap α := m.filter (fun e => !(e.1 == i))

/-- The map with v at key i, and nothing listed there when v is the reset value d. -/
def NMap.put {α : Type} [DecidableEq α] (m : NMap α) (i : Nat) (v d : α) : NMap α :=
  if v = d then NMap.erase m i else NMap.set m i v

/-- The values of a map, by rising key. -/
def NMap.vals {α : Type} (m : NMap α) : List α := m.map (·.2)

/-- The keys of a map. -/
def NMap.keys {α : Type} (m : NMap α) : List Nat := m.map (·.1)

end Sys2Proof.Machine
end

