-- ==== Sys2Proof/Machine/Float.lean ====
section
/-!
DEFINITION. Floating formats, rounding, flags and exact arithmetic (R78 to R90).
-/
namespace Sys2Proof.Machine

/-- The seven sticky flags in the order of MODE bits 16 to 22 (R84): IV, DZ, OF, UF, IX, SAT, DN. -/
abbrev Flags := BitVec 7
def fIV : Flags := 1#7
def fDZ : Flags := 2#7
def fOF : Flags := 4#7
def fUF : Flags := 8#7
def fIX : Flags := 16#7
def fSAT : Flags := 32#7
def fDN : Flags := 64#7

/-- A flag raised when a condition holds. -/
def flagIf (b : Bool) (f : Flags) : Flags := if b then f else 0#7

/-- The five rounding modes (R82). -/
inductive RM where
  | rne | rtz | rup | rdn | rna
deriving DecidableEq, Repr

/-- A rounding code (R82). MODE never holds 0, 6 or 7 (R85). -/
def RM.ofCode (c : Nat) : RM :=
  match c with
  | 2 => .rtz | 3 => .rup | 4 => .rdn | 5 => .rna | _ => .rne

/-- How a format's special encodings are laid out (R79). -/
inductive Specials where
  | ieee   -- Emax holds infinity and NaN
  | e4m3   -- only S.1111.111 is NaN
  | none   -- every encoding is finite
deriving DecidableEq, Repr

/-- A floating format: exponent bits, fraction bits, bias, special encodings (R78). -/
structure Fmt where
  ebits : Nat
  fbits : Nat
  bias : Nat
  sp : Specials
deriving DecidableEq, Repr

def fp64 : Fmt := ⟨11, 52, 1023, .ieee⟩
def fp32 : Fmt := ⟨8, 23, 127, .ieee⟩
def bf16 : Fmt := ⟨8, 7, 127, .ieee⟩
def fp16 : Fmt := ⟨5, 10, 15, .ieee⟩
def e5m2 : Fmt := ⟨5, 2, 15, .ieee⟩
def e4m3 : Fmt := ⟨4, 3, 7, .e4m3⟩
def e3m2 : Fmt := ⟨3, 2, 3, .none⟩
def e2m3 : Fmt := ⟨2, 3, 1, .none⟩
def e2m1 : Fmt := ⟨2, 1, 1, .none⟩

def Fmt.width (f : Fmt) : Nat := 1 + f.ebits + f.fbits
def Fmt.signBit (f : Fmt) : Nat := 2 ^ (f.ebits + f.fbits)
def Fmt.emin (f : Fmt) : Int := 1 - f.bias
/-- Largest exponent of a finite value. -/
def Fmt.emax (f : Fmt) : Int := (2 ^ f.ebits - 1 : Nat) - (f.bias : Int) - (if f.sp = .ieee then 1 else 0)
/-- Largest significand, as an integer of fbits + 1 bits, at exponent emax. -/
def Fmt.maxSig (f : Fmt) : Nat := 2 ^ (f.fbits + 1) - 1 - (if f.sp = .e4m3 then 1 else 0)
/-- Encoding of the largest finite magnitude. -/
def Fmt.maxFin (f : Fmt) : Nat :=
  match f.sp with
  | .ieee => (2 ^ f.ebits - 1) * 2 ^ f.fbits - 1
  | .e4m3 => 2 ^ (f.ebits + f.fbits) - 2
  | .none => 2 ^ (f.ebits + f.fbits) - 1
/-- Encoding of +infinity, in the formats that have it. -/
def Fmt.infBits (f : Fmt) : Nat := (2 ^ f.ebits - 1) * 2 ^ f.fbits
/-- The canonical NaN (R80); a format without NaN delivers +0 (R89). -/
def Fmt.cnan (f : Fmt) : Nat :=
  match f.sp with
  | .ieee => f.infBits + 2 ^ (f.fbits - 1)
  | .e4m3 => 2 ^ (f.ebits + f.fbits) - 1
  | .none => 0
/-- R87: only FP32, BF16 and FP16 values are ever flushed. -/
def Fmt.flushes (f : Fmt) : Bool := f == fp32 || f == bf16 || f == fp16

/-- The value of an encoding (R79); `fin neg m e` is (−1)^neg · m · 2^e. -/
inductive FVal where
  | nan (signalling : Bool)
  | inf (neg : Bool)
  | fin (neg : Bool) (m : Nat) (e : Int)
deriving DecidableEq, Repr

/-- Sign bit of an encoding. -/
def Fmt.neg (f : Fmt) (x : Nat) : Bool := x / f.signBit % 2 == 1
def Fmt.expF (f : Fmt) (x : Nat) : Nat := x / 2 ^ f.fbits % 2 ^ f.ebits
def Fmt.fracF (f : Fmt) (x : Nat) : Nat := x % 2 ^ f.fbits

/-- R79. -/
def Fmt.decode (f : Fmt) (x : Nat) : FVal :=
  let s := f.neg x
  let e := f.expF x
  let fr := f.fracF x
  let top := 2 ^ f.ebits - 1
  let quiet := fr / 2 ^ (f.fbits - 1) % 2 == 1
  if e = 0 then .fin s fr (f.emin - f.fbits)
  else if f.sp = .ieee ∧ e = top then (if fr = 0 then .inf s else .nan (!quiet))
  else if f.sp = .e4m3 ∧ e = top ∧ fr = 2 ^ f.fbits - 1 then .nan (!quiet)
  else .fin s (2 ^ f.fbits + fr) ((e : Int) - f.bias - f.fbits)

/-- A subnormal encoding: E = 0 and F non-zero. -/
def Fmt.subnormal (f : Fmt) (x : Nat) : Bool := f.expF x == 0 && f.fracF x != 0

/-- A result: the encoding delivered and the flags raised. -/
structure FRes where
  bits : Nat
  fl : Flags
deriving DecidableEq, Repr

def Fmt.signed (f : Fmt) (neg : Bool) (mag : Nat) : Nat := if neg then mag + f.signBit else mag

/-- The fields of MODE a floating instruction reads at issue (R83, R132). -/
structure FEnv where
  rm : RM
  ftzi : Bool
  ftzo : Bool
  satp : Bool     -- SATP 1: overflow to special
deriving DecidableEq, Repr

/-- An input under FTZI (R87): the value read and whether a subnormal was flushed. -/
def Fmt.input (f : Fmt) (env : FEnv) (x : Nat) : FVal × Flags :=
  if env.ftzi && f.flushes && f.subnormal x then (.fin (f.neg x) 0 0, fDN) else (f.decode x, 0)

/-- The exact value (m + δ)·2^e, 0 < δ < 1 exactly when sticky, rounded to a multiple of 2^q under a mode. -/
def roundQ (rm : RM) (neg : Bool) (m : Nat) (e : Int) (sticky : Bool) (q : Int) : Nat × Bool :=
  if q ≤ e then (m * 2 ^ (e - q).toNat, sticky)
  else
    let sh := (q - e).toNat
    let k := m / 2 ^ sh
    let r := m % 2 ^ sh
    let half := 2 ^ (sh - 1)
    let inexact := sticky || r != 0
    let up : Bool :=
      match rm with
      | .rne => r > half || (r == half && (sticky || k % 2 == 1))
      | .rna => r ≥ half
      | .rtz => false
      | .rup => inexact && !neg
      | .rdn => inexact && neg
    (if up then k + 1 else k, inexact)

/-- Outcome of rounding a non-zero magnitude to a format, before any overflow or flush rule. -/
structure Rounded where
  ovf : Bool      -- the magnitude rounded with unbounded exponent exceeds the largest finite value (R82)
  tiny : Bool      -- that magnitude is below the least normal (R86)
  inexact : Bool
  mag : Nat        -- the encoding of the magnitude when not over
deriving DecidableEq, Repr

/-- R82, R86: rounding with unbounded exponent decides overflow and tininess; subnormals use the format's least quantum. -/
def Fmt.roundMag (f : Fmt) (rm : RM) (neg : Bool) (m : Nat) (e : Int) (sticky : Bool) : Rounded :=
  let lead := e + (bitLen m : Int) - 1
  let u := roundQ rm neg m e sticky (lead - f.fbits)
  let carry := u.1 ≥ 2 ^ (f.fbits + 1)
  let lead' := if carry then lead + 1 else lead
  let sig := if carry then u.1 / 2 else u.1
  let ovf := decide (lead' > f.emax) || (decide (lead' = f.emax) && decide (sig > f.maxSig))
  let tiny := decide (lead' < f.emin)
  let q := max (lead - f.fbits) (f.emin - f.fbits)
  let d := roundQ rm neg m e sticky q
  let mag := if lead < f.emin then d.1 else ((lead - f.emin).toNat * 2 ^ f.fbits) + d.1
  { ovf := ovf, tiny := tiny, inexact := d.2, mag := mag }

/-- Overflow of an arithmetic result in a format with infinity (R82). -/
def Fmt.overflow (f : Fmt) (rm : RM) (neg : Bool) : Nat :=
  let toInf : Bool :=
    match rm with
    | .rne | .rna => true
    | .rtz => false
    | .rup => !neg
    | .rdn => neg
  f.signed neg (if toInf then f.infBits else f.maxFin)

/-- An exact value rounded into a format under MODE (R82, R86, R87). `sticky` says the exact magnitude lies above m·2^e by
less than 2^e. A zero keeps the sign given. -/
def Fmt.round (f : Fmt) (env : FEnv) (neg : Bool) (m : Nat) (e : Int) (sticky : Bool) : FRes :=
  if m = 0 then ⟨f.signed neg 0, 0⟩
  else
    let r := f.roundMag env.rm neg m e sticky
    if r.ovf then ⟨f.overflow env.rm neg, fOF ||| fIX⟩
    else if r.tiny && env.ftzo && f.flushes then ⟨f.signed neg 0, fUF ||| fIX⟩
    else ⟨f.signed neg r.mag, flagIf r.inexact fIX ||| flagIf (r.tiny && r.inexact) fUF⟩

/-- A NaN result (R80). -/
def Fmt.nanRes (f : Fmt) (fl : Flags) : FRes := ⟨f.cnan, fl⟩
def Fmt.infRes (f : Fmt) (neg : Bool) (fl : Flags) : FRes := ⟨f.signed neg f.infBits, fl⟩

/-- The invalid flag of a signalling NaN input (R80, R86). -/
def FVal.snanFlag : FVal → Flags
  | .nan true => fIV
  | _ => 0

def FVal.isNan : FVal → Bool
  | .nan _ => true
  | _ => false

def FVal.isInf : FVal → Bool
  | .inf _ => true
  | _ => false

/-- Sign of an exact zero sum: two zeros of one sign keep it; otherwise −0 under RDN and +0 in every other mode
(PRESUMED, log 10: IEEE 754; the spec fixes only RNE, R98). -/
def zeroSign (rm : RM) (n1 n2 : Bool) : Bool := if n1 == n2 then n1 else rm == .rdn

/-- A signed dyadic number as an integer count of 2^e. -/
def dyInt (neg : Bool) (m : Nat) (e0 e : Int) : Int :=
  let k := (m * 2 ^ (e - e0).toNat : Nat)
  if neg then - (k : Int) else k

/-- Exact sum of two finite values, with the sign an exact zero takes. -/
def addFin (rm : RM) (n1 : Bool) (m1 : Nat) (e1 : Int) (n2 : Bool) (m2 : Nat) (e2 : Int) : Bool × Nat × Int :=
  let e := if m1 = 0 then e2 else if m2 = 0 then e1 else min e1 e2
  let x := (if m1 = 0 then 0 else dyInt n1 m1 e e1) + (if m2 = 0 then 0 else dyInt n2 m2 e e2)
  if x = 0 then (if m1 = 0 && m2 = 0 then zeroSign rm n1 n2 else rm == .rdn, 0, 0)
  else (decide (x < 0), x.natAbs, e)

/-- Exact product of two values: special results carry IV for 0·∞ (R86). -/
def mulVal (a b : FVal) : FVal × Flags :=
  match a, b with
  | .nan _, _ | _, .nan _ => (.nan false, 0)
  | .inf n, .inf k => (.inf (n != k), 0)
  | .inf n, .fin k m _ => if m = 0 then (.nan false, fIV) else (.inf (n != k), 0)
  | .fin k m _, .inf n => if m = 0 then (.nan false, fIV) else (.inf (n != k), 0)
  | .fin n m e, .fin k m' e' => (.fin (n != k) (m * m') (e + e'), 0)

/-- Exact sum of two values: ∞ − ∞ is NaN with IV (R86). -/
def addVal (rm : RM) (a b : FVal) : FVal × Flags :=
  match a, b with
  | .nan _, _ | _, .nan _ => (.nan false, 0)
  | .inf n, .inf k => if n == k then (.inf n, 0) else (.nan false, fIV)
  | .inf n, .fin _ _ _ => (.inf n, 0)
  | .fin _ _ _, .inf k => (.inf k, 0)
  | .fin n m e, .fin k m' e' => let r := addFin rm n m e k m' e'; (.fin r.1 r.2.1 r.2.2, 0)

/-- A value delivered in a format. -/
def Fmt.deliver (f : Fmt) (env : FEnv) (v : FVal) (fl : Flags) : FRes :=
  match v with
  | .nan _ => f.nanRes fl
  | .inf n => f.infRes n fl
  | .fin n m e => let r := f.round env n m e false; ⟨r.bits, r.fl ||| fl⟩

/-- A value with its sign inverted. -/
def FVal.negate : FVal → FVal
  | .nan s => .nan s
  | .inf n => .inf (!n)
  | .fin n m e => .fin (!n) m e

/-- L + R (R140). -/
def Fmt.add (f : Fmt) (env : FEnv) (x y : Nat) : FRes :=
  let a := f.input env x
  let b := f.input env y
  let s := addVal env.rm a.1 b.1
  f.deliver env s.1 (a.2 ||| b.2 ||| a.1.snanFlag ||| b.1.snanFlag ||| s.2)

/-- L − R (R140). -/
def Fmt.sub (f : Fmt) (env : FEnv) (x y : Nat) : FRes :=
  let a := f.input env x
  let b := f.input env y
  let s := addVal env.rm a.1 b.1.negate
  f.deliver env s.1 (a.2 ||| b.2 ||| a.1.snanFlag ||| b.1.snanFlag ||| s.2)

/-- L · R (R140). -/
def Fmt.mul (f : Fmt) (env : FEnv) (x y : Nat) : FRes :=
  let a := f.input env x
  let b := f.input env y
  let s := mulVal a.1 b.1
  f.deliver env s.1 (a.2 ||| b.2 ||| a.1.snanFlag ||| b.1.snanFlag ||| s.2)

/-- L · R + T with one rounding; 0·∞ sets IV even when T is NaN (R140). -/
def Fmt.fma (f : Fmt) (env : FEnv) (x y z : Nat) : FRes :=
  let a := f.input env x
  let b := f.input env y
  let c := f.input env z
  let p := mulVal a.1 b.1
  let s := addVal env.rm p.1 c.1
  f.deliver env s.1 (a.2 ||| b.2 ||| c.2 ||| a.1.snanFlag ||| b.1.snanFlag ||| c.1.snanFlag ||| p.2 ||| s.2)

/-- The exact sum of a list of values, without its flags. -/
def exactSum (rm : RM) : List FVal → FVal
  | [] => .fin false 0 0
  | [v] => v
  | v :: vs => (addVal rm v (exactSum rm vs)).1

/-- The flag of a sum of several terms: infinities of both signs among them set IV (R86), in whatever order they stand and whether or not
another term is NaN (DESIGN CHOICE, log 63: the spec does not say what a quiet NaN beside them does). -/
def infClash (vs : List FVal) : Flags :=
  flagIf (vs.any (fun v => v == .inf false) && vs.any (fun v => v == .inf true)) fIV

/-- A sum of exact products and one addend, rounded once (R144). Infinities of both signs among the terms give NaN with IV. -/
def sumVals (rm : RM) (vs : List FVal) : FVal × Flags := (exactSum rm vs, infClash vs)

/-- Whether two ordered values satisfy a < b. -/
def FVal.lt (a b : FVal) : Bool :=
  match a, b with
  | .nan _, _ | _, .nan _ => false
  | .inf n, .inf k => n && !k
  | .inf n, .fin _ _ _ => n
  | .fin _ _ _, .inf k => !k
  | .fin n m e, .fin k m' e' =>
    let q := min e e'
    decide (dyInt n m q e < dyInt k m' q e')

/-- Whether two ordered values are equal; +0 equals −0 (R142). -/
def FVal.eq (a b : FVal) : Bool := !a.isNan && !b.isNan && !a.lt b && !b.lt a

/-- R141: fmin (wantMax = false) and fmax. The encodings chosen between are those after any input flush. -/
def Fmt.minMax (f : Fmt) (env : FEnv) (wantMax : Bool) (x y : Nat) : FRes :=
  let a := f.input env x
  let b := f.input env y
  let fl := a.2 ||| b.2 ||| a.1.snanFlag ||| b.1.snanFlag
  let xa := if a.2 = 0 then x else f.signed (f.neg x) 0
  let yb := if b.2 = 0 then y else f.signed (f.neg y) 0
  if a.1.isNan && b.1.isNan then f.nanRes fl
  else if a.1.isNan then ⟨yb, fl⟩
  else if b.1.isNan then ⟨xa, fl⟩
  else
    let aLess := a.1.lt b.1 || (a.1.eq b.1 && f.neg xa && !f.neg yb)
    ⟨if aLess != wantMax then xa else yb, fl⟩

/-- R142: the outcome of a comparison condition, and its flags. -/
def Fmt.cmp (f : Fmt) (env : FEnv) (c : Nat) (x y : Nat) : Bool × Flags :=
  let a := f.input env x
  let b := f.input env y
  let un := a.1.isNan || b.1.isNan
  let quietIV := un && decide (2 ≤ c ∧ c ≤ 5)
  let fl := a.2 ||| b.2 ||| a.1.snanFlag ||| b.1.snanFlag ||| flagIf quietIV fIV
  let r : Bool :=
    match c with
    | 0 => !un && a.1.eq b.1
    | 1 => un || !a.1.eq b.1
    | 2 => !un && a.1.lt b.1
    | 3 => !un && !b.1.lt a.1
    | 4 => !un && b.1.lt a.1
    | 5 => !un && !a.1.lt b.1
    | 6 => un
    | _ => !un
  (r, fl)

/-- R143: the class mask of an encoding. -/
def Fmt.classMask (f : Fmt) (x : Nat) : Nat :=
  match f.decode x with
  | .nan true => 1
  | .nan false => 2
  | .inf true => 4
  | .inf false => 512
  | .fin n _ _ =>
    if f.expF x = 0 then
      if f.fracF x = 0 then (if n then 32 else 64)
      else (if n then 16 else 128)
    else (if n then 8 else 256)

/-- Integer square root: r bits of result, highest first. -/
def isqrtBits (n : Nat) : Nat → Nat → Nat
  | 0, r => r
  | k + 1, r =>
    let c := r + 2 ^ k
    isqrtBits n k (if c * c ≤ n then c else r)

/-- floor of the square root of n. -/
def isqrt (n : Nat) : Nat := isqrtBits n (bitLen n / 2 + 1) 0

/-- Extra result bits kept before a sticky remainder; above every format's precision. -/
def guardBits : Nat := 80

/-- L / R (R145, R146). -/
def Fmt.div (f : Fmt) (env : FEnv) (x y : Nat) : FRes :=
  let a := f.input env x
  let b := f.input env y
  let fl := a.2 ||| b.2 ||| a.1.snanFlag ||| b.1.snanFlag
  match a.1, b.1 with
  | .nan _, _ | _, .nan _ => f.nanRes fl
  | .inf _, .inf _ => f.nanRes (fl ||| fIV)
  | .inf n, .fin k _ _ => f.infRes (n != k) fl
  | .fin n _ _, .inf k => ⟨f.signed (n != k) 0, fl⟩
  | .fin n m e, .fin k m' e' =>
    if m' = 0 then (if m = 0 then f.nanRes (fl ||| fIV) else f.infRes (n != k) (fl ||| fDZ))
    else if m = 0 then ⟨f.signed (n != k) 0, fl⟩
    else
      let s := guardBits + bitLen m'
      let q := (m * 2 ^ s) / m'
      let r := f.round env (n != k) q (e - e' - s) (m * 2 ^ s % m' != 0)
      ⟨r.bits, r.fl ||| fl⟩

/-- √L (R145, R146). -/
def Fmt.sqrt (f : Fmt) (env : FEnv) (x : Nat) : FRes :=
  let a := f.input env x
  let fl := a.2 ||| a.1.snanFlag
  match a.1 with
  | .nan _ => f.nanRes fl
  | .inf true => f.nanRes (fl ||| fIV)
  | .inf false => f.infRes false fl
  | .fin n m e =>
    if m = 0 then ⟨f.signed n 0, fl⟩
    else if n then f.nanRes (fl ||| fIV)
    else
      let odd := e % 2 != 0
      let m' := m * 2 ^ (2 * guardBits + b2n odd)
      let e' := e - 2 * guardBits - (b2n odd : Int)
      let s := isqrt m'
      let r := f.round env false s (e' / 2) (s * s != m')
      ⟨r.bits, r.fl ||| fl⟩

/-- L rounded to an integral value under the mode (R145, R146). FTZI acts on the input first: a subnormal is flushed with DN (R87), and IX tells
whether the result differs from the flushed input (log 37). -/
def Fmt.rint (f : Fmt) (env : FEnv) (x : Nat) : FRes :=
  let a := f.input env x
  let fl := a.2 ||| a.1.snanFlag
  match a.1 with
  | .nan _ => f.nanRes fl
  | .inf n => f.infRes n fl
  | .fin n m e =>
    let k := if m = 0 then (0, false) else roundQ env.rm n m e false 0
    if k.1 = 0 then ⟨f.signed n 0, fl ||| flagIf k.2 fIX⟩
    else ⟨(f.round env n k.1 0 false).bits, fl ||| flagIf k.2 fIX⟩

/-- R89: conversion of a value into format f, by the table of narrowing conversion. -/
def Fmt.narrow (f : Fmt) (env : FEnv) (v : FVal) : FRes :=
  match v with
  | .nan s =>
    match f.sp with
    | .none => ⟨0, fIV⟩
    | _ => ⟨f.cnan, flagIf s fIV⟩
  | .inf n =>
    match f.sp, env.satp with
    | .none, _ => ⟨f.signed n f.maxFin, fSAT⟩
    | _, false => ⟨f.signed n f.maxFin, fSAT⟩
    | .ieee, true => ⟨f.signed n f.infBits, 0⟩
    | .e4m3, true => ⟨f.cnan, fIV⟩
  | .fin n m e =>
    if m = 0 then ⟨f.signed n 0, 0⟩
    else
      let r := f.roundMag env.rm n m e false
      if r.ovf then
        match f.sp, env.satp with
        | .none, _ => ⟨f.signed n f.maxFin, fSAT ||| fIX⟩
        | _, false => ⟨f.signed n f.maxFin, fSAT ||| fIX⟩
        | .ieee, true => ⟨f.overflow env.rm n, fOF ||| fIX⟩
        | .e4m3, true => ⟨f.cnan, fOF ||| fIX⟩
      else if r.tiny && env.ftzo && f.flushes then ⟨f.signed n 0, fUF ||| fIX⟩
      else ⟨f.signed n r.mag, flagIf r.inexact fIX ||| flagIf (r.tiny && r.inexact) fUF⟩

/-- R149: a widening conversion is exact; FTZO still flushes a subnormal FP32 result with UF and IX. -/
def Fmt.widen (f : Fmt) (env : FEnv) (v : FVal) : FRes :=
  match v with
  | .nan s => ⟨f.cnan, flagIf s fIV⟩
  | .inf n => ⟨f.signed n f.infBits, 0⟩
  | .fin n m e => f.round env n m e false

/-- R90: a value to an integer of w bits. IX is set exactly when the rounded value differs from the input, in and out of range (R90's own
sentence is taken over R86's general one for a saturated result; log 63). -/
def toIntRes (signed : Bool) (w : Nat) (rm : RM) (v : FVal) : Int × Flags :=
  let hi : Int := if signed then 2 ^ (w - 1) - 1 else 2 ^ w - 1
  let lo : Int := if signed then - 2 ^ (w - 1) else 0
  match v with
  | .nan _ => (0, fIV ||| fSAT)
  | .inf n => (if n then lo else hi, fIV ||| fSAT)
  | .fin n m e =>
    let k := if m = 0 then (0, false) else roundQ rm n m e false 0
    let x : Int := if n then - (k.1 : Int) else k.1
    let ix := flagIf k.2 fIX
    if x > hi then (hi, fIV ||| fSAT ||| ix) else if x < lo then (lo, fIV ||| fSAT ||| ix) else (x, ix)

/-- R90: an integer to a floating format. -/
def Fmt.ofInt (f : Fmt) (env : FEnv) (x : Int) : FRes := f.round env (decide (x < 0)) x.natAbs 0 false

/-- floor(log2) of a non-zero finite magnitude. -/
def floorLog2 (m : Nat) (e : Int) : Int := e + (bitLen m : Int) - 1

/-- R93, R149: the block scale of a largest magnitude. -/
def mxScaleOf (emax : Int) (m : Nat) (e : Int) : Nat :=
  if m = 0 then 0
  else
    let k := floorLog2 m e - emax
    (min (max k (-127)) 127 + 127).toNat

/-- The engines' arithmetic environment: RNE, never flushing (R87, R96). -/
def envRNE : FEnv := { rm := .rne, ftzi := false, ftzo := false, satp := true }

/-- A value scaled by 2^k. -/
def FVal.scale (v : FVal) (k : Int) : FVal :=
  match v with
  | .fin n m e => .fin n m (e + k)
  | w => w

end Sys2Proof.Machine
end

