-- ==== Sys2Proof/Machine/Flags.lean ====
section
/-!
DEFINITION. The MODE word and its sticky flags (R84 to R88).
-/
namespace Sys2Proof.Machine

/-- RM, bits [2:0] (R84). -/
def modeRM (m : Word) : Nat := bits m 2 0
/-- FTZI, bit 4. -/
def modeFTZI (m : Word) : Bool := bit m 4
/-- FTZO, bit 5. -/
def modeFTZO (m : Word) : Bool := bit m 5
/-- SATP, bits [7:6]. -/
def modeSATP (m : Word) : Nat := bits m 7 6

/-- R88: flags ORed into the sticky bits [22:16] of a MODE word. -/
def modeOrFlags (m : Word) (f : Flags) : Word := m ||| (f.setWidth 64 <<< 16)

/-- R83, R132: the environment of a floating instruction with rounding field r under a seat's MODE. -/
def envOf (r : Nat) (m : Word) : FEnv :=
  { rm := RM.ofCode (if r = 0 then modeRM m else r), ftzi := modeFTZI m, ftzo := modeFTZO m, satp := modeSATP m == 1 }

/-- R84, R85: the fields of MODE that hold a value: RM, FTZI, FTZO, SATP and the sticky flags. -/
def modeFields (m : Word) : Word := m &&& 0x007F00F7#64

/-- R85: RM is 1 to 5. -/
def modeRMOk (m : Word) : Bool := decide (1 ≤ modeRM m ∧ modeRM m ≤ 5)
/-- R85: SATP is 0 or 1. -/
def modeSATPOk (m : Word) : Bool := decide (modeSATP m ≤ 1)

end Sys2Proof.Machine
end

