-- ==== Sys2Proof/Machine/Operands.lean ====
section
/-!
DEFINITION. Operand slots and element types of the lane classes (R51, R60, R61, R76, R77, R133).
-/
namespace Sys2Proof.Machine

/-- The four slots of an instruction (R51): codes 0 to 3 of a target byte's bits [1:0]. -/
inductive Slot where
  | l | r | t | p
deriving DecidableEq, Repr

def Slot.code : Slot → Nat
  | .l => 0 | .r => 1 | .t => 2 | .p => 3

/-- The target byte naming a slot of an instruction (R51): index in bits [7:2]. -/
def targetOf (idx : Nat) (s : Slot) : Nat := 4 * idx + s.code

/-- What a lane instruction reads for one seat: its operand slots and the seat's MODE word at issue (R132). -/
structure LaneIn where
  l : Word
  r : Word
  t : Word
  p : Word
  mode : Word
deriving DecidableEq, Repr

/-- What a lane instruction delivers for one seat: its result and the sticky flags it raises, in the order of MODE bits
16 to 22 (R84). -/
structure LaneOut where
  val : Word
  fl : BitVec 7
deriving DecidableEq, Repr

/-- An integer type of R60: signedness, element width, elements. -/
structure ITy where
  signed : Bool
  w : Nat
  n : Nat
deriving DecidableEq, Repr

/-- R60: type codes 0 to 7. -/
def ITy.ofCode (c : Nat) : ITy :=
  match c with
  | 0 => ⟨true, 32, 1⟩
  | 1 => ⟨false, 32, 1⟩
  | 2 => ⟨true, 64, 1⟩
  | 3 => ⟨false, 64, 1⟩
  | 4 => ⟨true, 16, 2⟩
  | 5 => ⟨false, 16, 2⟩
  | 6 => ⟨true, 8, 4⟩
  | _ => ⟨false, 8, 4⟩

/-- Element i of a slot as a bit pattern (R76). -/
def ITy.raw (t : ITy) (x : Word) (i : Nat) : Nat := (x.toNat >>> (t.w * i)) % 2 ^ t.w

/-- Element i of a slot, read signed or natural per type (R77). -/
def ITy.read (t : ITy) (x : Word) (i : Nat) : Int :=
  if t.signed then toSigned t.w (t.raw x i) else (t.raw x i : Int)

def ITy.max (t : ITy) : Int := if t.signed then 2 ^ (t.w - 1) - 1 else 2 ^ t.w - 1
def ITy.min (t : ITy) : Int := if t.signed then - 2 ^ (t.w - 1) else 0

/-- R77: an exact element result wrapped modulo 2^w, or clamped to the type's range in the saturating form. -/
def ITy.narrow (t : ITy) (sat : Bool) (x : Int) : Nat :=
  if sat then wrapTo t.w (if x > t.max then t.max else if x < t.min then t.min else x) else wrapTo t.w x

/-- Result elements placed in a slot as R76 gives: an s32 result copies bit 31 into bits [63:32]; other narrow types
leave them zero. -/
def ITy.pack (t : ITy) (f : Nat → Nat) : Word :=
  let v := packAt t.w f t.n
  if t.signed && t.w = 32 then BitVec.ofInt 64 (toSigned 32 v) else BitVec.ofNat 64 v

/-- R133: the result of an integer instruction from its exact element results. -/
def ITy.result (t : ITy) (sat : Bool) (f : Nat → Int) : Word := t.pack (fun i => t.narrow sat (f i))

/-- The outcome of a comparison for each element (R137): 1 or 0 for a scalar type, all ones or zeros for a packed one. -/
def boolElems (w n : Nat) (f : Nat → Bool) : Word :=
  if n = 1 then BitVec.ofNat 64 (b2n (f 0))
  else BitVec.ofNat 64 (packAt w (fun i => if f i then 2 ^ w - 1 else 0) n)

end Sys2Proof.Machine
end

