-- ==== Sys2Proof/Machine/Memory.lean ====
section
/-!
DEFINITION. Sparse byte memory in canonical form: addresses strictly rising, no byte listed that equals what an unlisted
address reads as. A byte no write has reached reads zero, as start-up leaves every granule of HBM (R467) and placement
every scratchpad window (R242).
-/
namespace Sys2Proof.Machine

/-- Bytes by address or offset. -/
abbrev Memory := List Host.Cell

/-- What an unlisted address reads as (R467 step 3, R242). -/
def Memory.blank : Byte := 0#8

/-- One byte. -/
def Memory.get : Memory → Nat → Byte
  | [], _ => Memory.blank
  | (k, v) :: m, a => if a = k then v else Memory.get m a

/-- One byte written; writing the blank value removes the entry. -/
def Memory.put : Memory → Nat → Byte → Memory
  | [], a, b => if b = Memory.blank then [] else [(a, b)]
  | (k, v) :: m, a, b =>
    if a < k then (if b = Memory.blank then (k, v) :: m else (a, b) :: (k, v) :: m)
    else if a = k then (if b = Memory.blank then m else (a, b) :: m)
    else (k, v) :: Memory.put m a b

/-- n bytes from address a. -/
def Memory.read (m : Memory) (a : Nat) : Nat → List Byte
  | 0 => []
  | n + 1 => m.get a :: Memory.read m (a + 1) n

/-- Bytes written from address a upward. -/
def Memory.write (m : Memory) (a : Nat) : List Byte → Memory
  | [] => m
  | b :: bs => Memory.write (m.put a b) (a + 1) bs

/-- n bytes from address a as a little-endian number (R4). -/
def Memory.readNat (m : Memory) (a n : Nat) : Nat := ofLE (m.read a n)

/-- n bytes at address a := the little-endian bytes of v (R4). -/
def Memory.writeNat (m : Memory) (a n v : Nat) : Memory := m.write a (leBytes n v)

/-- n bytes from address a set to zero. -/
def Memory.clear (m : Memory) (a n : Nat) : Memory := m.filter (fun c => c.1 < a || a + n ≤ c.1)

/-- Every listed address is above lo, addresses rise strictly, and no listed byte is blank. -/
def Memory.wfFrom : Option Nat → Memory → Bool
  | _, [] => true
  | lo, (k, v) :: m =>
    (match lo with | none => true | some b => decide (b < k)) && v != Memory.blank && Memory.wfFrom (some k) m

/-- The canonical form. -/
def Memory.wf (m : Memory) : Bool := Memory.wfFrom none m

end Sys2Proof.Machine
end

