-- ==== Sys2Proof/Syntax.lean ====
section
/-!
DEFINITION. The instructions of ISA Novnan: one constructor per row of spec/opcode_table.json.

The 214 rows with an encoding (R58 to R68, R405) carry exactly the fields of their word. The rows without an encoding are the
steps the part takes on its own or at the hand of the host, a peer or Ramvan; they carry what selects the step.
-/
namespace Sys2Proof

/-- R459: an access of the host to a register, as it comes: its bytes, how far past the register's offset it begins, and the word it writes. -/
structure HostWord where
  size : Nat
  skew : Nat
  word : Word
deriving DecidableEq, Repr

/-- R459: a register access is 8 bytes, naturally aligned. -/
def HostWord.fits (w : HostWord) : Bool := w.size == 8 && w.skew == 0

/-- What a memory request of a peer device asks for (R433): bytes, an atomic (R217), a future access by the instance of a tag (R177),
or a future fill (R179; none empties the word). `lane` marks a write that a lane store makes, which clears no error status (R129). -/
inductive PeerReq where
  | read (size : Nat)
  | write (bytes : List Byte) (lane : Bool)
  | mxRead (size sp : Nat)
  | mxWrite (bytes : List Byte) (sp : Nat) (scale : Byte) (lane : Bool)
  | rmw (op size : Nat) (sgn : Bool) (r t : Word)
  | futRead (take trap : Bool) (tag : Word)
  | futWrite (fill : Option Word)
deriving DecidableEq, Repr

/-- An instruction word's fields, or an event with its selectors. -/
inductive Instr where
  -- INT
  | iadd (a : BitVec 8) (b : BitVec 8) (t : BitVec 3) (s : BitVec 1)
  | isub (a : BitVec 8) (b : BitVec 8) (t : BitVec 3) (s : BitVec 1)
  | imul (a : BitVec 8) (b : BitVec 8) (t : BitVec 3) (s : BitVec 1)
  | imulh (a : BitVec 8) (b : BitVec 8) (t : BitVec 2)
  | imad (a : BitVec 8) (b : BitVec 8) (t : BitVec 3) (s : BitVec 1)
  | imin (a : BitVec 8) (b : BitVec 8) (t : BitVec 3)
  | imax (a : BitVec 8) (b : BitVec 8) (t : BitVec 3)
  | iabs (a : BitVec 8) (b : BitVec 8) (t : BitVec 2) (s : BitVec 1)
  | ineg (a : BitVec 8) (b : BitVec 8) (t : BitVec 2) (s : BitVec 1)
  | iand (a : BitVec 8) (b : BitVec 8) (t : BitVec 1)
  | ior (a : BitVec 8) (b : BitVec 8) (t : BitVec 1)
  | ixor (a : BitVec 8) (b : BitVec 8) (t : BitVec 1)
  | andn (a : BitVec 8) (b : BitVec 8) (t : BitVec 1)
  | inot (a : BitVec 8) (b : BitVec 8) (t : BitVec 1)
  | shl (a : BitVec 8) (b : BitVec 8) (t : BitVec 2)
  | shr (a : BitVec 8) (b : BitVec 8) (t : BitVec 2)
  | sar (a : BitVec 8) (b : BitVec 8) (t : BitVec 2)
  | rot (a : BitVec 8) (b : BitVec 8) (t : BitVec 2)
  | bfx (a : BitVec 8) (b : BitVec 8) (t : BitVec 2)
  | bfi (a : BitVec 8) (b : BitVec 8) (t : BitVec 1)
  | popc (a : BitVec 8) (b : BitVec 8) (t : BitVec 1)
  | clz (a : BitVec 8) (b : BitVec 8) (t : BitVec 1)
  | brev (a : BitVec 8) (b : BitVec 8) (t : BitVec 1)
  | icmp (a : BitVec 8) (b : BitVec 8) (t : BitVec 3) (c : BitVec 4)
  | sel (a : BitVec 8) (b : BitVec 8) (t : BitVec 2)
  | mov (a : BitVec 8) (b : BitVec 8)
  | addx (a : BitVec 8) (b : BitVec 8) (t : BitVec 2) (x : BitVec 4)
  | const (a : BitVec 8) (i : BitVec 16)
  | consh (a : BitVec 8) (i : BitVec 16)
  | consw (a : BitVec 8) (i : BitVec 16)
  | iaddi (a : BitVec 8) (i : BitVec 16)
  | iaddPred (a : BitVec 8) (b : BitVec 8) (t : BitVec 3) (s : BitVec 1)
  | isubPred (a : BitVec 8) (b : BitVec 8) (t : BitVec 3) (s : BitVec 1)
  | imulPred (a : BitVec 8) (b : BitVec 8) (t : BitVec 3) (s : BitVec 1)
  | imulhPred (a : BitVec 8) (b : BitVec 8) (t : BitVec 2)
  | imadPred (a : BitVec 8) (b : BitVec 8) (t : BitVec 3) (s : BitVec 1)
  | iminPred (a : BitVec 8) (b : BitVec 8) (t : BitVec 3)
  | imaxPred (a : BitVec 8) (b : BitVec 8) (t : BitVec 3)
  | iabsPred (a : BitVec 8) (b : BitVec 8) (t : BitVec 2) (s : BitVec 1)
  | inegPred (a : BitVec 8) (b : BitVec 8) (t : BitVec 2) (s : BitVec 1)
  | iandPred (a : BitVec 8) (b : BitVec 8) (t : BitVec 1)
  | iorPred (a : BitVec 8) (b : BitVec 8) (t : BitVec 1)
  | ixorPred (a : BitVec 8) (b : BitVec 8) (t : BitVec 1)
  | andnPred (a : BitVec 8) (b : BitVec 8) (t : BitVec 1)
  | inotPred (a : BitVec 8) (b : BitVec 8) (t : BitVec 1)
  | shlPred (a : BitVec 8) (b : BitVec 8) (t : BitVec 2)
  | shrPred (a : BitVec 8) (b : BitVec 8) (t : BitVec 2)
  | sarPred (a : BitVec 8) (b : BitVec 8) (t : BitVec 2)
  | rotPred (a : BitVec 8) (b : BitVec 8) (t : BitVec 2)
  | bfxPred (a : BitVec 8) (b : BitVec 8) (t : BitVec 2)
  | bfiPred (a : BitVec 8) (b : BitVec 8) (t : BitVec 1)
  | popcPred (a : BitVec 8) (b : BitVec 8) (t : BitVec 1)
  | clzPred (a : BitVec 8) (b : BitVec 8) (t : BitVec 1)
  | brevPred (a : BitVec 8) (b : BitVec 8) (t : BitVec 1)
  | icmpPred (a : BitVec 8) (b : BitVec 8) (t : BitVec 3) (c : BitVec 4)
  | movPred (a : BitVec 8) (b : BitVec 8)
  | addxPred (a : BitVec 8) (b : BitVec 8) (t : BitVec 2) (x : BitVec 4)
  | constPred (a : BitVec 8) (i : BitVec 16)
  | conshPred (a : BitVec 8) (i : BitVec 16)
  | conswPred (a : BitVec 8) (i : BitVec 16)
  | iaddiPred (a : BitVec 8) (i : BitVec 16)
  -- FLT
  | fadd (a : BitVec 8) (b : BitVec 8) (r : BitVec 3) (t : BitVec 2)
  | fsub (a : BitVec 8) (b : BitVec 8) (r : BitVec 3) (t : BitVec 2)
  | fmul (a : BitVec 8) (b : BitVec 8) (r : BitVec 3) (t : BitVec 2)
  | ffma (a : BitVec 8) (b : BitVec 8) (r : BitVec 3) (t : BitVec 2)
  | fmin (a : BitVec 8) (b : BitVec 8) (r : BitVec 3) (t : BitVec 2)
  | fmax (a : BitVec 8) (b : BitVec 8) (r : BitVec 3) (t : BitVec 2)
  | fabs (a : BitVec 8) (b : BitVec 8) (r : BitVec 3) (t : BitVec 2)
  | fneg (a : BitVec 8) (b : BitVec 8) (r : BitVec 3) (t : BitVec 2)
  | fcmp (a : BitVec 8) (b : BitVec 8) (r : BitVec 3) (t : BitVec 2) (c : BitVec 3)
  | fclass (a : BitVec 8) (b : BitVec 8) (r : BitVec 3) (t : BitVec 2)
  | fdot2 (a : BitVec 8) (b : BitVec 8) (r : BitVec 3) (t : BitVec 1)
  | fdot4 (a : BitVec 8) (b : BitVec 8) (r : BitVec 3) (f : BitVec 2)
  | faddPred (a : BitVec 8) (b : BitVec 8) (r : BitVec 3) (t : BitVec 2)
  | fsubPred (a : BitVec 8) (b : BitVec 8) (r : BitVec 3) (t : BitVec 2)
  | fmulPred (a : BitVec 8) (b : BitVec 8) (r : BitVec 3) (t : BitVec 2)
  | ffmaPred (a : BitVec 8) (b : BitVec 8) (r : BitVec 3) (t : BitVec 2)
  | fminPred (a : BitVec 8) (b : BitVec 8) (r : BitVec 3) (t : BitVec 2)
  | fmaxPred (a : BitVec 8) (b : BitVec 8) (r : BitVec 3) (t : BitVec 2)
  | fabsPred (a : BitVec 8) (b : BitVec 8) (r : BitVec 3) (t : BitVec 2)
  | fnegPred (a : BitVec 8) (b : BitVec 8) (r : BitVec 3) (t : BitVec 2)
  | fcmpPred (a : BitVec 8) (b : BitVec 8) (r : BitVec 3) (t : BitVec 2) (c : BitVec 3)
  | fclassPred (a : BitVec 8) (b : BitVec 8) (r : BitVec 3) (t : BitVec 2)
  | fdot2Pred (a : BitVec 8) (b : BitVec 8) (r : BitVec 3) (t : BitVec 1)
  | fdot4Pred (a : BitVec 8) (b : BitVec 8) (r : BitVec 3) (f : BitVec 2)
  -- SFN
  | frcp (a : BitVec 8) (b : BitVec 8) (r : BitVec 3)
  | frsq (a : BitVec 8) (b : BitVec 8) (r : BitVec 3)
  | fsqrt (a : BitVec 8) (b : BitVec 8) (r : BitVec 3) (t : BitVec 1)
  | fdiv (a : BitVec 8) (b : BitVec 8) (r : BitVec 3) (t : BitVec 1)
  | fexp2 (a : BitVec 8) (b : BitVec 8) (r : BitVec 3)
  | flog2 (a : BitVec 8) (b : BitVec 8) (r : BitVec 3)
  | fsin (a : BitVec 8) (b : BitVec 8) (r : BitVec 3)
  | fcos (a : BitVec 8) (b : BitVec 8) (r : BitVec 3)
  | ftanh (a : BitVec 8) (b : BitVec 8) (r : BitVec 3)
  | frint (a : BitVec 8) (b : BitVec 8) (r : BitVec 3) (t : BitVec 2)
  | cvt (a : BitVec 8) (b : BitVec 8) (r : BitVec 3) (c : BitVec 5)
  | cvtsc (a : BitVec 8) (b : BitVec 8) (r : BitVec 3) (f : BitVec 3) (j : BitVec 2)
  | idiv (a : BitVec 8) (b : BitVec 8) (t : BitVec 2) (s : BitVec 1)
  | irem (a : BitVec 8) (b : BitVec 8) (t : BitVec 2)
  | frcpPred (a : BitVec 8) (b : BitVec 8) (r : BitVec 3)
  | frsqPred (a : BitVec 8) (b : BitVec 8) (r : BitVec 3)
  | fsqrtPred (a : BitVec 8) (b : BitVec 8) (r : BitVec 3) (t : BitVec 1)
  | fdivPred (a : BitVec 8) (b : BitVec 8) (r : BitVec 3) (t : BitVec 1)
  | fexp2Pred (a : BitVec 8) (b : BitVec 8) (r : BitVec 3)
  | flog2Pred (a : BitVec 8) (b : BitVec 8) (r : BitVec 3)
  | fsinPred (a : BitVec 8) (b : BitVec 8) (r : BitVec 3)
  | fcosPred (a : BitVec 8) (b : BitVec 8) (r : BitVec 3)
  | ftanhPred (a : BitVec 8) (b : BitVec 8) (r : BitVec 3)
  | frintPred (a : BitVec 8) (b : BitVec 8) (r : BitVec 3) (t : BitVec 2)
  | cvtPred (a : BitVec 8) (b : BitVec 8) (r : BitVec 3) (c : BitVec 5)
  | cvtscPred (a : BitVec 8) (b : BitVec 8) (r : BitVec 3) (f : BitVec 3) (j : BitVec 2)
  | idivPred (a : BitVec 8) (b : BitVec 8) (t : BitVec 2) (s : BitVec 1)
  | iremPred (a : BitVec 8) (b : BitVec 8) (t : BitVec 2)
  -- XLN
  | shfl (a : BitVec 8) (b : BitVec 8) (f : BitVec 2)
  | shflx (a : BitVec 8) (b : BitVec 8) (f : BitVec 2)
  | shflup (a : BitVec 8) (b : BitVec 8) (f : BitVec 2)
  | shfldn (a : BitVec 8) (b : BitVec 8) (f : BitVec 2)
  | bcast (a : BitVec 8) (b : BitVec 8) (f : BitVec 2)
  | vote (a : BitVec 8) (b : BitVec 8) (o : BitVec 2)
  | reduce (a : BitVec 8) (b : BitVec 8) (o : BitVec 3) (t : BitVec 2) (g : BitVec 1) (m : BitVec 1)
  | scan (a : BitVec 8) (b : BitVec 8) (o : BitVec 3) (t : BitVec 2) (g : BitVec 1) (m : BitVec 1) (x : BitVec 1)
  | xmatch (a : BitVec 8) (b : BitVec 8) (w : BitVec 2)
  | seatid (a : BitVec 8) (b : BitVec 8) (s : BitVec 3)
  | tagord (a : BitVec 8) (b : BitVec 8) (g : BitVec 1)
  -- FIRE
  | send (d : BitVec 12) (s : BitVec 3) (t : BitVec 1) (w : BitVec 2) (p : BitVec 6)
  | sendsel (d : BitVec 12) (s : BitVec 3) (t : BitVec 1) (w : BitVec 2) (p : BitVec 6)
  | switch (d : BitVec 12) (s : BitVec 3) (t : BitVec 1) (w : BitVec 2) (l : BitVec 6)
  | spawn (d : BitVec 12) (s : BitVec 3) (t : BitVec 1) (w : BitVec 2) (k : BitVec 5)
  | ret (s : BitVec 3) (w : BitVec 2) (f : BitVec 1)
  | free
  | tag (a : BitVec 8) (b : BitVec 8) (m : BitVec 3)
  | futld (a : BitVec 8) (o : BitVec 1) (s : BitVec 3) (p : BitVec 2) (k : BitVec 1) (t : BitVec 1)
  | futst (o : BitVec 1) (s : BitVec 3) (p : BitVec 2) (e : BitVec 1)
  | yield (y : BitVec 1)
  | trapset (d : BitVec 12) (c : BitVec 1)
  | trapret (m : BitVec 2)
  | depart (t : BitVec 1)
  -- CARRY
  | gldx (a : BitVec 8) (b : BitVec 8)
  | gstx
  | gempty
  | gtest (a : BitVec 8) (b : BitVec 8)
  | rcpset (a : BitVec 8) (c : BitVec 8) (g : BitVec 7)
  | rcpdrop (g : BitVec 7)
  | rcpclr (g : BitVec 7)
  -- MEM
  | ld (a : BitVec 8) (z : BitVec 3) (o : BitVec 1) (s : BitVec 3) (p : BitVec 2) (g : BitVec 1)
  | st (z : BitVec 3) (o : BitVec 1) (s : BitVec 3) (p : BitVec 2)
  | lds (a : BitVec 8) (z : BitVec 3) (o : BitVec 1) (s : BitVec 3) (g : BitVec 1)
  | sts (z : BitVec 3) (o : BitVec 1) (s : BitVec 3)
  | atom (a : BitVec 8) (z : BitVec 1) (o : BitVec 3) (s : BitVec 3) (g : BitVec 1) (x : BitVec 3)
  | atoms (a : BitVec 8) (z : BitVec 1) (o : BitVec 3) (s : BitVec 3) (g : BitVec 1) (x : BitVec 3)
  | cas (a : BitVec 8) (z : BitVec 1) (o : BitVec 3) (s : BitVec 3) (g : BitVec 1)
  | fence (s : BitVec 3) (b : BitVec 6) (c : BitVec 6)
  | pref (p : BitVec 2) (n : BitVec 4)
  | cflush (p : BitVec 1)
  | cinv (p : BitVec 1)
  | ldmx (a : BitVec 8) (o : BitVec 1) (s : BitVec 3) (p : BitVec 2) (f : BitVec 3)
  | stmx (o : BitVec 1) (s : BitVec 3) (p : BitVec 2) (f : BitVec 3)
  -- TILE
  | talloc (a : BitVec 8) (c : BitVec 8) (p : BitVec 3)
  | tst (z : BitVec 3)
  | tseal
  | tld (a : BitVec 8) (c : BitVec 1) (g : BitVec 1) (z : BitVec 3)
  | tabandon
  | tfree
  | tstat (a : BitVec 8)
  | tpart (a : BitVec 8) (p : BitVec 3)
  -- COPY
  | cpy (a : BitVec 8)
  | cpys (a : BitVec 8)
  | cpyc
  | bari
  | bara
  | barx
  | barw (a : BitVec 8)
  | crpop (a : BitVec 8) (k : BitVec 2)
  -- MTX
  | mma (t : BitVec 4) (k : BitVec 4) (m : BitVec 2) (u : BitVec 1) (c : BitVec 1) (l : BitVec 1) (e : BitVec 1)
  | mmax (x : BitVec 3) (y : BitVec 3) (m : BitVec 1) (n : BitVec 1)
  | mctx (a : BitVec 8) (c : BitVec 1) (t : BitVec 2)
  | mwait (a : BitVec 8) (c : BitVec 1) (n : BitVec 1)
  | accz (c : BitVec 1) (l : BitVec 1)
  | accld (m : BitVec 2) (c : BitVec 1) (l : BitVec 1)
  | accst (f : BitVec 3) (r : BitVec 3) (m : BitVec 2) (c : BitVec 1) (l : BitVec 1)
  | accrd (a : BitVec 8) (c : BitVec 1) (l : BitVec 1)
  -- BANK
  | bgemv (a : BitVec 8)
  | bred (a : BitVec 8)
  | bfence (s : BitVec 3)
  | bwait (a : BitVec 8) (n : BitVec 1)
  -- FAB
  | fjob (a : BitVec 8)
  | fwait (a : BitVec 8) (n : BitVec 1)
  | fcan
  | fpush (e : BitVec 1) (n : BitVec 4)
  | fpull (a : BitVec 8) (n : BitVec 4)
  -- STREAM
  | scfg
  | sbind (e : BitVec 4)
  | sgo (m : BitVec 16)
  | sbar (m : BitVec 16)
  | sdone
  | sloop (c : BitVec 8) (t : BitVec 8)
  -- SCHED
  | launch (q : BitVec 3)
  | nrec (n : BitVec 6)
  | dsig
  | dpub (q : BitVec 3)
  -- NET
  | qenq (s : BitVec 3) (v : BitVec 1) (k : BitVec 2)
  | qdeq (a : BitVec 8) (s : BitVec 3) (t : BitVec 1)
  | qpoll (a : BitVec 8)
  | qmake (a : BitVec 8)
  | qkill (a : BitVec 8)
  | frmput (b : BitVec 3)
  | frmclose (l : BitVec 1) (b : BitVec 3)
  -- SYS
  | trap (i : BitVec 16)
  | mode (a : BitVec 8) (b : BitVec 8) (m : BitVec 2)
  | clk (a : BitVec 8) (b : BitVec 8) (m : BitVec 2)
  | evt (k : BitVec 2)
  | brk (i : BitVec 16)
  | sregr (a : BitVec 8) (n : BitVec 16)
  | sregw (n : BitVec 16)
  -- EVENT
  | tokenArrival (core : Nat) (dev : Nat) (flit : Nat)
  | discardNotice (part : Nat) (id : Nat) (code : Nat) (dest : Nat) (tag : Word) (src : Word)
  | sendAck (core : Nat) (op : Nat)
  | departCommandArrival (core : Nat) (dev : Nat) (idx : Nat) (tag : Word) (src : Word)
  | departureTimerExpiry (core : Nat)
  | trainDeparture (core : Nat)
  | trainEnd (core : Nat) (uid : Nat)
  | lateValueLands (core : Nat)
  | recipeReplay (core : Nat)
  | freeCompletion (core : Nat) (handle : Nat)
  | compaction (core : Nat) (order : Nat)
  | storeDrain (core : Nat)
  | translationWalk (core : Nat)
  | pageResponse (part : Nat) (w : Word)
  | pageRequestTimeout (part : Nat)
  | tlbinv (part : Nat) (w : Word)
  | tlbInvalidationComplete (part : Nat)
  | prqctlWrite (part : Nat) (w : Word)
  | partitionRegisterWrite (part : Nat) (n : Nat) (w : Word)
  | sslenWrite (part : Nat) (w : Word)
  | hostDoorbell (part : Nat) (queue : Nat) (w : HostWord)
  | launchAdmit (part : Nat)
  | gridWordRead (part : Nat) (id : Nat)
  | launchPlacement (part : Nat) (id : Nat)
  | launchStall (part : Nat) (id : Nat)
  | launchCompletion (part : Nat) (id : Nat)
  | noticeHeadWrite (part : Nat) (w : HostWord)
  | sidingReplay (part : Nat) (id : Nat) (die : Nat)
  | yardRecordArrival (die : Nat) (yard : Nat)
  | yardTimerExpiry (die : Nat) (yard : Nat)
  | teamPlacement (die : Nat) (yard : Nat)
  | endLaunch (part : Nat) (id : Nat)
  | faultedLaunchAutoend (part : Nat) (id : Nat)
  | preempt (part : Nat)
  | restore (part : Nat)
  | halt (part : Nat)
  | resume (part : Nat)
  | drainlimExpiry (part : Nat)
  | saveStart (part : Nat)
  | saveComplete (part : Nat)
  | loadComplete (part : Nat)
  | haltQuiesced (part : Nat)
  | timetableStep (core : Nat)
  | superstepBoundary (part : Nat)
  | timetableFreeze (part : Nat)
  | timetableHalt (part : Nat)
  | copyCompletion (core : Nat) (slot : Nat)
  | ringSpaceRetry (kind : Nat) (unit : Nat) (slot : Nat)
  | barrierUpdate (core : Nat)
  | freedSlotNotice (core : Nat) (slot : Nat)
  | tallocGrant (core : Nat)
  | tileSealComplete (core : Nat)
  | tfreeComplete (core : Nat)
  | mctxClaim (pair : Nat) (ctx : Nat)
  | mctxRelease (pair : Nat) (ctx : Nat)
  | mtxTileStep (pair : Nat)
  | bankOperationComplete (core : Nat) (slot : Nat)
  | fabCardBind (cluster : Nat)
  | fabUnitFire (cluster : Nat) (ctx : Nat) (unit : Nat)
  | fabSourceToken (cluster : Nat) (ctx : Nat) (eng : Nat)
  | fabSinkCommit (cluster : Nat) (ctx : Nat) (eng : Nat)
  | fabReplay (cluster : Nat) (ctx : Nat)
  | fabJobComplete (cluster : Nat) (slot : Nat)
  | queueEntryArrival (core : Nat) (pkt : List Word)
  | queueRefusal (core : Nat) (ser : Nat) (code : Nat)
  | queueAck (core : Nat) (ser : Nat)
  | queueSidingRetry (core : Nat) (queue : Nat)
  | queueCycleScan
  | frameFillTimer (core : Nat) (builder : Nat)
  | frameSend (core : Nat) (builder : Nat)
  | rowFrameArrival (core : Nat) (dev : Nat) (part : Nat) (id : Nat) (bytes : List Byte)
  | creditGrant (core : Nat) (dev : Nat) (n : Nat)
  | remoteMemoryRequest (dev : Nat) (id : Nat) (pa : Nat) (req : PeerReq)
  | remoteMemoryResponse (id : Nat) (code : Nat) (data : List Byte)
  | routeChange (dev : Nat) (up : Bool) (ports : Nat) (hops : Nat)
  | flitRetransmit (port : Nat)
  | featacceptWrite (w : HostWord)
  | msixIntervalExpiry (vec : Nat)
  | mgmtPhysicalAccess (sel : Word) (write : Bool) (off : Nat) (len : Nat) (data : List Byte)
  | mgmtRegisterAccess (sel : Word) (write : Bool) (w : HostWord)
  | mgmtObjectAccess (sel : Word) (write : Bool) (off : Nat) (len : Nat) (data : List Byte)
  | mgmtFutViewAccess (sel : Word) (write : Bool) (off : Nat) (len : Nat) (data : List Byte)
  | mgmtAsidEntryAccess (sel : Word) (write : Bool) (off : Nat) (len : Nat) (data : List Byte)
  | powerUp
  | endpointReset
  | setDomain (dev : Nat) (members : List Nat) (routes : List (Nat × Nat × Nat))
  | setPartition (part : Nat) (clusters : List Nat)
  | setPriv (part : Nat) (v : Bool)
  | setPowerCap (watts : Nat)
  | moduleReset
  | activateVersion
  | getErrorLog
  | getRouteTable
  | pldmSensorRead (sensor : Nat)
  | firmwareUpdate (image : List Byte)
  | getVersion
  | getCapabilities
  | negotiateAlgorithms (algs : Nat)
  | getDigests
  | getCertificate (off : Nat) (len : Nat)
  | challenge (nonce : List Byte)
  | getMeasurements (index : Nat)
  | powerCapThrottle
  | thermalThrottle (die : Nat)
  | thermalHalt (die : Nat)
  | patrolScrub (granules : List Nat)
  | controlStateError (core : Nat) (detail : Nat) (told : Bool)
  | throttleRelease
  | configurationRequest (write : Bool) (off : Nat) (w : Word)
  | flitForward (dev : Nat) (flit : Nat)
  | statusWrite (w : HostWord)
  | mstatWrite (w : HostWord)
  | pldmBaseDiscovery (cmd : Nat)
  | waitGraphEdgeExchange (edges : List (Nat × Nat))
  | flushComplete (core : Nat) (op : Nat)
deriving DecidableEq, Repr

/-- Why a word is not an instruction (R44, R66, R68). -/
inductive DecodeError where
  /-- The class does not list the opcode. -/
  | illegalOpcode
  /-- A field holds a value its chapter does not give. -/
  | illegalFormat
  /-- A rounding field of 6 or 7. -/
  | illegalRounding
deriving DecidableEq, Repr

/-- The engine class whose clauses hold the instruction (R68); 15 for a stream command of a fabric list (R69); none for an event. -/
def Instr.cls : Instr → Option Nat
  | .iadd _ _ _ _ => some 0
  | .isub _ _ _ _ => some 0
  | .imul _ _ _ _ => some 0
  | .imulh _ _ _ => some 0
  | .imad _ _ _ _ => some 0
  | .imin _ _ _ => some 0
  | .imax _ _ _ => some 0
  | .iabs _ _ _ _ => some 0
  | .ineg _ _ _ _ => some 0
  | .iand _ _ _ => some 0
  | .ior _ _ _ => some 0
  | .ixor _ _ _ => some 0
  | .andn _ _ _ => some 0
  | .inot _ _ _ => some 0
  | .shl _ _ _ => some 0
  | .shr _ _ _ => some 0
  | .sar _ _ _ => some 0
  | .rot _ _ _ => some 0
  | .bfx _ _ _ => some 0
  | .bfi _ _ _ => some 0
  | .popc _ _ _ => some 0
  | .clz _ _ _ => some 0
  | .brev _ _ _ => some 0
  | .icmp _ _ _ _ => some 0
  | .sel _ _ _ => some 0
  | .mov _ _ => some 0
  | .addx _ _ _ _ => some 0
  | .const _ _ => some 0
  | .consh _ _ => some 0
  | .consw _ _ => some 0
  | .iaddi _ _ => some 0
  | .iaddPred _ _ _ _ => some 0
  | .isubPred _ _ _ _ => some 0
  | .imulPred _ _ _ _ => some 0
  | .imulhPred _ _ _ => some 0
  | .imadPred _ _ _ _ => some 0
  | .iminPred _ _ _ => some 0
  | .imaxPred _ _ _ => some 0
  | .iabsPred _ _ _ _ => some 0
  | .inegPred _ _ _ _ => some 0
  | .iandPred _ _ _ => some 0
  | .iorPred _ _ _ => some 0
  | .ixorPred _ _ _ => some 0
  | .andnPred _ _ _ => some 0
  | .inotPred _ _ _ => some 0
  | .shlPred _ _ _ => some 0
  | .shrPred _ _ _ => some 0
  | .sarPred _ _ _ => some 0
  | .rotPred _ _ _ => some 0
  | .bfxPred _ _ _ => some 0
  | .bfiPred _ _ _ => some 0
  | .popcPred _ _ _ => some 0
  | .clzPred _ _ _ => some 0
  | .brevPred _ _ _ => some 0
  | .icmpPred _ _ _ _ => some 0
  | .movPred _ _ => some 0
  | .addxPred _ _ _ _ => some 0
  | .constPred _ _ => some 0
  | .conshPred _ _ => some 0
  | .conswPred _ _ => some 0
  | .iaddiPred _ _ => some 0
  | .fadd _ _ _ _ => some 1
  | .fsub _ _ _ _ => some 1
  | .fmul _ _ _ _ => some 1
  | .ffma _ _ _ _ => some 1
  | .fmin _ _ _ _ => some 1
  | .fmax _ _ _ _ => some 1
  | .fabs _ _ _ _ => some 1
  | .fneg _ _ _ _ => some 1
  | .fcmp _ _ _ _ _ => some 1
  | .fclass _ _ _ _ => some 1
  | .fdot2 _ _ _ _ => some 1
  | .fdot4 _ _ _ _ => some 1
  | .faddPred _ _ _ _ => some 1
  | .fsubPred _ _ _ _ => some 1
  | .fmulPred _ _ _ _ => some 1
  | .ffmaPred _ _ _ _ => some 1
  | .fminPred _ _ _ _ => some 1
  | .fmaxPred _ _ _ _ => some 1
  | .fabsPred _ _ _ _ => some 1
  | .fnegPred _ _ _ _ => some 1
  | .fcmpPred _ _ _ _ _ => some 1
  | .fclassPred _ _ _ _ => some 1
  | .fdot2Pred _ _ _ _ => some 1
  | .fdot4Pred _ _ _ _ => some 1
  | .frcp _ _ _ => some 2
  | .frsq _ _ _ => some 2
  | .fsqrt _ _ _ _ => some 2
  | .fdiv _ _ _ _ => some 2
  | .fexp2 _ _ _ => some 2
  | .flog2 _ _ _ => some 2
  | .fsin _ _ _ => some 2
  | .fcos _ _ _ => some 2
  | .ftanh _ _ _ => some 2
  | .frint _ _ _ _ => some 2
  | .cvt _ _ _ _ => some 2
  | .cvtsc _ _ _ _ _ => some 2
  | .idiv _ _ _ _ => some 2
  | .irem _ _ _ => some 2
  | .frcpPred _ _ _ => some 2
  | .frsqPred _ _ _ => some 2
  | .fsqrtPred _ _ _ _ => some 2
  | .fdivPred _ _ _ _ => some 2
  | .fexp2Pred _ _ _ => some 2
  | .flog2Pred _ _ _ => some 2
  | .fsinPred _ _ _ => some 2
  | .fcosPred _ _ _ => some 2
  | .ftanhPred _ _ _ => some 2
  | .frintPred _ _ _ _ => some 2
  | .cvtPred _ _ _ _ => some 2
  | .cvtscPred _ _ _ _ _ => some 2
  | .idivPred _ _ _ _ => some 2
  | .iremPred _ _ _ => some 2
  | .shfl _ _ _ => some 3
  | .shflx _ _ _ => some 3
  | .shflup _ _ _ => some 3
  | .shfldn _ _ _ => some 3
  | .bcast _ _ _ => some 3
  | .vote _ _ _ => some 3
  | .reduce _ _ _ _ _ _ => some 3
  | .scan _ _ _ _ _ _ _ => some 3
  | .xmatch _ _ _ => some 3
  | .seatid _ _ _ => some 3
  | .tagord _ _ _ => some 3
  | .send _ _ _ _ _ => some 4
  | .sendsel _ _ _ _ _ => some 4
  | .switch _ _ _ _ _ => some 4
  | .spawn _ _ _ _ _ => some 4
  | .ret _ _ _ => some 4
  | .free => some 4
  | .tag _ _ _ => some 4
  | .futld _ _ _ _ _ _ => some 4
  | .futst _ _ _ _ => some 4
  | .yield _ => some 4
  | .trapset _ _ => some 4
  | .trapret _ => some 4
  | .depart _ => some 4
  | .gldx _ _ => some 5
  | .gstx => some 5
  | .gempty => some 5
  | .gtest _ _ => some 5
  | .rcpset _ _ _ => some 5
  | .rcpdrop _ => some 5
  | .rcpclr _ => some 5
  | .ld _ _ _ _ _ _ => some 6
  | .st _ _ _ _ => some 6
  | .lds _ _ _ _ _ => some 6
  | .sts _ _ _ => some 6
  | .atom _ _ _ _ _ _ => some 6
  | .atoms _ _ _ _ _ _ => some 6
  | .cas _ _ _ _ _ => some 6
  | .fence _ _ _ => some 6
  | .pref _ _ => some 6
  | .cflush _ => some 6
  | .cinv _ => some 6
  | .ldmx _ _ _ _ _ => some 6
  | .stmx _ _ _ _ => some 6
  | .talloc _ _ _ => some 7
  | .tst _ => some 7
  | .tseal => some 7
  | .tld _ _ _ _ => some 7
  | .tabandon => some 7
  | .tfree => some 7
  | .tstat _ => some 7
  | .tpart _ _ => some 7
  | .cpy _ => some 8
  | .cpys _ => some 8
  | .cpyc => some 8
  | .bari => some 8
  | .bara => some 8
  | .barx => some 8
  | .barw _ => some 8
  | .crpop _ _ => some 8
  | .mma _ _ _ _ _ _ _ => some 9
  | .mmax _ _ _ _ => some 9
  | .mctx _ _ _ => some 9
  | .mwait _ _ _ => some 9
  | .accz _ _ => some 9
  | .accld _ _ _ => some 9
  | .accst _ _ _ _ _ => some 9
  | .accrd _ _ _ => some 9
  | .bgemv _ => some 10
  | .bred _ => some 10
  | .bfence _ => some 10
  | .bwait _ _ => some 10
  | .fjob _ => some 11
  | .fwait _ _ => some 11
  | .fcan => some 11
  | .fpush _ _ => some 11
  | .fpull _ _ => some 11
  | .scfg => some 15
  | .sbind _ => some 15
  | .sgo _ => some 15
  | .sbar _ => some 15
  | .sdone => some 15
  | .sloop _ _ => some 15
  | .launch _ => some 12
  | .nrec _ => some 12
  | .dsig => some 12
  | .dpub _ => some 12
  | .qenq _ _ _ => some 13
  | .qdeq _ _ _ => some 13
  | .qpoll _ => some 13
  | .qmake _ => some 13
  | .qkill _ => some 13
  | .frmput _ => some 13
  | .frmclose _ _ => some 13
  | .trap _ => some 14
  | .mode _ _ _ => some 14
  | .clk _ _ _ => some 14
  | .evt _ => some 14
  | .brk _ => some 14
  | .sregr _ _ => some 14
  | .sregw _ => some 14
  | .tokenArrival _ _ _ => none
  | .discardNotice _ _ _ _ _ _ => none
  | .sendAck _ _ => none
  | .departCommandArrival _ _ _ _ _ => none
  | .departureTimerExpiry _ => none
  | .trainDeparture _ => none
  | .trainEnd _ _ => none
  | .lateValueLands _ => none
  | .recipeReplay _ => none
  | .freeCompletion _ _ => none
  | .compaction _ _ => none
  | .storeDrain _ => none
  | .translationWalk _ => none
  | .pageResponse _ _ => none
  | .pageRequestTimeout _ => none
  | .tlbinv _ _ => none
  | .tlbInvalidationComplete _ => none
  | .prqctlWrite _ _ => none
  | .partitionRegisterWrite _ _ _ => none
  | .sslenWrite _ _ => none
  | .hostDoorbell _ _ _ => none
  | .launchAdmit _ => none
  | .gridWordRead _ _ => none
  | .launchPlacement _ _ => none
  | .launchStall _ _ => none
  | .launchCompletion _ _ => none
  | .noticeHeadWrite _ _ => none
  | .sidingReplay _ _ _ => none
  | .yardRecordArrival _ _ => none
  | .yardTimerExpiry _ _ => none
  | .teamPlacement _ _ => none
  | .endLaunch _ _ => none
  | .faultedLaunchAutoend _ _ => none
  | .preempt _ => none
  | .restore _ => none
  | .halt _ => none
  | .resume _ => none
  | .drainlimExpiry _ => none
  | .saveStart _ => none
  | .saveComplete _ => none
  | .loadComplete _ => none
  | .haltQuiesced _ => none
  | .timetableStep _ => none
  | .superstepBoundary _ => none
  | .timetableFreeze _ => none
  | .timetableHalt _ => none
  | .copyCompletion _ _ => none
  | .ringSpaceRetry _ _ _ => none
  | .barrierUpdate _ => none
  | .freedSlotNotice _ _ => none
  | .tallocGrant _ => none
  | .tileSealComplete _ => none
  | .tfreeComplete _ => none
  | .mctxClaim _ _ => none
  | .mctxRelease _ _ => none
  | .mtxTileStep _ => none
  | .bankOperationComplete _ _ => none
  | .fabCardBind _ => none
  | .fabUnitFire _ _ _ => none
  | .fabSourceToken _ _ _ => none
  | .fabSinkCommit _ _ _ => none
  | .fabReplay _ _ => none
  | .fabJobComplete _ _ => none
  | .queueEntryArrival _ _ => none
  | .queueRefusal _ _ _ => none
  | .queueAck _ _ => none
  | .queueSidingRetry _ _ => none
  | .queueCycleScan => none
  | .frameFillTimer _ _ => none
  | .frameSend _ _ => none
  | .rowFrameArrival _ _ _ _ _ => none
  | .creditGrant _ _ _ => none
  | .remoteMemoryRequest _ _ _ _ => none
  | .remoteMemoryResponse _ _ _ => none
  | .routeChange _ _ _ _ => none
  | .flitRetransmit _ => none
  | .featacceptWrite _ => none
  | .msixIntervalExpiry _ => none
  | .mgmtPhysicalAccess _ _ _ _ _ => none
  | .mgmtRegisterAccess _ _ _ => none
  | .mgmtObjectAccess _ _ _ _ _ => none
  | .mgmtFutViewAccess _ _ _ _ _ => none
  | .mgmtAsidEntryAccess _ _ _ _ _ => none
  | .powerUp => none
  | .endpointReset => none
  | .setDomain _ _ _ => none
  | .setPartition _ _ => none
  | .setPriv _ _ => none
  | .setPowerCap _ => none
  | .moduleReset => none
  | .activateVersion => none
  | .getErrorLog => none
  | .getRouteTable => none
  | .pldmSensorRead _ => none
  | .firmwareUpdate _ => none
  | .getVersion => none
  | .getCapabilities => none
  | .negotiateAlgorithms _ => none
  | .getDigests => none
  | .getCertificate _ _ => none
  | .challenge _ => none
  | .getMeasurements _ => none
  | .powerCapThrottle => none
  | .thermalThrottle _ => none
  | .thermalHalt _ => none
  | .patrolScrub _ => none
  | .controlStateError _ _ _ => none
  | .throttleRelease => none
  | .configurationRequest _ _ _ => none
  | .flitForward _ _ => none
  | .statusWrite _ => none
  | .mstatWrite _ => none
  | .pldmBaseDiscovery _ => none
  | .waitGraphEdgeExchange _ => none
  | .flushComplete _ _ => none

end Sys2Proof
end

