-- ==== Sys2Proof/Machine/State.lean ====
section
/-!
DEFINITION. The state of an Orsel 4 module: every piece of state the spec names (INVENTORY.md lists each with its rule), the
reasons a step can stop, and the state after reset. A map by number lists only entries that differ from the reset value.
-/
namespace Sys2Proof.Machine

/-! ## Tokens, instances and trains -/

/-- A launch named by its partition and a number whose low 16 bits are its LAUNCH_ID (R234). -/
structure LaunchRef where
  part : Nat
  id : Nat
deriving DecidableEq, Repr

/-- A token (R163), with the launch that sent it (R21). -/
structure Token where
  tag : Word
  src : Word
  dest : Nat
  scope : Nat
  pwords : Nat
  pay0 : Word
  pay1 : Word
  kind : Nat          -- 0 data, 1 trap token
  sided : Bool
  sender : LaunchRef
deriving DecidableEq, Repr

/-- What a flight on the token channel delivers: a token, or a `depart` command for the frame its tag names (R185). -/
inductive Cargo where
  | tok (t : Token)
  | depart (idx : Nat) (tag src : Word) (sender : LaunchRef) -- depart.t, with the seat and launch that issued it (R430): resolved by the receiving core
  | departLocal (asid prog block : Nat)  -- depart: key already known
  | wake (pa : Nat)                      -- timetable mode: the wake-ups of a `futst`, in their place among what the core has sent (R295)
deriving DecidableEq, Repr

/-- A token or command on its way to a core: the cycle it is due (R165), and the operation of the sending core that
completes with it (R166; 0: none). -/
structure Flight where
  due : Nat
  dev : Option Nat          -- device it came from; none: sent within a timetable partition, due by TCLK
  cargo : Cargo
  opId : Nat
  opCore : Nat
  ctx : Option LaunchRef    -- the context whose siding credit it holds (R436)
  acked : Bool              -- its sender has been told of it (R166)
deriving DecidableEq, Repr

/-- States of a matching-store entry (R161). -/
inductive EntryState where
  | filling | ready | held
deriving DecidableEq, Repr

/-- An instance with the tokens of its input slots (R25, R161). A block without inputs has no tokens. -/
structure Inst where
  asid : Nat
  handle : Nat              -- frame handle within the core
  prog : Nat
  block : Nat
  idx : Nat
  toks : List (Nat × Token) -- slot and token
  yielded : Bool            -- yield mark (R169)
  after : Nat               -- highest readiness number given out before the marking (R169)
  num : Nat                 -- readiness number (R169); 0 before it is ready
deriving DecidableEq, Repr

/-- A matching-store entry (R161), or one moved to its frame's payload reserve. -/
structure MEntry where
  inst : Inst
  state : EntryState
  reserve : Option (Nat × Nat) -- place and bytes in its frame's payload reserve; none while it is in the store (R20)
  inputs : Nat              -- INPUTS of its block
  since : Nat               -- order of creation in the store
deriving DecidableEq, Repr

/-- One fill of a platform (R28): the seats that will depart together. -/
structure Fill where
  first : Nat               -- cycle the first seat filled; in timetable mode TCLK
  stood : Nat               -- cycles for which its timer has stood still (R291, R299)
  elig : Bool
  since : Nat               -- clock at which it became eligible
  forced : Bool
  passed : Option Nat       -- platform departures of the core when an all-marked fill would have become eligible (R37)
  latched : Bool            -- an all-marked fill that has become an ordinary eligible one (R37)
  seats : List Inst
deriving DecidableEq, Repr

/-- A platform (R27, R168) with its fills, oldest first. -/
structure Platform where
  asid : Nat
  prog : Nat
  block : Nat
  dcount : Nat              -- code from H0
  timer : Nat               -- class from H0
  fills : List Fill
deriving DecidableEq, Repr

/-- A token that waits behind a filled slot (R26), with the device it came from. -/
structure WTok where
  dev : Nat
  tok : Token
deriving DecidableEq, Repr

/-- An active seat of a train: seat number and instance. -/
structure Seat where
  n : Nat
  inst : Inst
deriving DecidableEq, Repr

/-- What holds a train at an instruction (R187, R294). -/
inductive Hold where
  | fetch          -- image fetch of the block (R46)
  | walk           -- TLB miss (R224)
  | page           -- outstanding page request (R229)
  | pending        -- a pending slot (R53)
  | clause         -- clause wait (R57)
  | paths          -- a fence, send or SCHED instruction waits for earlier operations (R120, R122, R256)
  | carryEmpty     -- an empty carried register (R191)
  | source         -- rcpset waits for a source whose write is in flight (R202)
  | talloc         -- waits for a tile (R310)
  | credit         -- a sending instruction whose context has no siding credit (R437)
  | queue          -- qenq or qdeq waits for its queue (R444, R451)
  | lent           -- a write waits until the lent slot of a value that it stores back is free (R203, R204)
  | builder        -- frmput waits for its builder (R454)
  | engine         -- mwait, bwait, fwait, barw and other waits for an engine
  | brk            -- a breakpoint (R285)
  | stopped        -- halted or faulted launch (R268, R299)
deriving DecidableEq, Repr

/-- A resident train (R30, R31) or wide team (R32). -/
structure Train where
  uid : Nat                 -- names this departure
  number : Nat              -- train number 0 to 47 (R293)
  launch : LaunchRef
  asid : Nat
  prog : Nat
  block : Nat
  team : Bool
  departed : Nat            -- cycle of departure (R31)
  pipe : Nat
  ram : Nat                 -- operand RAM it holds, bytes (R30)
  words : Option (List IWord) -- the fetched block (R45); none while the fetch is held
  pc : Nat                  -- number of the next instruction, from 1 (R47)
  seats : List Seat         -- active seats in seat order
  slots : NMap Word         -- operand slots: key seat·256 + target byte; unlisted reads zero (R52)
  pend : List (Nat × Nat)   -- pending slots: key and operation (R53)
  hold : Option Hold
  heldAt : Option Nat       -- cycle in which the train last found that it cannot issue
  failed : List (Nat × Nat) -- 8 KiB units that failed to translate while this instruction held, with the fault code (R225, R228)
  waits : List (Nat × Nat × Nat) -- its accesses, one for each 8 KiB unit, whose walk or page request it waits on: VA, kind, path (R228)
  ext : Option (Nat × Word × Word × Word) -- fields and operands of an `mmax` whose `mma` follows (R364, R368)
  moved : Nat               -- seats or groups that an fjob, fpush or fpull has served while it holds (R401, R404); one more than the
                            -- superstep in which a fence began to wait for the core's buffer (R120)
  resumed : Bool            -- a brk that halted the partition retires at the next turn (R285)
  pass : Nat                -- mask word that the sweep of a team's clause has come to (R32)
  aside : List Seat         -- seats outside that word while an instruction executes
deriving DecidableEq, Repr

/-- An operation a train has outstanding at an engine: the wait bit that covers it (R57, 0: none) and its path (R109). -/
structure OutOp where
  train : Nat
  wbit : Nat
  path : Nat                -- 0 L, 1 C, 2 M, 3 F, 4 B, 5 N, 6 none
  id : Nat
deriving DecidableEq, Repr

/-- Where a late result comes from: a lane or the core's own SRAM, so that a pre-emption waits for it (R286); memory, so that in timetable
mode it still holds the rotation (R294); or anywhere else. -/
inductive LateKind where
  | own | mem | far
deriving DecidableEq, Repr

/-- Where a late result goes (R53): slots of one seat, carried registers of its frame (R192), and the flags that its completion
raises (R88). -/
structure Late where
  due : Nat
  train : Nat
  seat : Nat
  handle : Nat
  vals : List (Nat × Word)  -- target byte and value
  regs : List Nat
  regVal : Word
  fl : BitVec 7
  opId : Nat
  kind : LateKind
deriving DecidableEq, Repr

/-- What a read of a dropped register rebuilds: the recipe, the captured mode, and the sources as they stand at the read (R203). -/
structure Replay where
  rcp : Nat
  mode : Word
  srcs : NMap Word
deriving DecidableEq, Repr

/-- A read that waits for an empty carried register to fill (R191, R195), or for the replay of a dropped one (R203). -/
structure RegWait where
  handle : Nat
  reg : Nat
  train : Nat
  seat : Nat
  instr : Nat               -- the reading instruction; 0 for a read entry
  replay : Option Replay
  targets : List Nat
  regs : List Nat           -- write-entry registers that receive the value too
  opId : Nat
deriving DecidableEq, Repr

/-- What a fault record holds besides its time and place in the queue (R265). -/
structure FaultInfo where
  code : Nat
  sub : Nat
  detail : Nat
  addr : Nat
  tag : Word
  prog : Nat
  block : Nat
  gen : Nat
  instr : Nat
  seat : Nat
  launch : LaunchRef
  core : Nat
  asid : Nat
  source : Nat
deriving DecidableEq, Repr

/-- A tile named by launch, partition and number on a core. -/
structure TileKey where
  launch : LaunchRef
  part : Nat
  tile : Nat
deriving DecidableEq, Repr

/-- An access to a tile that takes effect at its home (R313, R329). -/
inductive TileAct where
  | write (off : Nat) (data : List Byte)
  | take                    -- one read counted
  | close                   -- `tseal`
  | free                    -- `tfree`
  | reg (mark : Nat)        -- an engine write registered (R314)
deriving DecidableEq, Repr

/-- Updates of a barrier (R350), in the order the home applies their kinds. -/
inductive BarOp where
  | init (n : Nat)
  | add (b : Nat)
  | bytes (b : Nat)
  | arrive
  | err (code slot : Nat)
deriving DecidableEq, Repr

/-- A seat that receives element i of an MX block, late (R222). -/
structure MxSeat where
  n : Nat
  handle : Nat
  i : Nat
  opId : Nat
deriving DecidableEq, Repr

/-- Accesses a core makes that reach memory later than they issue (R114, R295). -/
inductive StoreOp where
  | glob (pa : Nat) (peer : Option Nat) (data : List Byte)   -- a store to the global space; peer: the device of a REMOTE page
  | mx (pa : Nat) (peer : Option Nat) (data : List Byte) (sp : Nat) (speer : Option Nat) (scale : Byte) -- an MX block and its scale (R127)
  | win (core off : Nat) (data : List Byte)                  -- a store to a scratchpad window of the launch
  | tile (core : Nat) (key : TileKey) (gen : Nat) (act : TileAct) (infos : List FaultInfo) -- a tst; at a boundary any access (R313, R329)
  | bar (core off : Nat) (op : BarOp)                        -- a barrier update (R351)
  | barSet (core off : Nat) (data : List Byte) (init : Bool) -- a barrier as an update left it; init: by a bari (R296, R351)
  | rmw (pa : Nat) (peer : Option Nat) (size op : Nat) (sgn : Bool) (r t : Word)  -- atom or cas (op 7) at a boundary
  | wrmw (core off size op : Nat) (sgn : Bool) (r : Word)    -- an atoms on another core's window at a boundary
  | fut (pa : Nat) (peer : Option Nat) (fill : Option Word)  -- a futst at a boundary: fill with a word, or empty
  | futTake (pa va : Nat) (peer : Option Nat) (trap : Bool) (inst : Inst) -- a futld.take at a boundary
  | remoteRead (pa peer size : Nat) (sgn : Bool)             -- a load from a REMOTE page at a boundary
  | remoteFut (pa va peer : Nat) (trap : Bool) (inst : Inst) -- a plain futld on a REMOTE page at a boundary
  | remoteMx (pa : Nat) (peer : Option Nat) (sp : Nat) (speer : Option Nat) (f : Nat) (ms : List MxSeat) -- such an ldmx at a boundary
  | crpop (pa : Nat)                                         -- a crpop at a boundary: the ring descriptor (R356)
deriving DecidableEq, Repr

/-- What a request for a block's data or scale leaves to be read (R127, R222): nothing, since the peer gives the scale behind the data; the
scale at this device, at another peer; or nothing, the data being here. -/
inductive MxRest where
  | both (sp : Nat)
  | scaleHere (sp : Nat)
  | scaleAt (peer sp : Nat)
  | dataHere (pa : Nat) (n : Nat)
  | after (data : List Byte)
deriving DecidableEq, Repr

/-- What is left to write of a block once the request for one part has been answered: the other part here, or at another peer; or nothing, the
request being the second of the two (R127, log 15). -/
inductive MxPart where
  | here (pa : Nat) (data : List Byte)
  | there (peer pa : Nat) (data : List Byte)
  | last
deriving DecidableEq, Repr

/-- What a memory request asks of a peer device (R433). -/
inductive RKind where
  | read (sgn : Bool)
  | mxRead (f : Nat) (ms : List MxSeat) (rest : MxRest) -- data or scale of a block (R222)
  | write (data : List Byte)
  | mxWrite (data : List Byte) (sp : Nat) (scale : Byte)
  | mxPart (data : List Byte) (rest : MxPart)
  | rmw (op : Nat) (sgn : Bool) (r t : Word)
  | futRead (take trap : Bool) (va : Nat) (inst : Inst)
  | futWrite (fill : Option Word)
  | engRead                   -- a read of an engine operation; the request's seat names the operation
  | engMx (n : Nat) (rest : MxRest) -- such a read of an MX block of n bytes and its scale (R127)
  | engWrite (data : List Byte)
  | engMxWrite (data : List Byte) (sp : Nat) (scale : Byte)
  | engPart (data : List Byte) (rest : MxPart)
deriving DecidableEq, Repr

/-- A memory request outstanding at a peer (R433), and where its response goes. -/
structure RemoteReq where
  id : Nat
  peer : Nat
  pa : Nat
  va : Nat                  -- the virtual address asked for
  size : Nat
  kind : RKind
  core : Nat
  train : Nat
  launch : LaunchRef
  seat : Nat
  handle : Nat
  targets : List Nat
  regs : List Nat
  instr : Nat
  opId : Nat
deriving DecidableEq, Repr

/-- One entry of the store queue (R114), or in timetable mode of the core's buffer of the superstep (R296). -/
structure SQEntry where
  train : Nat
  launch : LaunchRef
  op : StoreOp
  va : Nat                  -- operand L of the seat
  seat : Nat
  handle : Nat
  targets : List Nat        -- slots that receive a value
  regs : List Nat           -- write-entry registers that receive it
  instr : Nat
  opId : Nat
  acq : Bool                -- timetable mode: an acquire, which later accesses of path L wait for (R116)
  sent : Option Nat         -- the request under way for it at a peer: it is performed when that is answered (R433)
  due : Nat                 -- cycle from which on it drains, once it is the oldest (R114, R220)
deriving DecidableEq, Repr

/-- A parked instance and the physical address of its word (R178). -/
structure Waiter where
  inst : Inst
  pa : Nat
  woken : Bool              -- its word has filled, and the wake-up waits for a boundary or a restore (R290, R295)
deriving DecidableEq, Repr

/-- The latest late writer of a carried register (R193): its operation, and the train, instruction and index of its seat. -/
structure Writer where
  op : Nat
  train : Nat
  pc : Nat
  idx : Nat
deriving DecidableEq, Repr

/-- A recipe binding (R201). -/
structure Binding where
  reg : Nat
  rcp : Nat
  dropped : Bool
  mode : Word               -- captured RM, FTZI, FTZO, SATP in MODE's places
  back : Option Word        -- a replayed value that is stored back once its slot is free (R203)
deriving DecidableEq, Repr

/-- A frame: its header (R18), carried registers with FULL bits (R190) and binding list (R201). A handle keeps GEN
while it is free. -/
structure Frame where
  alloc : Bool
  gen : Nat
  launch : LaunchRef
  asid : Nat
  prog : Nat
  mode : Word
  modeNext : Option Word    -- what a `mode` of this cycle has written (R88)
  raised : BitVec 7         -- flags raised in this cycle, which reach MODE behind that write (R88)
  parentValid : Bool
  parentTag : Word
  parentDest : Nat
  stage : Nat
  carryCount : Nat
  trapValid : Bool
  trapDest : Nat
  order : Nat
  reserve : Nat             -- bytes of its payload reserve (R20)
  unit : Nat                -- place in core SRAM, in 256-byte units (R13)
  freePending : Bool        -- R34
  regs : NMap Word
  empties : List Nat        -- registers whose FULL bit is clear
  writer : NMap Writer      -- by register, its latest late writer (R193)
  wrote : List Nat          -- registers that an instruction of pipe 1 has written in this cycle (R193)
  binds : List Binding
  recSlots : List Nat       -- record slots a team frame holds (R254)
  node : Option Nat         -- node of a team frame
deriving DecidableEq, Repr

/-- A scratchpad window (R210, R236): order k of SPORDER gives 2^(k+7) bytes. -/
structure Window where
  launch : LaunchRef
  unit : Nat
  size : Nat
  mem : Memory
  bars : List Nat           -- places of barriers that an update has reached (R349)
  spoilt : List Nat         -- of these, the ones whose outcomes a plain store has left undefined (R349)
deriving DecidableEq, Repr

/-- A walk under way (R224): the access that began it, with its kind, path and launch (R227). `own`: it came through the core's TLB, and not
through the cluster's alone. -/
structure Walk where
  asid : Nat
  va : Nat
  kind : Nat
  path : Nat
  launch : Nat
  own : Bool
deriving DecidableEq, Repr

/-- A TLB entry (R224): a leaf for one page of one ASID. -/
structure TlbEntry where
  asid : Nat
  base : Nat                -- virtual base of the page
  size : Nat
  leaf : Nat                -- the 128-bit leaf entry (R102)
deriving DecidableEq, Repr

/-- A recipe body held for an image on a core (R196). -/
structure RecipeRow where
  asid : Nat
  prog : Nat
  rcp : Nat
  body : List IWord
deriving DecidableEq, Repr

/-! ## Launches and partitions -/

/-- States of a launch (R232). A COMPLETED launch is no longer listed. -/
inductive LState where
  | check | gridwait | placing | running | completing | faulted
deriving DecidableEq, Repr

/-- A launch record in a queue or siding, with what the launch takes from its issuer (R233, R271, R292). -/
structure QRec where
  record : BitVec 2048
  asid : Nat
  created : Bool            -- written by the timetable launch or a launch it created
  sided : Bool              -- it has passed through a siding (R437)
deriving DecidableEq, Repr

/-! ## Link engine: sidings, queues and row frames (R428 to R458) -/

/-- A row frame that travels (R445): bytes 0 to LEN − 1, the launch that sent it, and the builder it left. -/
structure RowFrame where
  bytes : List Byte
  sender : LaunchRef
  core : Nat
  builder : Nat
  dev : Nat                 -- device it came from
  sided : Bool              -- it has passed through a siding (R437)
deriving DecidableEq, Repr

/-- A packet put aside in a siding slot (R437). -/
inductive Diverted where
  | tok (core dev : Nat) (t : Token) -- with the device it came from
  | qrec (queue : Nat) (q : QRec) (seq : Nat)                 -- with its place in the order of its partition's diversions
  | yard (node : Nat) (bytes len : Nat) (src : Word) (seq : Nat)
  | frame (core : Nat) (f : RowFrame)
deriving DecidableEq, Repr

/-- A diverted packet and the entries of its slot's ring that it takes (R436). -/
structure Sided where
  pkt : Diverted
  ents : List Nat
deriving DecidableEq, Repr

/-- A siding slot that a launch holds on a die (R434 to R436): its number, ring indices, the entries that this device's sources may take,
those granted to sources of other devices by device and core, and its packets in the order they were diverted. -/
structure SidSlot where
  die : Nat
  num : Nat
  head : Nat
  tail : Nat
  credit : Nat
  lent : NMap Nat           -- by 2048·device + core
  items : List Sided
deriving DecidableEq, Repr

/-- A packet that waits at its source core for credit or a route (R428, R437). -/
structure Parcel where
  dev : Nat                 -- destination device
  core : Nat                -- destination core
  cargo : Cargo
  opId : Nat
deriving DecidableEq, Repr

/-- An entry of a queue (R442), with the sender that its acknowledgement goes to and the instance that has reserved it. -/
structure QEntry where
  data : Word
  sasid : Nat
  sender : Nat
  qseq : Nat
  spilled : Bool
  dev : Nat
  core : Nat
  ser : Nat
  resv : Option (Nat × Nat × Nat) -- train, frame handle, index
deriving DecidableEq, Repr

/-- A queue of a core (R440 to R443). -/
structure Queue where
  live : Bool
  gen : Nat
  qseq : Nat
  oasid : Nat
  owner : Nat               -- frame handle with device and core
  launch : LaunchRef
  spillFail : Bool
  held : Bool
  slog : Nat
  caplog : Nat
  open' : Nat
  sbase : Nat
  resident : List QEntry
  shead : Nat               -- siding index of its oldest entry
  scount : Nat
  buffer : List QEntry      -- accepted entries whose siding write has not succeeded
  pageWait : Option Nat     -- unit whose page request a siding write waits on (R443)
  readWait : Option Nat     -- unit whose page request the refill of resident room waits on (R442)
  readFail : Bool           -- the last read of the siding's head failed
  failed : List Nat         -- units whose page request failed
  retryAt : Nat
deriving DecidableEq, Repr

/-- An entry that a core has sent and that is not yet acknowledged (R441, R451). -/
structure QSent where
  ser : Nat
  handle : Word
  data : Word
  src : Word
  ring : Option Nat
  info : FaultInfo
  opId : Nat
  page : Option Nat         -- 8 KiB unit of its ring whose page request its refusal record waits on (R347)
  pageFail : Bool           -- that request has failed
deriving DecidableEq, Repr

/-- An entry on its way to a queue of this core. -/
structure QFlight where
  due : Nat
  handle : Word
  entry : QEntry
deriving DecidableEq, Repr

/-- An acknowledgement (code 0) or refusal on its way back. -/
structure QReply where
  due : Nat
  ser : Nat
  code : Nat
deriving DecidableEq, Repr

/-- A frame builder (R447). -/
structure Builder where
  launch : LaunchRef
  desc : Nat                -- the 64-byte descriptor
  filling : Bool
  rows : List (Nat × List Byte) -- id and bytes
  src : Word                -- seat whose `frmput` opened the frame
  firstAt : Nat             -- clock of its first row
  closed : Option RowFrame  -- waits for the frame in flight or for credit
  flying : Bool
  flyOp : Nat               -- the operation whose acknowledgement says that a frame in flight to a peer is delivered
  seq : Nat                 -- frames closed since it opened
  ops : List Nat            -- `frmclose` operations that end when its frames have been sent
deriving DecidableEq, Repr

/-- A row frame on its way to a core: cycle due and context charged. -/
structure FrFlight where
  due : Nat
  core : Nat
  frame : RowFrame
  ctx : Option LaunchRef
deriving DecidableEq, Repr

/-- Instances `next` to `total` − 1 of an entry block that placement still has to make ready in a frame of this core (R240). -/
structure StartRun where
  launch : LaunchRef
  handle : Nat
  block : Nat
  next : Nat
  total : Nat
deriving DecidableEq, Repr

/-- A counter that has fired and whose record is still to be read (R250), or a record that waits for siding credit (R437): the launch that
issued it, the die it was issued on, the device queue. -/
structure Firing where
  issuer : LaunchRef
  die : Nat
  queue : Nat
  asid : Nat
  va : Nat                  -- virtual address of the record
  created : Bool
  failed : Bool             -- its page request has failed
  unit : Option Nat         -- 8 KiB unit whose page request it waits on
  got : Option (BitVec 2048) -- the record, once read
deriving DecidableEq, Repr

/-- An update of a dependence counter (R260). -/
inductive CtrOp where
  | sig (amount : Nat)
  | pub (add : Nat) (queue : Nat) (rec : Nat)
deriving DecidableEq, Repr

/-- The records of one `nrec` on their way to a yard (R259): the cycle they arrive, the issuing seat's tag of the lowest one, and each
record with its seat's tag. -/
structure YPack where
  due : Nat
  launch : LaunchRef
  node : Nat
  key : Word
  recs : List (List Byte × Word)
deriving DecidableEq, Repr

/-- What the SCHED instructions of a superstep, and writes of SSLEN, leave for its boundary (R263, R280). -/
inductive LEff where
  | fire (f : Firing)
  | ctr (pa : Nat) (op : CtrOp) (issuer : LaunchRef) (asid : Nat)
  | pack (p : YPack)
  | sslen (v : Nat)
deriving DecidableEq, Repr

/-- A launch from CHECK on (R232). -/
structure Launch where
  id : Nat
  state : LState
  asid : Nat
  queue : Nat               -- queue it left, which it holds back until it runs (R233)
  record : BitVec 2048
  nodes : List (BitVec 2048)
  groups : List (Nat × Nat) -- per role: groups and instances (R240, R243)
  code : Nat                -- first fault code
  leaks : Nat
  since : Nat               -- cycle (timetable: SSCOUNT) it entered GRIDWAIT or PLACING
  created : Bool
  step : Nat                -- completion step reached (R245)
  slots : List SidSlot      -- its siding slots, one on each die where it holds a core (R434)
  recSlots : List (Nat × Nat) -- record slots in use: node and slot (R254)
  placeSeq : Nat            -- order of entering PLACING
  used : List Nat           -- cores that hold or held its groups or teams
  pageWait : Option Nat     -- 8 KiB unit whose page request holds it
  failed : List Nat         -- units whose request failed
deriving DecidableEq, Repr

/-- An outstanding page request (R227). -/
structure PageReq where
  asid : Nat
  vunit : Nat               -- VA bits [56:13]
  seq : Nat
  record : BitVec 256
  written : Bool            -- false while it is held for room in the ring (R276)
  since : Nat
deriving DecidableEq, Repr

/-- PSTATE.STATE (R277). -/
inductive PState where
  | off | run | drain | save | swapped | load | halting | halted
deriving DecidableEq, Repr

/-- The context image of a cluster (R288): its size in bytes, and whether it stands in the shadow storage of its die or from an address of
the overflow area on (R289). -/
structure CtxImage where
  cluster : Nat
  size : Nat
  beyond : Option Nat
  bad : Bool                -- it stands in shadow storage with an uncorrectable error (R477)
deriving DecidableEq, Repr

/-- A partition (R269) with its registers (R274, R277, R435) and launch-engine state (R262). -/
structure Partition where
  state : PState
  clusters : List Nat
  priv : Bool
  cmderr : Bool
  quiesced : Bool
  lastId : Nat
  ssCount : Word
  ssLen : Nat
  ssEnd : Nat               -- TCLK at which it ends
  featMask : Word
  drainLim : Nat
  ctxBase : Nat
  lArea : Nat
  fqAddr : Nat
  prqBase : Nat
  prqLog2n : Nat
  prqTail : Nat
  prqHead : Nat
  prqLim : Nat
  tlbInv : List Word        -- the invalidation in progress and those queued (R279)
  evtSel : Word
  brkEn : Bool
  autoEnd : Bool
  hqAsid : NMap Nat
  sidBase : Nat
  sidCtl : Nat
  dq : NMap (List QRec)     -- device queues 8 to 15
  dqHead : NMap Nat         -- records taken from device queue q so far
  rrLast : Nat              -- queue served last (R233)
  launches : NMap Launch
  placeNext : Nat
  preqs : List PageReq
  early : List (Nat × Nat × Bool) -- answers to walks under way: ASID, 8 KiB unit, and whether it fails (R228)
  preqSeq : Nat
  firings : List Firing     -- fired counters and records that wait (R250, R437), in order
  tt : Option Nat           -- the live timetable launch, or a launch it created (R292)
  ttPend : Nat              -- command waiting for the boundary: 0 none, 1 PREEMPT, 3 HALT; one more once the boundary is over (R298, R301)
  bphase : Nat              -- boundary: 0 none, 1 step 1 waits for responses, 3 step 3 (R295)
  drainAt : Nat             -- cycle of PREEMPT or HALT, from which timers stop (R286, R299)
  cmdCycle : Nat            -- cycle at which the state in progress may end
  noteHead : Nat            -- NTAIL and NHEAD of the completion notices (R464)
  noteTail : Nat
  teamSeq : Nat             -- timetable mode: teams that have been formed (R263)
  divSeq : Nat              -- launch and yard records diverted so far (R233, R254)
  images : List CtxImage    -- its context images while it is away (R288, R289)
deriving DecidableEq, Repr

/-! ## Engines: tile pool (R303 to R329) -/

/-- States of a tile (R304). -/
inductive TState where
  | free | unsealed | sealed
deriving DecidableEq, Repr

/-- A tile (R304) with its bytes. PENDING is the number of registered engine writes listed. -/
structure Tile where
  gen : Nat
  state : TState
  run : Bool
  hkind : Bool              -- held by a copy stream
  count : Nat
  hframe : Nat
  hindex : Nat
  pend : List Nat           -- registered engine writes not yet performed (R314)
  dropping : Bool           -- released while an engine write was registered (R312)
  unit : Nat                -- place in core SRAM
  mem : Memory
deriving DecidableEq, Repr

/-- A train waiting in `talloc` (R310): its target and the read count of each seat. -/
structure TallocReq where
  train : Nat
  target : Nat
  counts : List (Nat × Nat)
deriving DecidableEq, Repr

/-- A tile partition on a core (R303): queue of `talloc`, and the request slot of a bound stream (R325). -/
structure TilePart where
  launch : LaunchRef
  part : Nat
  tsize : Nat
  tiles : List Tile
  queue : List TallocReq
  bound : Option Nat
deriving DecidableEq, Repr

/-- A `tseal` that waits for the writes registered before it, or a `tfree` that waits until none is registered (R315, R316). -/
structure SealWait where
  key : TileKey
  gen : Nat
  free : Bool
  waitFor : List Nat        -- empty for a `tfree`
  core : Nat
  opId : Nat
deriving DecidableEq, Repr

/-- One seat of an access that waits at the home (R309). -/
structure TileSeat where
  info : FaultInfo
  frame : Nat
  off : Nat
  targets : List Nat
  regs : List Nat
  opId : Nat
deriving DecidableEq, Repr

/-- An access of lane instructions to an UNSEALED tile that waits at the home (R309). -/
structure TileWait where
  key : TileKey
  gen : Nat
  counted : Bool
  size : Nat                -- bytes read; 0 for `tabandon`
  sgn : Bool
  core : Nat
  train : Nat
  seats : List TileSeat
  opId : Nat                -- the operation of `tabandon`
deriving DecidableEq, Repr

/-! ## Engines: copy engine (R330 to R356) -/

/-- A copy request in a slot (R330, R338) with its progress. -/
structure CopyReq where
  slot : Nat
  seq : Nat
  info : FaultInfo          -- the issuing seat
  train : Nat
  opId : Nat
  tt : Bool                 -- issued in timetable mode
  recd : Nat                -- the 256 bytes
  stream : Bool
  srcOk : Bool              -- the source tile has passed its checks (R321)
  mark : Nat                -- the engine write registered on a handle destination (R314); 0: none
  pos : Nat                 -- elements written so far
  bytes : Nat               -- bytes written so far
  notices : List Word       -- freed-slot notices not yet handled (R353)
  ripe : Nat                -- timetable mode: those of them that stood when boundary step 3 began (R356)
  chunk : Nat               -- chunks sealed
  sealFor : Option (List Nat) -- its chunk is written, and its seal waits for these registered writes (R315, R353)
  open' : List (Nat × Nat × Nat) -- writes at peers not answered yet: request, element, bytes (R335, R342)
  lost : Option Nat         -- the lowest element whose write has failed (R335)
  sat : Bool
  nan : Bool
  cancelled : Bool
  cancelOps : List Nat      -- `cpyc` operations that end with it (R354)
  due : Nat
  fault : Option (Nat × Nat) -- CODE and address of an error met (R343)
  pageWait : Option Nat     -- address whose page request holds it
  reporting : Nat           -- 0 running; 1 waits for ring space, or for a page of its ring; 2 the request for that page has failed (R347)
  fab : Option Nat          -- fabric card slot of its transform (R336)
  fabOut : Nat              -- elements received from the job
deriving DecidableEq, Repr

/-- Bytes a peer device has returned to an engine operation (R433). -/
structure RData where
  unit : Nat                -- the operation, by engine and slot
  peer : Nat
  pa : Nat
  data : List Byte
deriving DecidableEq, Repr

/-- An update that has reached a barrier's home in this cycle (R350). -/
structure BarUpd where
  launch : LaunchRef
  off : Nat
  op : BarOp
  core : Nat
  pipe : Nat
  n : Nat                   -- seat or request slot
deriving DecidableEq, Repr

/-! ## Engines: matrix pairs (R357 to R377) -/

/-- What an `mmax` supplies to its `mma` (R364). -/
structure MExt where
  fa : Nat                  -- MXA
  fb : Nat                  -- MXB
  bma : Bool
  bmb : Bool
  sca : Word
  scb : Word
  bm : Word
deriving DecidableEq, Repr

/-- The commands of a matrix context (R360, R366), and in timetable mode what `mctx` and `mwait` ask of it (R377). -/
inductive MKind where
  | mma (ty kc mc : Nat) (acc : Bool) (tile : Nat) (a b strides : Word) (ext : Option MExt)
  | accz (tile : Nat)
  | accld (tile mc : Nat) (base : Word) (stride : Nat)
  | accst (tile mc ofmt rm : Nat) (satp : Bool) (base : Word) (stride mark : Nat)
  | accrd (tile : Nat) (seats : List (TileSeat × Nat))   -- each seat with L
  | claim
  | tryClaim (seats : List TileSeat)
  | put
  | addr (seats : List TileSeat)
  | wait (a : Nat) (nf : Bool)
deriving DecidableEq, Repr

/-- A queued command (R360). -/
structure MCmd where
  kind : MKind
  ctx : Nat
  info : FaultInfo          -- the lowest active seat at issue
  train : Nat
  frame : Nat               -- frame handle of that seat on its core
  opId : Nat
  seq : Nat
  started : Bool
  okA : Bool                -- a handle operand has passed its checks (R321)
  okB : Bool
  nan : Bool
  inf : Bool
  pageWait : Option Nat     -- address whose page request holds it
  fault : Option (Nat × Nat)
deriving DecidableEq, Repr

/-- A train that waits to claim a context (R372). -/
structure MClaim where
  core : Nat
  train : Nat
  frame : Nat
deriving DecidableEq, Repr

/-- A matrix context (R361) with its queue and its two tiles: rows by 128·tile + row, each 128 FP32 patterns; an unlisted row is zero. -/
structure MCtx where
  owner : Option (Nat × Nat) -- core and frame handle
  launch : LaunchRef
  ops : Nat
  code : Nat
  rowp : Nat
  chunkp : Nat
  faddr : Nat
  disc : Bool
  sat : Bool
  inf : Bool
  nan : Bool
  queue : List MCmd
  seq : Nat                 -- commands that have reached it
  rows : NMap (List Nat)
  claims : List MClaim
  releasing : Bool
  waits : List (Nat × Nat × Nat) -- trains in `mwait`: core, train, last command they wait for
  bad : List Nat            -- rows of the accumulator store with an uncorrectable error: 128·tile + row (R477)
deriving DecidableEq, Repr

/-- A matrix pair (R357): its contexts, the one that ran the last tile step, and the cycle of that step. -/
structure Pair where
  ctxs : NMap MCtx
  last : Nat
  stepCyc : Option Nat
deriving DecidableEq, Repr

/-- A bank operation in its slot (R380 to R388). -/
structure BankOp where
  slot : Nat
  seq : Nat
  info : FaultInfo          -- the issuing seat
  frame : Nat
  opId : Nat
  tt : Bool
  red : Bool                -- `bred`
  recd : Nat                -- the 64 bytes
  row : Nat                 -- rows or elements written
  nan : Bool
  inf : Bool
  pageWait : Option Nat     -- address whose page request holds it
  fault : Option (Nat × Nat)
  done : Bool
  orphan : Bool             -- its frame has been freed (R388)
  due : Nat
deriving DecidableEq, Repr

/-! ## Engines: spatial fabric (R391 to R427) -/

/-- KIND of a fabric token (R393). -/
inductive FKind where
  | data | empty | err | fin
deriving DecidableEq, Repr

/-- A fabric token (R393): CTX and LABEL are those of the bus it travels on. -/
structure FTok where
  data : List Nat           -- 16 elements of 32 bits
  valid : Nat               -- VALID
  elem : Nat
  kind : FKind
  origin : Nat
  lane : Nat
deriving DecidableEq, Repr

/-- A placed operator (R408, R409): its entry, the tokens at its three ports, its state and its counts in the phase. -/
structure FUnit where
  entry : Nat
  ports : List (List FTok)
  acc : List Nat            -- the 16 accumulators of RSUM and RMAX
  folded : Nat              -- lanes folded so far
  line : List FTok          -- the delay line
  emitted : Nat             -- tokens emitted in the phase
  flushed : Bool            -- the fold of the phase has been emitted
  ended : Bool              -- END has been emitted
deriving DecidableEq, Repr

/-- A bound edge engine (R414): its descriptor, patterns and progress. -/
structure FEng where
  phys : Nat                -- physical edge engine (R392)
  desc : Nat                -- the 64-byte descriptor
  pats : List Nat           -- NDIM pattern descriptors
  iter : Nat                -- ITER at its start
  running : Bool
  started : Bool            -- a phase has started it
  pos : Nat                 -- tokens sent or taken in the phase
  commit : Nat              -- elements committed in the phase (R418)
  total : Nat               -- elements committed in earlier phases
  queue : List FTok         -- tokens delivered to it as a listener
  port : List FTok          -- tokens of a train port (R404)
  srcOk : Bool              -- the source tile has passed its checks (R321)
  mark : Nat                -- the engine write registered on its tile (R421); 0: none
  tsize : Nat               -- tile size of a notify sink (R420)
  cells : List (Nat × Nat)  -- words of the notify tile being formed: offset and word
deriving DecidableEq, Repr

/-- What `sgo` saved (R419): the units, ITER, and the engines it started. -/
structure FCheck where
  units : List FUnit
  iter : Nat
  engs : List Nat
deriving DecidableEq, Repr

/-- A graph context's record (R399) with its bindings and units. -/
structure FCtx where
  slot : Nat
  orow : Nat
  ocol : Nat
  fh : Nat
  fw : Nat
  phys : List Nat           -- physical engines held, by local number
  left : Option (Nat × Nat) -- word offset of the active `sloop` and LEFT; none is LEFT 0xFF
  iter : Nat
  pc : Nat                  -- word offset of the next command
  stopped : Bool            -- PSTATE 2
  replay : Bool
  words : List Nat          -- the command list
  scope : Option Nat        -- SCOPE of the image; none before `scfg`
  units : List FUnit
  engs : NMap FEng
  check : Option FCheck
  imgAt : Nat               -- address of the configuration image (R425); 0 before `scfg`
  kinds : List Nat          -- kinds of engine that its job has bound (R422)
  past : Nat                -- elements committed by bindings since replaced
  nan : Bool
  inf : Bool
  pages : List Nat          -- 8 KiB units whose page requests it waits on
  failed : List Nat         -- units whose request failed
deriving DecidableEq, Repr

/-- Where a job stands: its card waits, a context runs it, it has ended and its reports are due, its ring record waits for
space, it has completed. -/
inductive FStage where
  | waiting | running | ended | ring | done
deriving DecidableEq, Repr

/-- A card slot in use (R396). -/
structure FCard where
  slot : Nat
  seq : Nat
  info : FaultInfo          -- the issuing seat
  frame : Nat
  train : Nat
  opId : Nat
  tt : Bool
  card : Nat                -- the 128 bytes
  bufs : List Nat           -- the buffer table
  copy : Option Nat         -- request slot of the copy engine that posted it (R336)
  stage : FStage
  ctx : Nat                 -- its graph context while it runs
  code : Nat
  reason : Nat
  engine : Nat
  cancelled : Bool
  inf : Bool
  nan : Bool
  element : Nat
  faddr : Nat
  orphan : Bool             -- its frame has been freed
  cancelOps : List (Nat × Nat) -- `fcan` operations that end with it: core and operation
  pages : List Nat          -- pages its command list waits on
  failed : List Nat
  due : Nat
deriving DecidableEq, Repr

/-- The fabric of a cluster (R391 to R399): cards in the order they were taken, SEQ of each slot, and contexts. -/
structure Fabric where
  cards : List FCard
  seqs : NMap Nat
  ctxs : NMap FCtx
deriving DecidableEq, Repr

/-- What an instruction of class FAB asks for at the superstep boundary (R427). -/
inductive FAsk where
  | job (addr : Nat) (a : Nat) (regs : List Nat) (idOp : Nat)
  | can (id : Word)
  | push (cluster slot eng : Nat) (toks : List FTok)
  | pull (cluster slot eng : Nat) (seats : List (Nat × Nat × Nat)) (a : Nat) (regs : List Nat) -- seats: number, frame, operation
  | wait (nf : Bool) (a : Nat) -- an `fwait`, whose train holds at it
deriving DecidableEq, Repr

/-- One such request, with the issuing seat. -/
structure FReq where
  ask : FAsk
  info : FaultInfo
  handle : Nat
  train : Nat
  opId : Nat
  pages : List Nat          -- units of its card, table or ring that it waits for (R227)
  failed : List Nat         -- such units whose page request has failed
deriving DecidableEq, Repr


/-! ## Engines of a core and of the module -/

/-- The engines of one core. -/
structure CoreEngines where
  pool : List TilePart
  poolSnap : List TilePart  -- the pool as the last superstep boundary left it (R329)
  seals : List SealWait
  tileWaits : List TileWait
  marks : Nat               -- engine writes that operations of this core have registered so far
  copySeq : NMap Nat        -- SEQ of each request slot (R338)
  copies : List CopyReq
  barq : List BarUpd        -- barrier updates that reached this core in this cycle (R350)
  rdata : List RData        -- remote bytes held for engine operations
  bankSeq : NMap Nat        -- SEQ of each bank slot (R380)
  banks : List BankOp
  mq : List MCmd            -- timetable mode: matrix commands of this superstep (R377)
  rpend : List (Nat × Nat)  -- engine operations and their requests outstanding at peers
  fq : List FReq            -- timetable mode: fabric requests of this superstep (R427)
deriving DecidableEq, Repr

/-- A seat of a yard team (R252 to R254): its number, its record's slot, PAY1 and the tag of the `nrec` seat. -/
structure TSeat where
  n : Nat
  slot : Nat
  row : Nat
  src : Word
deriving DecidableEq, Repr

/-- A team of a yard (R252): its active seats, the seats filled or masked so far, and when its first seat was filled and it was formed. -/
structure Team where
  seats : List TSeat
  fill : Nat
  first : Nat
  stood : Nat               -- cycles for which its timer has stood still (R291, R299)
  formedAt : Nat
  order : Nat               -- timetable mode: its place in the order of formation of its partition (R263); 0 before
deriving DecidableEq, Repr

/-- A yard in use (R251, R255): records that have arrived and wait, the forming team, and the formed ones in order. -/
structure Yard where
  num : Nat
  launch : LaunchRef
  node : Nat
  inq : List YPack
  forming : Team
  formed : List Team
  pageWait : Option Nat
deriving DecidableEq, Repr

/-- The launch engine's part on a compute die (R251). -/
structure Die where
  yards : List Yard
deriving DecidableEq, Repr

/-- A device of the link domain as the route table shows it (R428). -/
structure Route where
  ports : Nat               -- mask of the ports that lead to it
  hops : Nat
  up : Bool
deriving DecidableEq, Repr

/-- What is sent to another device (R429). -/
inductive OutPkt where
  | flit (dev core opId w : Nat)                    -- the flit of a token or `depart.t` (R430), from a core, with the operation its acknowledgement ends
  | entry (dev : Nat) (handle : Word) (e : QEntry)
  | reply (dev core ser code : Nat)                 -- acknowledgement (0) or refusal of an entry
  | frame (dev core opId : Nat) (f : RowFrame)
  | request (q : RemoteReq)                         -- a memory request (R433)
  | response (dev id code : Nat) (data : List Byte) -- of a memory request
  | wake (dev pa : Nat) (tag : Word)                -- the FUT word at an address filled under a parked instance (R433)
  | tokAck (dev : Nat) (src : Word)                 -- a token accepted, diverted or discarded (R166)
  | discard (dev : Nat) (tag : Word) (dest : Nat) (src : Word) (launch part code : Nat) (frame : Bool) -- notice of R21
  | credit (dev core : Nat) (ctx : LaunchRef) (tcore frame n : Nat) -- entries granted, or returned, to a core of a peer (R436)
  | edges (dev : Nat) (es : List (Nat × Nat))       -- this device's part of the wait graph (R444)
  | forward (dev w : Nat)                           -- a flit on its second hop (R428)
deriving DecidableEq, Repr

/-- A packet at the ports: its virtual channel, its lane, and TYPE of each of its flits (R429). -/
structure Packet where
  chan : Nat
  lane : Nat
  types : List Nat
  pkt : OutPkt
deriving DecidableEq, Repr

/-- The link engine of the module (R428 to R458). -/
structure Link where
  device : Nat
  members : List Nat
  reqs : List RemoteReq
  reqSeq : Nat
  routes : NMap Route
  credits : NMap Nat        -- entries that a peer has granted, by core here, peer and context there (R436)
  owners : NMap LaunchRef   -- contexts of frames of peers, as their grants name them
  out : List Packet         -- packets handed to the ports, oldest first
  wait : List Packet        -- packets that wait here for a usable route (R428)
  edges : NMap (List (Nat × Nat)) -- by device, the wait-graph edges that it has sent (R444)
  peerHeld : NMap (List Nat) -- by device, its HELD queues as it has sent them
  scanAt : Nat              -- cycle of the next scan
  onCycle : List (List Nat) -- cycles of the wait graph at the last scan
  reported : List (List Nat)
  parked : List (Nat × Nat × Word) -- parked instances of peers: device, physical address, tag (R433)
deriving DecidableEq, Repr
/-- One MSI-X vector (R466): its table entry's enable, a cause that waits, the end of its interval, and messages sent. -/
structure Vec where
  enabled : Bool
  pending : Bool
  busyTo : Option Nat
  sent : Nat
deriving DecidableEq, Repr

/-- The host interface (R459 to R473). -/
structure HostIf where
  bars : Bool               -- configuration space assigns the BARs
  msix : Bool               -- MSI-X enabled in configuration space
  vecs : NMap Vec
  featAccept : Word
  featErr : Bool
  ready : Bool
  recovery : Bool
  throttle : Bool
  db : NMap (Nat × Nat)     -- HEAD and TAIL by 16·partition + host queue (R463)
  msel : Word
  mstat : Word
  reply : List Byte         -- what the last access or management command returned (the model's own)
deriving DecidableEq, Repr

/-- The management controller (R467 to R478). -/
structure Ramvan where
  powerGood : Bool
  halted : Bool             -- start-up stopped at the boot ROM's check (R467 step 1)
  cap : Nat                 -- watts (R478)
  steps : Nat               -- 50 MHz steps by which the clock is lowered
  minSec : Nat              -- fused minimum SECVER
  runSec : Nat              -- SECVER of the running image
  flash : Memory            -- SPI flash: the firmware image
  digest : Nat              -- DIGEST of the running image
  log : List (Nat × Nat)    -- the last 1,024 events of R476 and R477: kind and detail
  pldmEvents : Nat          -- PLDM events raised (R476)
  corrected : Nat           -- corrected errors counted (R477)
deriving DecidableEq, Repr

/-! ## Cores -/

/-- One core (R13, R159 to R231, R274, R293). -/
structure Core where
  frames : NMap Frame
  sram : List (Nat × Nat)   -- allocated buddy blocks: place in 256-byte units, order (R13)
  windows : List Window
  entries : List MEntry     -- matching store and payload reserves (R161)
  entrySeq : Nat
  waiting : List WTok       -- tokens behind a filled slot (R26), in arrival order
  flights : List Flight     -- tokens and commands due here
  sends : List (Nat × Flight) -- timetable mode: what trains sent to other cores in this superstep, with the core (R295)
  csends : List (Nat × Nat × Token) -- timetable mode: tokens of copy requests of this boundary, with slot and k (R356)
  held : List Parcel        -- packets that wait for credit (R437)
  ready : Nat               -- readiness numbers given out (R169)
  plats : NMap Platform
  trains : List Train
  uids : Nat                -- departures so far; names trains
  departs : Nat             -- platforms that have departed (R37)
  departCyc : Option Nat    -- cycle of the last departure (R29)
  issueCyc : NMap Nat       -- per pipe, one more than the cycle of its last issue (R31)
  waiters : List Waiter
  sq : List SQEntry
  flushes : List (Nat × Nat) -- write-backs of cflush and cinv under way: cycle due and operation (R221)
  late : List Late
  regWaits : List RegWait
  outst : List OutOp
  ops : Nat                 -- operations numbered so far
  tlb : List TlbEntry
  imgWait : List (Nat × Nat) -- ASID and 8 KiB unit of image pages that tokens and seats wait for (R46)
  imgFail : List (Nat × Nat) -- of these, the ones whose page request has failed
  walks : List Walk         -- walks that accesses of the core have begun (R224)
  recipes : List RecipeRow
  reserved : List (LaunchRef × Nat × Nat) -- operand RAM reservations: launch, frame handle, bytes (R241)
  queues : NMap Queue       -- the queue store (R441)
  qsent : List QSent
  qser : Nat                -- entries sent so far
  qin : List QFlight
  qback : List QReply
  qhold : List (Nat × QFlight) -- timetable mode: entries of this superstep, with their core (R458)
  builders : NMap Builder
  frin : List FrFlight
  evt : NMap Word           -- EVTCNT0 to 3
  tclk : Nat
  rptr : Nat
  starts : List StartRun    -- instances that placement still makes ready (R240)
  startAt : Nat             -- clock of the next 32 of them
  lhold : List LEff         -- timetable mode: launch effects of this superstep (R263)
  ssDone : Bool             -- the core has ended its superstep (R295)
  settled : Nat             -- one more than the cycle in which instances were last seated
  stepped : Nat             -- one more than the cycle of the last timetable step that ended
  entered : Option Nat      -- TCLK of the last timetable step that has taken its tokens and its departure (R293)
  sqCyc : Nat               -- one more than the cycle in which the store queue was last given the choice to drain
  taken : List Train        -- trains taken inside their blocks by a pre-emption, as the image shows them (R286, R302)
  rotHeld : Option Nat      -- timetable mode: the train that holds the rotation (R230, R294)
  turn : Option Nat         -- train that a timetable step lets issue (R293)
  compactFor : List Nat     -- orders of spawns' allocations that failed for fragmentation: the compactor runs for each (R160)
  sramBad : List Nat        -- 32-byte granules of core SRAM with an uncorrectable error, by number (R129)
  ramBad : List (Nat × Nat) -- slots of operand RAM with one: train and key (R129)
  eng : CoreEngines
deriving DecidableEq, Repr

/-- One cluster (R11): its TLB (R224) and its fabric. -/
structure Cluster where
  tlb : List TlbEntry
  fab : Fabric
deriving DecidableEq, Repr

/-! ## The module -/

/-- The state of the module. -/
structure State where
  cyc : Word
  cur : Nat × Nat           -- core and train uid whose instruction `exec` runs
  freeCtr : Nat             -- counter of the free values drawn (the model's own)
  laned : Nat               -- one more than the cycle whose lane instructions have issued (R320)
  inbox : List Instr        -- events from outside, oldest first (the model's own)
  mem : Memory              -- HBM, by physical address (R470)
  fut : List Nat            -- physical addresses of the FUT words whose bit is full (R105), rising
  bad : List Nat            -- 32-byte granules with an uncorrectable error (R129), rising
  cores : NMap Core
  clusters : NMap Cluster
  pairs : NMap Pair
  dies : NMap Die
  parts : NMap Partition
  asids : NMap Nat          -- ASID table entries, 128 bits each (R270)
  images : List (Nat × Nat) -- images that passed the check: ASID and PROG_BASE (R44)
  link : Link
  host : HostIf
  ramvan : Ramvan
deriving DecidableEq, Repr

/-! ## Why a step stops -/

/-- The model's faults. None is a fault of the spec: those are recorded and the machine goes on (R182, R267). -/
inductive Fault where
  /-- A block instruction is executed while no train is current. Raised by every block instruction. Safe: the machine
  never issues an instruction without a train. -/
  | noTrain
  /-- An event is executed whose cause is not present in the state. Raised by the event rows. Safe: the spec gives the
  event no effect without its cause. -/
  | notEnabled
deriving DecidableEq, Repr

/-- Why an instruction has no meaning. -/
inductive Refusal where
  /-- The instruction has no meaning in this model yet; raised by Dispatch. Safe: nothing is claimed of it. -/
  | notModelled (mnemonic : String)
deriving DecidableEq, Repr

def CoreEngines.reset : CoreEngines :=
  { pool := [], poolSnap := [], seals := [], tileWaits := [], marks := 0, copySeq := [], copies := [], barq := [],
    rdata := [], bankSeq := [], banks := [], mq := [], rpend := [], fq := [] }
def Fabric.reset : Fabric := { cards := [], seqs := [], ctxs := [] }
/-- A free context (R361). -/
def MCtx.reset : MCtx :=
  { owner := none, launch := ⟨0, 0⟩, ops := 0, code := 0, rowp := 0, chunkp := 0, faddr := 0, disc := false, sat := false,
    inf := false, nan := false, queue := [], seq := 0, rows := [], claims := [], releasing := false, waits := [], bad := [] }
def Pair.reset : Pair := { ctxs := [], last := 1, stepCyc := none }
def Die.reset : Die := ⟨[]⟩
/-- The link domain after module reset: this device alone (R474). -/
def Link.reset : Link :=
  { device := 0, members := [0], reqs := [], reqSeq := 0, routes := [], credits := [], owners := [], out := [], wait := [], edges := [], peerHeld := [], scanAt := 1050000,
    onCycle := [], reported := [], parked := [] }
/-- A vector after reset: disabled, nothing waiting. -/
def Vec.reset : Vec := { enabled := false, pending := false, busyTo := none, sent := 0 }

/-- Window registers at their reset values (R461, R471). -/
def HostIf.reset : HostIf :=
  { bars := false, msix := false, vecs := [], featAccept := 0, featErr := false, ready := false, recovery := false,
    throttle := false, db := [], msel := 0, mstat := 0, reply := [] }

/-- The controller at module reset: cap 2,800 W (R478). The fused minimum and the flash contents are not given: zero and empty
(log 1). -/
def Ramvan.reset : Ramvan :=
  { powerGood := false, halted := false, cap := 2800, steps := 0, minSec := 0, runSec := 0, flash := [], digest := 0, log := [],
    pldmEvents := 0, corrected := 0 }

/-! ## Reset values -/

/-- A free frame: GEN 0, nothing allocated (R18). -/
def Frame.free : Frame :=
  { alloc := false, gen := 0, launch := ⟨0, 0⟩, asid := 0, prog := 0, mode := 0, modeNext := none, raised := 0, parentValid := false, parentTag := 0,
    parentDest := 0, stage := 0, carryCount := 0, trapValid := false, trapDest := 0, order := 0, reserve := 0, unit := 0,
    freePending := false, regs := [], empties := [], writer := [], wrote := [], binds := [], recSlots := [], node := none }

/-- A core after module reset. -/
def Core.reset : Core :=
  { frames := [], sram := [], windows := [], entries := [], entrySeq := 0, waiting := [], flights := [], sends := [], csends := [], held := [], ready := 0,
    plats := [], trains := [], uids := 0, departs := 0, departCyc := none, issueCyc := [], waiters := [], sq := [], flushes := [], late := [],
    regWaits := [], outst := [], ops := 0, tlb := [], imgWait := [], imgFail := [], walks := [], recipes := [], reserved := [], queues := [], qsent := [],
    qser := 0, qin := [], qback := [], qhold := [], builders := [], frin := [], evt := [], tclk := 0,
    rptr := 0, starts := [], startAt := 0, lhold := [], ssDone := false, settled := 0, stepped := 0,
    entered := none, sqCyc := 0, taken := [], rotHeld := none, turn := none, compactFor := [], sramBad := [], ramBad := [], eng := CoreEngines.reset }

/-- A cluster after module reset. -/
def Cluster.reset : Cluster := { tlb := [], fab := Fabric.reset }

/-- A partition in state OFF: registers at their reset values (R274, R277, R435). -/
def Partition.reset : Partition :=
  { state := .off, clusters := [], priv := false, cmderr := false, quiesced := false, lastId := 0, ssCount := 0,
    ssLen := 256, ssEnd := 0, featMask := BitVec.allOnes 64, drainLim := 2048, ctxBase := 0, lArea := 0,
    fqAddr := 0, prqBase := 0, prqLog2n := 0, prqTail := 0, prqHead := 0, prqLim := 0, tlbInv := [], evtSel := 0,
    brkEn := false, autoEnd := false, hqAsid := [], sidBase := 0, sidCtl := 16, dq := [], dqHead := [], rrLast := 15,
    launches := [], placeNext := 0, preqs := [], early := [], preqSeq := 0, firings := [], tt := none, ttPend := 0, bphase := 0, drainAt := 0, cmdCycle := 0,
    noteHead := 0, noteTail := 0, teamSeq := 0, divSeq := 0, images := [] }

/-- The module right after reset (R467), before its start-up event: READY 0, every memory byte zero and every FUT bit
empty. -/
def State.reset : State :=
  { cyc := 0, cur := (0, 0), freeCtr := 0, laned := 0, inbox := [], mem := [], fut := [], bad := [], cores := [], clusters := [],
    pairs := [], dies := [], parts := [], asids := [], images := [], link := Link.reset, host := HostIf.reset,
    ramvan := Ramvan.reset }

end Sys2Proof.Machine
end

