-- ==== Sys2Proof/Machine/Pool.lean ====
section
/-!
DEFINITION. The tile pool of a core: handles, states, returns, releases and registered engine writes (R303 to R327).
-/
namespace Sys2Proof.Machine

/-! ## Handles (R305) -/

def mkHandle (gen core part tile off : Nat) : Word :=
  BitVec.ofNat 64 (2 ^ 63 + gen % 2 ^ 16 * 2 ^ 47 + core % 2 ^ 11 * 2 ^ 36 + part % 8 * 2 ^ 33 + tile % 2 ^ 9 * 2 ^ 24 + off % 2 ^ 16)
def hndGen (h : Word) : Nat := bits h 62 47
def hndCore (h : Word) : Nat := bits h 46 36
def hndPart (h : Word) : Nat := bits h 35 33
def hndTile (h : Word) : Nat := bits h 32 24
def hndOff (h : Word) : Nat := bits h 15 0
/-- R308 step 1: H is 1 and the reserved bits are zero. -/
def hndOk (h : Word) : Bool := bit h 63 && bits h 23 16 == 0

/-- R303: bytes of a tile. -/
def tileBytes (tsize : Nat) : Nat := 1024 * 2 ^ tsize

/-- A tile after placement: FREE, GEN 0, bytes zero (R303). -/
def Tile.fresh (unit : Nat) : Tile :=
  { gen := 0, state := .free, run := false, hkind := false, count := 0, hframe := 0, hindex := 0, pend := [],
    dropping := false, unit := unit, mem := [] }

/-- STATE's code (R304). -/
def TState.code : TState → Nat
  | .free => 0 | .unsealed => 1 | .sealed => 2

/-! ## Looking up and changing tiles -/

def poolFind (ps : List TilePart) (r : LaunchRef) (p : Nat) : Option TilePart :=
  ps.find? (fun q => q.launch == r && q.part == p)

def poolTile (ps : List TilePart) (k : TileKey) : Option Tile :=
  match poolFind ps k.launch k.part with
  | some q => q.tiles[k.tile]?
  | none => none

def poolUpdPart (ps : List TilePart) (r : LaunchRef) (p : Nat) (f : TilePart → TilePart) : List TilePart :=
  ps.map (fun q => if q.launch == r && q.part == p then f q else q)

def poolUpd (ps : List TilePart) (k : TileKey) (f : Tile → Tile) : List TilePart :=
  poolUpdPart ps k.launch k.part (fun q => { q with tiles := q.tiles.mapIdx (fun i t => if i = k.tile then f t else t) })

/-- Every tile of a pool with its name. -/
def poolTiles (ps : List TilePart) : List (TileKey × Tile) :=
  ps.flatMap (fun q => q.tiles.mapIdx (fun i t => (⟨q.launch, q.part, i⟩, t)))

/-- Numbers of the tiles of a partition that satisfy a test, ascending. -/
def TilePart.which (q : TilePart) (f : Tile → Bool) : List Nat :=
  (q.tiles.mapIdx (fun i t => (i, f t))).filterMap (fun e => if e.2 then some e.1 else none)

/-! ## Judging an access (R309) -/

/-- The rows of R309's table. -/
inductive TAccess where
  | write | close | free | peek | take
deriving DecidableEq, Repr

/-- What R309 makes of an access. -/
inductive Judge where
  | go | wait | noEffect | stale | overread
deriving DecidableEq, Repr

/-- R309: an access with a handle of generation gen meets a tile; `own` says that the seat's instance is the holder. -/
def Tile.judge (t : Tile) (gen : Nat) (a : TAccess) (own : Bool) : Judge :=
  if t.gen ≠ gen then .stale
  else
    match t.state with
    | .free => .overread
    | .unsealed =>
      match a with
      | .write | .close | .free => .go
      | .peek => if own then .go else .wait
      | .take => .wait
    | .sealed =>
      match a with
      | .write | .free => .stale
      | .close => .noEffect
      | .peek | .take => .go

/-! ## Returns and releases -/

/-- A tile as the stream of a request slot holds it, under its next generation (R325). -/
def Tile.toStream (t : Tile) (slot : Nat) : Tile :=
  { t with gen := (t.gen + 1) % 65536, state := .unsealed, run := false, hkind := true, count := 0, hframe := slot % 512, hindex := 0,
           dropping := false }

/-- A tile allocated to a copy stream, and its freed-slot notice (R325). -/
def CoreEngines.toStream (e : CoreEngines) (c : Nat) (k : TileKey) (slot : Nat) : CoreEngines :=
  match poolTile e.pool k with
  | none => e
  | some t =>
    { e with
      pool := poolUpd e.pool k (fun u => u.toStream slot)
      copies := e.copies.map (fun q =>
        if q.slot == slot && q.stream then { q with notices := q.notices ++ [mkHandle (t.toStream slot).gen c k.part k.tile 0] } else q) }

/-- A pool after a tile's return: it is FREE, or in a bound partition the stream's (R317, R325). -/
def poolReturn (ps : List TilePart) (k : TileKey) : List TilePart :=
  match (poolFind ps k.launch k.part).bind (·.bound) with
  | some slot => poolUpd ps k (fun t => t.toStream slot)
  | none => poolUpd ps k (fun t => { t with state := .free, run := false, dropping := false })

/-- A tile's return, with the notice that it gives a stream (R317, R325). -/
def CoreEngines.returnTile (e : CoreEngines) (c : Nat) (k : TileKey) : CoreEngines :=
  match (poolFind e.pool k.launch k.part).bind (·.bound) with
  | some slot => e.toStream c k slot
  | none => { e with pool := poolReturn e.pool k }

/-- R312: a release, once no engine write is registered on the tile. -/
def CoreEngines.releaseTile (e : CoreEngines) (c : Nat) (k : TileKey) : CoreEngines :=
  match poolTile e.pool k with
  | none => e
  | some t =>
    if t.pend.isEmpty then e.returnTile c k else { e with pool := poolUpd e.pool k (fun u => { u with dropping := true }) }

/-- UNSEALED tiles that instances hold and that satisfy a test. A released tile that still waits for its registered writes is held no
longer (R311, R312). -/
def CoreEngines.held (e : CoreEngines) (f : Tile → Bool) : List TileKey :=
  (poolTiles e.pool).filterMap (fun p =>
    if p.2.state == .unsealed && !p.2.hkind && !p.2.dropping && f p.2 then some p.1 else none)

/-- R312: the release of the tiles that instances hold and that satisfy a test. -/
def CoreEngines.releaseHeld (e : CoreEngines) (c : Nat) (f : Tile → Bool) : CoreEngines :=
  (e.held f).foldl (fun e' k => e'.releaseTile c k) e

/-- R312: an instance leaves its train inside its block. -/
def CoreEngines.leaveBlock (e : CoreEngines) (c frame idx : Nat) : CoreEngines :=
  e.releaseHeld c (fun t => t.run && t.hframe == frame && t.hindex == idx)

/-- R312: a train reaches its block end: RUN is cleared on the tiles its instances hold. -/
def CoreEngines.clearRun (e : CoreEngines) (insts : List (Nat × Nat)) : CoreEngines :=
  { e with pool := e.pool.map (fun q => { q with tiles := q.tiles.map (fun t =>
      if t.state == .unsealed && !t.hkind && insts.contains (t.hframe, t.hindex) then { t with run := false } else t) }) }

/-! ## Registered engine writes (R314) -/

/-- The name of the next engine write that an operation of core c registers, wherever the tile lies. -/
def CoreEngines.newMark (e : CoreEngines) (c : Nat) : Nat × CoreEngines := (c + 2048 * (e.marks + 1), { e with marks := e.marks + 1 })

/-- An engine write registered on a tile. -/
def CoreEngines.register (e : CoreEngines) (k : TileKey) (n : Nat) : CoreEngines :=
  { e with pool := poolUpd e.pool k (fun t => { t with pend := t.pend ++ [n] }) }

/-- A registered engine write has been performed or has ended. -/
def CoreEngines.performed (e : CoreEngines) (c n : Nat) : CoreEngines :=
  let e1 := { e with
    pool := e.pool.map (fun q => { q with tiles := q.tiles.map (fun t => { t with pend := t.pend.filter (· != n) }) })
    seals := e.seals.map (fun w => { w with waitFor := w.waitFor.filter (· != n) }) }
  ((poolTiles e1.pool).filterMap (fun p => if p.2.dropping && p.2.pend.isEmpty then some p.1 else none)).foldl
    (fun e' k => e'.returnTile c k) e1

/-- R315: a tile sealed. -/
def CoreEngines.seal (e : CoreEngines) (k : TileKey) : CoreEngines :=
  { e with pool := poolUpd e.pool k (fun t => { t with state := .sealed, run := false }) }

/-- R317: one read counted; the read that reaches zero returns the tile. -/
def CoreEngines.countRead (e : CoreEngines) (c : Nat) (k : TileKey) : CoreEngines :=
  match poolTile e.pool k with
  | none => e
  | some t =>
    let e1 := { e with pool := poolUpd e.pool k (fun u => { u with count := u.count - 1 }) }
    if t.count ≤ 1 then e1.returnTile c k else e1

/-- R304: the 128-bit state word of a tile. -/
def Tile.stateWord (t : Tile) : Nat :=
  t.gen % 2 ^ 16 * 2 ^ 112 + t.state.code * 2 ^ 110 + b2n t.run * 2 ^ 109 + b2n t.hkind * 2 ^ 108 + t.count % 256 * 2 ^ 100 +
  t.hframe % 2 ^ 12 * 2 ^ 88 + t.hindex % 2 ^ 24 * 2 ^ 64 + t.pend.length % 2 ^ 16 * 2 ^ 48

end Sys2Proof.Machine
end

