-- ==== Sys2Proof/Machine/Ports.lean ====
section
/-!
DEFINITION. The ports of the link: routes, virtual channels, flits, and packets that wait for a route (R428 to R430).
-/
namespace Sys2Proof.Machine

/-- R1: a set of the module's 24 ports. -/
def portMask (ports : Nat) : Nat := ports % 2 ^ 24

/-- Whether a device can be reached now (R428). -/
def Link.routed (l : Link) (dev : Nat) : Bool := ((NMap.get? l.routes dev).map (fun r => r.up)).getD false
def State.routed (s : State) (dev : Nat) : Bool := s.link.routed dev

/-- The device a packet goes to. -/
def OutPkt.dev : OutPkt → Nat
  | .flit d _ _ _ | .entry d _ _ | .reply d _ _ _ | .frame d _ _ _ | .response d _ _ _ | .wake d _ _ | .tokAck d _
  | .discard d _ _ _ _ _ _ _ | .credit d _ _ _ _ _ | .edges d _ | .forward d _ => d
  | .request q => q.peer

/-- R429: TYPE of each flit of a packet: a frame's head and then its body, one flit for 64 bytes. An acknowledgement of an entry has the TYPE of a
refusal (log 22). -/
def OutPkt.types : OutPkt → List Nat
  | .flit .. => [0x01]
  | .entry .. => [0x02]
  | .reply .. => [0x03]
  | .frame _ _ _ f => 0x04 :: List.replicate ((f.bytes.length + 63) / 64) 0x05
  | .request _ => [0x06]
  | .response .. | .wake .. | .tokAck .. => [0x07]
  | .discard .. | .credit .. | .edges .. => [0x08]
  | .forward _ w => [w % 2 ^ 8]

/-- R429: the virtual channel of a TYPE. -/
def typeChan (t : Nat) : Nat :=
  match t with
  | 0x01 => 0
  | 0x02 | 0x03 => 1
  | 0x04 | 0x05 => 2
  | 0x06 => 3
  | 0x07 => 4
  | _ => 5

/-- R429: a packet on its first hop goes in lane 0, one that this device forwards in lane 1. -/
def OutPkt.lane : OutPkt → Nat
  | .forward .. => 1
  | _ => 0

/-- A packet as it stands at the ports. -/
def OutPkt.packet (p : OutPkt) : Packet := { chan := typeChan (p.types.headD 0x08), lane := p.lane, types := p.types, pkt := p }

/-- R428: a packet handed to the ports, or kept while its device has no usable route or others for it wait. -/
def Link.emit (l : Link) (p : OutPkt) : Link :=
  if l.routed p.dev && !l.wait.any (fun q => q.pkt.dev == p.dev) then { l with out := l.out ++ [p.packet] } else { l with wait := l.wait ++ [p.packet] }
def State.emit (s : State) (p : OutPkt) : State := { s with link := s.link.emit p }

/-- R428: what waited for a route that is usable goes, in order. -/
def Link.flush (l : Link) : Link :=
  let go := fun (q : Packet) => l.routed q.pkt.dev
  { l with out := l.out ++ l.wait.filter go, wait := l.wait.filter (fun q => !go q) }

/-- R430: the flit of a token (KIND 0) or of a `depart.t` (KIND 2) on its first hop. -/
def flitOf (kind : Nat) (sided : Bool) (pwords scope dest : Nat) (sender : LaunchRef) (tag src pay0 pay1 : Word) : Nat :=
  1 + b2n sided * 2 ^ 216 + kind % 4 * 2 ^ 217 + pwords % 4 * 2 ^ 219 + scope % 8 * 2 ^ 221 + dest % 4096 * 2 ^ 224 +
    sender.part % 16 * 2 ^ 236 + sender.id % 65536 * 2 ^ 240 + tag.toNat * 2 ^ 256 + src.toNat * 2 ^ 320 + pay0.toNat * 2 ^ 384 +
    pay1.toNat * 2 ^ 448

/-- R430: the flit of what a core sends to a core of another device. -/
def Cargo.flit : Cargo → Nat
  | .tok t => flitOf t.kind t.sided t.pwords t.scope t.dest t.sender t.tag t.src t.pay0 t.pay1
  | .depart idx tag src r => flitOf 2 false 0 0 idx r tag src 0 0
  | .departLocal .. | .wake _ => 0

/-- R430: what a flit carries; none of KIND 1 or 3, which never travel. -/
def flitCargo (w : Nat) : Option Cargo :=
  let word := fun (hi lo : Nat) => (BitVec.ofNat 64 (natBits w hi lo) : Word)
  let r : LaunchRef := ⟨natBits w 239 236, natBits w 255 240⟩
  match natBits w 218 217 with
  | 0 =>
    some (.tok { tag := word 319 256, src := word 383 320, dest := natBits w 235 224, scope := natBits w 223 221, pwords := natBits w 220 219,
                 pay0 := word 447 384, pay1 := word 511 448, kind := 0, sided := w.testBit 216, sender := r })
  | 2 => some (.depart (natBits w 235 224) (word 319 256) (word 383 320) r)
  | _ => none

/-- R428, R429: a flit of another route on its second hop: HOP is 1. -/
def secondHop (w : Nat) : Nat := w ||| 2 ^ 8

end Sys2Proof.Machine
end

