-- ==== Sys2Proof/Machine/Xlat.lean ====
section
/-!
DEFINITION. Page tables, the walk and leaf entries (R101 to R106, R225, R470).
-/
namespace Sys2Proof.Machine

/-- R470: physical memory is 768 GiB. -/
def physSize : Nat := 768 * 2 ^ 30

/-- R470: bytes lo to lo + n − 1 lie in physical memory. -/
def physOk (pa n : Nat) : Bool := decide (pa + n ≤ physSize)

/-! ## Leaf fields (R102) -/

def leafRD (e : Nat) : Bool := e.testBit 1
def leafWR (e : Nat) : Bool := e.testBit 2
def leafEX (e : Nat) : Bool := e.testBit 3
def leafPSZ (e : Nat) : Nat := natBits e 5 4
def leafFUT (e : Nat) : Bool := e.testBit 8
def leafIMM (e : Nat) : Bool := e.testBit 9
def leafLayout (e : Nat) : Nat := natBits e 11 10
def leafRemote (e : Nat) : Bool := e.testBit 12
def leafPhys (e : Nat) : Nat := natBits e 51 13 * 8192
def leafPeer (e : Nat) : Nat := natBits e 103 96
/-- MXS: a signed offset in 8 KiB units (R102). -/
def leafMXS (e : Nat) : Int := toSigned 24 (natBits e 127 104)

/-- Page sizes by PSZ code. -/
def pageSize (psz : Nat) : Nat :=
  match psz with
  | 0 => 2 ^ 13 | 1 => 2 ^ 18 | 2 => 2 ^ 23 | _ => 2 ^ 30

/-- R103: whether a leaf is valid, given the devices of the link domain. -/
def leafValid (members : List Nat) (e : Nat) : Bool :=
  e.testBit 0 && natBits e 95 52 == 0 && decide (natBits e 7 6 ≤ 1) && decide (leafLayout e ≤ 2) &&
  leafPhys e % pageSize (leafPSZ e) == 0 &&
  (if leafRemote e then members.contains (leafPeer e) else leafPeer e == 0) &&
  !(leafIMM e && leafWR e) && !(leafFUT e && leafLayout e != 0) &&
  !(leafLayout e != 0 && (leafRemote e || leafPSZ e == 0)) &&
  !(leafLayout e == 2 && leafMXS e == 0)

/-- A level of the walk (R225): number, lowest VA bit of its index, log2 of its entries, and the PSZ of a leaf here. -/
structure WalkLevel where
  level : Nat
  lo : Nat
  log2n : Nat
  psz : Option Nat
deriving DecidableEq, Repr

/-- R225: the levels from the root down. -/
def walkLevels : List WalkLevel :=
  [⟨5, 48, 9, none⟩, ⟨4, 39, 9, none⟩, ⟨3, 30, 9, some 3⟩, ⟨2, 23, 7, some 2⟩, ⟨1, 18, 5, some 1⟩, ⟨0, 13, 5, some 0⟩]

/-- Outcome of a walk: a valid leaf with its page, no valid leaf at a level, or an uncorrectable error. -/
inductive WalkRes where
  | leaf (base size e : Nat)
  | invalid (level : Nat)
  | badData (pa : Nat)
deriving DecidableEq, Repr

/-- Bytes lo to lo + n − 1 touch a granule with an uncorrectable error (R129). -/
def granuleBad (bad : List Nat) (pa n : Nat) : Bool := bad.any (fun g => decide (g < pa + n ∧ pa < g + 32))

/-- R225: the walk through the levels from the table at `table`. -/
def walkFrom (s : State) (va : Nat) : List WalkLevel → Nat → WalkRes
  | [], _ => .invalid 0
  | lv :: rest, table =>
    if !physOk table (2 ^ lv.log2n * 16) || table % (2 ^ lv.log2n * 16) != 0 then .invalid lv.level
    else
      let a := table + (va / 2 ^ lv.lo % 2 ^ lv.log2n) * 16
      if granuleBad s.bad a 16 then .badData a
      else
        let e := s.mem.readNat a 16
        if e.testBit 95 then
          if natBits e 127 96 == 0 && natBits e 94 52 == 0 && natBits e 8 1 == 0 && e.testBit 0 then
            match rest with
            | [] => .invalid lv.level
            | nx :: _ =>
              let next := natBits e 51 9 * 512
              if !physOk next (2 ^ nx.log2n * 16) || next % (2 ^ nx.log2n * 16) != 0 then .invalid lv.level
              else walkFrom s va rest next
          else .invalid lv.level
        else
          match lv.psz with
          | none => .invalid lv.level
          | some z =>
            if leafPSZ e == z && leafValid s.link.members e then
              .leaf (va / pageSize z * pageSize z) (pageSize z) e
            else .invalid lv.level

/-- R270: an ASID table entry's fields. -/
def State.asidEntry (s : State) (a : Nat) : Nat := NMap.getD s.asids a 0
def asidValid (e : Nat) : Bool := e.testBit 0
def asidPart (e : Nat) : Nat := natBits e 11 8
def asidRoot (e : Nat) : Nat := natBits e 51 13 * 8192

/-- R225: the walk of a virtual address in an ASID. -/
def State.walk (s : State) (asid va : Nat) : WalkRes :=
  let e := s.asidEntry asid
  if !asidValid e then .invalid 5 else walkFrom s va walkLevels (asidRoot e)

/-- The entry of a TLB that maps an address (R224). -/
def tlbFind (l : List TlbEntry) (asid va : Nat) : Option TlbEntry :=
  l.find? (fun e => e.asid == asid && decide (e.base ≤ va ∧ va < e.base + e.size))

/-- A TLB of n entries with one more; the oldest leaves (the choice is not architectural). -/
def tlbAdd (l : List TlbEntry) (n : Nat) (e : TlbEntry) : List TlbEntry :=
  (e :: l.filter (fun x => !(x.asid == e.asid && x.base == e.base))).take n

/-- The physical address of a virtual address on its page. -/
def TlbEntry.phys (e : TlbEntry) (va : Nat) : Nat := leafPhys e.leaf + (va - e.base)

/-- R101: bits [63:57] are zero. -/
def vaOk (va : Nat) : Bool := decide (va < 2 ^ 57)

/-- What an access needs (R104). -/
inductive Need where
  | read | write | rmw | fetch
deriving DecidableEq, Repr

/-- R104: the permissions of a leaf. -/
def Need.ok (n : Need) (e : Nat) : Bool :=
  match n with
  | .read => leafRD e
  | .write => leafWR e
  | .rmw => leafRD e && leafWR e
  | .fetch => leafEX e

/-- A translation without a TLB, for the launch engine and the control engine: physical address and leaf. -/
inductive PureXlat where
  | ok (pa : Nat) (e : Nat)
  | noLeaf (level : Nat)
  | denied
  | badData (pa : Nat)
deriving DecidableEq, Repr

/-- A walk, permission check and bounds check of n bytes at va (they lie in one page when naturally aligned). -/
def State.pureXlat (s : State) (asid va n : Nat) (need : Need) : PureXlat :=
  if !vaOk va then .denied
  else
    match s.walk asid va with
    | .invalid l => .noLeaf l
    | .badData pa => .badData pa
    | .leaf base _ e =>
      if !need.ok e || leafRemote e || !physOk (leafPhys e + (va - base)) n then .denied
      else .ok (leafPhys e + (va - base)) e

/-- Bytes of local memory at a virtual range, 8 KiB piece by piece; none when any piece cannot be read. -/
def State.readVirt (s : State) (asid : Nat) (need : Need) : Nat → Nat → Nat → Option (List Byte)
  | 0, _, _ => some []
  | fuel + 1, va, n =>
    if n = 0 then some []
    else
      let k := Nat.min n (8192 - va % 8192)
      match s.pureXlat asid va k need with
      | .ok pa _ =>
        if granuleBad s.bad pa k then none
        else (State.readVirt s asid need fuel (va + k) (n - k)).map (s.mem.read pa k ++ ·)
      | _ => none

end Sys2Proof.Machine
end

