-- ==== Sys2Proof/Machine/Ops.lean ====
section
/-!
DEFINITION. Named operations over the state: cores, partitions and launches by number, the current train, frames, tags, tokens in
flight, core SRAM, and the ends of trains and frames.
-/
namespace Sys2Proof.Machine

/-! ## Homes of the numbered parts -/

def State.core (s : State) (c : Nat) : Core := NMap.getD s.cores c Core.reset
def State.setCore (s : State) (c : Nat) (k : Core) : State := { s with cores := NMap.set s.cores c k }
def State.updCore (s : State) (c : Nat) (f : Core → Core) : State := s.setCore c (f (s.core c))
def State.cluster (s : State) (c : Nat) : Cluster := NMap.getD s.clusters c Cluster.reset
def State.setCluster (s : State) (c : Nat) (k : Cluster) : State := { s with clusters := NMap.set s.clusters c k }
def State.updCluster (s : State) (c : Nat) (f : Cluster → Cluster) : State := s.setCluster c (f (s.cluster c))
def State.pair (s : State) (p : Nat) : Pair := NMap.getD s.pairs p Pair.reset
def State.setPair (s : State) (p : Nat) (k : Pair) : State := { s with pairs := NMap.set s.pairs p k }
def State.die (s : State) (d : Nat) : Die := NMap.getD s.dies d Die.reset
def State.setDie (s : State) (d : Nat) (k : Die) : State := { s with dies := NMap.set s.dies d k }
def State.updDie (s : State) (d : Nat) (f : Die → Die) : State := s.setDie d (f (s.die d))
def State.part (s : State) (p : Nat) : Partition := NMap.getD s.parts p Partition.reset
def State.setPart (s : State) (p : Nat) (k : Partition) : State := { s with parts := NMap.set s.parts p k }
def State.updPart (s : State) (p : Nat) (f : Partition → Partition) : State := s.setPart p (f (s.part p))

/-- R232: a launch is live from CHECK to COMPLETING. -/
def LState.live : LState → Bool
  | .faulted => false
  | _ => true

/-- The launch that a 16-bit LAUNCH_ID names: the live one that holds it, else one that is FAULTED (R234). -/
def Partition.keyOf (p : Partition) (id : Nat) : Nat :=
  let named := p.launches.filter (fun e => e.1 % 65536 == id)
  ((named.find? (fun e => e.2.state.live)).or named.head?).elim id (·.1)

def State.launch? (s : State) (r : LaunchRef) : Option Launch := NMap.get? (s.part r.part).launches r.id

/-- Whether a launch has stopped (R268). -/
def State.refStopped (s : State) (r : LaunchRef) : Bool := match s.launch? r with | some l => l.state == .faulted | none => false
def State.setLaunch (s : State) (p : Nat) (l : Launch) : State :=
  s.updPart p (fun k => { k with launches := NMap.set k.launches l.id l })
def State.updLaunch (s : State) (r : LaunchRef) (f : Launch → Launch) : State :=
  match s.launch? r with
  | some l => s.setLaunch r.part (f l)
  | none => s
def State.frame (s : State) (c h : Nat) : Frame := NMap.getD (s.core c).frames h Frame.free
def State.setFrame (s : State) (c h : Nat) (f : Frame) : State :=
  s.updCore c (fun k => { k with frames := NMap.set k.frames h f })
def State.updFrame (s : State) (c h : Nat) (f : Frame → Frame) : State := s.setFrame c h (f (s.frame c h))

/-- R11: the cluster, die and matrix pair of a core. -/
def clusterOf (c : Nat) : Nat := c / 8
def dieOf (c : Nat) : Nat := c / 320
def pairOf (c : Nat) : Nat := c / 2

/-- Cores of a partition in ascending number. -/
def Partition.cores (p : Partition) : List Nat :=
  (sortBy (fun a b => decide (a ≤ b)) p.clusters).flatMap (fun k => (List.range 8).map (fun j => 8 * k + j))

/-- The partition that holds a cluster. -/
def State.partOfCluster (s : State) (k : Nat) : Option Nat :=
  (s.parts.find? (fun e => e.2.state != .off && e.2.clusters.contains k)).map (·.1)

/-- Whether a core's partition has its cores halted for a swap (R290). -/
def State.swappedCore (s : State) (c : Nat) : Bool :=
  match s.partOfCluster (clusterOf c) with
  | some p => let st := (s.part p).state; st == .save || st == .swapped || st == .load
  | none => false

/-- The next free value's number, and the state with it drawn. -/
def State.draw (s : State) : Nat × State := (s.freeCtr, { s with freeCtr := s.freeCtr + 1 })

/-- Whether a launch runs in timetable mode (R292). -/
def State.inTT (s : State) (r : LaunchRef) : Bool := (s.part r.part).tt.isSome

/-- R2, R189: the clock a core's timers and FIRST count: TCLK in timetable mode, CYC otherwise. -/
def State.clock (s : State) (c : Nat) (tt : Bool) : Nat := if tt then (s.core c).tclk else s.cyc.toNat

/-! ## Tags and frame headers -/

/-- R15: a tag from its fields. -/
def mkTag (asid device core frame idx : Nat) : Word :=
  BitVec.ofNat 64 (idx % 2 ^ 24 + frame % 2 ^ 12 * 2 ^ 24 + core % 2 ^ 11 * 2 ^ 36 + device % 2 ^ 8 * 2 ^ 47 +
    asid % 2 ^ 9 * 2 ^ 55)
def tagIdx (t : Word) : Nat := bits t 23 0
def tagFrame (t : Word) : Nat := bits t 35 24
def tagCore (t : Word) : Nat := bits t 46 36
def tagDevice (t : Word) : Nat := bits t 54 47
def tagAsid (t : Word) : Nat := bits t 63 55
/-- The frame handle with device and core, tag bits [54:24] (R15). -/
def tagHandle (t : Word) : Nat := bits t 54 24

/-- Tag order of two tags: ascending index, ties by frame handle (R15). -/
def tagWordLe (a b : Word) : Bool :=
  decide (tagIdx a < tagIdx b) || (tagIdx a == tagIdx b && decide (tagHandle a ≤ tagHandle b))

/-- The tag of an instance on core c of this device. -/
def State.tagOf (s : State) (c : Nat) (i : Inst) : Word := mkTag i.asid s.link.device c i.handle i.idx

/-! ## The current train -/

/-- The train of a core with a given name. -/
def Core.train? (k : Core) (uid : Nat) : Option Train := k.trains.find? (fun t => t.uid == uid)

/-- The core with one of its trains replaced. -/
def Core.setTrain (k : Core) (t : Train) : Core :=
  { k with trains := k.trains.map (fun u => if u.uid == t.uid then t else u) }

/-- The train whose instruction executes. -/
def State.train? (s : State) : Option Train := (s.core s.cur.1).train? s.cur.2

/-- Run an instruction of the current train. -/
def withTrain (s : State) (f : Nat → Train → Host.Outcome State Fault Refusal) : Host.Outcome State Fault Refusal :=
  match s.train? with
  | some t => f s.cur.1 t
  | none => .fault .noTrain

/-- H0 of the train's block (R48). -/
def Train.h0 (t : Train) : Nat := ((t.words.getD []).getD 0 0).toNat
/-- Instructions of the train's block, ICOUNT (R48). -/
def Train.icount (t : Train) : Nat := natBits t.h0 27 22

/-- One operand slot of a seat; a slot nothing wrote reads zero (R52). -/
def Train.slot (t : Train) (seat idx : Nat) (k : Slot) : Word := NMap.getD t.slots (seat * 256 + targetOf idx k) 0

/-- A value sent to a target byte of a seat; 0x00 names no target (R51). -/
def Train.deliver (t : Train) (seat target : Nat) (v : Word) : Train :=
  if target < 4 then t else { t with slots := NMap.set t.slots (seat * 256 + target) v }

/-- A target byte made pending on an operation (R53). -/
def Train.pendOn (t : Train) (seat target op : Nat) : Train :=
  if target < 4 then t else { t with pend := (seat * 256 + target, op) :: t.pend }

/-- The operands of the next instruction for a seat. -/
def Train.laneIn (t : Train) (seat : Nat) (mode : Word) : LaneIn :=
  { l := t.slot seat t.pc .l, r := t.slot seat t.pc .r, t := t.slot seat t.pc .t, p := t.slot seat t.pc .p, mode := mode }

/-- A seat leaves the train: its slots go with it (R187). -/
def Train.dropSeat (t : Train) (seat : Nat) : Train :=
  { t with seats := t.seats.filter (fun x => x.n != seat),
           slots := t.slots.filter (fun e => e.1 / 256 != seat),
           pend := t.pend.filter (fun e => e.1 / 256 != seat) }

/-- The seat with a number. -/
def Train.seat? (t : Train) (n : Nat) : Option Seat := t.seats.find? (fun x => x.n == n)

/-! ## Core SRAM (R13) -/

/-- Whether two blocks of core SRAM share a 256-byte unit. -/
def sramClash (a b : Nat × Nat) : Bool := decide (a.1 < b.1 + 2 ^ b.2) && decide (b.1 < a.1 + 2 ^ a.2)

/-- The lowest free place of a block of order k among n candidates from place u. -/
def sramScan (blocks : List (Nat × Nat)) (k : Nat) : Nat → Nat → Option Nat
  | 0, _ => none
  | n + 1, u => if blocks.any (sramClash (u, k)) then sramScan blocks k n (u + 2 ^ k) else some u

/-- A place for a block of order k in the six 64 KiB root blocks: aligned to its own size, so that it crosses none. -/
def sramFind (blocks : List (Nat × Nat)) (k : Nat) : Option Nat := sramScan blocks k (1536 / 2 ^ k) 0

/-- Free 256-byte units of core SRAM (R160). -/
def sramFree (blocks : List (Nat × Nat)) : Nat := 1536 - (blocks.map (fun b => 2 ^ b.2)).foldl (· + ·) 0

/-- The least order whose 2^k units of 256 bytes hold n bytes, at most 9. -/
def orderFor (n : Nat) : Nat := (List.range 9).foldr (fun k acc => if n ≤ 256 * 2 ^ k then k else acc) 9

/-! ## Frames -/

/-- The lowest free handle among n from h (R162: any free handle may be handed out; log 13). -/
def handleScan (fs : NMap Frame) : Nat → Nat → Option Nat
  | 0, _ => none
  | n + 1, h => if (NMap.getD fs h Frame.free).alloc then handleScan fs n (h + 1) else some h

def freeHandle (fs : NMap Frame) : Option Nat := handleScan fs 4096 0

/-- A carried register of a frame. -/
def Frame.reg (f : Frame) (n : Nat) : Word := NMap.getD f.regs n 0
def Frame.full (f : Frame) (n : Nat) : Bool := !f.empties.contains n
def Frame.setReg (f : Frame) (n : Nat) (v : Word) : Frame :=
  { f with regs := NMap.set f.regs n v, empties := f.empties.filter (· != n) }
def Frame.empty (f : Frame) (n : Nat) : Frame :=
  { f with empties := insertBy (fun a b => decide (a ≤ b)) n (f.empties.filter (· != n)) }
def Frame.binding? (f : Frame) (n : Nat) : Option Binding := f.binds.find? (fun b => b.reg == n)

/-- R129: whether n bytes of core SRAM from a place in bytes lie in a granule with an uncorrectable error. -/
def Core.sramErr (k : Core) (place n : Nat) : Bool := k.sramBad.any (fun g => decide (32 * g < place + n ∧ place < 32 * g + 32))

/-- R20, R129: whether a carried register of a frame lies in such a granule. -/
def Core.regErr (k : Core) (f : Frame) (g : Nat) : Bool := f.alloc && k.sramErr (256 * f.unit + 64 + 8 * g) 8

/-- R88: flags raised in a cycle for the MODE word of a frame. They are ORed into it when the cycle ends, behind a `mode` write of the cycle. -/
def State.orFlags (s : State) (c h : Nat) (fl : Flags) : State := s.updFrame c h (fun f => { f with raised := f.raised ||| fl })

/-- R88: the MODE word as the end of the cycle leaves it: the write of the cycle first, then the flags. -/
def Frame.modeNow (f : Frame) : Word := modeOrFlags (f.modeNext.getD f.mode) f.raised

/-- The cycle ends for a frame: its MODE word settles (R88), and what pipe 1 has written counts as earlier (R193). -/
def Frame.endCycle (f : Frame) : Frame :=
  if f.modeNext.isNone && f.raised == 0 && f.wrote.isEmpty then f
  else { f with mode := f.modeNow, modeNext := none, raised := 0, wrote := [] }

/-- R20, R203: bytes of a frame's payload reserve, with those that its dropped registers lend. -/
def Frame.room (f : Frame) : Nat := f.reserve + 8 * (f.binds.filter (fun b => b.dropped)).length

/-- The lowest place, at 0 or behind an entry, at which n bytes fit into a room beside the entries in use. -/
def firstFit (room n : Nat) (used : List (Nat × Nat)) : Option Nat :=
  minBy (fun a b => decide (a ≤ b)) ((0 :: used.map (fun e => e.1 + e.2)).filter (fun o =>
    decide (o + n ≤ room) && used.all (fun e => decide (o + n ≤ e.1) || decide (e.1 + e.2 ≤ o))))

/-- Places and bytes of a frame's payload reserve in use (R20). -/
def Core.reserved? (k : Core) (h : Nat) : List (Nat × Nat) :=
  k.entries.filterMap (fun e => if e.inst.handle == h then e.reserve else none)

/-- R203: whether the register slot that a frame lent last is free again. -/
def Core.slotFree (k : Core) (h : Nat) (f : Frame) : Bool := (k.reserved? h).all (fun e => decide (e.1 + e.2 + 8 ≤ f.room))

/-- R203: a replayed value in its register again, no longer dropped. -/
def Frame.storeBack (f : Frame) (g : Nat) (v : Word) : Frame :=
  { f with regs := NMap.set f.regs g v, binds := f.binds.map (fun x => if x.reg == g then { x with dropped := false, back := none } else x) }

/-- R203: a replayed value is stored back, at once where its slot is free, else once it is. -/
def Core.storeReplay (k : Core) (h : Nat) (f : Frame) (g : Nat) (v : Word) : Frame :=
  if k.slotFree h f then f.storeBack g v
  else { f with binds := f.binds.map (fun x => if x.reg == g then { x with back := some v } else x) }

/-- R203: the first frame that a replayed value can be stored back to now, with that done. -/
def Core.backFrame (k : Core) : Option (Nat × Frame) :=
  k.frames.findSome? (fun e =>
    match e.2.binds.find? (fun b => b.back.isSome) with
    | some b => if k.slotFree e.1 e.2 then some (e.1, e.2.storeBack b.reg (b.back.getD 0)) else none
    | none => none)

/-- Whether an instance of frame h is in the matching store, on a platform, in a train, parked or held (R34). -/
def Core.frameBusy (k : Core) (h : Nat) : Bool :=
  k.entries.any (fun e => e.inst.handle == h) || k.waiters.any (fun w => w.inst.handle == h) ||
  k.plats.any (fun p => p.2.fills.any (fun f => f.seats.any (fun i => i.handle == h))) ||
  k.trains.any (fun t => t.seats.any (fun x => x.inst.handle == h))

/-- A frame returned to the tag pool and the buddy allocator (R34, R206); the handle keeps GEN. Flags still on their way to its MODE word are
lost with it. -/
def Core.releaseFrame (k : Core) (h : Nat) : Core :=
  let f := NMap.getD k.frames h Frame.free
  { k with frames := NMap.set k.frames h { Frame.free with gen := f.gen },
           sram := k.sram.filter (fun b => !(b.1 == f.unit && b.2 == f.order)),
           reserved := k.reserved.filter (fun r => r.2.1 != h),
           late := k.late.map (fun l => if l.handle == h then { l with fl := 0 } else l) }

/-- Handles whose pending free can complete. -/
def Core.freeable (k : Core) : List Nat :=
  (k.frames.filter (fun e => e.2.alloc && e.2.freePending && !k.frameBusy e.1)).map (·.1)

/-- Whether a team of a launch's node holds a record slot: its frame is allocated, or it forms or waits in a yard (R254). -/
def State.slotHeld (s : State) (r : LaunchRef) (node slot : Nat) : Bool :=
  s.cores.any (fun e => e.2.frames.any (fun g => g.2.alloc && g.2.launch == r && g.2.node == some node &&
    g.2.recSlots.contains slot)) ||
  s.dies.any (fun d => d.2.yards.any (fun y => y.launch == r && y.node == node &&
    (y.forming :: y.formed).any (fun t => t.seats.any (fun x => x.slot == slot))))

/-- A core's engines changed. -/
def State.updEng (s : State) (c : Nat) (f : CoreEngines → CoreEngines) : State := s.updCore c (fun k => { k with eng := f k.eng })

/-- R359: contexts owned by a freed frame are released once their commands have completed. -/
def State.dropContexts (s : State) (c h : Nat) : State :=
  let p := s.pair (pairOf c)
  s.setPair (pairOf c) { p with ctxs := p.ctxs.map (fun e =>
    if e.2.owner == some (c, h) then (e.1, { e.2 with releasing := true }) else e) }

/-- R402: jobs that seats of a freed frame posted are collected as they complete. -/
def State.orphanJobs (s : State) (c h : Nat) : State :=
  if ((s.cluster (clusterOf c)).fab.cards).isEmpty then s
  else s.updCluster (clusterOf c) (fun k => { k with fab := { k.fab with cards := k.fab.cards.map (fun j =>
    if j.info.core == c && j.frame == h && j.copy.isNone then { j with orphan := true } else j) } })

/-- R34: one frame's free completes: the tiles that its instances hold unsealed are released (R312), and record slots that no other
team of the launch holds return to it (R254). -/
def State.completeFree (s : State) (c h : Nat) : State :=
  let f := s.frame c h
  let s0 := s.updEng c (fun e => { e.releaseHeld c (fun t => t.hframe == h) with
    banks := e.banks.map (fun b => if b.frame == h then { b with orphan := true } else b) })
  let s1 := ((s0.updCore c (fun k => k.releaseFrame h)).dropContexts c h).orphanJobs c h
  match f.node with
  | none => s1
  | some nd =>
    let gone := fun (e : Nat × Nat) => e.1 == nd && f.recSlots.contains e.2 && !s1.slotHeld f.launch nd e.2
    s1.updLaunch f.launch (fun l => { l with recSlots := l.recSlots.filter (fun e => !gone e) })

/-! ## Train progress -/

/-- The train has retired its last instruction, or has no seat left (R31, R184): it is at its block end. -/
def Train.finished (t : Train) : Bool := decide (t.icount < t.pc) || t.seats.isEmpty

/-- R452: queue entries reserved by an instance that leaves its block early return to their queues. -/
def Core.unreserve (k : Core) (handle idx : Nat) : Core :=
  if k.queues.isEmpty then k
  else { k with queues := k.queues.map (fun q => (q.1, { q.2 with resident := q.2.resident.map (fun e =>
    match e.resv with
    | some (_, h, i) => if h = handle ∧ i = idx then { e with resv := none } else e
    | none => e) })) }

/-- An instance leaves its train inside its block: its tiles of this run are released (R312), and the queue entries it reserved
return (R452). -/
def State.leaveBlock (s : State) (c : Nat) (i : Inst) : State :=
  (s.updEng c (fun e => e.leaveBlock c i.handle i.idx)).updCore c (fun k => k.unreserve i.handle i.idx)

/-- The instruction retires: the train stands at the next instruction, or behind its last one (R31, R184). -/
def State.retire (s : State) (c : Nat) (t : Train) : State :=
  s.updCore c (fun k => k.setTrain
    { t with pc := t.pc + 1, hold := none, heldAt := none, failed := [], waits := [], moved := 0, resumed := false })

/-- The train holds at its instruction (R187): nothing changes but the mark of why. -/
def State.holdTrain (s : State) (c : Nat) (t : Train) (h : Hold) : State :=
  s.updCore c (fun k => k.setTrain { t with hold := some h, heldAt := some s.cyc.toNat })

/-- Memory written at a physical address, when the address exists (R470). -/
def State.physWrite (s : State) (pa n v : Nat) : State := if physOk pa n then { s with mem := s.mem.writeNat pa n v } else s

/-- R129: bytes written in one access by the copy, matrix or link path or through the management window: a granule that it covers loses its
error mark. -/
def State.pathWrite (s : State) (pa : Nat) (bs : List Byte) : State :=
  { s with mem := s.mem.write pa bs, bad := s.bad.filter (fun g => !decide (pa ≤ g ∧ g + 32 ≤ pa + bs.length)) }

/-- A new operation number of a core. -/
def State.newOp (s : State) (c : Nat) : Nat × State :=
  let k := s.core c
  (k.ops + 1, s.setCore c { k with ops := k.ops + 1 })

/-- An operation recorded as outstanding for a train (R40, R57). -/
def State.startOp (s : State) (c uid wbit path id : Nat) : State :=
  s.updCore c (fun k => { k with outst := k.outst ++ [⟨uid, wbit, path, id⟩] })

/-- R192: no write of an operation is under way to the frame's registers any more. -/
def Frame.dropWriter (f : Frame) (id : Nat) : Frame := { f with writer := f.writer.filter (fun w => w.2.op != id) }

/-- An operation has completed (R40). -/
def State.endOp (s : State) (c id : Nat) : State :=
  s.updCore c (fun k => { k with outst := k.outst.filter (fun o => o.id != id) })

/-- An operation has ended without a value: a register that it was to write has no write in flight any more (R192, R202). -/
def State.failOp (s : State) (c id : Nat) : State :=
  (s.updCore c (fun k => { k with frames := k.frames.map (fun f => if f.2.writer.isEmpty then f else (f.1, f.2.dropWriter id)) })).endOp c id

/-- Whether a train has an operation outstanding on a path of a mask (R109, R120). -/
def Core.pathsBusy (k : Core) (uid mask : Nat) : Bool :=
  k.outst.any (fun o => o.train == uid && decide (o.path < 6) && mask.testBit o.path)

/-! ## Instances -/

/-- An entry added to the matching store. -/
def Core.addEntry (k : Core) (i : Inst) (st : EntryState) (inputs : Nat) : Core :=
  { k with entries := k.entries ++ [⟨i, st, none, inputs, k.entrySeq⟩], entrySeq := k.entrySeq + 1 }

/-- An instance put back ready: it restarts its block from the first instruction (R38, R187). With a yield mark it records
the highest readiness number given out (R169). -/
def Core.makeReady (k : Core) (i : Inst) (yielded : Bool) : Core :=
  let j := { i with yielded := yielded, after := if yielded then k.ready else 0, num := 0 }
  k.addEntry j .ready j.toks.length

/-- An instance held in the matching store for its handler (R181, R183). -/
def Core.holdInst (k : Core) (i : Inst) : Core :=
  k.addEntry { i with yielded := false, num := 0 } .held i.toks.length

/-! ## Tokens in flight -/

/-- R165: the delay of a token from core a to core b beyond its release: exactly 4 cycles to the same core, at least 12 to
another core of the die; and to another die R431's least. -/
def tokenDelay (a b : Nat) (extra : Nat) : Nat :=
  if a = b then 4 else if dieOf a = dieOf b then 12 + extra else 40 + extra

/-- The context a token for core b belongs to: the launch that owns its target frame (R434). -/
def State.cargoCtx (s : State) (b : Nat) (cargo : Cargo) : Option LaunchRef :=
  match cargo with
  | .tok t => let f := s.frame b (tagFrame t.tag); if f.alloc then some f.launch else none
  | _ => none

/-- The siding slot of a launch on a die. -/
def Launch.slot? (l : Launch) (die : Nat) : Option SidSlot := l.slots.find? (fun q => q.die == die)

/-- A launch's siding slot on a die changed. -/
def State.updSlot (s : State) (r : LaunchRef) (die : Nat) (f : SidSlot → SidSlot) : State :=
  s.updLaunch r (fun l => { l with slots := l.slots.map (fun q => if q.die == die then f q else q) })

/-- R436: credit for n entries of a context's slot on a die: the state with it taken and whether it was charged, none while there is too
little. A context without a slot there takes none. -/
def State.takeCredit (s : State) (r : LaunchRef) (die n : Nat) : Option (State × Bool) :=
  match (s.launch? r).bind (fun l => l.slot? die) with
  | none => some (s, false)
  | some q => if q.credit < n then none else some (s.updSlot r die (fun q => { q with credit := q.credit - n }), true)

/-- R436: the source core of a peer in a slot's account of what has been granted. -/
def lentKey (dev core : Nat) : Nat := 2048 * dev + core

/-- R432, R436: a packet of n entries that a core of a peer has sent, against the credit granted to it: none while it has too little. A context without a
slot on the die grants none. -/
def State.takeLent (s : State) (r : LaunchRef) (die n dev core : Nat) : Option (State × Bool) :=
  match (s.launch? r).bind (fun l => l.slot? die) with
  | none => some (s, false)
  | some q =>
    let have' := NMap.getD q.lent (lentKey dev core) 0
    if have' < n then none else some (s.updSlot r die (fun q => { q with lent := NMap.put q.lent (lentKey dev core) (have' - n) 0 }), true)

/-- R436, R438: the credit of a packet returns to its source, the tag of the seat that sent it and its device: to the cores of this device, or by a packet to
the core of a peer. -/
def State.giveCredit (s : State) (r : Option LaunchRef) (die n dev : Nat) (src tag : Word) : State :=
  match r with
  | none => s
  | some r =>
    if dev = s.link.device then s.updSlot r die (fun q => { q with credit := q.credit + n })
    else
      let key := lentKey dev (tagCore src)
      (s.updSlot r die (fun q => { q with lent := NMap.put q.lent key (NMap.getD q.lent key 0 + n) 0 })).emit
        (.credit dev (tagCore src) r (tagCore tag) (tagFrame tag) n)

/-- A token or command put on its way from core a to core b (R165). The tokens of one instruction arrive in one cycle: they share the number
that the instruction draws when it has sent them. -/
def State.fly (s : State) (a b : Nat) (cargo : Cargo) (opId : Nat) (ctx : Option LaunchRef) : State :=
  let due := s.cyc.toNat + tokenDelay a b (Config.latency s.freeCtr)
  s.updCore b (fun k => { k with flights := k.flights ++ [⟨due, some s.link.device, cargo, opId, a, ctx, false⟩] })

/-- R436, R437: a token or command for core b of this device against a credit of its context: `go` gives it on its way, with the context charged; without
credit it waits at core a. -/
def State.charge (s : State) (a b : Nat) (cargo : Cargo) (opId : Nat) (go : State → Option LaunchRef → State) : State :=
  match s.cargoCtx b cargo with
  | none => go s none
  | some r =>
    match s.takeCredit r (dieOf b) 1 with
    | some (s1, charged) => go s1 (if charged then some r else none)
    | none => s.updCore a (fun k => { k with held := k.held ++ [⟨s.link.device, b, cargo, opId⟩] })

/-- A token or command released on core `a` for core `b` of this device (R165): it flies against a credit of its context, or waits at
the sending core (R437). In timetable mode a local one is due four retired instructions after the one that sends it, and one for another
core waits for the superstep boundary, where it takes its credit (R293, R295). -/
def State.post (s : State) (a b : Nat) (tt : Bool) (cargo : Cargo) (opId : Nat) : State :=
  if tt then
    if a = b then
      s.charge a b cargo opId (fun st ctx =>
        st.updCore a (fun k => { k with flights := k.flights ++ [⟨k.tclk + 4, none, cargo, opId, a, ctx, false⟩] }))
    else s.updCore a (fun k => { k with sends := k.sends ++ [(b, ⟨0, none, cargo, opId, a, none, false⟩)] })
  else s.charge a b cargo opId (fun st ctx => st.fly a b cargo opId ctx)

/-! ## Fault codes (R264) -/

def ILLEGAL_OPCODE : Nat := 0x01
def ILLEGAL_FORMAT : Nat := 0x02
def ILLEGAL_ROUNDING : Nat := 0x03
def FEATURE_OFF : Nat := 0x04
def PRIVILEGED : Nat := 0x05
def SWITCH_RANGE : Nat := 0x08
def DEST_RANGE : Nat := 0x09
def TRAP_PLACEMENT : Nat := 0x0A
def CARRY_RANGE : Nat := 0x0B
def RECIPE_SOURCE : Nat := 0x0C
def RECIPE_FAULT : Nat := 0x0D
def ACCESS_VIOLATION : Nat := 0x10
def MISALIGNED : Nat := 0x11
def PAGE_UNRESOLVED : Nat := 0x12
def DATA_UNCORRECTABLE : Nat := 0x13
def SCOPE_BINDING : Nat := 0x14
def TILE_ORDER : Nat := 0x18
def TILE_OVERREAD : Nat := 0x19
def TILE_STALE : Nat := 0x1A
def TILE_QUOTA : Nat := 0x1B
def TILE_LEAK : Nat := 0x1C
def COPY_BOUNDS : Nat := 0x20
def COPY_RECORD : Nat := 0x21
def MTX_OPERAND : Nat := 0x28
def MTX_FAULT : Nat := 0x29
def BANK_LAYOUT : Nat := 0x30
def FAB_CONFIG : Nat := 0x38
def FAB_ELEMENT : Nat := 0x39
def QSTALE : Nat := 0x40
def QSPILL_FULL : Nat := 0x41
def QUEUE_CYCLE : Nat := 0x42
def LAUNCH_STALL : Nat := 0x48
def TRAP : Nat := 0x50
def BREAKPOINT : Nat := 0x51

/-- R264: the codes that send a trap token to a registered handler. -/
def tokenCode (code : Nat) : Bool := decide (0x08 ≤ code ∧ code ≤ 0x0D) || code == 0x50

/-! ## The launch record's fields (R235, R237) -/

/-- Bits [hi:lo] of a launch record. -/
def recBits (r : BitVec 2048) (hi lo : Nat) : Nat := natBits r.toNat hi lo
def recProg (r : BitVec 2048) : Nat := recBits r 56 0
def recRoles (r : BitVec 2048) : Nat := recBits r 75 73 + 1
def recIndirect (r : BitVec 2048) : Bool := recBits r 76 76 == 1
def recLeakFault (r : BitVec 2048) : Bool := recBits r 77 77 == 1
def recTimetable (r : BitVec 2048) : Bool := recBits r 78 78 == 1
def recNotify (r : BitVec 2048) : Bool := recBits r 79 79 == 1
def recMode (r : BitVec 2048) : Word := BitVec.ofNat 64 (recBits r 191 128)
def recScopeMap (r : BitVec 2048) : Nat := recBits r 223 192
def recSpOrder (r : BitVec 2048) : Nat := recBits r 231 228
def recStall (r : BitVec 2048) : Nat := recBits r 255 240
def recGridAddr (r : BitVec 2048) : Nat := recBits r 319 256
def recCaddr (r : BitVec 2048) : Nat := recBits r 383 320
def recSucc (r : BitVec 2048) : Nat := recBits r 447 384
def recResult (r : BitVec 2048) : Nat := recBits r 511 448
def recPart (r : BitVec 2048) (p : Nat) : Nat := recBits r (512 + 16 * p + 15) (512 + 16 * p)
def recRingTab (r : BitVec 2048) : Nat := recBits r 696 640
def recFaultQ (r : BitVec 2048) : Nat := recBits r 760 704
def recNodeTab (r : BitVec 2048) : Nat := recBits r 824 768
def recNodes (r : BitVec 2048) : Nat := recBits r 838 832
def recCoal (r : BitVec 2048) : Nat := recBits r 907 897
def recNTimer (r : BitVec 2048) : Nat := recBits r 910 908
def recRagged (r : BitVec 2048) : Bool := recBits r 911 911 == 1
def recRSize (r : BitVec 2048) : Nat := 16 * (recBits r 915 912 + 1)
def recRecSlots (r : BitVec 2048) : Nat := recBits r 927 916
def recRecBuf (r : BitVec 2048) : Nat := recBits r 1016 960
/-- Field [hi:lo] of role descriptor k (R237). -/
def roleBits (r : BitVec 2048) (k hi lo : Nat) : Nat := recBits r (1024 + 128 * k + hi) (1024 + 128 * k + lo)
def roleEntry (r : BitVec 2048) (k : Nat) : Nat := roleBits r k 15 0
def roleSlots (r : BitVec 2048) (k : Nat) : Nat := roleBits r k 63 56
def roleCarry (r : BitVec 2048) (k : Nat) : Nat := roleBits r k 71 64
def roleGroups (r : BitVec 2048) (k : Nat) : Nat := roleBits r k 87 72
def roleInst (r : BitVec 2048) (k : Nat) : Nat := roleBits r k 111 88

/-! ## Interrupts (R466) -/

/-- 2 µs in cycles of the 1.05 GHz clock (R2). -/
def msixGap : Nat := 2100

/-- R466: a cause of an MSI-X vector: a message now, or one more when the interval ends or MSI-X is enabled (R473). -/
def State.notify (s : State) (v : Nat) : State :=
  let x := NMap.getD s.host.vecs v Vec.reset
  let x' : Vec :=
    if s.host.msix && x.enabled && x.busyTo.isNone then { x with sent := x.sent + 1, busyTo := some (s.cyc.toNat + msixGap) }
    else { x with pending := true }
  { s with host := { s.host with vecs := NMap.set s.host.vecs v x' } }

/-! ## Fault records (R265 to R267) -/

/-- A fault outside any block. -/
def FaultInfo.plain (code detail addr : Nat) (r : LaunchRef) (asid source : Nat) : FaultInfo :=
  { code := code, sub := 0, detail := detail, addr := addr, tag := 0, prog := 0, block := 0, gen := 0, instr := 0,
    seat := 0, launch := r, core := 0, asid := asid, source := source }

/-- R265: the 64-byte record. -/
def FaultInfo.record (f : FaultInfo) (time : Word) (seq : Nat) : Nat :=
  seq % 2 ^ 16 + f.source * 2 ^ 80 + f.launch.part * 2 ^ 88 + f.asid * 2 ^ 92 + f.core * 2 ^ 101 + f.launch.id % 65536 * 2 ^ 112 +
  time.toNat * 2 ^ 128 + f.code * 2 ^ 192 + f.sub * 2 ^ 200 + f.seat * 2 ^ 208 + f.instr * 2 ^ 218 + f.gen * 2 ^ 224 +
  f.block * 2 ^ 240 + f.prog * 2 ^ 263 + f.tag.toNat * 2 ^ 320 + f.addr % 2 ^ 64 * 2 ^ 384 + f.detail % 2 ^ 64 * 2 ^ 448

/-- R265: TIME, CYC or in timetable mode SSCOUNT and TCLK. -/
def State.faultTime (s : State) (f : FaultInfo) : Word :=
  let p := s.part f.launch.part
  if p.tt.isSome then BitVec.ofNat 64 (p.ssCount.toNat % 2 ^ 32 * 2 ^ 32 + (s.core f.core).tclk % 2 ^ 32) else s.cyc

/-- R267: LOST of the descriptor at a physical address counts one more record, up to 65,535. -/
def countLost (m : Memory) (d : Nat) : Memory :=
  let lost := m.readNat (d + 6) 2
  if lost < 65535 then m.writeNat (d + 6) 2 (lost + 1) else m

/-- R266, R267: a record appended to the ring whose 16-byte descriptor lies at physical address d; `basePhys` gives the
place of a record from its ring offset. None when the descriptor is malformed; with the memory, whether TAIL advanced. -/
def ringAppend (m : Memory) (d : Nat) (basePhys : Nat → Nat → Option Nat) (mk : Nat → Nat) :
    Option (Bool × Memory) :=
  let desc := m.readNat d 16
  let head := natBits desc 15 0
  let tail := natBits desc 31 16
  let log2n := natBits desc 35 32
  let base := natBits desc 120 64
  if natBits desc 47 36 != 0 || natBits desc 127 121 != 0 || log2n < 4 || base % 4096 != 0 then none
  else if (tail + 65536 - head) % 65536 == 2 ^ log2n then some (false, countLost m d)
  else
    match basePhys base (64 * (tail % 2 ^ log2n)) with
    | none => none
    | some pa => some (true, (m.writeNat pa 64 (mk tail)).writeNat (d + 2) 2 ((tail + 1) % 65536))

/-- A ring's memory after an append; TAIL's advance raises the partition's vector (R466). -/
def State.appended (s : State) (p : Nat) (r : Bool × Memory) : State :=
  let s1 := { s with mem := r.2 }
  if r.1 then s1.notify (4 * p + 2) else s1

/-- R266, R267, R276: the record written to the partition's queue at FQADDR, or counted in its LOST when the queue cannot take it. -/
def State.partQueue (s : State) (p : Nat) (mk : Nat → Nat) : State :=
  let d := (s.part p).fqAddr
  if !physOk d 16 then s
  else
    match ringAppend s.mem d (fun base off => if physOk (base + off) 64 then some (base + off) else none) mk with
    | some m => s.appended p m
    | none => { s with mem := countLost s.mem d }

/-- R248, R267: a record written to the launch's fault queue, or to the partition's when FAULTQ is 0 or cannot be used. -/
def State.launchQueue (s : State) (r : LaunchRef) (mk : Nat → Nat) : State :=
  match s.launch? r with
  | none => s.partQueue r.part mk
  | some l =>
    let va := recFaultQ l.record
    if va = 0 then s.partQueue r.part mk
    else
      match s.pureXlat l.asid va 16 .rmw with
      | .ok d _ =>
        let place := fun base off =>
          match s.pureXlat l.asid (base + off) 64 .write with
          | .ok pa _ => some pa
          | _ => none
        match ringAppend s.mem d place mk with
        | some m => s.appended r.part m
        | none => s.partQueue r.part mk
      | _ => s.partQueue r.part mk

/-- The record of a fault (R265), to its launch's queue or to its partition's. -/
def State.faultRecord (s : State) (f : FaultInfo) : State := s.launchQueue f.launch (f.record (s.faultTime f))
def State.partFaultRecord (s : State) (f : FaultInfo) : State := s.partQueue f.launch.part (f.record (s.faultTime f))

/-- The ASID of a launch's work. -/
def State.launchAsid (s : State) (r : LaunchRef) : Nat := ((s.launch? r).map (·.asid)).getD 0

/-- R470: an access by physical address of the launch or link engine, for a launch or its partition, that leaves the HBM: a record to the partition's fault
queue (log 90). -/
def State.physFault (s : State) (r : LaunchRef) (pa source : Nat) : State :=
  s.partFaultRecord (FaultInfo.plain ACCESS_VIOLATION 0 pa r (s.launchAsid r) source)

/-- A write of such an access. -/
def State.physPut (s : State) (r : LaunchRef) (pa n v source : Nat) : State :=
  if physOk pa n then s.physWrite pa n v else s.physFault r pa source

/-- R182, R268: the launch enters FAULTED with its first code; a launch that is FAULTED already keeps that code. -/
def State.faultLaunch (s : State) (r : LaunchRef) (code : Nat) : State :=
  s.updLaunch r (fun l => { l with state := .faulted, code := if l.state == .faulted then l.code else code })

/-- The record and the change of state a fault without a handler makes (R182). -/
def State.faultNow (s : State) (f : FaultInfo) : State := (s.faultRecord f).faultLaunch f.launch f.code

/-! ## Taking a fault or trap at a seat (R181, R182, R187) -/

/-- What a seat of a train supplies to a fault record or cause word. -/
def State.seatInfo (s : State) (c : Nat) (t : Train) (x : Seat) (code sub detail addr instr : Nat) : FaultInfo :=
  { code := code, sub := sub, detail := detail, addr := addr, tag := s.tagOf c x.inst, prog := t.prog, block := t.block,
    gen := (s.frame c x.inst.handle).gen, instr := instr, seat := x.n, launch := t.launch, core := c, asid := t.asid,
    source := 0 }

/-- R181: the cause word of a trap token. -/
def causeWord (f : FaultInfo) : Word :=
  BitVec.ofNat 64 (f.code + f.sub * 2 ^ 8 + f.seat * 2 ^ 16 + f.instr * 2 ^ 26 + f.gen * 2 ^ 32 + f.block * 2 ^ 48)

/-- The one operation that takes a fault or user trap at a seat: the seat leaves the train. With a token code and a registered
handler its instance is held and a trap token goes to TRAP_DEST (R181); otherwise a fault record is written and the launch
enters FAULTED (R182). A trap token has no release scope of its own: its SCOPE is 0 (log 39). -/
def State.takeFault (s : State) (c : Nat) (t : Train) (x : Seat) (code sub detail addr instr : Nat) : State × Train :=
  let f := s.frame c x.inst.handle
  let info := s.seatInfo c t x code sub detail addr instr
  let t' := t.dropSeat x.n
  if tokenCode code && f.trapValid then
    let tok : Token := { tag := info.tag, src := info.tag, dest := f.trapDest, scope := 0, pwords := 2, pay0 := causeWord info,
                         pay1 := BitVec.ofNat 64 detail, kind := 1, sided := false, sender := t.launch }
    (((s.leaveBlock c x.inst).updCore c (fun k => k.holdInst x.inst)).post c c (s.inTT t.launch) (.tok tok) 0, t')
  else ((s.leaveBlock c x.inst).faultNow info, t')

/-- A fault taken by several seats in ascending seat order (R265), each with its own DETAIL and ADDR. -/
def State.takeFaults (s : State) (c : Nat) (t : Train) (code instr : Nat) (xs : List (Seat × Nat × Nat)) : State × Train :=
  xs.foldl (fun (p : State × Train) x => p.1.takeFault c p.2 x.1 code 0 x.2.1 x.2.2 instr) (s, t)

/-- A fault that covers every active seat of the instruction (R265), with one DETAIL. -/
def State.faultAll (s : State) (c : Nat) (t : Train) (code detail : Nat) : State :=
  let r := s.takeFaults c t code t.pc (t.seats.map (fun x => (x, detail, 0)))
  r.1.retire c r.2

/-! ## Event counters (R284) -/

/-- R284: an event of a code counted n times on a core, by each counter that EVTSEL sets to the code. -/
def State.countEvt (s : State) (c : Nat) (code n : Nat) : State :=
  match s.partOfCluster (clusterOf c) with
  | none => s
  | some p =>
    let sel := (s.part p).evtSel
    (List.range 4).foldl (fun st k =>
      if bits sel (8 * k + 7) (8 * k) = code then
        st.updCore c (fun q => { q with evt := NMap.put q.evt k (NMap.getD q.evt k 0 + BitVec.ofNat 64 n) 0 })
      else st) s

/-! ## Translation for a core's accesses (R223, R224, R227, R229) -/

/-- The translation of an address held by the core's TLB or its cluster's (R224). -/
def State.tlbHit (s : State) (c asid va : Nat) : Option TlbEntry :=
  match tlbFind (s.core c).tlb asid va with
  | some e => some e
  | none => tlbFind (s.cluster (clusterOf c)).tlb asid va

/-- Outcome of the checks of one access (R223): performable at a physical address, a fault code, or a TLB miss. -/
inductive Acc where
  | ok (pa : Nat) (e : TlbEntry)
  | bad (code : Nat)
  | miss
deriving DecidableEq, Repr

/-- The fault code recorded for a unit that failed to translate. -/
def failedCode (failed : List (Nat × Nat)) (va : Nat) : Option Nat := (failed.find? (fun e => e.1 == va / 8192)).map (·.2)

/-- Translation and permission of an aligned access of n bytes (R223 steps 3 and 4, R470). -/
def State.translate (s : State) (c asid : Nat) (failed : List (Nat × Nat)) (va n : Nat) (need : Need) : Acc :=
  match failedCode failed va with
  | some code => .bad code
  | none =>
    match s.tlbHit c asid va with
    | none => .miss
    | some e =>
      if !need.ok e.leaf then .bad ACCESS_VIOLATION
      else if !leafRemote e.leaf && !physOk (e.phys va) n then .bad ACCESS_VIOLATION
      else .ok (e.phys va) e

/-- R223: the checks of an access of n bytes, in order. -/
def State.access (s : State) (c asid : Nat) (failed : List (Nat × Nat)) (va n : Nat) (need : Need) : Acc :=
  if !vaOk va then .bad ACCESS_VIOLATION
  else if va % n != 0 then .bad MISALIGNED
  else s.translate c asid failed va n need

/-- R227: the kind bits of a page request. An atomic sets bit 3 alone (log 57). -/
def Need.kind (n : Need) : Nat :=
  match n with
  | .read => 1 | .write => 2 | .fetch => 4 | .rmw => 8

/-- Whether a page request for a unit is outstanding (R227). -/
def State.requested (s : State) (asid unit : Nat) : Bool :=
  s.parts.any (fun p => p.2.preqs.any (fun r => r.asid == asid && r.vunit == unit))

/-- The walks outstanding on a die (R224). -/
def State.walksOn (s : State) (die : Nat) : List Walk :=
  s.cores.flatMap (fun e => if dieOf e.1 = die then e.2.walks else [])

/-- Whether a miss of core c joins a walk of its die or a request outstanding (R224, R227). -/
def State.missJoins (s : State) (c asid va : Nat) : Bool :=
  s.requested asid (va / 8192) || (s.walksOn (dieOf c)).any (fun w => w.asid == asid && w.va / 8192 == va / 8192)

/-- Whether an access of core c, by a train or an engine that shares the core's TLB, waits on one of the units that satisfy a test (R224). -/
def State.waitsOn (s : State) (c asid : Nat) (hit : Nat → Bool) : Bool :=
  let at' := fun (info : FaultInfo) (w : Option Nat) => info.asid == asid && (match w with | some va => hit (va / 8192) | none => false)
  let k := s.core c
  k.trains.any (fun t => t.asid == asid && t.waits.any (fun m => hit (m.1 / 8192))) ||
  k.eng.copies.any (fun q => at' q.info q.pageWait) || k.eng.mq.any (fun m => at' m.info m.pageWait) ||
  (s.pair (pairOf c)).ctxs.any (fun x => x.2.queue.any (fun m => m.info.core == c && at' m.info m.pageWait))

/-- R224: an entry found in the cluster's TLB alone fills the core's; that is a miss of the core's TLB (R284). -/
def State.tlbFill (s : State) (c asid : Nat) (vas : List Nat) : State :=
  vas.foldl (fun st va =>
    match tlbFind (st.core c).tlb asid va, tlbFind (st.cluster (clusterOf c)).tlb asid va with
    | none, some e => (st.updCore c (fun k => { k with tlb := tlbAdd k.tlb 64 e })).countEvt c 6 1
    | _, _ => st) s

/-- A train holds for translations that missed: a walk is started for each 8 KiB unit that no walk of the die nor request covers yet, and the
train waits until its units are translated or answered; with 1,024 misses of the die outstanding it tries again (R224, R227, R229). -/
def State.missHold (s : State) (c : Nat) (t : Train) (misses : List (Nat × Nat × Nat)) : State :=
  let units := dedup (misses.map (fun m => m.1 / 8192))
  let first := units.filterMap (fun u => misses.find? (fun m => m.1 / 8192 == u))
  let new := first.filter (fun m => !s.missJoins c t.asid m.1)
  if 1024 < (s.walksOn (dieOf c)).length + new.length then s.holdTrain c t .walk else
  let s1 := s.updCore c (fun k => { k with walks := k.walks ++ new.map (fun m => ⟨t.asid, m.1, m.2.1, m.2.2, t.launch.id, true⟩) })
  let missed := units.filter (fun u => !s.waitsOn c t.asid (· == u))
  s1.countEvt c 6 missed.length |>.holdTrain c { t with waits := first } (if units.any (s.requested t.asid) then .page else .walk)

/-! ## Page requests (R227) -/

/-- R227: the record of a page request. -/
def pageRecord (seq kind va core asid launch path level : Nat) : BitVec 256 :=
  BitVec.ofNat 256 (level + path * 2 ^ 16 + launch % 2 ^ 16 * 2 ^ 32 + asid * 2 ^ 48 + core * 2 ^ 64 + va % 2 ^ 64 * 2 ^ 128 +
    kind * 2 ^ 192 + seq % 2 ^ 16 * 2 ^ 224)

/-- Whether the page-request ring of a partition takes one more record (R274, R276). -/
def Partition.ringRoom (p : Partition) : Bool :=
  p.prqLog2n != 0 && decide ((p.prqTail + 65536 - p.prqHead) % 65536 < 2 ^ p.prqLog2n)

/-- The records that wait for room are written to the ring in order while it has room. -/
def State.flushPreqs (s : State) (p : Nat) : List PageReq → List PageReq → State
  | [], done => s.updPart p (fun k => { k with preqs := done })
  | r :: rs, done =>
    let k := s.part p
    if r.written || !k.ringRoom then State.flushPreqs s p rs (done ++ [r])
    else
      let pa := k.prqBase + 32 * (k.prqTail % 2 ^ k.prqLog2n)
      let s1 := { s with mem := s.mem.writeNat pa 32 r.record.toNat }
      let s2 := s1.updPart p (fun q => { q with prqTail := (q.prqTail + 1) % 65536 })
      State.flushPreqs (s2.notify (4 * p + 1)) p rs (done ++ [{ r with written := true }])

/-- R227: a page request for the 8 KiB unit of an address, unless one is outstanding. -/
def State.raisePage (s : State) (c : Nat) (p launch asid va kind path level : Nat) : State :=
  if s.requested asid (va / 8192) then s
  else
    let k := s.part p
    let r : PageReq := { asid := asid, vunit := va / 8192, seq := k.preqSeq % 65536, written := false, since := s.cyc.toNat,
                         record := pageRecord k.preqSeq kind va c asid launch path level }
    let s1 := s.updPart p (fun q => { q with preqSeq := (q.preqSeq + 1) % 65536, preqs := q.preqs ++ [r] })
    (s1.flushPreqs p (s1.part p).preqs []).countEvt c 7 1

/-! ## Accesses of engines -/

/-- Outcome of an engine's access to n bytes: performable, a fault code, or no valid leaf (R224 to R229). -/
inductive EAcc where
  | ok (pa : Nat) (leaf base size : Nat)
  | bad (code : Nat)
  | noLeaf (level : Nat)
deriving DecidableEq, Repr

/-- The checks of R223 for an engine's access, alignment apart, on the page that its translation found. -/
def State.accOf (s : State) (w : WalkRes) (va n : Nat) (need : Need) : EAcc :=
  if !vaOk va then .bad ACCESS_VIOLATION
  else
    match w with
    | .invalid l => .noLeaf l
    | .badData _ => .bad DATA_UNCORRECTABLE
    | .leaf base size e =>
      let pa := leafPhys e + (va - base)
      if !need.ok e || decide (base + size < va + n) then .bad ACCESS_VIOLATION
      else if !leafRemote e && !physOk pa n then .bad ACCESS_VIOLATION
      else if (need == .read || need == .rmw) && !leafRemote e && granuleBad s.bad pa n then .bad DATA_UNCORRECTABLE
      else .ok pa e base size

/-- An access by a fresh walk: the launch engine's, and those to ring descriptors and queue sidings. -/
def State.engAcc (s : State) (asid va n : Nat) (need : Need) : EAcc := s.accOf (s.walk asid va) va n need

/-- The page of a TLB entry. A miss is no leaf yet: a walk is begun for it (R224), but one that meets an uncorrectable error answers the
access with it (R225). -/
def State.pageOf (s : State) (hit : Option TlbEntry) (asid va : Nat) : WalkRes :=
  match hit with
  | some e => .leaf e.base e.size e.leaf
  | none =>
    match s.walk asid va with
    | .badData l => .badData l
    | _ => .invalid 0

/-- R224: the translation of the copy engine, the tile pool and the matrix load pipes of core c. -/
def State.corePage (s : State) (c asid va : Nat) : WalkRes := s.pageOf (s.tlbHit c asid va) asid va

/-- R224: the translation of fabric edge engines and bank operations that core c issued: through its cluster's TLB. -/
def State.clusterPage (s : State) (c asid va : Nat) : WalkRes := s.pageOf (tlbFind (s.cluster (clusterOf c)).tlb asid va) asid va

/-- R224: an engine of core c begins a walk for an access that missed, unless it joins a walk of the die or a request. `own`: the access goes
through the core's TLB. A walk beyond the 1,024 misses of the die waits here, at its core. -/
def State.engMiss (s : State) (c asid va kind path launch : Nat) (own : Bool) : State :=
  let s1 := if own && !s.waitsOn c asid (· == va / 8192) then s.countEvt c 6 1 else s
  if s.missJoins c asid va then s1 else s1.updCore c (fun k => { k with walks := k.walks ++ [⟨asid, va, kind, path, launch, own⟩] })

def State.coreAcc (s : State) (c asid va n : Nat) (need : Need) : EAcc := s.accOf (s.corePage c asid va) va n need
def State.clusterAcc (s : State) (c asid va n : Nat) (need : Need) : EAcc := s.accOf (s.clusterPage c asid va) va n need

end Sys2Proof.Machine
end

