-- ==== Sys2Proof/Machine/LinkOut.lean ====
section
/-!
DEFINITION. Packets for peer devices: routes, credits and what waits for them (R428, R432, R436, R437).
-/
namespace Sys2Proof.Machine

/-- R434, R436: the context of a frame of a peer, as a grant for it has named it (log 22). -/
def State.peerCtx (s : State) (tag : Word) : Option LaunchRef := NMap.get? s.link.owners (tagHandle tag)

/-- The account of a source core for a context of a peer (R436). -/
def creditKey (c dev : Nat) (r : LaunchRef) : Nat := (256 * c + dev) * 2 ^ 20 + r.part % 16 * 2 ^ 16 + r.id % 2 ^ 16

/-- Entries that a peer has granted to a core for the context of a tag (R432, R436). -/
def State.peerCredit (s : State) (c : Nat) (tag : Word) : Nat :=
  match s.peerCtx tag with
  | some r => NMap.getD s.link.credits (creditKey c (tagDevice tag) r) 0
  | none => 0

/-- Credit for n entries of the context of a tag taken; none while there is too little. -/
def State.spendCredit (s : State) (c n : Nat) (tag : Word) : Option State :=
  match s.peerCtx tag with
  | none => none
  | some r =>
    let k := creditKey c (tagDevice tag) r
    if s.peerCredit c tag < n then none
    else some { s with link := { s.link with credits := NMap.put s.link.credits k (s.peerCredit c tag - n) 0 } }

/-- R430, R436: a token for another device, sent against a credit over a usable route, or a command over such a route; none while it must wait. A `depart.t`
needs no credit: it is never put aside. -/
def State.sendRemote (s : State) (c dev : Nat) (cargo : Cargo) (opId : Nat) : Option State :=
  if !s.routed dev then none
  else
    let paid : Option State := match cargo with | .tok t => s.spendCredit c 1 t.tag | _ => some s
    paid.map (fun s1 => s1.emit (.flit dev c opId cargo.flit))

/-- A token or command for another device: sent, or held at its core (R428, R437). -/
def State.postRemote (s : State) (c dev : Nat) (cargo : Cargo) (opId : Nat) : State :=
  (s.sendRemote c dev cargo opId).getD (s.updCore c (fun k => { k with held := k.held ++ [⟨dev, 0, cargo, opId⟩] }))

/-- The tag that a token or a command names. -/
def Cargo.tag : Cargo → Word
  | .tok t => t.tag
  | .depart _ tag _ _ => tag
  | .departLocal .. | .wake _ => 0

/-- Cargo whose tag names the device it goes to. -/
def Cargo.far : Cargo → Bool
  | .tok _ | .depart .. => true
  | .departLocal .. | .wake _ => false

/-- R437: what packets for one context have in common: the device and its context; a frame whose context is not known stands for itself. -/
def State.ctxKey (s : State) (dev : Nat) (tag : Word) : Nat × Option LaunchRef × Nat :=
  let ctx :=
    if dev = s.link.device then
      let f := s.frame (tagCore tag) (tagFrame tag)
      if f.alloc then some f.launch else none
    else s.peerCtx tag
  (dev, ctx, if ctx.isNone then tagHandle tag else 0)

/-- R437: whether a core already holds 16 packets for the context of a tag. -/
def State.crowded (s : State) (c : Nat) (tag : Word) : Bool :=
  let k := s.core c
  if k.held.isEmpty then false
  else decide (16 ≤ (k.held.filter (fun p => s.ctxKey p.dev p.cargo.tag == s.ctxKey (tagDevice tag) tag)).length)

end Sys2Proof.Machine
end

