-- ==== Sys2Proof/WellFormed.lean ====
section
/-!
DEFINITION. The field values each instruction accepts (R51, R61, R64, R66 and the chapter of each instruction).
-/
namespace Sys2Proof

/-- R51: 0x01 to 0x03 name no slot. -/
def targetOk (b : BitVec 8) : Bool := b == 0#8 || decide (4 ≤ b.toNat)

/-- R61: a rounding field holds 0 to 5. -/
def roundOk (r : BitVec 3) : Bool := decide (r.toNat ≤ 5)

/-- The first field value an instruction does not accept, by the name the image check gives it. -/
def Instr.fieldError : Instr → Option DecodeError
  | .iadd _ _ _ _ => none
  | .isub _ _ _ _ => none
  | .imul _ _ _ _ => none
  | .imulh _ _ _ => none
  | .imad _ _ _ _ => none
  | .imin _ _ _ => none
  | .imax _ _ _ => none
  | .iabs _ _ _ _ => none
  | .ineg _ _ _ _ => none
  | .iand _ _ _ => none
  | .ior _ _ _ => none
  | .ixor _ _ _ => none
  | .andn _ _ _ => none
  | .inot _ _ _ => none
  | .shl _ _ _ => none
  | .shr _ _ _ => none
  | .sar _ _ _ => none
  | .rot _ _ _ => none
  | .bfx _ _ _ => none
  | .bfi _ _ _ => none
  | .popc _ _ _ => none
  | .clz _ _ _ => none
  | .brev _ _ _ => none
  | .icmp _ _ _ c => if decide (c.toNat ≤ 5) then none else some .illegalFormat
  | .sel _ _ _ => none
  | .mov _ _ => none
  | .addx _ _ _ x => if decide (x.toNat ≤ 4) then none else some .illegalFormat
  | .const _ _ => none
  | .consh _ _ => none
  | .consw _ _ => none
  | .iaddi _ _ => none
  | .iaddPred _ _ _ _ => none
  | .isubPred _ _ _ _ => none
  | .imulPred _ _ _ _ => none
  | .imulhPred _ _ _ => none
  | .imadPred _ _ _ _ => none
  | .iminPred _ _ _ => none
  | .imaxPred _ _ _ => none
  | .iabsPred _ _ _ _ => none
  | .inegPred _ _ _ _ => none
  | .iandPred _ _ _ => none
  | .iorPred _ _ _ => none
  | .ixorPred _ _ _ => none
  | .andnPred _ _ _ => none
  | .inotPred _ _ _ => none
  | .shlPred _ _ _ => none
  | .shrPred _ _ _ => none
  | .sarPred _ _ _ => none
  | .rotPred _ _ _ => none
  | .bfxPred _ _ _ => none
  | .bfiPred _ _ _ => none
  | .popcPred _ _ _ => none
  | .clzPred _ _ _ => none
  | .brevPred _ _ _ => none
  | .icmpPred _ _ _ c => if decide (c.toNat ≤ 5) then none else some .illegalFormat
  | .movPred _ _ => none
  | .addxPred _ _ _ x => if decide (x.toNat ≤ 4) then none else some .illegalFormat
  | .constPred _ _ => none
  | .conshPred _ _ => none
  | .conswPred _ _ => none
  | .iaddiPred _ _ => none
  | .fadd _ _ r _ => if roundOk r then none else some .illegalRounding
  | .fsub _ _ r _ => if roundOk r then none else some .illegalRounding
  | .fmul _ _ r _ => if roundOk r then none else some .illegalRounding
  | .ffma _ _ r _ => if roundOk r then none else some .illegalRounding
  | .fmin _ _ r _ => if roundOk r then none else some .illegalRounding
  | .fmax _ _ r _ => if roundOk r then none else some .illegalRounding
  | .fabs _ _ r _ => if roundOk r then none else some .illegalRounding
  | .fneg _ _ r _ => if roundOk r then none else some .illegalRounding
  | .fcmp _ _ r _ _ => if roundOk r then none else some .illegalRounding
  | .fclass _ _ r _ => if roundOk r then none else some .illegalRounding
  | .fdot2 _ _ r _ => if roundOk r then none else some .illegalRounding
  | .fdot4 _ _ r _ => if roundOk r then none else some .illegalRounding
  | .faddPred _ _ r _ => if roundOk r then none else some .illegalRounding
  | .fsubPred _ _ r _ => if roundOk r then none else some .illegalRounding
  | .fmulPred _ _ r _ => if roundOk r then none else some .illegalRounding
  | .ffmaPred _ _ r _ => if roundOk r then none else some .illegalRounding
  | .fminPred _ _ r _ => if roundOk r then none else some .illegalRounding
  | .fmaxPred _ _ r _ => if roundOk r then none else some .illegalRounding
  | .fabsPred _ _ r _ => if roundOk r then none else some .illegalRounding
  | .fnegPred _ _ r _ => if roundOk r then none else some .illegalRounding
  | .fcmpPred _ _ r _ _ => if roundOk r then none else some .illegalRounding
  | .fclassPred _ _ r _ => if roundOk r then none else some .illegalRounding
  | .fdot2Pred _ _ r _ => if roundOk r then none else some .illegalRounding
  | .fdot4Pred _ _ r _ => if roundOk r then none else some .illegalRounding
  | .frcp _ _ r => if roundOk r then none else some .illegalRounding
  | .frsq _ _ r => if roundOk r then none else some .illegalRounding
  | .fsqrt _ _ r _ => if roundOk r then none else some .illegalRounding
  | .fdiv _ _ r _ => if roundOk r then none else some .illegalRounding
  | .fexp2 _ _ r => if roundOk r then none else some .illegalRounding
  | .flog2 _ _ r => if roundOk r then none else some .illegalRounding
  | .fsin _ _ r => if roundOk r then none else some .illegalRounding
  | .fcos _ _ r => if roundOk r then none else some .illegalRounding
  | .ftanh _ _ r => if roundOk r then none else some .illegalRounding
  | .frint _ _ r _ => if roundOk r then none else some .illegalRounding
  | .cvt _ _ r c => if roundOk r then (if decide (c.toNat ≤ 24) then none else some .illegalFormat) else some .illegalRounding
  | .cvtsc _ _ r f _ => if roundOk r then (if decide (f.toNat ≤ 4) then none else some .illegalFormat) else some .illegalRounding
  | .idiv _ _ _ _ => none
  | .irem _ _ _ => none
  | .frcpPred _ _ r => if roundOk r then none else some .illegalRounding
  | .frsqPred _ _ r => if roundOk r then none else some .illegalRounding
  | .fsqrtPred _ _ r _ => if roundOk r then none else some .illegalRounding
  | .fdivPred _ _ r _ => if roundOk r then none else some .illegalRounding
  | .fexp2Pred _ _ r => if roundOk r then none else some .illegalRounding
  | .flog2Pred _ _ r => if roundOk r then none else some .illegalRounding
  | .fsinPred _ _ r => if roundOk r then none else some .illegalRounding
  | .fcosPred _ _ r => if roundOk r then none else some .illegalRounding
  | .ftanhPred _ _ r => if roundOk r then none else some .illegalRounding
  | .frintPred _ _ r _ => if roundOk r then none else some .illegalRounding
  | .cvtPred _ _ r c => if roundOk r then (if decide (c.toNat ≤ 24) then none else some .illegalFormat) else some .illegalRounding
  | .cvtscPred _ _ r f _ => if roundOk r then (if decide (f.toNat ≤ 4) then none else some .illegalFormat) else some .illegalRounding
  | .idivPred _ _ _ _ => none
  | .iremPred _ _ _ => none
  | .shfl _ _ f => if decide (f.toNat ≤ 2) then none else some .illegalFormat
  | .shflx _ _ f => if decide (f.toNat ≤ 2) then none else some .illegalFormat
  | .shflup _ _ f => if decide (f.toNat ≤ 2) then none else some .illegalFormat
  | .shfldn _ _ f => if decide (f.toNat ≤ 2) then none else some .illegalFormat
  | .bcast _ _ f => if decide (f.toNat ≤ 2) then none else some .illegalFormat
  | .vote _ _ _ => none
  | .reduce _ _ o t _ _ => if decide (o.toNat ≤ 6 ∧ t.toNat ≤ 2) then (if decide (3 ≤ o.toNat ∧ o.toNat ≤ 5 → t.toNat ≠ 2) then (if decide (o.toNat = 6 → t.toNat = 2) then none else some .illegalFormat) else some .illegalFormat) else some .illegalFormat
  | .scan _ _ o t _ _ _ => if decide (o.toNat ≤ 6 ∧ t.toNat ≤ 2) then (if decide (3 ≤ o.toNat ∧ o.toNat ≤ 5 → t.toNat ≠ 2) then (if decide (o.toNat = 6 → t.toNat = 2) then none else some .illegalFormat) else some .illegalFormat) else some .illegalFormat
  | .xmatch _ _ w => if decide (w.toNat ≤ 1) then none else some .illegalFormat
  | .seatid _ _ s => if decide (s.toNat ≤ 5) then none else some .illegalFormat
  | .tagord _ _ _ => none
  | .send _ _ _ w _ => if decide (w.toNat ≤ 2) then none else some .illegalFormat
  | .sendsel _ _ _ w _ => if decide (w.toNat ≤ 2) then none else some .illegalFormat
  | .switch _ _ _ w _ => if decide (w.toNat ≤ 2) then none else some .illegalFormat
  | .spawn _ _ _ w k => if decide (w.toNat ≤ 2 ∧ k.toNat ≤ 16) then none else some .illegalFormat
  | .ret _ w _ => if decide (w.toNat ≤ 2) then none else some .illegalFormat
  | .free => none
  | .tag _ _ m => if decide (m.toNat ≤ 4) then none else some .illegalFormat
  | .futld _ o s _ _ _ => if decide (o = 0#1 → s = 0#3) then none else some .illegalFormat
  | .futst o s _ _ => if decide (o = 0#1 → s = 0#3) then none else some .illegalFormat
  | .yield _ => none
  | .trapset d c => if decide (c = 1#1 → d = 0#12) then none else some .illegalFormat
  | .trapret m => if decide (m.toNat ≤ 2) then none else some .illegalFormat
  | .depart _ => none
  | .gldx _ _ => none
  | .gstx => none
  | .gempty => none
  | .gtest _ _ => none
  | .rcpset _ _ _ => none
  | .rcpdrop _ => none
  | .rcpclr _ => none
  | .ld a z o s _ g => if decide (z.toNat ≤ 4) then (if decide (3 ≤ z.toNat → g = 0#1) then (if decide (o = 0#1 → s = 0#3) then (if decide (z.toNat = 4 → a = 0#8 ∨ a.toNat % 4 ≤ 1) then none else some .illegalFormat) else some .illegalFormat) else some .illegalFormat) else some .illegalFormat
  | .st z o s _ => if decide (z.toNat ≤ 4) then (if decide (o = 0#1 → s = 0#3) then none else some .illegalFormat) else some .illegalFormat
  | .lds a z o s g => if decide (z.toNat ≤ 4) then (if decide (3 ≤ z.toNat → g = 0#1) then (if decide (o = 0#1 → s = 0#3) then (if decide (z.toNat = 4 → a = 0#8 ∨ a.toNat % 4 ≤ 1) then none else some .illegalFormat) else some .illegalFormat) else some .illegalFormat) else some .illegalFormat
  | .sts z o s => if decide (z.toNat ≤ 4) then (if decide (o = 0#1 → s = 0#3) then none else some .illegalFormat) else some .illegalFormat
  | .atom _ z o _ g x => if decide (1 ≤ o.toNat ∧ o.toNat ≤ 4) then (if decide (z = 1#1 → g = 0#1) then (if decide (x.toNat ≤ 6) then none else some .illegalFormat) else some .illegalFormat) else some .illegalFormat
  | .atoms _ z o _ g x => if decide (1 ≤ o.toNat ∧ o.toNat ≤ 4) then (if decide (z = 1#1 → g = 0#1) then (if decide (x.toNat ≤ 6) then none else some .illegalFormat) else some .illegalFormat) else some .illegalFormat
  | .cas _ z o _ g => if decide (1 ≤ o.toNat ∧ o.toNat ≤ 4) then (if decide (z = 1#1 → g = 0#1) then none else some .illegalFormat) else some .illegalFormat
  | .fence _ b c => if decide (b ≠ 0#6 ∧ c ≠ 0#6) then none else some .illegalFormat
  | .pref _ _ => none
  | .cflush _ => none
  | .cinv _ => none
  | .ldmx _ o s _ f => if decide (f.toNat ≤ 4) then (if decide (o = 0#1 → s = 0#3) then none else some .illegalFormat) else some .illegalFormat
  | .stmx o s _ f => if decide (f.toNat ≤ 4) then (if decide (o = 0#1 → s = 0#3) then none else some .illegalFormat) else some .illegalFormat
  | .talloc _ _ _ => none
  | .tst z => if decide (z.toNat ≤ 4) then none else some .illegalFormat
  | .tseal => none
  | .tld a _ g z => if decide (z.toNat ≤ 4) then (if decide (3 ≤ z.toNat → g = 0#1) then (if decide (z.toNat = 4 → a = 0#8 ∨ a.toNat % 4 ≤ 1) then none else some .illegalFormat) else some .illegalFormat) else some .illegalFormat
  | .tabandon => none
  | .tfree => none
  | .tstat _ => none
  | .tpart _ _ => none
  | .cpy _ => none
  | .cpys _ => none
  | .cpyc => none
  | .bari => none
  | .bara => none
  | .barx => none
  | .barw _ => none
  | .crpop _ _ => none
  | .mma t _ m _ _ _ _ => if decide (t.toNat ≤ 8) then (if decide (m.toNat ≤ 2) then none else some .illegalFormat) else some .illegalFormat
  | .mmax x y _ _ => if decide (x.toNat ≤ 4 ∧ y.toNat ≤ 4) then none else some .illegalFormat
  | .mctx a _ t => if decide (t = 0#2 ∨ t = 2#2 → a = 0#8) then none else some .illegalFormat
  | .mwait _ _ _ => none
  | .accz _ _ => none
  | .accld m _ _ => if decide (m.toNat ≤ 2) then none else some .illegalFormat
  | .accst f r m _ _ => if decide (r.toNat ≤ 5) then (if decide (f.toNat ≤ 4) then (if decide (m.toNat ≤ 2) then none else some .illegalFormat) else some .illegalFormat) else some .illegalRounding
  | .accrd _ _ _ => none
  | .bgemv _ => none
  | .bred _ => none
  | .bfence _ => none
  | .bwait _ _ => none
  | .fjob _ => none
  | .fwait _ _ => none
  | .fcan => none
  | .fpush _ _ => none
  | .fpull _ _ => none
  | .scfg => none
  | .sbind _ => none
  | .sgo _ => none
  | .sbar _ => none
  | .sdone => none
  | .sloop c _ => if decide (1 ≤ c.toNat) then none else some .illegalFormat
  | .launch _ => none
  | .nrec _ => none
  | .dsig => none
  | .dpub _ => none
  | .qenq _ _ _ => none
  | .qdeq a _ _ => if decide (a = 0#8 ∨ a.toNat % 4 ≤ 1) then none else some .illegalFormat
  | .qpoll _ => none
  | .qmake _ => none
  | .qkill _ => none
  | .frmput _ => none
  | .frmclose _ _ => none
  | .trap _ => none
  | .mode _ _ m => if decide (m.toNat ≤ 2) then none else some .illegalFormat
  | .clk _ _ m => if decide (m.toNat ≤ 2) then none else some .illegalFormat
  | .evt _ => none
  | .brk _ => none
  | .sregr _ _ => none
  | .sregw _ => none
  | .tokenArrival _ _ _ => none
  | .discardNotice _ _ _ _ _ _ => none
  | .sendAck _ _ => none
  | .departCommandArrival _ _ _ _ _ => none
  | .departureTimerExpiry _ => none
  | .trainDeparture _ => none
  | .trainEnd _ _ => none
  | .lateValueLands _ => none
  | .recipeReplay _ => none
  | .freeCompletion _ _ => none
  | .compaction _ _ => none
  | .storeDrain _ => none
  | .translationWalk _ => none
  | .pageResponse _ _ => none
  | .pageRequestTimeout _ => none
  | .tlbinv _ _ => none
  | .tlbInvalidationComplete _ => none
  | .prqctlWrite _ _ => none
  | .partitionRegisterWrite _ _ _ => none
  | .sslenWrite _ _ => none
  | .hostDoorbell _ _ _ => none
  | .launchAdmit _ => none
  | .gridWordRead _ _ => none
  | .launchPlacement _ _ => none
  | .launchStall _ _ => none
  | .launchCompletion _ _ => none
  | .noticeHeadWrite _ _ => none
  | .sidingReplay _ _ _ => none
  | .yardRecordArrival _ _ => none
  | .yardTimerExpiry _ _ => none
  | .teamPlacement _ _ => none
  | .endLaunch _ _ => none
  | .faultedLaunchAutoend _ _ => none
  | .preempt _ => none
  | .restore _ => none
  | .halt _ => none
  | .resume _ => none
  | .drainlimExpiry _ => none
  | .saveStart _ => none
  | .saveComplete _ => none
  | .loadComplete _ => none
  | .haltQuiesced _ => none
  | .timetableStep _ => none
  | .superstepBoundary _ => none
  | .timetableFreeze _ => none
  | .timetableHalt _ => none
  | .copyCompletion _ _ => none
  | .ringSpaceRetry _ _ _ => none
  | .barrierUpdate _ => none
  | .freedSlotNotice _ _ => none
  | .tallocGrant _ => none
  | .tileSealComplete _ => none
  | .tfreeComplete _ => none
  | .mctxClaim _ _ => none
  | .mctxRelease _ _ => none
  | .mtxTileStep _ => none
  | .bankOperationComplete _ _ => none
  | .fabCardBind _ => none
  | .fabUnitFire _ _ _ => none
  | .fabSourceToken _ _ _ => none
  | .fabSinkCommit _ _ _ => none
  | .fabReplay _ _ => none
  | .fabJobComplete _ _ => none
  | .queueEntryArrival _ _ => none
  | .queueRefusal _ _ _ => none
  | .queueAck _ _ => none
  | .queueSidingRetry _ _ => none
  | .queueCycleScan => none
  | .frameFillTimer _ _ => none
  | .frameSend _ _ => none
  | .rowFrameArrival _ _ _ _ _ => none
  | .creditGrant _ _ _ => none
  | .remoteMemoryRequest _ _ _ _ => none
  | .remoteMemoryResponse _ _ _ => none
  | .routeChange _ _ _ _ => none
  | .flitRetransmit _ => none
  | .featacceptWrite _ => none
  | .msixIntervalExpiry _ => none
  | .mgmtPhysicalAccess _ _ _ _ _ => none
  | .mgmtRegisterAccess _ _ _ => none
  | .mgmtObjectAccess _ _ _ _ _ => none
  | .mgmtFutViewAccess _ _ _ _ _ => none
  | .mgmtAsidEntryAccess _ _ _ _ _ => none
  | .powerUp => none
  | .endpointReset => none
  | .setDomain _ _ _ => none
  | .setPartition _ _ => none
  | .setPriv _ _ => none
  | .setPowerCap _ => none
  | .moduleReset => none
  | .activateVersion => none
  | .getErrorLog => none
  | .getRouteTable => none
  | .pldmSensorRead _ => none
  | .firmwareUpdate _ => none
  | .getVersion => none
  | .getCapabilities => none
  | .negotiateAlgorithms _ => none
  | .getDigests => none
  | .getCertificate _ _ => none
  | .challenge _ => none
  | .getMeasurements _ => none
  | .powerCapThrottle => none
  | .thermalThrottle _ => none
  | .thermalHalt _ => none
  | .patrolScrub _ => none
  | .controlStateError _ _ _ => none
  | .throttleRelease => none
  | .configurationRequest _ _ _ => none
  | .flitForward _ _ => none
  | .statusWrite _ => none
  | .mstatWrite _ => none
  | .pldmBaseDiscovery _ => none
  | .waitGraphEdgeExchange _ => none
  | .flushComplete _ _ => none

/-- R51: the target bytes of an instruction name a slot or nothing. -/
def Instr.targetsOk : Instr → Bool
  | .iadd a b _ _ => targetOk a && targetOk b
  | .isub a b _ _ => targetOk a && targetOk b
  | .imul a b _ _ => targetOk a && targetOk b
  | .imulh a b _ => targetOk a && targetOk b
  | .imad a b _ _ => targetOk a && targetOk b
  | .imin a b _ => targetOk a && targetOk b
  | .imax a b _ => targetOk a && targetOk b
  | .iabs a b _ _ => targetOk a && targetOk b
  | .ineg a b _ _ => targetOk a && targetOk b
  | .iand a b _ => targetOk a && targetOk b
  | .ior a b _ => targetOk a && targetOk b
  | .ixor a b _ => targetOk a && targetOk b
  | .andn a b _ => targetOk a && targetOk b
  | .inot a b _ => targetOk a && targetOk b
  | .shl a b _ => targetOk a && targetOk b
  | .shr a b _ => targetOk a && targetOk b
  | .sar a b _ => targetOk a && targetOk b
  | .rot a b _ => targetOk a && targetOk b
  | .bfx a b _ => targetOk a && targetOk b
  | .bfi a b _ => targetOk a && targetOk b
  | .popc a b _ => targetOk a && targetOk b
  | .clz a b _ => targetOk a && targetOk b
  | .brev a b _ => targetOk a && targetOk b
  | .icmp a b _ _ => targetOk a && targetOk b
  | .sel a b _ => targetOk a && targetOk b
  | .mov a b => targetOk a && targetOk b
  | .addx a b _ _ => targetOk a && targetOk b
  | .const a _ => targetOk a
  | .consh a _ => targetOk a
  | .consw a _ => targetOk a
  | .iaddi a _ => targetOk a
  | .iaddPred a b _ _ => targetOk a && targetOk b
  | .isubPred a b _ _ => targetOk a && targetOk b
  | .imulPred a b _ _ => targetOk a && targetOk b
  | .imulhPred a b _ => targetOk a && targetOk b
  | .imadPred a b _ _ => targetOk a && targetOk b
  | .iminPred a b _ => targetOk a && targetOk b
  | .imaxPred a b _ => targetOk a && targetOk b
  | .iabsPred a b _ _ => targetOk a && targetOk b
  | .inegPred a b _ _ => targetOk a && targetOk b
  | .iandPred a b _ => targetOk a && targetOk b
  | .iorPred a b _ => targetOk a && targetOk b
  | .ixorPred a b _ => targetOk a && targetOk b
  | .andnPred a b _ => targetOk a && targetOk b
  | .inotPred a b _ => targetOk a && targetOk b
  | .shlPred a b _ => targetOk a && targetOk b
  | .shrPred a b _ => targetOk a && targetOk b
  | .sarPred a b _ => targetOk a && targetOk b
  | .rotPred a b _ => targetOk a && targetOk b
  | .bfxPred a b _ => targetOk a && targetOk b
  | .bfiPred a b _ => targetOk a && targetOk b
  | .popcPred a b _ => targetOk a && targetOk b
  | .clzPred a b _ => targetOk a && targetOk b
  | .brevPred a b _ => targetOk a && targetOk b
  | .icmpPred a b _ _ => targetOk a && targetOk b
  | .movPred a b => targetOk a && targetOk b
  | .addxPred a b _ _ => targetOk a && targetOk b
  | .constPred a _ => targetOk a
  | .conshPred a _ => targetOk a
  | .conswPred a _ => targetOk a
  | .iaddiPred a _ => targetOk a
  | .fadd a b _ _ => targetOk a && targetOk b
  | .fsub a b _ _ => targetOk a && targetOk b
  | .fmul a b _ _ => targetOk a && targetOk b
  | .ffma a b _ _ => targetOk a && targetOk b
  | .fmin a b _ _ => targetOk a && targetOk b
  | .fmax a b _ _ => targetOk a && targetOk b
  | .fabs a b _ _ => targetOk a && targetOk b
  | .fneg a b _ _ => targetOk a && targetOk b
  | .fcmp a b _ _ _ => targetOk a && targetOk b
  | .fclass a b _ _ => targetOk a && targetOk b
  | .fdot2 a b _ _ => targetOk a && targetOk b
  | .fdot4 a b _ _ => targetOk a && targetOk b
  | .faddPred a b _ _ => targetOk a && targetOk b
  | .fsubPred a b _ _ => targetOk a && targetOk b
  | .fmulPred a b _ _ => targetOk a && targetOk b
  | .ffmaPred a b _ _ => targetOk a && targetOk b
  | .fminPred a b _ _ => targetOk a && targetOk b
  | .fmaxPred a b _ _ => targetOk a && targetOk b
  | .fabsPred a b _ _ => targetOk a && targetOk b
  | .fnegPred a b _ _ => targetOk a && targetOk b
  | .fcmpPred a b _ _ _ => targetOk a && targetOk b
  | .fclassPred a b _ _ => targetOk a && targetOk b
  | .fdot2Pred a b _ _ => targetOk a && targetOk b
  | .fdot4Pred a b _ _ => targetOk a && targetOk b
  | .frcp a b _ => targetOk a && targetOk b
  | .frsq a b _ => targetOk a && targetOk b
  | .fsqrt a b _ _ => targetOk a && targetOk b
  | .fdiv a b _ _ => targetOk a && targetOk b
  | .fexp2 a b _ => targetOk a && targetOk b
  | .flog2 a b _ => targetOk a && targetOk b
  | .fsin a b _ => targetOk a && targetOk b
  | .fcos a b _ => targetOk a && targetOk b
  | .ftanh a b _ => targetOk a && targetOk b
  | .frint a b _ _ => targetOk a && targetOk b
  | .cvt a b _ _ => targetOk a && targetOk b
  | .cvtsc a b _ _ _ => targetOk a && targetOk b
  | .idiv a b _ _ => targetOk a && targetOk b
  | .irem a b _ => targetOk a && targetOk b
  | .frcpPred a b _ => targetOk a && targetOk b
  | .frsqPred a b _ => targetOk a && targetOk b
  | .fsqrtPred a b _ _ => targetOk a && targetOk b
  | .fdivPred a b _ _ => targetOk a && targetOk b
  | .fexp2Pred a b _ => targetOk a && targetOk b
  | .flog2Pred a b _ => targetOk a && targetOk b
  | .fsinPred a b _ => targetOk a && targetOk b
  | .fcosPred a b _ => targetOk a && targetOk b
  | .ftanhPred a b _ => targetOk a && targetOk b
  | .frintPred a b _ _ => targetOk a && targetOk b
  | .cvtPred a b _ _ => targetOk a && targetOk b
  | .cvtscPred a b _ _ _ => targetOk a && targetOk b
  | .idivPred a b _ _ => targetOk a && targetOk b
  | .iremPred a b _ => targetOk a && targetOk b
  | .shfl a b _ => targetOk a && targetOk b
  | .shflx a b _ => targetOk a && targetOk b
  | .shflup a b _ => targetOk a && targetOk b
  | .shfldn a b _ => targetOk a && targetOk b
  | .bcast a b _ => targetOk a && targetOk b
  | .vote a b _ => targetOk a && targetOk b
  | .reduce a b _ _ _ _ => targetOk a && targetOk b
  | .scan a b _ _ _ _ _ => targetOk a && targetOk b
  | .xmatch a b _ => targetOk a && targetOk b
  | .seatid a b _ => targetOk a && targetOk b
  | .tagord a b _ => targetOk a && targetOk b
  | .send _ _ _ _ _ => true
  | .sendsel _ _ _ _ _ => true
  | .switch _ _ _ _ _ => true
  | .spawn _ _ _ _ _ => true
  | .ret _ _ _ => true
  | .free => true
  | .tag a b _ => targetOk a && targetOk b
  | .futld a _ _ _ _ _ => targetOk a
  | .futst _ _ _ _ => true
  | .yield _ => true
  | .trapset _ _ => true
  | .trapret _ => true
  | .depart _ => true
  | .gldx a b => targetOk a && targetOk b
  | .gstx => true
  | .gempty => true
  | .gtest a b => targetOk a && targetOk b
  | .rcpset a _ _ => targetOk a
  | .rcpdrop _ => true
  | .rcpclr _ => true
  | .ld a _ _ _ _ _ => targetOk a
  | .st _ _ _ _ => true
  | .lds a _ _ _ _ => targetOk a
  | .sts _ _ _ => true
  | .atom a _ _ _ _ _ => targetOk a
  | .atoms a _ _ _ _ _ => targetOk a
  | .cas a _ _ _ _ => targetOk a
  | .fence _ _ _ => true
  | .pref _ _ => true
  | .cflush _ => true
  | .cinv _ => true
  | .ldmx a _ _ _ _ => targetOk a
  | .stmx _ _ _ _ => true
  | .talloc a _ _ => targetOk a
  | .tst _ => true
  | .tseal => true
  | .tld a _ _ _ => targetOk a
  | .tabandon => true
  | .tfree => true
  | .tstat a => targetOk a
  | .tpart a _ => targetOk a
  | .cpy a => targetOk a
  | .cpys a => targetOk a
  | .cpyc => true
  | .bari => true
  | .bara => true
  | .barx => true
  | .barw a => targetOk a
  | .crpop a _ => targetOk a
  | .mma _ _ _ _ _ _ _ => true
  | .mmax _ _ _ _ => true
  | .mctx a _ _ => targetOk a
  | .mwait a _ _ => targetOk a
  | .accz _ _ => true
  | .accld _ _ _ => true
  | .accst _ _ _ _ _ => true
  | .accrd a _ _ => targetOk a
  | .bgemv a => targetOk a
  | .bred a => targetOk a
  | .bfence _ => true
  | .bwait a _ => targetOk a
  | .fjob a => targetOk a
  | .fwait a _ => targetOk a
  | .fcan => true
  | .fpush _ _ => true
  | .fpull a _ => targetOk a
  | .scfg => true
  | .sbind _ => true
  | .sgo _ => true
  | .sbar _ => true
  | .sdone => true
  | .sloop _ _ => true
  | .launch _ => true
  | .nrec _ => true
  | .dsig => true
  | .dpub _ => true
  | .qenq _ _ _ => true
  | .qdeq a _ _ => targetOk a
  | .qpoll a => targetOk a
  | .qmake a => targetOk a
  | .qkill a => targetOk a
  | .frmput _ => true
  | .frmclose _ _ => true
  | .trap _ => true
  | .mode a b _ => targetOk a && targetOk b
  | .clk a b _ => targetOk a && targetOk b
  | .evt _ => true
  | .brk _ => true
  | .sregr a _ => targetOk a
  | .sregw _ => true
  | .tokenArrival _ _ _ => true
  | .discardNotice _ _ _ _ _ _ => true
  | .sendAck _ _ => true
  | .departCommandArrival _ _ _ _ _ => true
  | .departureTimerExpiry _ => true
  | .trainDeparture _ => true
  | .trainEnd _ _ => true
  | .lateValueLands _ => true
  | .recipeReplay _ => true
  | .freeCompletion _ _ => true
  | .compaction _ _ => true
  | .storeDrain _ => true
  | .translationWalk _ => true
  | .pageResponse _ _ => true
  | .pageRequestTimeout _ => true
  | .tlbinv _ _ => true
  | .tlbInvalidationComplete _ => true
  | .prqctlWrite _ _ => true
  | .partitionRegisterWrite _ _ _ => true
  | .sslenWrite _ _ => true
  | .hostDoorbell _ _ _ => true
  | .launchAdmit _ => true
  | .gridWordRead _ _ => true
  | .launchPlacement _ _ => true
  | .launchStall _ _ => true
  | .launchCompletion _ _ => true
  | .noticeHeadWrite _ _ => true
  | .sidingReplay _ _ _ => true
  | .yardRecordArrival _ _ => true
  | .yardTimerExpiry _ _ => true
  | .teamPlacement _ _ => true
  | .endLaunch _ _ => true
  | .faultedLaunchAutoend _ _ => true
  | .preempt _ => true
  | .restore _ => true
  | .halt _ => true
  | .resume _ => true
  | .drainlimExpiry _ => true
  | .saveStart _ => true
  | .saveComplete _ => true
  | .loadComplete _ => true
  | .haltQuiesced _ => true
  | .timetableStep _ => true
  | .superstepBoundary _ => true
  | .timetableFreeze _ => true
  | .timetableHalt _ => true
  | .copyCompletion _ _ => true
  | .ringSpaceRetry _ _ _ => true
  | .barrierUpdate _ => true
  | .freedSlotNotice _ _ => true
  | .tallocGrant _ => true
  | .tileSealComplete _ => true
  | .tfreeComplete _ => true
  | .mctxClaim _ _ => true
  | .mctxRelease _ _ => true
  | .mtxTileStep _ => true
  | .bankOperationComplete _ _ => true
  | .fabCardBind _ => true
  | .fabUnitFire _ _ _ => true
  | .fabSourceToken _ _ _ => true
  | .fabSinkCommit _ _ _ => true
  | .fabReplay _ _ => true
  | .fabJobComplete _ _ => true
  | .queueEntryArrival _ _ => true
  | .queueRefusal _ _ _ => true
  | .queueAck _ _ => true
  | .queueSidingRetry _ _ => true
  | .queueCycleScan => true
  | .frameFillTimer _ _ => true
  | .frameSend _ _ => true
  | .rowFrameArrival _ _ _ _ _ => true
  | .creditGrant _ _ _ => true
  | .remoteMemoryRequest _ _ _ _ => true
  | .remoteMemoryResponse _ _ _ => true
  | .routeChange _ _ _ _ => true
  | .flitRetransmit _ => true
  | .featacceptWrite _ => true
  | .msixIntervalExpiry _ => true
  | .mgmtPhysicalAccess _ _ _ _ _ => true
  | .mgmtRegisterAccess _ _ _ => true
  | .mgmtObjectAccess _ _ _ _ _ => true
  | .mgmtFutViewAccess _ _ _ _ _ => true
  | .mgmtAsidEntryAccess _ _ _ _ _ => true
  | .powerUp => true
  | .endpointReset => true
  | .setDomain _ _ _ => true
  | .setPartition _ _ => true
  | .setPriv _ _ => true
  | .setPowerCap _ => true
  | .moduleReset => true
  | .activateVersion => true
  | .getErrorLog => true
  | .getRouteTable => true
  | .pldmSensorRead _ => true
  | .firmwareUpdate _ => true
  | .getVersion => true
  | .getCapabilities => true
  | .negotiateAlgorithms _ => true
  | .getDigests => true
  | .getCertificate _ _ => true
  | .challenge _ => true
  | .getMeasurements _ => true
  | .powerCapThrottle => true
  | .thermalThrottle _ => true
  | .thermalHalt _ => true
  | .patrolScrub _ => true
  | .controlStateError _ _ _ => true
  | .throttleRelease => true
  | .configurationRequest _ _ _ => true
  | .flitForward _ _ => true
  | .statusWrite _ => true
  | .mstatWrite _ => true
  | .pldmBaseDiscovery _ => true
  | .waitGraphEdgeExchange _ => true
  | .flushComplete _ _ => true

/-- An instruction that a word of the instruction set can hold: it has an encoding, its fields hold accepted values and its targets
are target bytes. -/
def WellFormed (i : Instr) : Prop := i.cls ≠ none ∧ i.fieldError = none ∧ i.targetsOk = true

/-- Whether an instruction is well-formed, computed. -/
def wellFormed (i : Instr) : Bool := i.cls.isSome && i.fieldError.isNone && i.targetsOk

end Sys2Proof
end

