-- ==== Sys2Proof/Decode.lean ====
section
/-!
DEFINITION. Decoding of instruction words by class (R56, R58 to R69, R405), rejecting by the fault name of R44, and the encoder.

A word does not hold its class: the clause header does (R56). `decodeWord` takes the class; `decodeTableWord` picks one (log 4).
-/
namespace Sys2Proof

/-- Bits [hi:lo] of a word. -/
def fld (w : IWord) (hi lo : Nat) : BitVec (hi + 1 - lo) := BitVec.ofNat (hi + 1 - lo) (w.toNat / 2 ^ lo)

/-- The fixed bit ranges of a word, each with its hi, lo and value, agree with a row's. -/
def fixedOk (w : IWord) : List (Nat × Nat × Nat) → Bool
  | [] => true
  | (hi, lo, v) :: fs => decide (w.toNat / 2 ^ lo % 2 ^ (hi + 1 - lo) = v) && fixedOk w fs

/-- A candidate instruction, accepted when its fixed bits agree and its fields hold accepted values (R66). The spec gives no order of codes for a
word with two violations: fixed bits come first, then a rounding field, then the other fields; targets and gated features come behind all of
them (DESIGN CHOICE, log 8). -/
def accept (w : IWord) (fixed : List (Nat × Nat × Nat)) (i : Instr) : Except DecodeError Instr :=
  if fixedOk w fixed then (match i.fieldError with | none => .ok i | some e => .error e) else .error .illegalFormat

/-- Class INT: the instruction of an opcode (R68). -/
def decodeInt (w : IWord) : Except DecodeError Instr :=
  match w.toNat / 2 ^ 24 with
  | 0x01 => accept w [(3, 0, 0x0)] (.iadd (fld w 23 16) (fld w 15 8) (fld w 7 5) (fld w 4 4))
  | 0x02 => accept w [(3, 0, 0x0)] (.isub (fld w 23 16) (fld w 15 8) (fld w 7 5) (fld w 4 4))
  | 0x03 => accept w [(3, 0, 0x0)] (.imul (fld w 23 16) (fld w 15 8) (fld w 7 5) (fld w 4 4))
  | 0x04 => accept w [(7, 7, 0x0), (4, 0, 0x0)] (.imulh (fld w 23 16) (fld w 15 8) (fld w 6 5))
  | 0x05 => accept w [(3, 0, 0x0)] (.imad (fld w 23 16) (fld w 15 8) (fld w 7 5) (fld w 4 4))
  | 0x06 => accept w [(4, 0, 0x0)] (.imin (fld w 23 16) (fld w 15 8) (fld w 7 5))
  | 0x07 => accept w [(4, 0, 0x0)] (.imax (fld w 23 16) (fld w 15 8) (fld w 7 5))
  | 0x08 => accept w [(5, 5, 0x0), (3, 0, 0x0)] (.iabs (fld w 23 16) (fld w 15 8) (fld w 7 6) (fld w 4 4))
  | 0x09 => accept w [(5, 5, 0x0), (3, 0, 0x0)] (.ineg (fld w 23 16) (fld w 15 8) (fld w 7 6) (fld w 4 4))
  | 0x0A => accept w [(7, 7, 0x0), (5, 0, 0x20)] (.iand (fld w 23 16) (fld w 15 8) (fld w 6 6))
  | 0x0B => accept w [(7, 7, 0x0), (5, 0, 0x20)] (.ior (fld w 23 16) (fld w 15 8) (fld w 6 6))
  | 0x0C => accept w [(7, 7, 0x0), (5, 0, 0x20)] (.ixor (fld w 23 16) (fld w 15 8) (fld w 6 6))
  | 0x0D => accept w [(7, 7, 0x0), (5, 0, 0x20)] (.andn (fld w 23 16) (fld w 15 8) (fld w 6 6))
  | 0x0E => accept w [(7, 7, 0x0), (5, 0, 0x20)] (.inot (fld w 23 16) (fld w 15 8) (fld w 6 6))
  | 0x0F => accept w [(5, 0, 0x20)] (.shl (fld w 23 16) (fld w 15 8) (fld w 7 6))
  | 0x10 => accept w [(5, 0, 0x20)] (.shr (fld w 23 16) (fld w 15 8) (fld w 7 6))
  | 0x11 => accept w [(5, 0, 0x0)] (.sar (fld w 23 16) (fld w 15 8) (fld w 7 6))
  | 0x12 => accept w [(5, 0, 0x20)] (.rot (fld w 23 16) (fld w 15 8) (fld w 7 6))
  | 0x13 => accept w [(7, 7, 0x0), (4, 0, 0x0)] (.bfx (fld w 23 16) (fld w 15 8) (fld w 6 5))
  | 0x14 => accept w [(7, 7, 0x0), (5, 0, 0x20)] (.bfi (fld w 23 16) (fld w 15 8) (fld w 6 6))
  | 0x15 => accept w [(7, 7, 0x0), (5, 0, 0x20)] (.popc (fld w 23 16) (fld w 15 8) (fld w 6 6))
  | 0x16 => accept w [(7, 7, 0x0), (5, 0, 0x20)] (.clz (fld w 23 16) (fld w 15 8) (fld w 6 6))
  | 0x17 => accept w [(7, 7, 0x0), (5, 0, 0x20)] (.brev (fld w 23 16) (fld w 15 8) (fld w 6 6))
  | 0x18 => accept w [(4, 4, 0x0)] (.icmp (fld w 23 16) (fld w 15 8) (fld w 7 5) (fld w 3 0))
  | 0x19 => accept w [(7, 7, 0x0), (4, 0, 0x0)] (.sel (fld w 23 16) (fld w 15 8) (fld w 6 5))
  | 0x1A => accept w [(7, 0, 0x60)] (.mov (fld w 23 16) (fld w 15 8))
  | 0x1B => accept w [(7, 7, 0x0), (4, 4, 0x0)] (.addx (fld w 23 16) (fld w 15 8) (fld w 6 5) (fld w 3 0))
  | 0x1C => accept w [] (.const (fld w 23 16) (fld w 15 0))
  | 0x1D => accept w [] (.consh (fld w 23 16) (fld w 15 0))
  | 0x1E => accept w [] (.consw (fld w 23 16) (fld w 15 0))
  | 0x1F => accept w [] (.iaddi (fld w 23 16) (fld w 15 0))
  | 0x81 => accept w [(3, 0, 0x0)] (.iaddPred (fld w 23 16) (fld w 15 8) (fld w 7 5) (fld w 4 4))
  | 0x82 => accept w [(3, 0, 0x0)] (.isubPred (fld w 23 16) (fld w 15 8) (fld w 7 5) (fld w 4 4))
  | 0x83 => accept w [(3, 0, 0x0)] (.imulPred (fld w 23 16) (fld w 15 8) (fld w 7 5) (fld w 4 4))
  | 0x84 => accept w [(7, 7, 0x0), (4, 0, 0x0)] (.imulhPred (fld w 23 16) (fld w 15 8) (fld w 6 5))
  | 0x85 => accept w [(3, 0, 0x0)] (.imadPred (fld w 23 16) (fld w 15 8) (fld w 7 5) (fld w 4 4))
  | 0x86 => accept w [(4, 0, 0x0)] (.iminPred (fld w 23 16) (fld w 15 8) (fld w 7 5))
  | 0x87 => accept w [(4, 0, 0x0)] (.imaxPred (fld w 23 16) (fld w 15 8) (fld w 7 5))
  | 0x88 => accept w [(5, 5, 0x0), (3, 0, 0x0)] (.iabsPred (fld w 23 16) (fld w 15 8) (fld w 7 6) (fld w 4 4))
  | 0x89 => accept w [(5, 5, 0x0), (3, 0, 0x0)] (.inegPred (fld w 23 16) (fld w 15 8) (fld w 7 6) (fld w 4 4))
  | 0x8A => accept w [(7, 7, 0x0), (5, 0, 0x20)] (.iandPred (fld w 23 16) (fld w 15 8) (fld w 6 6))
  | 0x8B => accept w [(7, 7, 0x0), (5, 0, 0x20)] (.iorPred (fld w 23 16) (fld w 15 8) (fld w 6 6))
  | 0x8C => accept w [(7, 7, 0x0), (5, 0, 0x20)] (.ixorPred (fld w 23 16) (fld w 15 8) (fld w 6 6))
  | 0x8D => accept w [(7, 7, 0x0), (5, 0, 0x20)] (.andnPred (fld w 23 16) (fld w 15 8) (fld w 6 6))
  | 0x8E => accept w [(7, 7, 0x0), (5, 0, 0x20)] (.inotPred (fld w 23 16) (fld w 15 8) (fld w 6 6))
  | 0x8F => accept w [(5, 0, 0x20)] (.shlPred (fld w 23 16) (fld w 15 8) (fld w 7 6))
  | 0x90 => accept w [(5, 0, 0x20)] (.shrPred (fld w 23 16) (fld w 15 8) (fld w 7 6))
  | 0x91 => accept w [(5, 0, 0x0)] (.sarPred (fld w 23 16) (fld w 15 8) (fld w 7 6))
  | 0x92 => accept w [(5, 0, 0x20)] (.rotPred (fld w 23 16) (fld w 15 8) (fld w 7 6))
  | 0x93 => accept w [(7, 7, 0x0), (4, 0, 0x0)] (.bfxPred (fld w 23 16) (fld w 15 8) (fld w 6 5))
  | 0x94 => accept w [(7, 7, 0x0), (5, 0, 0x20)] (.bfiPred (fld w 23 16) (fld w 15 8) (fld w 6 6))
  | 0x95 => accept w [(7, 7, 0x0), (5, 0, 0x20)] (.popcPred (fld w 23 16) (fld w 15 8) (fld w 6 6))
  | 0x96 => accept w [(7, 7, 0x0), (5, 0, 0x20)] (.clzPred (fld w 23 16) (fld w 15 8) (fld w 6 6))
  | 0x97 => accept w [(7, 7, 0x0), (5, 0, 0x20)] (.brevPred (fld w 23 16) (fld w 15 8) (fld w 6 6))
  | 0x98 => accept w [(4, 4, 0x0)] (.icmpPred (fld w 23 16) (fld w 15 8) (fld w 7 5) (fld w 3 0))
  | 0x9A => accept w [(7, 0, 0x60)] (.movPred (fld w 23 16) (fld w 15 8))
  | 0x9B => accept w [(7, 7, 0x0), (4, 4, 0x0)] (.addxPred (fld w 23 16) (fld w 15 8) (fld w 6 5) (fld w 3 0))
  | 0x9C => accept w [] (.constPred (fld w 23 16) (fld w 15 0))
  | 0x9D => accept w [] (.conshPred (fld w 23 16) (fld w 15 0))
  | 0x9E => accept w [] (.conswPred (fld w 23 16) (fld w 15 0))
  | 0x9F => accept w [] (.iaddiPred (fld w 23 16) (fld w 15 0))
  | _ => .error .illegalOpcode

/-- Class FLT: the instruction of an opcode (R68). -/
def decodeFlt (w : IWord) : Except DecodeError Instr :=
  match w.toNat / 2 ^ 24 with
  | 0x01 => accept w [(2, 0, 0x0)] (.fadd (fld w 23 16) (fld w 15 8) (fld w 7 5) (fld w 4 3))
  | 0x02 => accept w [(2, 0, 0x0)] (.fsub (fld w 23 16) (fld w 15 8) (fld w 7 5) (fld w 4 3))
  | 0x03 => accept w [(2, 0, 0x0)] (.fmul (fld w 23 16) (fld w 15 8) (fld w 7 5) (fld w 4 3))
  | 0x04 => accept w [(2, 0, 0x0)] (.ffma (fld w 23 16) (fld w 15 8) (fld w 7 5) (fld w 4 3))
  | 0x05 => accept w [(2, 0, 0x0)] (.fmin (fld w 23 16) (fld w 15 8) (fld w 7 5) (fld w 4 3))
  | 0x06 => accept w [(2, 0, 0x0)] (.fmax (fld w 23 16) (fld w 15 8) (fld w 7 5) (fld w 4 3))
  | 0x07 => accept w [(2, 0, 0x0)] (.fabs (fld w 23 16) (fld w 15 8) (fld w 7 5) (fld w 4 3))
  | 0x08 => accept w [(2, 0, 0x0)] (.fneg (fld w 23 16) (fld w 15 8) (fld w 7 5) (fld w 4 3))
  | 0x09 => accept w [] (.fcmp (fld w 23 16) (fld w 15 8) (fld w 7 5) (fld w 4 3) (fld w 2 0))
  | 0x0A => accept w [(2, 0, 0x0)] (.fclass (fld w 23 16) (fld w 15 8) (fld w 7 5) (fld w 4 3))
  | 0x0B => accept w [(4, 4, 0x1), (2, 0, 0x0)] (.fdot2 (fld w 23 16) (fld w 15 8) (fld w 7 5) (fld w 3 3))
  | 0x0C => accept w [(4, 2, 0x0)] (.fdot4 (fld w 23 16) (fld w 15 8) (fld w 7 5) (fld w 1 0))
  | 0x81 => accept w [(2, 0, 0x0)] (.faddPred (fld w 23 16) (fld w 15 8) (fld w 7 5) (fld w 4 3))
  | 0x82 => accept w [(2, 0, 0x0)] (.fsubPred (fld w 23 16) (fld w 15 8) (fld w 7 5) (fld w 4 3))
  | 0x83 => accept w [(2, 0, 0x0)] (.fmulPred (fld w 23 16) (fld w 15 8) (fld w 7 5) (fld w 4 3))
  | 0x84 => accept w [(2, 0, 0x0)] (.ffmaPred (fld w 23 16) (fld w 15 8) (fld w 7 5) (fld w 4 3))
  | 0x85 => accept w [(2, 0, 0x0)] (.fminPred (fld w 23 16) (fld w 15 8) (fld w 7 5) (fld w 4 3))
  | 0x86 => accept w [(2, 0, 0x0)] (.fmaxPred (fld w 23 16) (fld w 15 8) (fld w 7 5) (fld w 4 3))
  | 0x87 => accept w [(2, 0, 0x0)] (.fabsPred (fld w 23 16) (fld w 15 8) (fld w 7 5) (fld w 4 3))
  | 0x88 => accept w [(2, 0, 0x0)] (.fnegPred (fld w 23 16) (fld w 15 8) (fld w 7 5) (fld w 4 3))
  | 0x89 => accept w [] (.fcmpPred (fld w 23 16) (fld w 15 8) (fld w 7 5) (fld w 4 3) (fld w 2 0))
  | 0x8A => accept w [(2, 0, 0x0)] (.fclassPred (fld w 23 16) (fld w 15 8) (fld w 7 5) (fld w 4 3))
  | 0x8B => accept w [(4, 4, 0x1), (2, 0, 0x0)] (.fdot2Pred (fld w 23 16) (fld w 15 8) (fld w 7 5) (fld w 3 3))
  | 0x8C => accept w [(4, 2, 0x0)] (.fdot4Pred (fld w 23 16) (fld w 15 8) (fld w 7 5) (fld w 1 0))
  | _ => .error .illegalOpcode

/-- Class SFN: the instruction of an opcode (R68). -/
def decodeSfn (w : IWord) : Except DecodeError Instr :=
  match w.toNat / 2 ^ 24 with
  | 0x01 => accept w [(4, 0, 0x0)] (.frcp (fld w 23 16) (fld w 15 8) (fld w 7 5))
  | 0x02 => accept w [(4, 0, 0x0)] (.frsq (fld w 23 16) (fld w 15 8) (fld w 7 5))
  | 0x03 => accept w [(4, 4, 0x0), (2, 0, 0x0)] (.fsqrt (fld w 23 16) (fld w 15 8) (fld w 7 5) (fld w 3 3))
  | 0x04 => accept w [(4, 4, 0x0), (2, 0, 0x0)] (.fdiv (fld w 23 16) (fld w 15 8) (fld w 7 5) (fld w 3 3))
  | 0x05 => accept w [(4, 0, 0x0)] (.fexp2 (fld w 23 16) (fld w 15 8) (fld w 7 5))
  | 0x06 => accept w [(4, 0, 0x0)] (.flog2 (fld w 23 16) (fld w 15 8) (fld w 7 5))
  | 0x07 => accept w [(4, 0, 0x0)] (.fsin (fld w 23 16) (fld w 15 8) (fld w 7 5))
  | 0x08 => accept w [(4, 0, 0x0)] (.fcos (fld w 23 16) (fld w 15 8) (fld w 7 5))
  | 0x09 => accept w [(4, 0, 0x0)] (.ftanh (fld w 23 16) (fld w 15 8) (fld w 7 5))
  | 0x0A => accept w [(2, 0, 0x0)] (.frint (fld w 23 16) (fld w 15 8) (fld w 7 5) (fld w 4 3))
  | 0x0B => accept w [] (.cvt (fld w 23 16) (fld w 15 8) (fld w 7 5) (fld w 4 0))
  | 0x0C => accept w [] (.cvtsc (fld w 23 16) (fld w 15 8) (fld w 7 5) (fld w 4 2) (fld w 1 0))
  | 0x0D => accept w [(7, 7, 0x0), (3, 0, 0x0)] (.idiv (fld w 23 16) (fld w 15 8) (fld w 6 5) (fld w 4 4))
  | 0x0E => accept w [(7, 7, 0x0), (4, 0, 0x0)] (.irem (fld w 23 16) (fld w 15 8) (fld w 6 5))
  | 0x81 => accept w [(4, 0, 0x0)] (.frcpPred (fld w 23 16) (fld w 15 8) (fld w 7 5))
  | 0x82 => accept w [(4, 0, 0x0)] (.frsqPred (fld w 23 16) (fld w 15 8) (fld w 7 5))
  | 0x83 => accept w [(4, 4, 0x0), (2, 0, 0x0)] (.fsqrtPred (fld w 23 16) (fld w 15 8) (fld w 7 5) (fld w 3 3))
  | 0x84 => accept w [(4, 4, 0x0), (2, 0, 0x0)] (.fdivPred (fld w 23 16) (fld w 15 8) (fld w 7 5) (fld w 3 3))
  | 0x85 => accept w [(4, 0, 0x0)] (.fexp2Pred (fld w 23 16) (fld w 15 8) (fld w 7 5))
  | 0x86 => accept w [(4, 0, 0x0)] (.flog2Pred (fld w 23 16) (fld w 15 8) (fld w 7 5))
  | 0x87 => accept w [(4, 0, 0x0)] (.fsinPred (fld w 23 16) (fld w 15 8) (fld w 7 5))
  | 0x88 => accept w [(4, 0, 0x0)] (.fcosPred (fld w 23 16) (fld w 15 8) (fld w 7 5))
  | 0x89 => accept w [(4, 0, 0x0)] (.ftanhPred (fld w 23 16) (fld w 15 8) (fld w 7 5))
  | 0x8A => accept w [(2, 0, 0x0)] (.frintPred (fld w 23 16) (fld w 15 8) (fld w 7 5) (fld w 4 3))
  | 0x8B => accept w [] (.cvtPred (fld w 23 16) (fld w 15 8) (fld w 7 5) (fld w 4 0))
  | 0x8C => accept w [] (.cvtscPred (fld w 23 16) (fld w 15 8) (fld w 7 5) (fld w 4 2) (fld w 1 0))
  | 0x8D => accept w [(7, 7, 0x0), (3, 0, 0x0)] (.idivPred (fld w 23 16) (fld w 15 8) (fld w 6 5) (fld w 4 4))
  | 0x8E => accept w [(7, 7, 0x0), (4, 0, 0x0)] (.iremPred (fld w 23 16) (fld w 15 8) (fld w 6 5))
  | _ => .error .illegalOpcode

/-- Class XLN: the instruction of an opcode (R68). -/
def decodeXln (w : IWord) : Except DecodeError Instr :=
  match w.toNat / 2 ^ 24 with
  | 0x01 => accept w [(5, 0, 0x0)] (.shfl (fld w 23 16) (fld w 15 8) (fld w 7 6))
  | 0x02 => accept w [(5, 0, 0x0)] (.shflx (fld w 23 16) (fld w 15 8) (fld w 7 6))
  | 0x03 => accept w [(5, 0, 0x0)] (.shflup (fld w 23 16) (fld w 15 8) (fld w 7 6))
  | 0x04 => accept w [(5, 0, 0x0)] (.shfldn (fld w 23 16) (fld w 15 8) (fld w 7 6))
  | 0x05 => accept w [(5, 0, 0x0)] (.bcast (fld w 23 16) (fld w 15 8) (fld w 7 6))
  | 0x06 => accept w [(5, 0, 0x0)] (.vote (fld w 23 16) (fld w 15 8) (fld w 7 6))
  | 0x07 => accept w [(0, 0, 0x0)] (.reduce (fld w 23 16) (fld w 15 8) (fld w 7 5) (fld w 4 3) (fld w 2 2) (fld w 1 1))
  | 0x08 => accept w [] (.scan (fld w 23 16) (fld w 15 8) (fld w 7 5) (fld w 4 3) (fld w 2 2) (fld w 1 1) (fld w 0 0))
  | 0x09 => accept w [(5, 0, 0x0)] (.xmatch (fld w 23 16) (fld w 15 8) (fld w 7 6))
  | 0x0A => accept w [(7, 3, 0x0)] (.seatid (fld w 23 16) (fld w 15 8) (fld w 2 0))
  | 0x0B => accept w [(7, 1, 0x0)] (.tagord (fld w 23 16) (fld w 15 8) (fld w 0 0))
  | _ => .error .illegalOpcode

/-- Class FIRE: the instruction of an opcode (R68). -/
def decodeFire (w : IWord) : Except DecodeError Instr :=
  match w.toNat / 2 ^ 24 with
  | 0x01 => accept w [] (.send (fld w 23 12) (fld w 11 9) (fld w 8 8) (fld w 7 6) (fld w 5 0))
  | 0x02 => accept w [] (.sendsel (fld w 23 12) (fld w 11 9) (fld w 8 8) (fld w 7 6) (fld w 5 0))
  | 0x03 => accept w [] (.switch (fld w 23 12) (fld w 11 9) (fld w 8 8) (fld w 7 6) (fld w 5 0))
  | 0x04 => accept w [(5, 5, 0x0)] (.spawn (fld w 23 12) (fld w 11 9) (fld w 8 8) (fld w 7 6) (fld w 4 0))
  | 0x05 => accept w [(23, 12, 0x0), (8, 8, 0x0), (5, 1, 0x0)] (.ret (fld w 11 9) (fld w 7 6) (fld w 0 0))
  | 0x06 => accept w [(23, 0, 0x0)] .free
  | 0x07 => accept w [(7, 3, 0x0)] (.tag (fld w 23 16) (fld w 15 8) (fld w 2 0))
  | 0x08 => accept w [(15, 11, 0xC), (4, 2, 0x0)] (.futld (fld w 23 16) (fld w 10 10) (fld w 9 7) (fld w 6 5) (fld w 1 1) (fld w 0 0))
  | 0x09 => accept w [(23, 12, 0x6), (10, 10, 0x0), (4, 1, 0x0)] (.futst (fld w 11 11) (fld w 9 7) (fld w 6 5) (fld w 0 0))
  | 0x0A => accept w [(23, 1, 0x0)] (.yield (fld w 0 0))
  | 0x0B => accept w [(11, 1, 0x0)] (.trapset (fld w 23 12) (fld w 0 0))
  | 0x0C => accept w [(23, 2, 0x0)] (.trapret (fld w 1 0))
  | 0x0D => accept w [(23, 1, 0x0)] (.depart (fld w 0 0))
  | _ => .error .illegalOpcode

/-- Class CARRY: the instruction of an opcode (R68). -/
def decodeCarry (w : IWord) : Except DecodeError Instr :=
  match w.toNat / 2 ^ 24 with
  | 0x01 => accept w [(7, 0, 0x0)] (.gldx (fld w 23 16) (fld w 15 8))
  | 0x02 => accept w [(23, 0, 0x0)] .gstx
  | 0x03 => accept w [(23, 0, 0x0)] .gempty
  | 0x04 => accept w [(7, 0, 0x0)] (.gtest (fld w 23 16) (fld w 15 8))
  | 0x05 => accept w [(7, 7, 0x0)] (.rcpset (fld w 23 16) (fld w 15 8) (fld w 6 0))
  | 0x06 => accept w [(23, 7, 0x0)] (.rcpdrop (fld w 6 0))
  | 0x07 => accept w [(23, 7, 0x0)] (.rcpclr (fld w 6 0))
  | _ => .error .illegalOpcode

/-- Class MEM: the instruction of an opcode (R68). -/
def decodeMem (w : IWord) : Except DecodeError Instr :=
  match w.toNat / 2 ^ 24 with
  | 0x01 => accept w [(12, 11, 0x0), (4, 4, 0x0), (2, 0, 0x0)] (.ld (fld w 23 16) (fld w 15 13) (fld w 10 10) (fld w 9 7) (fld w 6 5) (fld w 3 3))
  | 0x02 => accept w [(23, 16, 0x0), (12, 12, 0x0), (10, 10, 0x0), (4, 0, 0x0)] (.st (fld w 15 13) (fld w 11 11) (fld w 9 7) (fld w 6 5))
  | 0x03 => accept w [(12, 11, 0x0), (6, 4, 0x0), (2, 0, 0x0)] (.lds (fld w 23 16) (fld w 15 13) (fld w 10 10) (fld w 9 7) (fld w 3 3))
  | 0x04 => accept w [(23, 16, 0x0), (12, 12, 0x0), (10, 10, 0x0), (6, 0, 0x0)] (.sts (fld w 15 13) (fld w 11 11) (fld w 9 7))
  | 0x05 => accept w [(15, 14, 0x1), (6, 4, 0x0)] (.atom (fld w 23 16) (fld w 13 13) (fld w 12 10) (fld w 9 7) (fld w 3 3) (fld w 2 0))
  | 0x06 => accept w [(15, 14, 0x1), (6, 4, 0x0)] (.atoms (fld w 23 16) (fld w 13 13) (fld w 12 10) (fld w 9 7) (fld w 3 3) (fld w 2 0))
  | 0x07 => accept w [(15, 14, 0x1), (6, 4, 0x0), (2, 0, 0x0)] (.cas (fld w 23 16) (fld w 13 13) (fld w 12 10) (fld w 9 7) (fld w 3 3))
  | 0x08 => accept w [(23, 16, 0x0), (0, 0, 0x0)] (.fence (fld w 15 13) (fld w 12 7) (fld w 6 1))
  | 0x09 => accept w [(23, 7, 0x0), (4, 4, 0x0)] (.pref (fld w 6 5) (fld w 3 0))
  | 0x0A => accept w [(23, 1, 0x0)] (.cflush (fld w 0 0))
  | 0x0B => accept w [(23, 1, 0x0)] (.cinv (fld w 0 0))
  | 0x0C => accept w [(15, 11, 0x0), (4, 3, 0x0)] (.ldmx (fld w 23 16) (fld w 10 10) (fld w 9 7) (fld w 6 5) (fld w 2 0))
  | 0x0D => accept w [(23, 12, 0x0), (10, 10, 0x0), (4, 3, 0x0)] (.stmx (fld w 11 11) (fld w 9 7) (fld w 6 5) (fld w 2 0))
  | _ => .error .illegalOpcode

/-- Class TILE: the instruction of an opcode (R68). -/
def decodeTile (w : IWord) : Except DecodeError Instr :=
  match w.toNat / 2 ^ 24 with
  | 0x01 => accept w [(7, 3, 0x0)] (.talloc (fld w 23 16) (fld w 15 8) (fld w 2 0))
  | 0x02 => accept w [(23, 3, 0x0)] (.tst (fld w 2 0))
  | 0x03 => accept w [(23, 0, 0x0)] .tseal
  | 0x04 => accept w [(15, 5, 0x0)] (.tld (fld w 23 16) (fld w 4 4) (fld w 3 3) (fld w 2 0))
  | 0x05 => accept w [(23, 0, 0x0)] .tabandon
  | 0x06 => accept w [(23, 0, 0x0)] .tfree
  | 0x07 => accept w [(15, 0, 0x0)] (.tstat (fld w 23 16))
  | 0x08 => accept w [(15, 3, 0x0)] (.tpart (fld w 23 16) (fld w 2 0))
  | _ => .error .illegalOpcode

/-- Class COPY: the instruction of an opcode (R68). -/
def decodeCopy (w : IWord) : Except DecodeError Instr :=
  match w.toNat / 2 ^ 24 with
  | 0x01 => accept w [(15, 0, 0x0)] (.cpy (fld w 23 16))
  | 0x02 => accept w [(15, 0, 0x0)] (.cpys (fld w 23 16))
  | 0x03 => accept w [(23, 0, 0x0)] .cpyc
  | 0x04 => accept w [(23, 0, 0x0)] .bari
  | 0x05 => accept w [(23, 0, 0x0)] .bara
  | 0x06 => accept w [(23, 0, 0x0)] .barx
  | 0x07 => accept w [(15, 0, 0x0)] (.barw (fld w 23 16))
  | 0x08 => accept w [(15, 2, 0x0)] (.crpop (fld w 23 16) (fld w 1 0))
  | _ => .error .illegalOpcode

/-- Class MTX: the instruction of an opcode (R68). -/
def decodeMtx (w : IWord) : Except DecodeError Instr :=
  match w.toNat / 2 ^ 24 with
  | 0x01 => accept w [(23, 16, 0x0), (1, 0, 0x0)] (.mma (fld w 15 12) (fld w 11 8) (fld w 7 6) (fld w 5 5) (fld w 4 4) (fld w 3 3) (fld w 2 2))
  | 0x02 => accept w [(23, 16, 0x0), (7, 0, 0x0)] (.mmax (fld w 15 13) (fld w 12 10) (fld w 9 9) (fld w 8 8))
  | 0x03 => accept w [(15, 5, 0x0), (3, 2, 0x0)] (.mctx (fld w 23 16) (fld w 4 4) (fld w 1 0))
  | 0x04 => accept w [(15, 5, 0x0), (3, 1, 0x0)] (.mwait (fld w 23 16) (fld w 4 4) (fld w 0 0))
  | 0x05 => accept w [(23, 5, 0x0), (2, 0, 0x0)] (.accz (fld w 4 4) (fld w 3 3))
  | 0x06 => accept w [(23, 8, 0x0), (5, 5, 0x0), (2, 0, 0x0)] (.accld (fld w 7 6) (fld w 4 4) (fld w 3 3))
  | 0x07 => accept w [(23, 16, 0x0), (9, 8, 0x0), (5, 5, 0x0), (2, 0, 0x0)] (.accst (fld w 15 13) (fld w 12 10) (fld w 7 6) (fld w 4 4) (fld w 3 3))
  | 0x08 => accept w [(15, 5, 0x0), (2, 0, 0x0)] (.accrd (fld w 23 16) (fld w 4 4) (fld w 3 3))
  | _ => .error .illegalOpcode

/-- Class BANK: the instruction of an opcode (R68). -/
def decodeBank (w : IWord) : Except DecodeError Instr :=
  match w.toNat / 2 ^ 24 with
  | 0x01 => accept w [(15, 0, 0x0)] (.bgemv (fld w 23 16))
  | 0x02 => accept w [(15, 0, 0x0)] (.bred (fld w 23 16))
  | 0x03 => accept w [(23, 16, 0x0), (12, 0, 0x0)] (.bfence (fld w 15 13))
  | 0x04 => accept w [(15, 1, 0x0)] (.bwait (fld w 23 16) (fld w 0 0))
  | _ => .error .illegalOpcode

/-- Class FAB: the instruction of an opcode (R68). -/
def decodeFab (w : IWord) : Except DecodeError Instr :=
  match w.toNat / 2 ^ 24 with
  | 0x01 => accept w [(15, 0, 0x0)] (.fjob (fld w 23 16))
  | 0x02 => accept w [(15, 1, 0x0)] (.fwait (fld w 23 16) (fld w 0 0))
  | 0x03 => accept w [(23, 0, 0x0)] .fcan
  | 0x04 => accept w [(23, 5, 0x0)] (.fpush (fld w 4 4) (fld w 3 0))
  | 0x05 => accept w [(15, 4, 0x0)] (.fpull (fld w 23 16) (fld w 3 0))
  | _ => .error .illegalOpcode

/-- Class STREAM: the instruction of an opcode (R68). -/
def decodeStream (w : IWord) : Except DecodeError Instr :=
  match w.toNat / 2 ^ 24 with
  | 0x81 => accept w [(23, 0, 0x20000)] .scfg
  | 0x82 => accept w [(23, 4, 0x1000)] (.sbind (fld w 3 0))
  | 0x83 => accept w [(23, 16, 0x0)] (.sgo (fld w 15 0))
  | 0x84 => accept w [(23, 16, 0x0)] (.sbar (fld w 15 0))
  | 0x85 => accept w [(23, 0, 0x0)] .sdone
  | 0x86 => accept w [(23, 16, 0x0)] (.sloop (fld w 15 8) (fld w 7 0))
  | _ => .error .illegalOpcode

/-- Class SCHED: the instruction of an opcode (R68). -/
def decodeSched (w : IWord) : Except DecodeError Instr :=
  match w.toNat / 2 ^ 24 with
  | 0x01 => accept w [(23, 3, 0x1)] (.launch (fld w 2 0))
  | 0x02 => accept w [(23, 6, 0x0)] (.nrec (fld w 5 0))
  | 0x03 => accept w [(23, 0, 0x0)] .dsig
  | 0x04 => accept w [(23, 3, 0x1)] (.dpub (fld w 2 0))
  | _ => .error .illegalOpcode

/-- Class NET: the instruction of an opcode (R68). -/
def decodeNet (w : IWord) : Except DecodeError Instr :=
  match w.toNat / 2 ^ 24 with
  | 0x01 => accept w [(23, 6, 0x0)] (.qenq (fld w 5 3) (fld w 2 2) (fld w 1 0))
  | 0x02 => accept w [(15, 6, 0x0), (2, 1, 0x0)] (.qdeq (fld w 23 16) (fld w 5 3) (fld w 0 0))
  | 0x03 => accept w [(15, 0, 0x0)] (.qpoll (fld w 23 16))
  | 0x04 => accept w [(15, 0, 0x0)] (.qmake (fld w 23 16))
  | 0x05 => accept w [(15, 0, 0x0)] (.qkill (fld w 23 16))
  | 0x06 => accept w [(23, 3, 0x0)] (.frmput (fld w 2 0))
  | 0x07 => accept w [(23, 4, 0x0)] (.frmclose (fld w 3 3) (fld w 2 0))
  | _ => .error .illegalOpcode

/-- Class SYS: the instruction of an opcode (R68). -/
def decodeSys (w : IWord) : Except DecodeError Instr :=
  match w.toNat / 2 ^ 24 with
  | 0x01 => accept w [(23, 16, 0x0)] (.trap (fld w 15 0))
  | 0x02 => accept w [(7, 2, 0x0)] (.mode (fld w 23 16) (fld w 15 8) (fld w 1 0))
  | 0x03 => accept w [(7, 2, 0x0)] (.clk (fld w 23 16) (fld w 15 8) (fld w 1 0))
  | 0x04 => accept w [(23, 2, 0x0)] (.evt (fld w 1 0))
  | 0x05 => accept w [(23, 16, 0x0)] (.brk (fld w 15 0))
  | 0x06 => accept w [] (.sregr (fld w 23 16) (fld w 15 0))
  | 0x07 => accept w [(23, 16, 0x0)] (.sregw (fld w 15 0))
  | _ => .error .illegalOpcode

/-- The instruction a word holds in a clause of class `cls` (R56); class 15 stands for a fabric command list (R69). -/
def decodeWord (cls : Nat) (w : IWord) : Except DecodeError Instr :=
  match cls with
  | 0 => decodeInt w
  | 1 => decodeFlt w
  | 2 => decodeSfn w
  | 3 => decodeXln w
  | 4 => decodeFire w
  | 5 => decodeCarry w
  | 6 => decodeMem w
  | 7 => decodeTile w
  | 8 => decodeCopy w
  | 9 => decodeMtx w
  | 10 => decodeBank w
  | 11 => decodeFab w
  | 12 => decodeSched w
  | 13 => decodeNet w
  | 14 => decodeSys w
  | 15 => decodeStream w
  | _ => .error .illegalFormat

/-- Field values at the places of their lowest bits. -/
def placed : List (Nat × Nat) → Nat
  | [] => 0
  | (v, l) :: fs => v * 2 ^ l + placed fs

/-- The fixed bits of an instruction's word and its fields with their places; nothing for an event, which has no word. -/
def Instr.layout : Instr → Nat × List (Nat × Nat)
  | .iadd a b t s => (0x01000000, [(a.toNat, 16), (b.toNat, 8), (t.toNat, 5), (s.toNat, 4)])
  | .isub a b t s => (0x02000000, [(a.toNat, 16), (b.toNat, 8), (t.toNat, 5), (s.toNat, 4)])
  | .imul a b t s => (0x03000000, [(a.toNat, 16), (b.toNat, 8), (t.toNat, 5), (s.toNat, 4)])
  | .imulh a b t => (0x04000000, [(a.toNat, 16), (b.toNat, 8), (t.toNat, 5)])
  | .imad a b t s => (0x05000000, [(a.toNat, 16), (b.toNat, 8), (t.toNat, 5), (s.toNat, 4)])
  | .imin a b t => (0x06000000, [(a.toNat, 16), (b.toNat, 8), (t.toNat, 5)])
  | .imax a b t => (0x07000000, [(a.toNat, 16), (b.toNat, 8), (t.toNat, 5)])
  | .iabs a b t s => (0x08000000, [(a.toNat, 16), (b.toNat, 8), (t.toNat, 6), (s.toNat, 4)])
  | .ineg a b t s => (0x09000000, [(a.toNat, 16), (b.toNat, 8), (t.toNat, 6), (s.toNat, 4)])
  | .iand a b t => (0x0A000020, [(a.toNat, 16), (b.toNat, 8), (t.toNat, 6)])
  | .ior a b t => (0x0B000020, [(a.toNat, 16), (b.toNat, 8), (t.toNat, 6)])
  | .ixor a b t => (0x0C000020, [(a.toNat, 16), (b.toNat, 8), (t.toNat, 6)])
  | .andn a b t => (0x0D000020, [(a.toNat, 16), (b.toNat, 8), (t.toNat, 6)])
  | .inot a b t => (0x0E000020, [(a.toNat, 16), (b.toNat, 8), (t.toNat, 6)])
  | .shl a b t => (0x0F000020, [(a.toNat, 16), (b.toNat, 8), (t.toNat, 6)])
  | .shr a b t => (0x10000020, [(a.toNat, 16), (b.toNat, 8), (t.toNat, 6)])
  | .sar a b t => (0x11000000, [(a.toNat, 16), (b.toNat, 8), (t.toNat, 6)])
  | .rot a b t => (0x12000020, [(a.toNat, 16), (b.toNat, 8), (t.toNat, 6)])
  | .bfx a b t => (0x13000000, [(a.toNat, 16), (b.toNat, 8), (t.toNat, 5)])
  | .bfi a b t => (0x14000020, [(a.toNat, 16), (b.toNat, 8), (t.toNat, 6)])
  | .popc a b t => (0x15000020, [(a.toNat, 16), (b.toNat, 8), (t.toNat, 6)])
  | .clz a b t => (0x16000020, [(a.toNat, 16), (b.toNat, 8), (t.toNat, 6)])
  | .brev a b t => (0x17000020, [(a.toNat, 16), (b.toNat, 8), (t.toNat, 6)])
  | .icmp a b t c => (0x18000000, [(a.toNat, 16), (b.toNat, 8), (t.toNat, 5), (c.toNat, 0)])
  | .sel a b t => (0x19000000, [(a.toNat, 16), (b.toNat, 8), (t.toNat, 5)])
  | .mov a b => (0x1A000060, [(a.toNat, 16), (b.toNat, 8)])
  | .addx a b t x => (0x1B000000, [(a.toNat, 16), (b.toNat, 8), (t.toNat, 5), (x.toNat, 0)])
  | .const a i => (0x1C000000, [(a.toNat, 16), (i.toNat, 0)])
  | .consh a i => (0x1D000000, [(a.toNat, 16), (i.toNat, 0)])
  | .consw a i => (0x1E000000, [(a.toNat, 16), (i.toNat, 0)])
  | .iaddi a i => (0x1F000000, [(a.toNat, 16), (i.toNat, 0)])
  | .iaddPred a b t s => (0x81000000, [(a.toNat, 16), (b.toNat, 8), (t.toNat, 5), (s.toNat, 4)])
  | .isubPred a b t s => (0x82000000, [(a.toNat, 16), (b.toNat, 8), (t.toNat, 5), (s.toNat, 4)])
  | .imulPred a b t s => (0x83000000, [(a.toNat, 16), (b.toNat, 8), (t.toNat, 5), (s.toNat, 4)])
  | .imulhPred a b t => (0x84000000, [(a.toNat, 16), (b.toNat, 8), (t.toNat, 5)])
  | .imadPred a b t s => (0x85000000, [(a.toNat, 16), (b.toNat, 8), (t.toNat, 5), (s.toNat, 4)])
  | .iminPred a b t => (0x86000000, [(a.toNat, 16), (b.toNat, 8), (t.toNat, 5)])
  | .imaxPred a b t => (0x87000000, [(a.toNat, 16), (b.toNat, 8), (t.toNat, 5)])
  | .iabsPred a b t s => (0x88000000, [(a.toNat, 16), (b.toNat, 8), (t.toNat, 6), (s.toNat, 4)])
  | .inegPred a b t s => (0x89000000, [(a.toNat, 16), (b.toNat, 8), (t.toNat, 6), (s.toNat, 4)])
  | .iandPred a b t => (0x8A000020, [(a.toNat, 16), (b.toNat, 8), (t.toNat, 6)])
  | .iorPred a b t => (0x8B000020, [(a.toNat, 16), (b.toNat, 8), (t.toNat, 6)])
  | .ixorPred a b t => (0x8C000020, [(a.toNat, 16), (b.toNat, 8), (t.toNat, 6)])
  | .andnPred a b t => (0x8D000020, [(a.toNat, 16), (b.toNat, 8), (t.toNat, 6)])
  | .inotPred a b t => (0x8E000020, [(a.toNat, 16), (b.toNat, 8), (t.toNat, 6)])
  | .shlPred a b t => (0x8F000020, [(a.toNat, 16), (b.toNat, 8), (t.toNat, 6)])
  | .shrPred a b t => (0x90000020, [(a.toNat, 16), (b.toNat, 8), (t.toNat, 6)])
  | .sarPred a b t => (0x91000000, [(a.toNat, 16), (b.toNat, 8), (t.toNat, 6)])
  | .rotPred a b t => (0x92000020, [(a.toNat, 16), (b.toNat, 8), (t.toNat, 6)])
  | .bfxPred a b t => (0x93000000, [(a.toNat, 16), (b.toNat, 8), (t.toNat, 5)])
  | .bfiPred a b t => (0x94000020, [(a.toNat, 16), (b.toNat, 8), (t.toNat, 6)])
  | .popcPred a b t => (0x95000020, [(a.toNat, 16), (b.toNat, 8), (t.toNat, 6)])
  | .clzPred a b t => (0x96000020, [(a.toNat, 16), (b.toNat, 8), (t.toNat, 6)])
  | .brevPred a b t => (0x97000020, [(a.toNat, 16), (b.toNat, 8), (t.toNat, 6)])
  | .icmpPred a b t c => (0x98000000, [(a.toNat, 16), (b.toNat, 8), (t.toNat, 5), (c.toNat, 0)])
  | .movPred a b => (0x9A000060, [(a.toNat, 16), (b.toNat, 8)])
  | .addxPred a b t x => (0x9B000000, [(a.toNat, 16), (b.toNat, 8), (t.toNat, 5), (x.toNat, 0)])
  | .constPred a i => (0x9C000000, [(a.toNat, 16), (i.toNat, 0)])
  | .conshPred a i => (0x9D000000, [(a.toNat, 16), (i.toNat, 0)])
  | .conswPred a i => (0x9E000000, [(a.toNat, 16), (i.toNat, 0)])
  | .iaddiPred a i => (0x9F000000, [(a.toNat, 16), (i.toNat, 0)])
  | .fadd a b r t => (0x01000000, [(a.toNat, 16), (b.toNat, 8), (r.toNat, 5), (t.toNat, 3)])
  | .fsub a b r t => (0x02000000, [(a.toNat, 16), (b.toNat, 8), (r.toNat, 5), (t.toNat, 3)])
  | .fmul a b r t => (0x03000000, [(a.toNat, 16), (b.toNat, 8), (r.toNat, 5), (t.toNat, 3)])
  | .ffma a b r t => (0x04000000, [(a.toNat, 16), (b.toNat, 8), (r.toNat, 5), (t.toNat, 3)])
  | .fmin a b r t => (0x05000000, [(a.toNat, 16), (b.toNat, 8), (r.toNat, 5), (t.toNat, 3)])
  | .fmax a b r t => (0x06000000, [(a.toNat, 16), (b.toNat, 8), (r.toNat, 5), (t.toNat, 3)])
  | .fabs a b r t => (0x07000000, [(a.toNat, 16), (b.toNat, 8), (r.toNat, 5), (t.toNat, 3)])
  | .fneg a b r t => (0x08000000, [(a.toNat, 16), (b.toNat, 8), (r.toNat, 5), (t.toNat, 3)])
  | .fcmp a b r t c => (0x09000000, [(a.toNat, 16), (b.toNat, 8), (r.toNat, 5), (t.toNat, 3), (c.toNat, 0)])
  | .fclass a b r t => (0x0A000000, [(a.toNat, 16), (b.toNat, 8), (r.toNat, 5), (t.toNat, 3)])
  | .fdot2 a b r t => (0x0B000010, [(a.toNat, 16), (b.toNat, 8), (r.toNat, 5), (t.toNat, 3)])
  | .fdot4 a b r f => (0x0C000000, [(a.toNat, 16), (b.toNat, 8), (r.toNat, 5), (f.toNat, 0)])
  | .faddPred a b r t => (0x81000000, [(a.toNat, 16), (b.toNat, 8), (r.toNat, 5), (t.toNat, 3)])
  | .fsubPred a b r t => (0x82000000, [(a.toNat, 16), (b.toNat, 8), (r.toNat, 5), (t.toNat, 3)])
  | .fmulPred a b r t => (0x83000000, [(a.toNat, 16), (b.toNat, 8), (r.toNat, 5), (t.toNat, 3)])
  | .ffmaPred a b r t => (0x84000000, [(a.toNat, 16), (b.toNat, 8), (r.toNat, 5), (t.toNat, 3)])
  | .fminPred a b r t => (0x85000000, [(a.toNat, 16), (b.toNat, 8), (r.toNat, 5), (t.toNat, 3)])
  | .fmaxPred a b r t => (0x86000000, [(a.toNat, 16), (b.toNat, 8), (r.toNat, 5), (t.toNat, 3)])
  | .fabsPred a b r t => (0x87000000, [(a.toNat, 16), (b.toNat, 8), (r.toNat, 5), (t.toNat, 3)])
  | .fnegPred a b r t => (0x88000000, [(a.toNat, 16), (b.toNat, 8), (r.toNat, 5), (t.toNat, 3)])
  | .fcmpPred a b r t c => (0x89000000, [(a.toNat, 16), (b.toNat, 8), (r.toNat, 5), (t.toNat, 3), (c.toNat, 0)])
  | .fclassPred a b r t => (0x8A000000, [(a.toNat, 16), (b.toNat, 8), (r.toNat, 5), (t.toNat, 3)])
  | .fdot2Pred a b r t => (0x8B000010, [(a.toNat, 16), (b.toNat, 8), (r.toNat, 5), (t.toNat, 3)])
  | .fdot4Pred a b r f => (0x8C000000, [(a.toNat, 16), (b.toNat, 8), (r.toNat, 5), (f.toNat, 0)])
  | .frcp a b r => (0x01000000, [(a.toNat, 16), (b.toNat, 8), (r.toNat, 5)])
  | .frsq a b r => (0x02000000, [(a.toNat, 16), (b.toNat, 8), (r.toNat, 5)])
  | .fsqrt a b r t => (0x03000000, [(a.toNat, 16), (b.toNat, 8), (r.toNat, 5), (t.toNat, 3)])
  | .fdiv a b r t => (0x04000000, [(a.toNat, 16), (b.toNat, 8), (r.toNat, 5), (t.toNat, 3)])
  | .fexp2 a b r => (0x05000000, [(a.toNat, 16), (b.toNat, 8), (r.toNat, 5)])
  | .flog2 a b r => (0x06000000, [(a.toNat, 16), (b.toNat, 8), (r.toNat, 5)])
  | .fsin a b r => (0x07000000, [(a.toNat, 16), (b.toNat, 8), (r.toNat, 5)])
  | .fcos a b r => (0x08000000, [(a.toNat, 16), (b.toNat, 8), (r.toNat, 5)])
  | .ftanh a b r => (0x09000000, [(a.toNat, 16), (b.toNat, 8), (r.toNat, 5)])
  | .frint a b r t => (0x0A000000, [(a.toNat, 16), (b.toNat, 8), (r.toNat, 5), (t.toNat, 3)])
  | .cvt a b r c => (0x0B000000, [(a.toNat, 16), (b.toNat, 8), (r.toNat, 5), (c.toNat, 0)])
  | .cvtsc a b r f j => (0x0C000000, [(a.toNat, 16), (b.toNat, 8), (r.toNat, 5), (f.toNat, 2), (j.toNat, 0)])
  | .idiv a b t s => (0x0D000000, [(a.toNat, 16), (b.toNat, 8), (t.toNat, 5), (s.toNat, 4)])
  | .irem a b t => (0x0E000000, [(a.toNat, 16), (b.toNat, 8), (t.toNat, 5)])
  | .frcpPred a b r => (0x81000000, [(a.toNat, 16), (b.toNat, 8), (r.toNat, 5)])
  | .frsqPred a b r => (0x82000000, [(a.toNat, 16), (b.toNat, 8), (r.toNat, 5)])
  | .fsqrtPred a b r t => (0x83000000, [(a.toNat, 16), (b.toNat, 8), (r.toNat, 5), (t.toNat, 3)])
  | .fdivPred a b r t => (0x84000000, [(a.toNat, 16), (b.toNat, 8), (r.toNat, 5), (t.toNat, 3)])
  | .fexp2Pred a b r => (0x85000000, [(a.toNat, 16), (b.toNat, 8), (r.toNat, 5)])
  | .flog2Pred a b r => (0x86000000, [(a.toNat, 16), (b.toNat, 8), (r.toNat, 5)])
  | .fsinPred a b r => (0x87000000, [(a.toNat, 16), (b.toNat, 8), (r.toNat, 5)])
  | .fcosPred a b r => (0x88000000, [(a.toNat, 16), (b.toNat, 8), (r.toNat, 5)])
  | .ftanhPred a b r => (0x89000000, [(a.toNat, 16), (b.toNat, 8), (r.toNat, 5)])
  | .frintPred a b r t => (0x8A000000, [(a.toNat, 16), (b.toNat, 8), (r.toNat, 5), (t.toNat, 3)])
  | .cvtPred a b r c => (0x8B000000, [(a.toNat, 16), (b.toNat, 8), (r.toNat, 5), (c.toNat, 0)])
  | .cvtscPred a b r f j => (0x8C000000, [(a.toNat, 16), (b.toNat, 8), (r.toNat, 5), (f.toNat, 2), (j.toNat, 0)])
  | .idivPred a b t s => (0x8D000000, [(a.toNat, 16), (b.toNat, 8), (t.toNat, 5), (s.toNat, 4)])
  | .iremPred a b t => (0x8E000000, [(a.toNat, 16), (b.toNat, 8), (t.toNat, 5)])
  | .shfl a b f => (0x01000000, [(a.toNat, 16), (b.toNat, 8), (f.toNat, 6)])
  | .shflx a b f => (0x02000000, [(a.toNat, 16), (b.toNat, 8), (f.toNat, 6)])
  | .shflup a b f => (0x03000000, [(a.toNat, 16), (b.toNat, 8), (f.toNat, 6)])
  | .shfldn a b f => (0x04000000, [(a.toNat, 16), (b.toNat, 8), (f.toNat, 6)])
  | .bcast a b f => (0x05000000, [(a.toNat, 16), (b.toNat, 8), (f.toNat, 6)])
  | .vote a b o => (0x06000000, [(a.toNat, 16), (b.toNat, 8), (o.toNat, 6)])
  | .reduce a b o t g m => (0x07000000, [(a.toNat, 16), (b.toNat, 8), (o.toNat, 5), (t.toNat, 3), (g.toNat, 2), (m.toNat, 1)])
  | .scan a b o t g m x => (0x08000000, [(a.toNat, 16), (b.toNat, 8), (o.toNat, 5), (t.toNat, 3), (g.toNat, 2), (m.toNat, 1), (x.toNat, 0)])
  | .xmatch a b w => (0x09000000, [(a.toNat, 16), (b.toNat, 8), (w.toNat, 6)])
  | .seatid a b s => (0x0A000000, [(a.toNat, 16), (b.toNat, 8), (s.toNat, 0)])
  | .tagord a b g => (0x0B000000, [(a.toNat, 16), (b.toNat, 8), (g.toNat, 0)])
  | .send d s t w p => (0x01000000, [(d.toNat, 12), (s.toNat, 9), (t.toNat, 8), (w.toNat, 6), (p.toNat, 0)])
  | .sendsel d s t w p => (0x02000000, [(d.toNat, 12), (s.toNat, 9), (t.toNat, 8), (w.toNat, 6), (p.toNat, 0)])
  | .switch d s t w l => (0x03000000, [(d.toNat, 12), (s.toNat, 9), (t.toNat, 8), (w.toNat, 6), (l.toNat, 0)])
  | .spawn d s t w k => (0x04000000, [(d.toNat, 12), (s.toNat, 9), (t.toNat, 8), (w.toNat, 6), (k.toNat, 0)])
  | .ret s w f => (0x05000000, [(s.toNat, 9), (w.toNat, 6), (f.toNat, 0)])
  | .free => (0x06000000, [])
  | .tag a b m => (0x07000000, [(a.toNat, 16), (b.toNat, 8), (m.toNat, 0)])
  | .futld a o s p k t => (0x08006000, [(a.toNat, 16), (o.toNat, 10), (s.toNat, 7), (p.toNat, 5), (k.toNat, 1), (t.toNat, 0)])
  | .futst o s p e => (0x09006000, [(o.toNat, 11), (s.toNat, 7), (p.toNat, 5), (e.toNat, 0)])
  | .yield y => (0x0A000000, [(y.toNat, 0)])
  | .trapset d c => (0x0B000000, [(d.toNat, 12), (c.toNat, 0)])
  | .trapret m => (0x0C000000, [(m.toNat, 0)])
  | .depart t => (0x0D000000, [(t.toNat, 0)])
  | .gldx a b => (0x01000000, [(a.toNat, 16), (b.toNat, 8)])
  | .gstx => (0x02000000, [])
  | .gempty => (0x03000000, [])
  | .gtest a b => (0x04000000, [(a.toNat, 16), (b.toNat, 8)])
  | .rcpset a c g => (0x05000000, [(a.toNat, 16), (c.toNat, 8), (g.toNat, 0)])
  | .rcpdrop g => (0x06000000, [(g.toNat, 0)])
  | .rcpclr g => (0x07000000, [(g.toNat, 0)])
  | .ld a z o s p g => (0x01000000, [(a.toNat, 16), (z.toNat, 13), (o.toNat, 10), (s.toNat, 7), (p.toNat, 5), (g.toNat, 3)])
  | .st z o s p => (0x02000000, [(z.toNat, 13), (o.toNat, 11), (s.toNat, 7), (p.toNat, 5)])
  | .lds a z o s g => (0x03000000, [(a.toNat, 16), (z.toNat, 13), (o.toNat, 10), (s.toNat, 7), (g.toNat, 3)])
  | .sts z o s => (0x04000000, [(z.toNat, 13), (o.toNat, 11), (s.toNat, 7)])
  | .atom a z o s g x => (0x05004000, [(a.toNat, 16), (z.toNat, 13), (o.toNat, 10), (s.toNat, 7), (g.toNat, 3), (x.toNat, 0)])
  | .atoms a z o s g x => (0x06004000, [(a.toNat, 16), (z.toNat, 13), (o.toNat, 10), (s.toNat, 7), (g.toNat, 3), (x.toNat, 0)])
  | .cas a z o s g => (0x07004000, [(a.toNat, 16), (z.toNat, 13), (o.toNat, 10), (s.toNat, 7), (g.toNat, 3)])
  | .fence s b c => (0x08000000, [(s.toNat, 13), (b.toNat, 7), (c.toNat, 1)])
  | .pref p n => (0x09000000, [(p.toNat, 5), (n.toNat, 0)])
  | .cflush p => (0x0A000000, [(p.toNat, 0)])
  | .cinv p => (0x0B000000, [(p.toNat, 0)])
  | .ldmx a o s p f => (0x0C000000, [(a.toNat, 16), (o.toNat, 10), (s.toNat, 7), (p.toNat, 5), (f.toNat, 0)])
  | .stmx o s p f => (0x0D000000, [(o.toNat, 11), (s.toNat, 7), (p.toNat, 5), (f.toNat, 0)])
  | .talloc a c p => (0x01000000, [(a.toNat, 16), (c.toNat, 8), (p.toNat, 0)])
  | .tst z => (0x02000000, [(z.toNat, 0)])
  | .tseal => (0x03000000, [])
  | .tld a c g z => (0x04000000, [(a.toNat, 16), (c.toNat, 4), (g.toNat, 3), (z.toNat, 0)])
  | .tabandon => (0x05000000, [])
  | .tfree => (0x06000000, [])
  | .tstat a => (0x07000000, [(a.toNat, 16)])
  | .tpart a p => (0x08000000, [(a.toNat, 16), (p.toNat, 0)])
  | .cpy a => (0x01000000, [(a.toNat, 16)])
  | .cpys a => (0x02000000, [(a.toNat, 16)])
  | .cpyc => (0x03000000, [])
  | .bari => (0x04000000, [])
  | .bara => (0x05000000, [])
  | .barx => (0x06000000, [])
  | .barw a => (0x07000000, [(a.toNat, 16)])
  | .crpop a k => (0x08000000, [(a.toNat, 16), (k.toNat, 0)])
  | .mma t k m u c l e => (0x01000000, [(t.toNat, 12), (k.toNat, 8), (m.toNat, 6), (u.toNat, 5), (c.toNat, 4), (l.toNat, 3), (e.toNat, 2)])
  | .mmax x y m n => (0x02000000, [(x.toNat, 13), (y.toNat, 10), (m.toNat, 9), (n.toNat, 8)])
  | .mctx a c t => (0x03000000, [(a.toNat, 16), (c.toNat, 4), (t.toNat, 0)])
  | .mwait a c n => (0x04000000, [(a.toNat, 16), (c.toNat, 4), (n.toNat, 0)])
  | .accz c l => (0x05000000, [(c.toNat, 4), (l.toNat, 3)])
  | .accld m c l => (0x06000000, [(m.toNat, 6), (c.toNat, 4), (l.toNat, 3)])
  | .accst f r m c l => (0x07000000, [(f.toNat, 13), (r.toNat, 10), (m.toNat, 6), (c.toNat, 4), (l.toNat, 3)])
  | .accrd a c l => (0x08000000, [(a.toNat, 16), (c.toNat, 4), (l.toNat, 3)])
  | .bgemv a => (0x01000000, [(a.toNat, 16)])
  | .bred a => (0x02000000, [(a.toNat, 16)])
  | .bfence s => (0x03000000, [(s.toNat, 13)])
  | .bwait a n => (0x04000000, [(a.toNat, 16), (n.toNat, 0)])
  | .fjob a => (0x01000000, [(a.toNat, 16)])
  | .fwait a n => (0x02000000, [(a.toNat, 16), (n.toNat, 0)])
  | .fcan => (0x03000000, [])
  | .fpush e n => (0x04000000, [(e.toNat, 4), (n.toNat, 0)])
  | .fpull a n => (0x05000000, [(a.toNat, 16), (n.toNat, 0)])
  | .scfg => (0x81020000, [])
  | .sbind e => (0x82010000, [(e.toNat, 0)])
  | .sgo m => (0x83000000, [(m.toNat, 0)])
  | .sbar m => (0x84000000, [(m.toNat, 0)])
  | .sdone => (0x85000000, [])
  | .sloop c t => (0x86000000, [(c.toNat, 8), (t.toNat, 0)])
  | .launch q => (0x01000008, [(q.toNat, 0)])
  | .nrec n => (0x02000000, [(n.toNat, 0)])
  | .dsig => (0x03000000, [])
  | .dpub q => (0x04000008, [(q.toNat, 0)])
  | .qenq s v k => (0x01000000, [(s.toNat, 3), (v.toNat, 2), (k.toNat, 0)])
  | .qdeq a s t => (0x02000000, [(a.toNat, 16), (s.toNat, 3), (t.toNat, 0)])
  | .qpoll a => (0x03000000, [(a.toNat, 16)])
  | .qmake a => (0x04000000, [(a.toNat, 16)])
  | .qkill a => (0x05000000, [(a.toNat, 16)])
  | .frmput b => (0x06000000, [(b.toNat, 0)])
  | .frmclose l b => (0x07000000, [(l.toNat, 3), (b.toNat, 0)])
  | .trap i => (0x01000000, [(i.toNat, 0)])
  | .mode a b m => (0x02000000, [(a.toNat, 16), (b.toNat, 8), (m.toNat, 0)])
  | .clk a b m => (0x03000000, [(a.toNat, 16), (b.toNat, 8), (m.toNat, 0)])
  | .evt k => (0x04000000, [(k.toNat, 0)])
  | .brk i => (0x05000000, [(i.toNat, 0)])
  | .sregr a n => (0x06000000, [(a.toNat, 16), (n.toNat, 0)])
  | .sregw n => (0x07000000, [(n.toNat, 0)])
  | .tokenArrival _ _ _ => (0, [])
  | .discardNotice _ _ _ _ _ _ => (0, [])
  | .sendAck _ _ => (0, [])
  | .departCommandArrival _ _ _ _ _ => (0, [])
  | .departureTimerExpiry _ => (0, [])
  | .trainDeparture _ => (0, [])
  | .trainEnd _ _ => (0, [])
  | .lateValueLands _ => (0, [])
  | .recipeReplay _ => (0, [])
  | .freeCompletion _ _ => (0, [])
  | .compaction _ _ => (0, [])
  | .storeDrain _ => (0, [])
  | .translationWalk _ => (0, [])
  | .pageResponse _ _ => (0, [])
  | .pageRequestTimeout _ => (0, [])
  | .tlbinv _ _ => (0, [])
  | .tlbInvalidationComplete _ => (0, [])
  | .prqctlWrite _ _ => (0, [])
  | .partitionRegisterWrite _ _ _ => (0, [])
  | .sslenWrite _ _ => (0, [])
  | .hostDoorbell _ _ _ => (0, [])
  | .launchAdmit _ => (0, [])
  | .gridWordRead _ _ => (0, [])
  | .launchPlacement _ _ => (0, [])
  | .launchStall _ _ => (0, [])
  | .launchCompletion _ _ => (0, [])
  | .noticeHeadWrite _ _ => (0, [])
  | .sidingReplay _ _ _ => (0, [])
  | .yardRecordArrival _ _ => (0, [])
  | .yardTimerExpiry _ _ => (0, [])
  | .teamPlacement _ _ => (0, [])
  | .endLaunch _ _ => (0, [])
  | .faultedLaunchAutoend _ _ => (0, [])
  | .preempt _ => (0, [])
  | .restore _ => (0, [])
  | .halt _ => (0, [])
  | .resume _ => (0, [])
  | .drainlimExpiry _ => (0, [])
  | .saveStart _ => (0, [])
  | .saveComplete _ => (0, [])
  | .loadComplete _ => (0, [])
  | .haltQuiesced _ => (0, [])
  | .timetableStep _ => (0, [])
  | .superstepBoundary _ => (0, [])
  | .timetableFreeze _ => (0, [])
  | .timetableHalt _ => (0, [])
  | .copyCompletion _ _ => (0, [])
  | .ringSpaceRetry _ _ _ => (0, [])
  | .barrierUpdate _ => (0, [])
  | .freedSlotNotice _ _ => (0, [])
  | .tallocGrant _ => (0, [])
  | .tileSealComplete _ => (0, [])
  | .tfreeComplete _ => (0, [])
  | .mctxClaim _ _ => (0, [])
  | .mctxRelease _ _ => (0, [])
  | .mtxTileStep _ => (0, [])
  | .bankOperationComplete _ _ => (0, [])
  | .fabCardBind _ => (0, [])
  | .fabUnitFire _ _ _ => (0, [])
  | .fabSourceToken _ _ _ => (0, [])
  | .fabSinkCommit _ _ _ => (0, [])
  | .fabReplay _ _ => (0, [])
  | .fabJobComplete _ _ => (0, [])
  | .queueEntryArrival _ _ => (0, [])
  | .queueRefusal _ _ _ => (0, [])
  | .queueAck _ _ => (0, [])
  | .queueSidingRetry _ _ => (0, [])
  | .queueCycleScan => (0, [])
  | .frameFillTimer _ _ => (0, [])
  | .frameSend _ _ => (0, [])
  | .rowFrameArrival _ _ _ _ _ => (0, [])
  | .creditGrant _ _ _ => (0, [])
  | .remoteMemoryRequest _ _ _ _ => (0, [])
  | .remoteMemoryResponse _ _ _ => (0, [])
  | .routeChange _ _ _ _ => (0, [])
  | .flitRetransmit _ => (0, [])
  | .featacceptWrite _ => (0, [])
  | .msixIntervalExpiry _ => (0, [])
  | .mgmtPhysicalAccess _ _ _ _ _ => (0, [])
  | .mgmtRegisterAccess _ _ _ => (0, [])
  | .mgmtObjectAccess _ _ _ _ _ => (0, [])
  | .mgmtFutViewAccess _ _ _ _ _ => (0, [])
  | .mgmtAsidEntryAccess _ _ _ _ _ => (0, [])
  | .powerUp => (0, [])
  | .endpointReset => (0, [])
  | .setDomain _ _ _ => (0, [])
  | .setPartition _ _ => (0, [])
  | .setPriv _ _ => (0, [])
  | .setPowerCap _ => (0, [])
  | .moduleReset => (0, [])
  | .activateVersion => (0, [])
  | .getErrorLog => (0, [])
  | .getRouteTable => (0, [])
  | .pldmSensorRead _ => (0, [])
  | .firmwareUpdate _ => (0, [])
  | .getVersion => (0, [])
  | .getCapabilities => (0, [])
  | .negotiateAlgorithms _ => (0, [])
  | .getDigests => (0, [])
  | .getCertificate _ _ => (0, [])
  | .challenge _ => (0, [])
  | .getMeasurements _ => (0, [])
  | .powerCapThrottle => (0, [])
  | .thermalThrottle _ => (0, [])
  | .thermalHalt _ => (0, [])
  | .patrolScrub _ => (0, [])
  | .controlStateError _ _ _ => (0, [])
  | .throttleRelease => (0, [])
  | .configurationRequest _ _ _ => (0, [])
  | .flitForward _ _ => (0, [])
  | .statusWrite _ => (0, [])
  | .mstatWrite _ => (0, [])
  | .pldmBaseDiscovery _ => (0, [])
  | .waitGraphEdgeExchange _ => (0, [])
  | .flushComplete _ _ => (0, [])

/-- The word of an instruction. -/
def encode (i : Instr) : IWord := BitVec.ofNat 32 (i.layout.1 + placed i.layout.2)

/-- The number of field bits a row leaves open: used only to choose among classes (log 4). -/
def Instr.openBits : Instr → Nat
  | .iadd _ _ _ _ => 20
  | .isub _ _ _ _ => 20
  | .imul _ _ _ _ => 20
  | .imulh _ _ _ => 18
  | .imad _ _ _ _ => 20
  | .imin _ _ _ => 19
  | .imax _ _ _ => 19
  | .iabs _ _ _ _ => 19
  | .ineg _ _ _ _ => 19
  | .iand _ _ _ => 17
  | .ior _ _ _ => 17
  | .ixor _ _ _ => 17
  | .andn _ _ _ => 17
  | .inot _ _ _ => 17
  | .shl _ _ _ => 18
  | .shr _ _ _ => 18
  | .sar _ _ _ => 18
  | .rot _ _ _ => 18
  | .bfx _ _ _ => 18
  | .bfi _ _ _ => 17
  | .popc _ _ _ => 17
  | .clz _ _ _ => 17
  | .brev _ _ _ => 17
  | .icmp _ _ _ _ => 23
  | .sel _ _ _ => 18
  | .mov _ _ => 16
  | .addx _ _ _ _ => 22
  | .const _ _ => 24
  | .consh _ _ => 24
  | .consw _ _ => 24
  | .iaddi _ _ => 24
  | .iaddPred _ _ _ _ => 20
  | .isubPred _ _ _ _ => 20
  | .imulPred _ _ _ _ => 20
  | .imulhPred _ _ _ => 18
  | .imadPred _ _ _ _ => 20
  | .iminPred _ _ _ => 19
  | .imaxPred _ _ _ => 19
  | .iabsPred _ _ _ _ => 19
  | .inegPred _ _ _ _ => 19
  | .iandPred _ _ _ => 17
  | .iorPred _ _ _ => 17
  | .ixorPred _ _ _ => 17
  | .andnPred _ _ _ => 17
  | .inotPred _ _ _ => 17
  | .shlPred _ _ _ => 18
  | .shrPred _ _ _ => 18
  | .sarPred _ _ _ => 18
  | .rotPred _ _ _ => 18
  | .bfxPred _ _ _ => 18
  | .bfiPred _ _ _ => 17
  | .popcPred _ _ _ => 17
  | .clzPred _ _ _ => 17
  | .brevPred _ _ _ => 17
  | .icmpPred _ _ _ _ => 23
  | .movPred _ _ => 16
  | .addxPred _ _ _ _ => 22
  | .constPred _ _ => 24
  | .conshPred _ _ => 24
  | .conswPred _ _ => 24
  | .iaddiPred _ _ => 24
  | .fadd _ _ _ _ => 21
  | .fsub _ _ _ _ => 21
  | .fmul _ _ _ _ => 21
  | .ffma _ _ _ _ => 21
  | .fmin _ _ _ _ => 21
  | .fmax _ _ _ _ => 21
  | .fabs _ _ _ _ => 21
  | .fneg _ _ _ _ => 21
  | .fcmp _ _ _ _ _ => 24
  | .fclass _ _ _ _ => 21
  | .fdot2 _ _ _ _ => 20
  | .fdot4 _ _ _ _ => 21
  | .faddPred _ _ _ _ => 21
  | .fsubPred _ _ _ _ => 21
  | .fmulPred _ _ _ _ => 21
  | .ffmaPred _ _ _ _ => 21
  | .fminPred _ _ _ _ => 21
  | .fmaxPred _ _ _ _ => 21
  | .fabsPred _ _ _ _ => 21
  | .fnegPred _ _ _ _ => 21
  | .fcmpPred _ _ _ _ _ => 24
  | .fclassPred _ _ _ _ => 21
  | .fdot2Pred _ _ _ _ => 20
  | .fdot4Pred _ _ _ _ => 21
  | .frcp _ _ _ => 19
  | .frsq _ _ _ => 19
  | .fsqrt _ _ _ _ => 20
  | .fdiv _ _ _ _ => 20
  | .fexp2 _ _ _ => 19
  | .flog2 _ _ _ => 19
  | .fsin _ _ _ => 19
  | .fcos _ _ _ => 19
  | .ftanh _ _ _ => 19
  | .frint _ _ _ _ => 21
  | .cvt _ _ _ _ => 24
  | .cvtsc _ _ _ _ _ => 24
  | .idiv _ _ _ _ => 19
  | .irem _ _ _ => 18
  | .frcpPred _ _ _ => 19
  | .frsqPred _ _ _ => 19
  | .fsqrtPred _ _ _ _ => 20
  | .fdivPred _ _ _ _ => 20
  | .fexp2Pred _ _ _ => 19
  | .flog2Pred _ _ _ => 19
  | .fsinPred _ _ _ => 19
  | .fcosPred _ _ _ => 19
  | .ftanhPred _ _ _ => 19
  | .frintPred _ _ _ _ => 21
  | .cvtPred _ _ _ _ => 24
  | .cvtscPred _ _ _ _ _ => 24
  | .idivPred _ _ _ _ => 19
  | .iremPred _ _ _ => 18
  | .shfl _ _ _ => 18
  | .shflx _ _ _ => 18
  | .shflup _ _ _ => 18
  | .shfldn _ _ _ => 18
  | .bcast _ _ _ => 18
  | .vote _ _ _ => 18
  | .reduce _ _ _ _ _ _ => 23
  | .scan _ _ _ _ _ _ _ => 24
  | .xmatch _ _ _ => 18
  | .seatid _ _ _ => 19
  | .tagord _ _ _ => 17
  | .send _ _ _ _ _ => 24
  | .sendsel _ _ _ _ _ => 24
  | .switch _ _ _ _ _ => 24
  | .spawn _ _ _ _ _ => 23
  | .ret _ _ _ => 6
  | .free => 0
  | .tag _ _ _ => 19
  | .futld _ _ _ _ _ _ => 16
  | .futst _ _ _ _ => 7
  | .yield _ => 1
  | .trapset _ _ => 13
  | .trapret _ => 2
  | .depart _ => 1
  | .gldx _ _ => 16
  | .gstx => 0
  | .gempty => 0
  | .gtest _ _ => 16
  | .rcpset _ _ _ => 23
  | .rcpdrop _ => 7
  | .rcpclr _ => 7
  | .ld _ _ _ _ _ _ => 18
  | .st _ _ _ _ => 9
  | .lds _ _ _ _ _ => 16
  | .sts _ _ _ => 7
  | .atom _ _ _ _ _ _ => 19
  | .atoms _ _ _ _ _ _ => 19
  | .cas _ _ _ _ _ => 16
  | .fence _ _ _ => 15
  | .pref _ _ => 6
  | .cflush _ => 1
  | .cinv _ => 1
  | .ldmx _ _ _ _ _ => 17
  | .stmx _ _ _ _ => 9
  | .talloc _ _ _ => 19
  | .tst _ => 3
  | .tseal => 0
  | .tld _ _ _ _ => 13
  | .tabandon => 0
  | .tfree => 0
  | .tstat _ => 8
  | .tpart _ _ => 11
  | .cpy _ => 8
  | .cpys _ => 8
  | .cpyc => 0
  | .bari => 0
  | .bara => 0
  | .barx => 0
  | .barw _ => 8
  | .crpop _ _ => 10
  | .mma _ _ _ _ _ _ _ => 14
  | .mmax _ _ _ _ => 8
  | .mctx _ _ _ => 11
  | .mwait _ _ _ => 10
  | .accz _ _ => 2
  | .accld _ _ _ => 4
  | .accst _ _ _ _ _ => 10
  | .accrd _ _ _ => 10
  | .bgemv _ => 8
  | .bred _ => 8
  | .bfence _ => 3
  | .bwait _ _ => 9
  | .fjob _ => 8
  | .fwait _ _ => 9
  | .fcan => 0
  | .fpush _ _ => 5
  | .fpull _ _ => 12
  | .scfg => 0
  | .sbind _ => 4
  | .sgo _ => 16
  | .sbar _ => 16
  | .sdone => 0
  | .sloop _ _ => 16
  | .launch _ => 3
  | .nrec _ => 6
  | .dsig => 0
  | .dpub _ => 3
  | .qenq _ _ _ => 6
  | .qdeq _ _ _ => 12
  | .qpoll _ => 8
  | .qmake _ => 8
  | .qkill _ => 8
  | .frmput _ => 3
  | .frmclose _ _ => 4
  | .trap _ => 16
  | .mode _ _ _ => 18
  | .clk _ _ _ => 18
  | .evt _ => 2
  | .brk _ => 16
  | .sregr _ _ => 24
  | .sregw _ => 16
  | .tokenArrival _ _ _ => 0
  | .discardNotice _ _ _ _ _ _ => 0
  | .sendAck _ _ => 0
  | .departCommandArrival _ _ _ _ _ => 0
  | .departureTimerExpiry _ => 0
  | .trainDeparture _ => 0
  | .trainEnd _ _ => 0
  | .lateValueLands _ => 0
  | .recipeReplay _ => 0
  | .freeCompletion _ _ => 0
  | .compaction _ _ => 0
  | .storeDrain _ => 0
  | .translationWalk _ => 0
  | .pageResponse _ _ => 0
  | .pageRequestTimeout _ => 0
  | .tlbinv _ _ => 0
  | .tlbInvalidationComplete _ => 0
  | .prqctlWrite _ _ => 0
  | .partitionRegisterWrite _ _ _ => 0
  | .sslenWrite _ _ => 0
  | .hostDoorbell _ _ _ => 0
  | .launchAdmit _ => 0
  | .gridWordRead _ _ => 0
  | .launchPlacement _ _ => 0
  | .launchStall _ _ => 0
  | .launchCompletion _ _ => 0
  | .noticeHeadWrite _ _ => 0
  | .sidingReplay _ _ _ => 0
  | .yardRecordArrival _ _ => 0
  | .yardTimerExpiry _ _ => 0
  | .teamPlacement _ _ => 0
  | .endLaunch _ _ => 0
  | .faultedLaunchAutoend _ _ => 0
  | .preempt _ => 0
  | .restore _ => 0
  | .halt _ => 0
  | .resume _ => 0
  | .drainlimExpiry _ => 0
  | .saveStart _ => 0
  | .saveComplete _ => 0
  | .loadComplete _ => 0
  | .haltQuiesced _ => 0
  | .timetableStep _ => 0
  | .superstepBoundary _ => 0
  | .timetableFreeze _ => 0
  | .timetableHalt _ => 0
  | .copyCompletion _ _ => 0
  | .ringSpaceRetry _ _ _ => 0
  | .barrierUpdate _ => 0
  | .freedSlotNotice _ _ => 0
  | .tallocGrant _ => 0
  | .tileSealComplete _ => 0
  | .tfreeComplete _ => 0
  | .mctxClaim _ _ => 0
  | .mctxRelease _ _ => 0
  | .mtxTileStep _ => 0
  | .bankOperationComplete _ _ => 0
  | .fabCardBind _ => 0
  | .fabUnitFire _ _ _ => 0
  | .fabSourceToken _ _ _ => 0
  | .fabSinkCommit _ _ _ => 0
  | .fabReplay _ _ => 0
  | .fabJobComplete _ _ => 0
  | .queueEntryArrival _ _ => 0
  | .queueRefusal _ _ _ => 0
  | .queueAck _ _ => 0
  | .queueSidingRetry _ _ => 0
  | .queueCycleScan => 0
  | .frameFillTimer _ _ => 0
  | .frameSend _ _ => 0
  | .rowFrameArrival _ _ _ _ _ => 0
  | .creditGrant _ _ _ => 0
  | .remoteMemoryRequest _ _ _ _ => 0
  | .remoteMemoryResponse _ _ _ => 0
  | .routeChange _ _ _ _ => 0
  | .flitRetransmit _ => 0
  | .featacceptWrite _ => 0
  | .msixIntervalExpiry _ => 0
  | .mgmtPhysicalAccess _ _ _ _ _ => 0
  | .mgmtRegisterAccess _ _ _ => 0
  | .mgmtObjectAccess _ _ _ _ _ => 0
  | .mgmtFutViewAccess _ _ _ _ _ => 0
  | .mgmtAsidEntryAccess _ _ _ _ _ => 0
  | .powerUp => 0
  | .endpointReset => 0
  | .setDomain _ _ _ => 0
  | .setPartition _ _ => 0
  | .setPriv _ _ => 0
  | .setPowerCap _ => 0
  | .moduleReset => 0
  | .activateVersion => 0
  | .getErrorLog => 0
  | .getRouteTable => 0
  | .pldmSensorRead _ => 0
  | .firmwareUpdate _ => 0
  | .getVersion => 0
  | .getCapabilities => 0
  | .negotiateAlgorithms _ => 0
  | .getDigests => 0
  | .getCertificate _ _ => 0
  | .challenge _ => 0
  | .getMeasurements _ => 0
  | .powerCapThrottle => 0
  | .thermalThrottle _ => 0
  | .thermalHalt _ => 0
  | .patrolScrub _ => 0
  | .controlStateError _ _ _ => 0
  | .throttleRelease => 0
  | .configurationRequest _ _ _ => 0
  | .flitForward _ _ => 0
  | .statusWrite _ => 0
  | .mstatWrite _ => 0
  | .pldmBaseDiscovery _ => 0
  | .waitGraphEdgeExchange _ => 0
  | .flushComplete _ _ => 0

/-- The candidate of least open bits, the earlier class on a tie. -/
def pickDecoded (w : IWord) : List Nat → Option Instr → Option Instr
  | [], best => best
  | c :: cs, best =>
    match decodeWord c w, best with
    | .ok i, some j => pickDecoded w cs (if i.openBits < j.openBits then some i else some j)
    | .ok i, none => pickDecoded w cs (some i)
    | .error _, b => pickDecoded w cs b

/-- The bytes of a word as memory holds them, lowest address first (R4). -/
def wordBytes (w : IWord) : List Byte :=
  [fld w 7 0, fld w 15 8, fld w 23 16, fld w 31 24]

/-- The word four bytes hold (R4). -/
def bytesWord : List Byte → Option IWord
  | [a, b, c, d] => some (BitVec.ofNat 32 (a.toNat + b.toNat * 2 ^ 8 + c.toNat * 2 ^ 16 + d.toNat * 2 ^ 24))
  | _ => none

/-- The instruction read from a word whose bits are numbered as the opcode table numbers them; instructions are one 32-bit word. The class is
the one whose decoder accepts the word with fewest open bits (log 4). -/
def decodeTableWord (nbits w : Nat) : Option Instr :=
  if 0 < nbits ∧ nbits ≤ 32 then
    match bytesWord (wordBytes (BitVec.ofNat 32 w)) with
    | some v => pickDecoded v [0, 1, 2, 3, 4, 5, 6, 7, 8, 9, 10, 11, 12, 13, 14, 15] none
    | none => none
  else none

end Sys2Proof
end

