-- ==== Sys2Proof/Machine/Func.lean ====
section
/-!
DEFINITION. The special functions of R145 and R146, each the exact mathematical value rounded once.

frcp, frsq, fsqrt and fdiv are exact by construction. fexp2, flog2, fsin, fcos and ftanh are evaluated in fixed point with
`funP` fraction bits and then rounded; that this never rounds to the wrong neighbour is DEDUCED (log 11).
-/
namespace Sys2Proof.Machine

/-- Fraction bits of the fixed-point evaluations. -/
def funP : Nat := 512

/-- Taylor sum of e^x from term t = x^k/k!, for fixed-point x. -/
def expTerms (x : Nat) : Nat → Nat → Nat → Nat
  | 0, _, _ => 0
  | fuel + 1, k, t => t + expTerms x fuel (k + 1) (t * x / 2 ^ funP / (k + 1))

/-- e^x for fixed-point x from 0 to about 1. -/
def expFix (x : Nat) : Nat := expTerms x 120 0 (2 ^ funP)

/-- Sum of z^(2k+1)/(2k+1), for p = z^(2k+1). -/
def atanhTerms (z2 : Nat) : Nat → Nat → Nat → Nat
  | 0, _, _ => 0
  | fuel + 1, k, p => p / (2 * k + 1) + atanhTerms z2 fuel (k + 1) (p * z2 / 2 ^ funP)

/-- The natural logarithm of the ratio a/b, from 1 to 2. -/
def lnFix (a b : Nat) : Nat :=
  let z := (a - b) * 2 ^ funP / (a + b)
  2 * atanhTerms (z * z / 2 ^ funP) 170 0 z

def ln2Fix : Nat := lnFix 2 1

/-- Alternating sum for arctan(1/n), for p = 1/n^(2k+1). -/
def atanTerms (n2 : Nat) : Nat → Nat → Nat → Int
  | 0, _, _ => 0
  | fuel + 1, k, p => ((p / (2 * k + 1) : Nat) : Int) - atanTerms n2 fuel (k + 1) (p / n2)

def atanInv (n : Nat) : Int := atanTerms (n * n) 120 0 (2 ^ funP / n)

/-- π/2, by Machin's formula. -/
def halfPiFix : Nat := (8 * atanInv 5 - 2 * atanInv 239).toNat

/-- Alternating sum t − t·x²/((k+1)(k+2)) + …, from term t of order k. -/
def trigTerms (x2 : Nat) : Nat → Nat → Nat → Int
  | 0, _, _ => 0
  | fuel + 1, k, t => (t : Int) - trigTerms x2 fuel (k + 2) (t * x2 / 2 ^ funP / ((k + 1) * (k + 2)))

def sinFix (x : Nat) : Int := trigTerms (x * x / 2 ^ funP) 70 1 x
def cosFix (x : Nat) : Int := trigTerms (x * x / 2 ^ funP) 70 0 (2 ^ funP)

/-- A fixed-point value, not exact, delivered as FP32. -/
def roundFix (env : FEnv) (x : Int) (e : Int) : FRes := fp32.round env (decide (x < 0)) x.natAbs e true

/-- The environment of a function that always rounds to nearest-even (R145). -/
def FEnv.nearest (env : FEnv) : FEnv := { env with rm := .rne }

def one32 : Nat := 0x3F800000

/-- 1 / L (R145, R146). -/
def rcp32 (env : FEnv) (x : Nat) : FRes := fp32.div env.nearest one32 x

/-- 1 / √L (R145, R146). -/
def rsq32 (env0 : FEnv) (x : Nat) : FRes :=
  let env := env0.nearest
  let a := fp32.input env x
  let fl := a.2 ||| a.1.snanFlag
  match a.1 with
  | .nan _ => fp32.nanRes fl
  | .inf true => fp32.nanRes (fl ||| fIV)
  | .inf false => ⟨0, fl⟩
  | .fin n m e =>
    if m = 0 then fp32.infRes n (fl ||| fDZ)
    else if n then fp32.nanRes (fl ||| fIV)
    else
      let odd := e % 2 != 0
      let m' := if odd then 2 * m else m
      let e' := e - (b2n odd : Int)
      let k := guardBits + bitLen m'
      let s := isqrt (2 ^ (2 * k) / m')
      let r := fp32.round env false s (-(k : Int) - e' / 2) (s * s * m' != 2 ^ (2 * k))
      ⟨r.bits, r.fl ||| fl⟩

/-- 2^L (R145, R146). A tiny result sets UF and IX. -/
def exp2f (env0 : FEnv) (x : Nat) : FRes :=
  let env := env0.nearest
  let a := fp32.input env x
  let fl := a.2 ||| a.1.snanFlag
  match a.1 with
  | .nan _ => fp32.nanRes fl
  | .inf true => ⟨0, fl⟩
  | .inf false => fp32.infRes false fl
  | .fin n m e =>
    if m = 0 then ⟨one32, fl⟩
    else
      let big := decide (floorLog2 m e ≥ 10)
      let fx : Int := dyInt n m (-(funP : Int)) e
      let k : Int := if big then (if n then -2000 else 2000) else fx / 2 ^ funP
      let f : Nat := if big then 0 else (fx % 2 ^ funP).toNat
      let r := if f = 0 then fp32.round env false 1 k big
               else roundFix env (expFix (f * ln2Fix / 2 ^ funP)) (k - funP)
      let tiny := decide (k < fp32.emin)
      ⟨r.bits, r.fl ||| fl ||| flagIf tiny (fUF ||| fIX)⟩

/-- log2 L (R145, R146). -/
def log2f (env0 : FEnv) (x : Nat) : FRes :=
  let env := env0.nearest
  let a := fp32.input env x
  let fl := a.2 ||| a.1.snanFlag
  match a.1 with
  | .nan _ => fp32.nanRes fl
  | .inf true => fp32.nanRes (fl ||| fIV)
  | .inf false => fp32.infRes false fl
  | .fin n m e =>
    if m = 0 then fp32.infRes true (fl ||| fDZ)
    else if n then fp32.nanRes (fl ||| fIV)
    else
      let k := floorLog2 m e
      let lead := 2 ^ (bitLen m - 1)
      let r := if m = lead then fp32.round env (decide (k < 0)) k.natAbs 0 false
               else roundFix env (k * 2 ^ funP + ((lnFix m lead * 2 ^ funP / ln2Fix : Nat) : Int)) (-(funP : Int))
      ⟨r.bits, r.fl ||| fl⟩

/-- sin L or cos L (R145, R146). -/
def trigf (cosine : Bool) (env0 : FEnv) (x : Nat) : FRes :=
  let env := env0.nearest
  let a := fp32.input env x
  let fl := a.2 ||| a.1.snanFlag
  match a.1 with
  | .nan _ => fp32.nanRes fl
  | .inf _ => fp32.nanRes (fl ||| fIV)
  | .fin n m e =>
    if m = 0 then ⟨if cosine then one32 else fp32.signed n 0, fl⟩
    else if dyInt false m (min e 0) e > dyInt false 1 (min e 0) 16 then ⟨0, fl ||| fIX⟩
    else
      let fx := m * 2 ^ (e + funP).toNat
      let q := fx / halfPiFix
      let r := fx % halfPiFix
      let v : Int :=
        match (q + b2n cosine) % 4 with
        | 0 => sinFix r
        | 1 => cosFix r
        | 2 => - sinFix r
        | _ => - cosFix r
      let res := roundFix env (if n && !cosine then - v else v) (-(funP : Int))
      ⟨res.bits, res.fl ||| fl⟩

/-- tanh L (R145, R146). -/
def tanhf (env0 : FEnv) (x : Nat) : FRes :=
  let env := env0.nearest
  let a := fp32.input env x
  let fl := a.2 ||| a.1.snanFlag
  match a.1 with
  | .nan _ => fp32.nanRes fl
  | .inf n => ⟨fp32.signed n one32, fl⟩
  | .fin n m e =>
    if m = 0 then ⟨fp32.signed n 0, fl⟩
    else
      let r :=
        if floorLog2 m e ≥ 6 then fp32.round env n (2 ^ 200 - 1) (-200) true
        else
          let y := 2 * m * 2 ^ (e + funP).toNat
          let k := y / ln2Fix
          let ex := expFix (y % ln2Fix) * 2 ^ k
          let v := (ex - 2 ^ funP) * 2 ^ funP / (ex + 2 ^ funP)
          fp32.round env n v (-(funP : Int)) true
      ⟨r.bits, r.fl ||| fl⟩

end Sys2Proof.Machine
end

