-- ==== Sys2Proof/Machine/FltOps.lean ====
section
/-!
DEFINITION. The results of classes FLT and SFN for one seat (R140 to R150).
-/
namespace Sys2Proof.Machine

/-- R61: a floating type code: format and element count. -/
def fTy (c : Nat) : Fmt × Nat :=
  match c with
  | 0 => (fp32, 1)
  | 1 => (fp64, 1)
  | 2 => (bf16, 2)
  | _ => (fp16, 2)

/-- Element i of a slot in a floating format (R76). -/
def fElem (f : Fmt) (x : Word) (i : Nat) : Nat := (x.toNat >>> (f.width * i)) % 2 ^ f.width

/-- Element results placed as R76 gives, their flags ORed. -/
def fPack (f : Fmt) (n : Nat) (r : Nat → FRes) : LaneOut :=
  if n = 1 then ⟨BitVec.ofNat 64 (r 0).bits, (r 0).fl⟩
  else ⟨BitVec.ofNat 64 (packAt f.width (fun i => (r i).bits) n), (r 0).fl ||| (r 1).fl⟩

/-- A one-operand floating result. -/
def flt1 (ty rnd : Nat) (op : Fmt → FEnv → Nat → FRes) (x : LaneIn) : LaneOut :=
  let f := (fTy ty).1
  fPack f (fTy ty).2 (fun i => op f (envOf rnd x.mode) (fElem f x.l i))

/-- A two-operand floating result. -/
def flt2 (ty rnd : Nat) (op : Fmt → FEnv → Nat → Nat → FRes) (x : LaneIn) : LaneOut :=
  let f := (fTy ty).1
  fPack f (fTy ty).2 (fun i => op f (envOf rnd x.mode) (fElem f x.l i) (fElem f x.r i))

def faddV (ty rnd : Nat) (x : LaneIn) : LaneOut := flt2 ty rnd Fmt.add x
def fsubV (ty rnd : Nat) (x : LaneIn) : LaneOut := flt2 ty rnd Fmt.sub x
def fmulV (ty rnd : Nat) (x : LaneIn) : LaneOut := flt2 ty rnd Fmt.mul x
def ffmaV (ty rnd : Nat) (x : LaneIn) : LaneOut :=
  let f := (fTy ty).1
  fPack f (fTy ty).2 (fun i => f.fma (envOf rnd x.mode) (fElem f x.l i) (fElem f x.r i) (fElem f x.t i))
def fminV (ty rnd : Nat) (x : LaneIn) : LaneOut := flt2 ty rnd (fun f env a b => f.minMax env false a b) x
def fmaxV (ty rnd : Nat) (x : LaneIn) : LaneOut := flt2 ty rnd (fun f env a b => f.minMax env true a b) x
/-- R140: only the sign bit changes; no flag. -/
def fabsV (ty : Nat) (x : LaneIn) : LaneOut := flt1 ty 0 (fun f _ a => ⟨a % f.signBit, 0⟩) x
def fnegV (ty : Nat) (x : LaneIn) : LaneOut :=
  flt1 ty 0 (fun f _ a => ⟨if f.neg a then a - f.signBit else a + f.signBit, 0⟩) x
/-- R142. -/
def fcmpV (ty rnd c : Nat) (x : LaneIn) : LaneOut :=
  let f := (fTy ty).1
  let n := (fTy ty).2
  let r := fun i => f.cmp (envOf rnd x.mode) c (fElem f x.l i) (fElem f x.r i)
  ⟨boolElems f.width n (fun i => (r i).1), if n = 1 then (r 0).2 else (r 0).2 ||| (r 1).2⟩
/-- R143: a packed type holds element i's mask in bits [16i+9:16i]. -/
def fclassV (ty : Nat) (x : LaneIn) : LaneOut :=
  let f := (fTy ty).1
  ⟨BitVec.ofNat 64 (packAt 16 (fun i => f.classMask (fElem f x.l i)) (fTy ty).2), 0⟩

/-- R144: products in one format, the addend and result in FP32. -/
def dotV (rnd : Nat) (fl fr : Fmt) (n : Nat) (x : LaneIn) : LaneOut :=
  let env := envOf rnd x.mode
  let ls := (List.range n).map (fun i => fl.input env (fElem fl x.l i))
  let rs := (List.range n).map (fun i => fr.input env (fElem fr x.r i))
  let t := fp32.input env (fElem fp32 x.t 0)
  let ps := List.zipWith (fun a b => mulVal a.1 b.1) ls rs
  let s := sumVals env.rm (ps.map (·.1) ++ [t.1])
  let infl := (ls ++ rs ++ [t]).foldl (fun a v => a ||| v.2 ||| v.1.snanFlag) 0
  let pfl := ps.foldl (fun a v => a ||| v.2) 0
  let r := fp32.deliver env s.1 (infl ||| pfl ||| s.2)
  ⟨BitVec.ofNat 64 r.bits, r.fl⟩

def fdot2V (ty rnd : Nat) (x : LaneIn) : LaneOut := dotV rnd (fTy ty).1 (fTy ty).1 2 x
/-- R144: op bit 0 gives L's format, op bit 1 gives R's: 0 E4M3, 1 E5M2. -/
def fdot4V (rnd op : Nat) (x : LaneIn) : LaneOut :=
  dotV rnd (if op % 2 = 1 then e5m2 else e4m3) (if op / 2 % 2 = 1 then e5m2 else e4m3) 4 x

/-- A scalar FP32 function. -/
def sfn1 (op : FEnv → Nat → FRes) (x : LaneIn) : LaneOut :=
  let r := op (envOf 1 x.mode) (fElem fp32 x.l 0)
  ⟨BitVec.ofNat 64 r.bits, r.fl⟩

def frcpV (x : LaneIn) : LaneOut := sfn1 rcp32 x
def frsqV (x : LaneIn) : LaneOut := sfn1 rsq32 x
def fsqrtV (ty rnd : Nat) (x : LaneIn) : LaneOut := flt1 ty rnd Fmt.sqrt x
def fdivV (ty rnd : Nat) (x : LaneIn) : LaneOut := flt2 ty rnd Fmt.div x
def fexp2V (x : LaneIn) : LaneOut := sfn1 exp2f x
def flog2V (x : LaneIn) : LaneOut := sfn1 log2f x
def fsinV (x : LaneIn) : LaneOut := sfn1 (trigf false) x
def fcosV (x : LaneIn) : LaneOut := sfn1 (trigf true) x
def ftanhV (x : LaneIn) : LaneOut := sfn1 tanhf x
def frintV (ty rnd : Nat) (x : LaneIn) : LaneOut := flt1 ty rnd Fmt.rint x

/-- A result in the low bits of a slot. -/
def low (r : FRes) : LaneOut := ⟨BitVec.ofNat 64 r.bits, r.fl⟩

/-- A conversion of the low element from one format to a narrower one (R89), or to a wider one (R149). -/
def cvtNarrow (src dst : Fmt) (env : FEnv) (x : Word) : LaneOut :=
  let a := src.input env (fElem src x 0)
  let r := dst.narrow env a.1
  ⟨BitVec.ofNat 64 r.bits, r.fl ||| a.2⟩

def cvtWiden (src dst : Fmt) (env : FEnv) (x : Word) : LaneOut :=
  let a := src.input env (fElem src x 0)
  let r := dst.widen env a.1
  ⟨BitVec.ofNat 64 r.bits, r.fl ||| a.2⟩

/-- A floating value to an integer type (R90); an s32 result copies bit 31 upward (R148). -/
def cvtToInt (src : Fmt) (t : ITy) (env : FEnv) (x : Word) : LaneOut :=
  let a := src.input env (fElem src x 0)
  let r := toIntRes t.signed t.w env.rm a.1
  ⟨t.pack (fun _ => wrapTo t.w r.1), r.2 ||| a.2⟩

/-- An integer to a floating format (R90). -/
def cvtOfInt (t : ITy) (dst : Fmt) (env : FEnv) (x : Word) : LaneOut := low (dst.ofInt env (t.read x 0))

/-- R149, codes 20 to 23: the block scale of |L|. -/
def cvtScale (emax : Int) (env : FEnv) (x : Word) : LaneOut :=
  let a := fp32.input env (fElem fp32 x 0)
  match a.1 with
  | .nan _ | .inf _ => ⟨0xFF, a.2 ||| fIV⟩
  | .fin _ m e => ⟨BitVec.ofNat 64 (mxScaleOf emax m e), a.2⟩

/-- R149, code 24: an E8M0 scale as FP32. -/
def cvtE8m0 (env : FEnv) (x : Word) : LaneOut :=
  let c := bits x 7 0
  if c = 255 then ⟨BitVec.ofNat 64 fp32.cnan, 0⟩ else low (fp32.round env false 1 ((c : Int) - 127) false)

/-- R148: the conversion codes. -/
def cvtV (rnd c : Nat) (x : LaneIn) : LaneOut :=
  let env := envOf rnd x.mode
  match c with
  | 0 => cvtWiden fp32 fp64 env x.l
  | 1 => cvtNarrow fp64 fp32 env x.l
  | 2 => cvtNarrow fp32 bf16 env x.l
  | 3 => cvtNarrow fp32 fp16 env x.l
  | 4 => cvtWiden bf16 fp32 env x.l
  | 5 => cvtWiden fp16 fp32 env x.l
  | 6 => cvtToInt fp32 (ITy.ofCode 0) env x.l
  | 7 => cvtToInt fp32 (ITy.ofCode 1) env x.l
  | 8 => cvtToInt fp32 (ITy.ofCode 2) env x.l
  | 9 => cvtToInt fp32 (ITy.ofCode 3) env x.l
  | 10 => cvtOfInt (ITy.ofCode 0) fp32 env x.l
  | 11 => cvtOfInt (ITy.ofCode 1) fp32 env x.l
  | 12 => cvtOfInt (ITy.ofCode 2) fp32 env x.l
  | 13 => cvtOfInt (ITy.ofCode 3) fp32 env x.l
  | 14 => cvtToInt fp64 (ITy.ofCode 2) env x.l
  | 15 => cvtOfInt (ITy.ofCode 2) fp64 env x.l
  | 16 => cvtNarrow fp32 e4m3 env x.l
  | 17 => cvtNarrow fp32 e5m2 env x.l
  | 18 => cvtWiden e4m3 fp32 env x.l
  | 19 => cvtWiden e5m2 fp32 env x.l
  | 20 => cvtScale 8 env x.l
  | 21 => cvtScale 15 env x.l
  | 22 => cvtScale 4 env x.l
  | 23 => cvtScale 2 env x.l
  | _ => cvtE8m0 env x.l

/-- R70, R148: the conversion codes that need feature 10 at issue. -/
def cvtNeedsFP64 (c : Nat) : Bool := c == 0 || c == 1 || c == 14 || c == 15

/-- The element formats of R150, codes 0 to 4. -/
def mxFmt (c : Nat) : Fmt :=
  match c with
  | 0 => e4m3
  | 1 => e5m2
  | 2 => e3m2
  | 3 => e2m3
  | _ => e2m1

/-- R150: four FP32 values converted under the block scale X. -/
def cvtscV (rnd f : Nat) (scale : Nat) (x : LaneIn) : LaneOut :=
  let env := { envOf rnd x.mode with satp := false }
  let fmt := mxFmt f
  let src := fun (j : Nat) => fElem fp32 (if j < 2 then x.l else x.r) (j % 2)
  let r := fun (j : Nat) =>
    let a := fp32.input env (src j)
    if scale = 255 then (⟨0, a.2⟩ : FRes)
    else
      let q := fmt.narrow env (a.1.scale (127 - (scale : Int)))
      ⟨q.bits, q.fl ||| a.2⟩
  ⟨BitVec.ofNat 64 (packAt fmt.width (fun j => (r j).bits) 4), (r 0).fl ||| (r 1).fl ||| (r 2).fl ||| (r 3).fl⟩

end Sys2Proof.Machine
end

