-- ==== Sys2Proof/Machine/IntOps.lean ====
section
/-!
DEFINITION. The results of class INT for one seat (R133 to R139), and integer division (R147).
-/
namespace Sys2Proof.Machine

/-- An exact result of two operands (R134). -/
def intBin (t : ITy) (sat : Bool) (op : Int → Int → Int) (x : LaneIn) : Word :=
  t.result sat (fun i => op (t.read x.l i) (t.read x.r i))

def iaddV (t : ITy) (sat : Bool) (x : LaneIn) : Word := intBin t sat (· + ·) x
def isubV (t : ITy) (sat : Bool) (x : LaneIn) : Word := intBin t sat (· - ·) x
def imulV (t : ITy) (sat : Bool) (x : LaneIn) : Word := intBin t sat (· * ·) x
/-- Bits [2w−1:w] of the exact product (R134). -/
def imulhV (t : ITy) (x : LaneIn) : Word := intBin t false (fun a b => (a * b) / (2 ^ t.w : Int)) x
def imadV (t : ITy) (sat : Bool) (x : LaneIn) : Word :=
  t.result sat (fun i => t.read x.l i * t.read x.r i + t.read x.t i)
def iminV (t : ITy) (x : LaneIn) : Word := intBin t false (fun a b => if a ≤ b then a else b) x
def imaxV (t : ITy) (x : LaneIn) : Word := intBin t false (fun a b => if a ≤ b then b else a) x
def iabsV (t : ITy) (sat : Bool) (x : LaneIn) : Word := t.result sat (fun i => ((t.read x.l i).natAbs : Int))
def inegV (t : ITy) (sat : Bool) (x : LaneIn) : Word := t.result sat (fun i => - t.read x.l i)

/-- A bitwise result of the element patterns. -/
def intPat (t : ITy) (f : Nat → Nat) : Word := t.pack f

def andV (t : ITy) (x : LaneIn) : Word := intPat t (fun i => t.raw x.l i &&& t.raw x.r i)
def orV (t : ITy) (x : LaneIn) : Word := intPat t (fun i => t.raw x.l i ||| t.raw x.r i)
def xorV (t : ITy) (x : LaneIn) : Word := intPat t (fun i => t.raw x.l i ^^^ t.raw x.r i)
def andnV (t : ITy) (x : LaneIn) : Word := intPat t (fun i => t.raw x.l i &&& (2 ^ t.w - 1 - t.raw x.r i))
def notV (t : ITy) (x : LaneIn) : Word := intPat t (fun i => 2 ^ t.w - 1 - t.raw x.l i)

/-- R135: the shift count of element i. -/
def shiftCount (t : ITy) (x : LaneIn) (i : Nat) : Nat := t.raw x.r i % t.w

def shlV (t : ITy) (x : LaneIn) : Word := intPat t (fun i => t.raw x.l i * 2 ^ shiftCount t x i)
def shrV (t : ITy) (x : LaneIn) : Word := intPat t (fun i => t.raw x.l i / 2 ^ shiftCount t x i)
def sarV (t : ITy) (x : LaneIn) : Word :=
  intPat t (fun i => wrapTo t.w (toSigned t.w (t.raw x.l i) / (2 ^ shiftCount t x i : Int)))
def rotV (t : ITy) (x : LaneIn) : Word :=
  intPat t (fun i => t.raw x.l i * 2 ^ shiftCount t x i + t.raw x.l i / 2 ^ (t.w - shiftCount t x i))

/-- R136: position and in-range length of the field. -/
def bfPos (x : LaneIn) : Nat := bits x.r 7 0
def bfLen (t : ITy) (x : LaneIn) : Nat := Nat.min (bits x.r 15 8) (t.w - bfPos x)

def bfxV (t : ITy) (x : LaneIn) : Word :=
  let n := bfLen t x
  let f := t.raw x.l 0 / 2 ^ bfPos x % 2 ^ n
  t.pack (fun _ => if n = 0 then 0 else if t.signed then wrapTo t.w (toSigned n f) else f)

def bfiV (t : ITy) (x : LaneIn) : Word :=
  let n := bfLen t x
  let tv := t.raw x.t 0
  let old := tv / 2 ^ bfPos x % 2 ^ n
  t.pack (fun _ => if n = 0 then tv else tv - old * 2 ^ bfPos x + t.raw x.l 0 % 2 ^ n * 2 ^ bfPos x)

def popcV (t : ITy) (x : LaneIn) : Word := intPat t (fun i => popCount t.w (t.raw x.l i))
def clzV (t : ITy) (x : LaneIn) : Word := intPat t (fun i => t.w - bitLen (t.raw x.l i))
def brevV (t : ITy) (x : LaneIn) : Word := intPat t (fun i => revBits t.w (t.raw x.l i))

/-- R137: conditions 0 to 5. -/
def icmpHolds (c : Nat) (a b : Int) : Bool :=
  match c with
  | 0 => decide (a = b)
  | 1 => decide (a ≠ b)
  | 2 => decide (a < b)
  | 3 => decide (a ≤ b)
  | 4 => decide (a > b)
  | _ => decide (a ≥ b)

def icmpV (t : ITy) (c : Nat) (x : LaneIn) : Word :=
  boolElems t.w t.n (fun i => icmpHolds c (t.read x.l i) (t.read x.r i))

def selV (t : ITy) (x : LaneIn) : Word :=
  let v := if bit x.p 0 then x.l else x.r
  t.pack (fun i => t.raw v i)

def movV (x : LaneIn) : Word := x.l

/-- R138: the address adder. -/
def addxV (t : ITy) (scale : Nat) (x : LaneIn) : Word :=
  wordOfInt ((x.l.toNat : Int) + t.read x.r 0 * 2 ^ scale + (x.t.toNat : Int))

/-- R139. -/
def sext16 (i : BitVec 16) : Word := i.signExtend 64
def constV (i : BitVec 16) (_ : LaneIn) : Word := sext16 i
def conshV (i : BitVec 16) (x : LaneIn) : Word := setBits x.l 63 48 i.toNat
def conswV (i : BitVec 16) (x : LaneIn) : Word := BitVec.ofNat 64 (x.l.toNat * 65536 + i.toNat)
def iaddiV (i : BitVec 16) (x : LaneIn) : Word := x.l + sext16 i

/-- R147: the quotient, after the saturating choice for the one overflowing case, and the remainder. -/
def idivQ (t : ITy) (sat : Bool) (a b : Int) : Int :=
  if b = 0 then (if t.signed then (if a ≥ 0 then t.max else t.min) else t.max)
  else if t.signed && a = t.min && b = -1 then (if sat then t.max else t.min)
  else a.tdiv b

def idivR (a b : Int) : Int := if b = 0 then a else a.tmod b

def idivV (t : ITy) (sat : Bool) (x : LaneIn) : Word :=
  t.result false (fun i => idivQ t sat (t.read x.l i) (t.read x.r i))
def iremV (t : ITy) (x : LaneIn) : Word := intBin t false idivR x

end Sys2Proof.Machine
end

