-- ==== Sys2Proof/Machine/CarryOps.lean ====
section
/-!
DEFINITION. Recipes, bindings and writes to carried registers (R190 to R206), and the entries of a block header (R50).
-/
namespace Sys2Proof.Machine

/-! ## Block headers (R48 to R50) -/

def h0Inputs (h0 : Nat) : Nat := natBits h0 21 18
def h0Reads (h0 : Nat) : Nat := natBits h0 17 14
def h0Writes (h0 : Nat) : Nat := natBits h0 13 10
def h0DCount (h0 : Nat) : Nat := natBits h0 9 8
def h0Timer (h0 : Nat) : Nat := natBits h0 7 5
def h0Reduce (h0 : Nat) : Bool := h0.testBit 4

/-- Payload words H1 declares for an input slot (R49). -/
def h1PWords (h1 slot : Nat) : Nat := natBits h1 (17 + 2 * slot) (16 + 2 * slot)
def h1Demand (h1 : Nat) : Nat := natBits h1 15 8

/-- Entry n of a block: 16 bits (R50). -/
def blockEntry (words : List IWord) (n : Nat) : Nat :=
  let w := (words.getD (2 + n / 2) 0).toNat
  if n % 2 = 0 then w / 2 ^ 16 else w % 2 ^ 16

/-- The entries of a block: INPUTS + READS + WRITES. -/
def entryCount (h0 : Nat) : Nat := h0Inputs h0 + h0Reads h0 + h0Writes h0

/-- The read entries of a block: E, register, target (R50). -/
def readEntries (words : List IWord) : List (Bool × Nat × Nat) :=
  let h0 := (words.getD 0 0).toNat
  (List.range (h0Reads h0)).map (fun k =>
    let e := blockEntry words (h0Inputs h0 + k)
    (e.testBit 15, natBits e 14 8, natBits e 7 0))

/-- The write entries of a block: register and producing instruction (R50). -/
def writeEntries (words : List IWord) : List (Nat × Nat) :=
  let h0 := (words.getD 0 0).toNat
  (List.range (h0Writes h0)).map (fun k =>
    let e := blockEntry words (h0Inputs h0 + h0Reads h0 + k)
    (natBits e 14 8, natBits e 7 2))

/-- Registers that the train's next instruction writes through write entries (R192). -/
def Train.writeRegs (t : Train) : List Nat :=
  ((writeEntries (t.words.getD [])).filter (fun e => e.2 == t.pc)).map (·.1)

/-! ## Recipe bodies (R197 to R199) -/

/-- The result of an operation a recipe can hold (R198): a format-A opcode of class INT, FLT or SFN other than `sel`. For `cvtsc`
the scale is byte J of the operation's own T (log 14). -/
def recipeFn : Instr → LaneIn → LaneOut
  | .iadd _ _ t s, x => ⟨iaddV (ITy.ofCode t.toNat) (s == 1) x, 0⟩
  | .isub _ _ t s, x => ⟨isubV (ITy.ofCode t.toNat) (s == 1) x, 0⟩
  | .imul _ _ t s, x => ⟨imulV (ITy.ofCode t.toNat) (s == 1) x, 0⟩
  | .imulh _ _ t, x => ⟨imulhV (ITy.ofCode t.toNat) x, 0⟩
  | .imad _ _ t s, x => ⟨imadV (ITy.ofCode t.toNat) (s == 1) x, 0⟩
  | .imin _ _ t, x => ⟨iminV (ITy.ofCode t.toNat) x, 0⟩
  | .imax _ _ t, x => ⟨imaxV (ITy.ofCode t.toNat) x, 0⟩
  | .iabs _ _ t s, x => ⟨iabsV (ITy.ofCode (2 * t.toNat)) (s == 1) x, 0⟩
  | .ineg _ _ t s, x => ⟨inegV (ITy.ofCode (2 * t.toNat)) (s == 1) x, 0⟩
  | .iand _ _ t, x => ⟨andV (ITy.ofCode (2 * t.toNat + 1)) x, 0⟩
  | .ior _ _ t, x => ⟨orV (ITy.ofCode (2 * t.toNat + 1)) x, 0⟩
  | .ixor _ _ t, x => ⟨xorV (ITy.ofCode (2 * t.toNat + 1)) x, 0⟩
  | .andn _ _ t, x => ⟨andnV (ITy.ofCode (2 * t.toNat + 1)) x, 0⟩
  | .inot _ _ t, x => ⟨notV (ITy.ofCode (2 * t.toNat + 1)) x, 0⟩
  | .shl _ _ t, x => ⟨shlV (ITy.ofCode (2 * t.toNat + 1)) x, 0⟩
  | .shr _ _ t, x => ⟨shrV (ITy.ofCode (2 * t.toNat + 1)) x, 0⟩
  | .sar _ _ t, x => ⟨sarV (ITy.ofCode (2 * t.toNat)) x, 0⟩
  | .rot _ _ t, x => ⟨rotV (ITy.ofCode (2 * t.toNat + 1)) x, 0⟩
  | .bfx _ _ t, x => ⟨bfxV (ITy.ofCode t.toNat) x, 0⟩
  | .bfi _ _ t, x => ⟨bfiV (ITy.ofCode (2 * t.toNat + 1)) x, 0⟩
  | .popc _ _ t, x => ⟨popcV (ITy.ofCode (2 * t.toNat + 1)) x, 0⟩
  | .clz _ _ t, x => ⟨clzV (ITy.ofCode (2 * t.toNat + 1)) x, 0⟩
  | .brev _ _ t, x => ⟨brevV (ITy.ofCode (2 * t.toNat + 1)) x, 0⟩
  | .icmp _ _ t c, x => ⟨icmpV (ITy.ofCode t.toNat) c.toNat x, 0⟩
  | .mov _ _, x => ⟨movV x, 0⟩
  | .addx _ _ t k, x => ⟨addxV (ITy.ofCode t.toNat) k.toNat x, 0⟩
  | .fadd _ _ r t, x => faddV t.toNat r.toNat x
  | .fsub _ _ r t, x => fsubV t.toNat r.toNat x
  | .fmul _ _ r t, x => fmulV t.toNat r.toNat x
  | .ffma _ _ r t, x => ffmaV t.toNat r.toNat x
  | .fmin _ _ r t, x => fminV t.toNat r.toNat x
  | .fmax _ _ r t, x => fmaxV t.toNat r.toNat x
  | .fabs _ _ _ t, x => fabsV t.toNat x
  | .fneg _ _ _ t, x => fnegV t.toNat x
  | .fcmp _ _ r t c, x => fcmpV t.toNat r.toNat c.toNat x
  | .fclass _ _ _ t, x => fclassV t.toNat x
  | .fdot2 _ _ r t, x => fdot2V (2 + t.toNat) r.toNat x
  | .fdot4 _ _ r f, x => fdot4V r.toNat f.toNat x
  | .frcp _ _ _, x => frcpV x
  | .frsq _ _ _, x => frsqV x
  | .fsqrt _ _ r t, x => fsqrtV t.toNat r.toNat x
  | .fdiv _ _ r t, x => fdivV t.toNat r.toNat x
  | .fexp2 _ _ _, x => fexp2V x
  | .flog2 _ _ _, x => flog2V x
  | .fsin _ _ _, x => fsinV x
  | .fcos _ _ _, x => fcosV x
  | .ftanh _ _ _, x => ftanhV x
  | .frint _ _ r t, x => frintV t.toNat r.toNat x
  | .cvt _ _ r c, x => cvtV r.toNat c.toNat x
  | .cvtsc _ _ r f j, x => cvtscV r.toNat f.toNat (bits x.t (8 * j.toNat + 7) (8 * j.toNat)) x
  | .idiv _ _ t s, x => ⟨idivV (ITy.ofCode t.toNat) (s == 1) x, 0⟩
  | .irem _ _ t, x => ⟨iremV (ITy.ofCode t.toNat) x, 0⟩
  | _, _ => ⟨0, 0⟩

/-- Descriptor n of a recipe body (R197, R199). -/
def rcpDesc (body : List IWord) (n : Nat) : Nat :=
  let w := (body.getD (5 + n / 2) 0).toNat
  if n % 2 = 0 then w / 2 ^ 16 else w % 2 ^ 16

/-- R201: the carried registers a recipe's descriptors name, address registers included, in descriptor order. -/
def rcpSources (body : List IWord) : List Nat :=
  dedup (((List.range 6).map (rcpDesc body)).filterMap (fun d =>
    if natBits d 15 13 = 1 ∨ natBits d 15 13 = 4 then some (natBits d 6 0) else none))

/-- Outcome of a recipe's load or evaluation: a value with flags, a TLB miss, or a failure with REASON, address and address
register (R205); REASON 0 stands for a source register with an uncorrectable error (R129). -/
inductive RcpRes where
  | ok (v : Word) (fl : Flags)
  | miss (va : Nat)
  | fail (reason va reg : Nat)
deriving DecidableEq, Repr

/-- R199: an immutable load. -/
def State.rcpLoad (s : State) (c asid : Nat) (failed : List (Nat × Nat)) (f : Frame) (d : Nat) : RcpRes :=
  let n := 2 ^ natBits d 12 11
  let reg := natBits d 6 0
  let va := (f.reg reg).toNat + natBits d 10 7 * n
  if (s.core c).regErr f reg then .fail 0 0 reg
  else if va % n != 0 || !vaOk va then .fail 4 va reg
  else
    match failedCode failed va with
    | some _ => .fail 6 va reg
    | none =>
      match s.tlbHit c asid va with
      | none => .miss va
      | some e =>
        if !leafRD e.leaf || !leafIMM e.leaf || leafRemote e.leaf || !physOk (e.phys va) n then .fail 4 va reg
        else if granuleBad s.bad (e.phys va) n then .fail 6 va reg
        else .ok (BitVec.ofNat 64 (s.mem.readNat (e.phys va) n)) 0

/-- R199: the value a descriptor supplies. -/
def State.rcpOperand (s : State) (c h : Nat) (failed : List (Nat × Nat)) (f : Frame) (d : Nat) : RcpRes :=
  match natBits d 15 13 with
  | 1 => if (s.core c).regErr f (natBits d 6 0) then .fail 0 0 (natBits d 6 0) else .ok (f.reg (natBits d 6 0)) 0
  | 2 => .ok (wordOfInt (toSigned 13 (natBits d 12 0))) 0
  | 3 =>
    let tag := mkTag f.asid s.link.device c h 0
    match natBits d 2 0 with
    | 0 => .ok tag 0
    | 1 => .ok (BitVec.ofNat 64 (tagHandle tag)) 0
    | 2 => .ok (BitVec.ofNat 64 f.gen) 0
    | 3 => .ok (BitVec.ofNat 64 c) 0
    | _ => .ok (BitVec.ofNat 64 s.link.device) 0
  | 4 => s.rcpLoad c f.asid failed f d
  | _ => .ok 0 0

/-- The six operands of a recipe; the first that misses or fails decides. A load descriptor is loaded also where no operation refers to it
(log 49). -/
def State.rcpOperands (s : State) (c h : Nat) (failed : List (Nat × Nat)) (f : Frame) :
    List Nat → Except RcpRes (List Word)
  | [] => .ok []
  | d :: ds =>
    match s.rcpOperand c h failed f d with
    | .ok v _ =>
      match State.rcpOperands s c h failed f ds with
      | .ok vs => .ok (v :: vs)
      | .error e => .error e
    | e => .error e

/-- A source code of R198: zero, a descriptor's value, or an earlier result. -/
def rcpSource (ds rs : List Word) (code : Nat) : Word :=
  if code = 0 then 0 else if code ≤ 6 then ds.getD (code - 1) 0 else rs.getD (code - 8) 0

/-- The operations of a recipe in order (R198); flags are ORed. -/
def rcpOps (ds : List Word) (mode : Word) : List IWord → List Word → Flags → Word × Flags
  | [], rs, fl => (rs.getLastD 0, fl)
  | w :: ws, rs, fl =>
    let n := w.toNat
    let x : LaneIn := { l := rcpSource ds rs (natBits n 19 16), r := rcpSource ds rs (natBits n 15 12),
                        t := rcpSource ds rs (natBits n 11 8), p := 0, mode := mode }
    let o : LaneOut :=
      match decodeWord (natBits n 31 28) (BitVec.ofNat 32 (natBits n 27 20 * 2 ^ 24 + natBits n 7 0)) with
      | .ok i => recipeFn i x
      | .error _ => ⟨0, 0⟩
    rcpOps ds mode ws (rs ++ [o.val]) (fl ||| o.fl)

/-- R198, R202, R203: a recipe evaluated for a frame under a captured mode. -/
def State.rcpEval (s : State) (c h : Nat) (failed : List (Nat × Nat)) (f : Frame) (body : List IWord) (mode : Word) : RcpRes :=
  match s.rcpOperands c h failed f ((List.range 6).map (rcpDesc body)) with
  | .error e => e
  | .ok ds =>
    let nops := natBits (body.getD 0 0).toNat 27 26 + 1
    let r := rcpOps ds mode ((body.drop 1).take nops) [] 0
    .ok r.1 r.2

/-- The body of a recipe of an image on a core (R196). -/
def Core.recipe? (k : Core) (asid prog rcp : Nat) : Option (List IWord) :=
  (k.recipes.find? (fun r => r.asid == asid && r.prog == prog && r.rcp == rcp)).map (·.body)

/-- R203: what a read of a dropped register rebuilds, its sources taken as they stand. -/
def State.replayOf (s : State) (c : Nat) (f : Frame) (b : Binding) : Replay :=
  let srcs := match (s.core c).recipe? f.asid f.prog b.rcp with
    | some body => rcpSources body
    | none => []
  ⟨b.rcp, b.mode, f.regs.filter (fun e => srcs.contains e.1)⟩

/-- R203: a replay, from the sources it has captured. -/
def State.rebuild (s : State) (c h : Nat) (failed : List (Nat × Nat)) (f : Frame) (x : Replay) : RcpRes :=
  match (s.core c).recipe? f.asid f.prog x.rcp with
  | some body => s.rcpEval c h failed { f with regs := x.srcs } body x.mode
  | none => .fail 6 0 0

/-- R203: DETAIL of `RECIPE_FAULT`. -/
def recipeDetail (reg va : Nat) : Nat := reg * 2 ^ 57 + va % 2 ^ 57

/-- Outcome of preparing a write to a register: the frame after it with the number of replays, a TLB miss, RECIPE_FAULT, or a lent slot that
is not free yet. -/
inductive Prep where
  | ok (f : Frame) (n : Nat)
  | miss (va : Nat)
  | fault (detail : Nat)
  | busy
deriving DecidableEq, Repr

/-- Replays counted beside those of an outcome. -/
def Prep.plus (n : Nat) : Prep → Prep
  | .ok f m => .ok f (n + m)
  | p => p

/-- The dropped value of a binding rebuilt and stored back, once its slot is free (R203, R204). -/
def State.materialise (s : State) (c h : Nat) (failed : List (Nat × Nat)) (f : Frame) (b : Binding) : Prep :=
  if b.dropped then
    match s.rebuild c h failed f (s.replayOf c f b) with
    | .ok v _ => if (s.core c).slotFree h f then .ok (f.storeBack b.reg v) 1 else .busy
    | .miss va => .miss va
    | .fail _ va _ => .fault (recipeDetail b.reg va)
  else .ok f 0

/-- Several bindings rebuilt in turn. -/
def State.materialiseAll (s : State) (c h : Nat) (failed : List (Nat × Nat)) : Frame → List Binding → Prep
  | f, [] => .ok f 0
  | f, b :: bs =>
    match s.materialise c h failed f b with
    | .ok f' n => (State.materialiseAll s c h failed f' bs).plus n
    | p => p

/-- Bindings of a frame whose recipe has g among its sources (R201). -/
def State.dependants (s : State) (c : Nat) (f : Frame) (g : Nat) : List Binding :=
  f.binds.filter (fun b =>
    match (s.core c).recipe? f.asid f.prog b.rcp with
    | some body => (rcpSources body).contains g
    | none => false)

/-- R204: what happens before a write to register g takes effect; `own` says the write is `rcpset` or `rcpclr`, which deal with
g's binding themselves. Where g itself is dropped and its slot is still lent, the write does not wait for the slot (log 59). -/
def State.prepWrite (s : State) (c h : Nat) (failed : List (Nat × Nat)) (f : Frame) (g : Nat) (own : Bool) : Prep :=
  let deps := s.dependants c f g
  match s.materialiseAll c h failed f deps with
  | .ok f1 n =>
    let f2 := { f1 with binds := f1.binds.filter (fun b => !deps.any (fun d => d.reg == b.reg)) }
    .ok (if own then f2 else { f2 with binds := f2.binds.filter (fun b => b.reg != g) }) n
  | p => p

/-- Writes of several registers prepared in turn. -/
def State.prepWrites (s : State) (c h : Nat) (failed : List (Nat × Nat)) : Frame → List Nat → Prep
  | f, [] => .ok f 0
  | f, g :: gs =>
    match s.prepWrite c h failed f g false with
    | .ok f' n => (State.prepWrites s c h failed f' gs).plus n
    | p => p

/-- A frame as a preparation leaves it, its replays counted (R284). -/
def State.setPrepared (s : State) (c h : Nat) (f : Frame) (n : Nat) : State :=
  if n = 0 then s.setFrame c h f else (s.setFrame c h f).countEvt c 11 n

/-- Seats in tag order of their instances, in which the instances of one frame act (R193). -/
def seatsByTag (s : State) (c : Nat) (xs : List Seat) : List Seat :=
  sortBy (fun a b => tagWordLe (s.tagOf c a.inst) (s.tagOf c b.inst)) xs

/-- Reads waiting for a register that has become full take its value, which lands in the next cycle (R191, R195). -/
def State.fillWaits (s : State) (c h g : Nat) : State :=
  let v := (s.frame c h).reg g
  s.updCore c (fun k =>
    let mine := fun (w : RegWait) => w.handle == h && w.reg == g && w.replay.isNone
    let due := k.regWaits.filter mine
    let lates := due.map (fun w =>
      (⟨s.cyc.toNat + 1, w.train, w.seat, h, w.targets.map (fun t => (t, v)), w.regs, v, 0, w.opId, .own⟩ : Late))
    { k with regWaits := k.regWaits.filter (fun w => !mine w), late := k.late ++ lates })

/-- A carried register takes a value at once and is full (R192, R195); the write becomes the register's latest (R193). -/
def State.writeReg (s : State) (c h g : Nat) (v : Word) : State :=
  (s.updFrame c h (fun f => { f.setReg g v with writer := NMap.erase f.writer g })).fillWaits c h g

/-- R193: whether an instruction of pipe 1 has already written a register in the cycle in which one of pipe 0 writes it: pipe 0's write comes
first, so that the other remains. -/
def State.overtaken (s : State) (c : Nat) (t : Train) (h g : Nat) : Bool := t.pipe == 0 && (s.frame c h).wrote.contains g

/-- A write of pipe 1 noted for the cycle (R193). -/
def State.noteWrite (s : State) (c : Nat) (t : Train) (h g : Nat) : State :=
  if t.pipe == 1 then s.updFrame c h (fun f => { f with wrote := if f.wrote.contains g then f.wrote else f.wrote ++ [g] }) else s

/-- R192, R193: an instruction writes a carried register in its issue cycle. -/
def State.issueWrite (s : State) (c : Nat) (t : Train) (h g : Nat) (v : Word) : State :=
  if s.overtaken c t h g then s else (s.writeReg c h g v).noteWrite c t h g

/-- R192, R193: a late producer issues for a seat: the register is empty until the operation lands. Of the seats of one instruction the last in
tag order, which in one frame is the highest index, is the register's latest writer, in whatever order they are issued. -/
def State.pendReg (s : State) (c : Nat) (t : Train) (x : Seat) (g op : Nat) : State :=
  if s.overtaken c t x.inst.handle g then s
  else (s.updFrame c x.inst.handle (fun f =>
    let later := match NMap.get? f.writer g with
      | some w => w.train == t.uid && w.pc == t.pc && decide (x.inst.idx < w.idx)
      | none => false
    if later then f.empty g else { f.empty g with writer := NMap.set f.writer g ⟨op, t.uid, t.pc, x.inst.idx⟩ })).noteWrite c t x.inst.handle g

/-- A late result reaches its register, unless a later write has taken effect (R193). -/
def State.landReg (s : State) (c h g op : Nat) (v : Word) : State :=
  if (NMap.get? (s.frame c h).writer g).map (·.op) = some op then s.writeReg c h g v else s

end Sys2Proof.Machine
end

