-- ==== Sys2Proof/Machine/Image.lean ====
section
/-!
DEFINITION. Reading program images and blocks (R22, R42 to R57).
-/
namespace Sys2Proof.Machine

/-- n bytes of an image at an offset from PROG_BASE, little-endian, read with execute permission (R46). -/
def State.imgNat (s : State) (asid prog off n : Nat) : Option Nat := (s.readVirt asid .fetch (n / 8192 + 2) (prog + off) n).map ofLE

/-- One 32-bit word of an image. -/
def State.imgWord (s : State) (asid prog off : Nat) : Option IWord := (s.imgNat asid prog off 4).map (BitVec.ofNat 32)

/-- The image header (R42). -/
structure ImgHeader where
  magic : Nat
  version : Nat
  features : Nat
  size : Nat
  blockOff : Nat
  blockCount : Nat
  destOff : Nat
  destCount : Nat
  rcpOff : Nat
  rcpCount : Nat
  dataOff : Nat
  dataSize : Nat
deriving DecidableEq, Repr

/-- R42: the header's fields. -/
def ImgHeader.of (n : Nat) : ImgHeader :=
  { magic := natBits n 31 0, version := natBits n 47 32, features := natBits n 127 64, size := natBits n 159 128,
    blockOff := natBits n 191 160, blockCount := natBits n 208 192, destOff := natBits n 255 224,
    destCount := natBits n 268 256, rcpOff := natBits n 319 288, rcpCount := natBits n 344 336,
    dataOff := natBits n 383 352, dataSize := natBits n 415 384 }

def State.imgHeader (s : State) (asid prog : Nat) : Option ImgHeader := (s.imgNat asid prog 0 64).map ImgHeader.of

/-- R22: a destination-table entry: block and slot. -/
def State.imgDest (s : State) (asid prog idx : Nat) : Option (Nat × Nat) :=
  match s.imgHeader asid prog with
  | some h =>
    if idx < h.destCount then
      (s.imgWord asid prog (h.destOff + 4 * idx)).map (fun w => (natBits w.toNat 18 3, natBits w.toNat 2 0))
    else none
  | none => none

/-- DEST_COUNT of a program (R42). -/
def State.destCount (s : State) (asid prog : Nat) : Nat := ((s.imgHeader asid prog).map (·.destCount)).getD 0

/-- The offset of a block (R43). -/
def State.blockOffset (s : State) (asid prog block : Nat) : Option Nat :=
  match s.imgHeader asid prog with
  | some h => if block < h.blockCount then (s.imgNat asid prog (h.blockOff + 4 * block) 4) else none
  | none => none

/-- H0 and H1 of a block (R48, R49). -/
def State.blockHead (s : State) (asid prog block : Nat) : Option (Nat × Nat) :=
  match s.blockOffset asid prog block with
  | some off => (s.imgNat asid prog off 8).map (fun n => (n % 2 ^ 32, n / 2 ^ 32))
  | none => none

/-- An instruction of a block as its clause gives it: class, word, the wait mask when it is the first of its clause (R57), and the
place of the word in the block. -/
structure BInstr where
  cls : Nat
  word : IWord
  wait : Nat
  place : Nat
deriving DecidableEq, Repr

/-- The instructions of one clause. -/
def clauseInstrs (cls wait place : Nat) : List IWord → List BInstr
  | [] => []
  | w :: ws => ⟨cls, w, wait, place⟩ :: clauseInstrs cls 0 (place + 1) ws

/-- The instructions of a block in order (R47, R55, R56). -/
def splitClauses : Nat → Nat → List IWord → List BInstr
  | 0, _, _ => []
  | _, _, [] => []
  | fuel + 1, place, h :: ws =>
    let n := natBits h.toNat 31 28
    clauseInstrs (natBits h.toNat 27 24) (natBits h.toNat 23 16) (place + 1) (ws.take n) ++
      splitClauses fuel (place + 1 + n) (ws.drop n)

/-- The instructions of a fetched block. -/
def blockInstrs (words : List IWord) : List BInstr :=
  let skip := 2 + (entryCount (words.getD 0 0).toNat + 1) / 2
  splitClauses 64 skip (words.drop skip)

/-- The train's next instruction. -/
def Train.next? (t : Train) : Option BInstr := (blockInstrs (t.words.getD []))[t.pc - 1]?

/-- R186: the outward instructions, apart from producers of write entries. -/
def isOutward : Instr → Bool
  | .st .. | .sts .. | .stmx .. | .tst .. | .atom .. | .atoms .. | .cas .. | .futst .. => true
  | .futld _ _ _ _ k _ => k == 1
  | .send .. | .sendsel .. | .switch .. | .spawn .. | .ret .. => true
  | _ => false

/-- R186: the next instruction of a train is outward: of one of these forms, or the producer of a write entry. -/
def Train.nextOutward (t : Train) : Bool :=
  (match t.next? with
   | some b => match decodeWord b.cls b.word with | .ok i => isOutward i | .error _ => false
   | none => false) || (writeEntries (t.words.getD [])).any (fun e => e.2 == t.pc)

/-- R186: whether the block holds an outward instruction with a lower index than the next instruction. -/
def Train.outwardBefore (t : Train) : Bool :=
  let ws := t.words.getD []
  ((blockInstrs ws).take (t.pc - 1)).any (fun b =>
    match decodeWord b.cls b.word with
    | .ok i => isOutward i
    | .error _ => false) ||
  (writeEntries ws).any (fun e => decide (e.2 < t.pc))

end Sys2Proof.Machine
end

