-- ==== Sys2Proof/Machine/XlnOps.lean ====
section
/-!
DEFINITION. The results of class XLN over the active seats of a train or team (R151 to R157), and tag-order folds (R98).
-/
namespace Sys2Proof.Machine

/-- One active seat as a cross-lane instruction sees it: its seat number, operands, tag index, frame handle (tag bits
[54:24], R15) and stage. -/
structure XSeat where
  seat : Nat
  inp : LaneIn
  idx : Nat
  handle : Nat
  stage : Nat
deriving DecidableEq, Repr

/-- Tag order: ascending index, ties by frame handle (R8, R15). Two seats that hold instances of one key (R26) have the same tag, and the spec
gives them no order: `reduce` takes them in seat order, `scan` leaves each out of the other's prefix, and `tagord` gives them one rank
(DESIGN CHOICE, log 16). -/
def tagLe (a b : XSeat) : Bool := a.idx < b.idx || (a.idx == b.idx && a.handle ≤ b.handle)
def tagLt (a b : XSeat) : Bool := a.idx < b.idx || (a.idx == b.idx && a.handle < b.handle)

def tagSort (xs : List XSeat) : List XSeat := sortBy tagLe xs

def seatOf (xs : List XSeat) (n : Nat) : Option XSeat := xs.find? (fun x => x.seat == n)

/-- Lowest active seat. -/
def firstSeat (xs : List XSeat) : Nat :=
  match xs with
  | [] => 0
  | x :: rest => rest.foldl (fun m y => Nat.min m y.seat) x.seat

/-- R152: the fill value of a shuffle. -/
def shufFill (f : Nat) (x : XSeat) : Word :=
  match f with
  | 1 => x.inp.l
  | 2 => x.inp.t
  | _ => 0

/-- R152: L of seat j, or the fill when j is out of range or inactive. -/
def shufTake (n f : Nat) (xs : List XSeat) (x : XSeat) (j : Int) : LaneOut :=
  if j < 0 ∨ j ≥ (n : Int) then ⟨shufFill f x, 0⟩
  else
    match seatOf xs j.toNat with
    | some y => ⟨y.inp.l, 0⟩
    | none => ⟨shufFill f x, 0⟩

def shflV (n f : Nat) (xs : List XSeat) (x : XSeat) : LaneOut := shufTake n f xs x x.inp.r.toNat
def shflxV (n f : Nat) (xs : List XSeat) (x : XSeat) : LaneOut :=
  shufTake n f xs x ((x.seat ^^^ (x.inp.r.toNat % 1024) : Nat) : Int)
def shflupV (n f : Nat) (xs : List XSeat) (x : XSeat) : LaneOut :=
  shufTake n f xs x ((x.seat : Int) - (x.inp.r.toNat : Int))
def shfldnV (n f : Nat) (xs : List XSeat) (x : XSeat) : LaneOut :=
  shufTake n f xs x ((x.seat : Int) + (x.inp.r.toNat : Int))
def bcastV (n f : Nat) (xs : List XSeat) (x : XSeat) : LaneOut :=
  match seatOf xs (firstSeat xs) with
  | some y => shufTake n f xs x y.inp.r.toNat
  | none => ⟨shufFill f x, 0⟩

/-- The mask of seats of a mask word that satisfy a test. -/
def maskOf (w : Nat) (p : XSeat → Bool) (xs : List XSeat) : Nat :=
  xs.foldl (fun m y => if y.seat / 32 = w && p y then m + 2 ^ (y.seat % 32) else m) 0

/-- R153: vote. -/
def voteV (o : Nat) (xs : List XSeat) (x : XSeat) : LaneOut :=
  let p := fun (y : XSeat) => bit y.inp.l 0
  let v :=
    match o with
    | 0 => b2n (xs.all p)
    | 1 => b2n (xs.any p)
    | 2 => maskOf (x.seat / 32) p xs
    | _ => (xs.filter p).length
  ⟨BitVec.ofNat 64 v, 0⟩

/-- The value a seat supplies to a fold: L[31:0] (R153). -/
def xval (y : XSeat) : Nat := bits y.inp.l 31 0

/-- The environment of the steps of a fold (R154): RNE and no flush, but FTZI of the receiving seat's MODE for the minimum and maximum, which
follow R141. -/
def foldEnv (op : Nat) (mode : Word) : FEnv := { envRNE with ftzi := (op == 1 || op == 2) && modeFTZI mode }

/-- One step of a fold (R154). -/
def foldStep (env : FEnv) (op ty : Nat) (a b : Nat) : FRes :=
  let t := ITy.ofCode ty
  let rd := fun (v : Nat) => if t.signed then toSigned 32 v else (v : Int)
  if ty = 2 then
    match op with
    | 0 => fp32.add env a b
    | 1 => fp32.minMax env false a b
    | 2 => fp32.minMax env true a b
    | _ =>
      let fl := (fp32.decode a).snanFlag ||| (fp32.decode b).snanFlag
      if (fp32.decode a).isNan || (fp32.decode b).isNan then ⟨fp32.cnan, fl⟩
      else ⟨Nat.max (a % fp32.signBit) (b % fp32.signBit), fl⟩
  else
    match op with
    | 0 => ⟨(a + b) % 2 ^ 32, 0⟩
    | 1 => ⟨if rd a ≤ rd b then a else b, 0⟩
    | 2 => ⟨if rd a ≤ rd b then b else a, 0⟩
    | 3 => ⟨a &&& b, 0⟩
    | 4 => ⟨a ||| b, 0⟩
    | _ => ⟨a ^^^ b, 0⟩

/-- The first value of a fold: unchanged, but for amax, whose every step takes the magnitude (R98); a signalling NaN sets IV there (R80). -/
def foldFirst (op : Nat) (v : Nat) : FRes :=
  if op = 6 then ⟨if (fp32.decode v).isNan then fp32.cnan else v % fp32.signBit, (fp32.decode v).snanFlag⟩ else ⟨v, 0⟩

/-- The identity of a fold of no values (R154). -/
def foldIdentity (op ty : Nat) : Nat :=
  match op, ty with
  | 1, 0 => 0x7FFFFFFF
  | 1, 1 => 0xFFFFFFFF
  | 1, _ => 0x7F800000
  | 2, 0 => 0x80000000
  | 2, 1 => 0
  | 2, _ => 0xFF800000
  | 3, _ => 0xFFFFFFFF
  | _, _ => 0

/-- R155: the status word of a fold. -/
def foldWord (count value : Nat) : Word :=
  BitVec.ofNat 64 (value + b2n (count == 0) * 2 ^ 32 + count * 2 ^ 33)

/-- R98, R154: a left fold of values already in tag order. -/
def foldVals (env : FEnv) (op ty : Nat) (vs : List Nat) : LaneOut :=
  match vs with
  | [] => ⟨foldWord 0 (foldIdentity op ty), 0⟩
  | v :: rest =>
    let r := rest.foldl (fun (acc : FRes) b =>
      let q := foldStep env op ty acc.bits b
      ⟨q.bits, acc.fl ||| q.fl⟩) (foldFirst op v)
    ⟨foldWord vs.length r.bits, r.fl⟩

/-- The active seats of x's group (R153): the whole train or team, or seats 8g to 8g+7. -/
def groupOf (g : Bool) (xs : List XSeat) (x : XSeat) : List XSeat :=
  if g then xs.filter (fun y => y.seat / 8 == x.seat / 8) else xs

/-- R154: the participants of a group. -/
def partOf (m : Bool) (xs : List XSeat) : List XSeat := if m then xs.filter (fun y => bit y.inp.r 0) else xs

def reduceV (op ty : Nat) (g m : Bool) (xs : List XSeat) (x : XSeat) : LaneOut :=
  foldVals (foldEnv op x.inp.mode) op ty ((tagSort (partOf m (groupOf g xs x))).map xval)

def scanV (op ty : Nat) (g m excl : Bool) (xs : List XSeat) (x : XSeat) : LaneOut :=
  let ps := tagSort (partOf m (groupOf g xs x))
  foldVals (foldEnv op x.inp.mode) op ty ((ps.filter (fun y => tagLt y x || (!excl && y.seat == x.seat))).map xval)

/-- R156. -/
def matchV (w : Nat) (xs : List XSeat) (x : XSeat) : LaneOut :=
  let key := fun (y : XSeat) => if w = 0 then bits y.inp.l 31 0 else y.inp.l.toNat
  let same := xs.filter (fun y => key y == key x)
  ⟨BitVec.ofNat 64 (maskOf (x.seat / 32) (fun _ => true) same + firstSeat same * 2 ^ 32), 0⟩

/-- R157. -/
def seatidV (k core : Nat) (xs : List XSeat) (x : XSeat) : LaneOut :=
  let v :=
    match k with
    | 0 => x.seat
    | 1 => x.stage
    | 2 => xs.length
    | 3 => firstSeat xs
    | 4 => maskOf (x.seat / 32) (fun _ => true) xs
    | _ => core
  ⟨BitVec.ofNat 64 v, 0⟩

def tagordV (g : Bool) (xs : List XSeat) (x : XSeat) : LaneOut :=
  ⟨BitVec.ofNat 64 ((groupOf g xs x).filter (fun y => tagLt y x)).length, 0⟩

end Sys2Proof.Machine
end

