-- ==== Sys2Proof/Machine/Lane.lean ====
section
/-!
DEFINITION. How a lane instruction executes: per seat, late or at once, predicated, and across seats (R67, R130 to R133, R151, R192).
-/
namespace Sys2Proof.Machine

/-- The train written back to its core. -/
def State.putTrain (s : State) (c : Nat) (t : Train) : State := s.updCore c (fun k => k.setTrain t)

/-- The train with a name retires its instruction. -/
def State.retireUid (s : State) (c uid : Nat) : State :=
  match (s.core c).train? uid with
  | some t => s.retire c t
  | none => s

/-- R271, R272: the effective features of a partition. -/
def State.features (s : State) (p : Nat) : Word := s.host.featAccept &&& (s.part p).featMask

/-- R70: whether a feature is effective for a launch. -/
def State.featOn (s : State) (r : LaunchRef) (k : Nat) : Bool := bit (s.features r.part) k

/-- Outcome of preparing the write entries of the next instruction. -/
inductive PreRes where
  | hold (s : State)
  | go (s : State) (t : Train)

/-- R192, R204: the registers a producer will write are checked and prepared seat by seat; a seat beyond CARRY_COUNT or whose
dependant cannot be replayed faults and its producer performs nothing. Such a seat has left the train before a cross-lane instruction reads
the others, so it supplies no operand to them (log 38). -/
def State.prepSeats (s : State) (c : Nat) (t : Train) (regs : List Nat) : List Seat → PreRes
  | [] => .go s t
  | x :: xs =>
    let f := s.frame c x.inst.handle
    match regs.find? (fun g => decide (f.carryCount ≤ g)) with
    | some g =>
      let r := s.takeFault c t x CARRY_RANGE 0 g 0 t.pc
      State.prepSeats r.1 c r.2 regs xs
    | none =>
      match s.prepWrites c x.inst.handle t.failed f (regs.filter (fun g => !s.overtaken c t x.inst.handle g)) with
      | .ok f' n => State.prepSeats (s.setPrepared c x.inst.handle f' n) c t regs xs
      | .miss va => .hold (s.missHold c t [(va, 1, 0)])
      | .busy => .hold (s.holdTrain c t .lent)
      | .fault d =>
        let r := s.takeFault c t x RECIPE_FAULT 0 d 0 t.pc
        State.prepSeats r.1 c r.2 regs xs

/-- The write entries of the train's next instruction prepared for every active seat. -/
def State.prepare (s : State) (c : Nat) (t : Train) : PreRes :=
  let regs := t.writeRegs
  if regs.isEmpty then .go s t else s.prepSeats c t regs t.seats

/-- Result words reach both targets of each seat, flags its frame's MODE, and write entries their registers in tag order
(R58, R88, R192, R193); the instruction retires. -/
def State.finishLanes (s : State) (c : Nat) (t : Train) (targets : List Nat) (outs : List (Seat × LaneOut)) : State :=
  let regs := t.writeRegs
  let t1 := outs.foldl (fun u o => targets.foldl (fun v g => v.deliver o.1.n g o.2.val) u) t
  let s1 := s.putTrain c t1
  let s2 := outs.foldl (fun st o => if o.2.fl = 0 then st else st.orFlags c o.1.inst.handle o.2.fl) s1
  let s3 := if regs.isEmpty then s2 else
    (seatsByTag s c (outs.map (·.1))).foldl (fun st x =>
      match outs.find? (fun o => o.1.n == x.n) with
      | some o => regs.foldl (fun st' g => st'.issueWrite c t x.inst.handle g o.2.val) st
      | none => st) s2
  s3.retireUid c t.uid

/-- An instruction whose results land in its issue cycle: `f` gives each active seat its result. -/
def laneNow (s : State) (targets : List Nat) (f : Train → Nat → Seat → LaneOut) : Host.Outcome State Fault Refusal :=
  withTrain s (fun c t =>
    match s.prepare c t with
    | .hold s' => .next s'
    | .go s1 t1 => .next (s1.finishLanes c t1 targets (t1.seats.map (fun x => (x, f t1 c x)))))

/-- The operands of a seat with its frame's MODE. -/
def State.seatIn (s : State) (c : Nat) (t : Train) (x : Seat) : LaneIn := t.laneIn x.n (s.frame c x.inst.handle).mode

/-- An INT or FLT instruction (R130): each active seat computes from its own slots. -/
def laneInstr (s : State) (a b : BitVec 8) (f : LaneIn → LaneOut) : Host.Outcome State Fault Refusal :=
  laneNow s [a.toNat, b.toNat] (fun t c x => f (s.seatIn c t x))

/-- R67: the predicated form delivers L, with no flag, where bit 0 of P is 0. -/
def predLane (f : LaneIn → LaneOut) (x : LaneIn) : LaneOut := if bit x.p 0 then f x else ⟨x.l, 0⟩

/-- An integer result raises no flag (R133). -/
def noFlags (f : LaneIn → Word) (x : LaneIn) : LaneOut := ⟨f x, 0⟩

/-- A late result issued for one seat: its targets and write-entry registers wait for the operation (R53, R192). -/
def State.issueLate (s : State) (c : Nat) (t : Train) (x : Seat) (targets : List Nat) (vals : List (Nat × Word)) (v : Word)
    (fl : Flags) (wbit path : Nat) (kind : LateKind) : State × Train :=
  let d := s.draw
  let n := d.2.newOp c
  let regs := t.writeRegs
  let late : Late := { due := s.cyc.toNat + 1 + Config.latency d.1, train := t.uid, seat := x.n, handle := x.inst.handle,
                       vals := vals, regs := regs, regVal := v, fl := fl, opId := n.1, kind := kind }
  let s1 := n.2.updCore c (fun k => { k with late := k.late ++ [late] })
  let s2 := s1.startOp c t.uid wbit path n.1
  let s3 := regs.foldl (fun st g => st.pendReg c t x g n.1) s2
  (s3, targets.foldl (fun u g => u.pendOn x.n g n.1) t)

/-- Late results issued for seats in tag order, so that the last in tag order is a register's latest writer (R193). -/
def State.issueLates (s : State) (c : Nat) (t : Train) (targets : List Nat) (wbit path : Nat) (kind : LateKind)
    (outs : List (Seat × LaneOut)) : State :=
  let order := seatsByTag s c (outs.map (·.1))
  let r := order.foldl (fun (p : State × Train) x =>
    match outs.find? (fun o => o.1.n == x.n) with
    | some o => p.1.issueLate c p.2 x targets (targets.map (fun g => (g, o.2.val))) o.2.val o.2.fl wbit path kind
    | none => p) (s, t)
  (r.1.putTrain c r.2).retireUid c t.uid

/-- The result that an engine gives one seat: late (R53), under a wait bit (0: none). In timetable mode it lands at once, so that runs repeat
(R293, log 26). -/
def State.giveSeat (s : State) (c : Nat) (t : Train) (x : Seat) (a : Nat) (v : Word) (wbit : Nat) : State × Train :=
  if s.inTT t.launch then (t.writeRegs.foldl (fun st g => st.writeReg c x.inst.handle g v) s, t.deliver x.n a v)
  else s.issueLate c t x [a] [(a, v)] v 0 wbit 6 .far

/-- Work of a seat asked for earlier ends in a fault of the seat: its late operations go, and the seat leaves its train with the fault; one that has
left the train before is recorded alone. -/
def State.lateFault (s : State) (c : Nat) (info : FaultInfo) (train : Nat) (ops : List Nat) (code detail addr : Nat) : State :=
  let s1 := ops.foldl (fun (st : State) o => st.failOp c o) s
  let alone := s1.faultNow { info with code := code, detail := detail, addr := addr }
  match (s1.core c).train? train with
  | none => alone
  | some t =>
    let t1 := { t with pend := t.pend.filter (fun p => !ops.contains p.2) }
    match t1.seat? info.seat with
    | some x =>
      let r := s1.takeFault c t1 x code 0 detail addr info.instr
      r.1.putTrain c r.2
    | none => alone.putTrain c t1

/-- Such results for several seats; the instruction retires. -/
def State.giveSeats (s : State) (c : Nat) (t : Train) (a : Nat) (outs : List (Seat × LaneOut)) : State :=
  if s.inTT t.launch then s.finishLanes c t [a] outs else s.issueLates c t [a] 0 6 .far outs

/-- An SFN instruction (R131): results are late. `off` marks a seat whose operation needs a feature that is not effective; such a
seat faults with `FEATURE_OFF` (R70, R131). -/
def lateLane (s : State) (a b : BitVec 8) (off : LaneIn → Bool) (f : Train → Nat → Seat → LaneIn → LaneOut) :
    Host.Outcome State Fault Refusal :=
  withTrain s (fun c t =>
    match s.prepare c t with
    | .hold s' => .next s'
    | .go s1 t1 =>
      let bad := t1.seats.filter (fun x => off (s1.seatIn c t1 x))
      let r := s1.takeFaults c t1 FEATURE_OFF t1.pc (bad.map (fun x => (x, 0, 0)))
      .next (r.1.issueLates c r.2 [a.toNat, b.toNat] 0 6 .own
        (r.2.seats.map (fun x => (x, f r.2 c x (s1.seatIn c t1 x))))))

/-- An SFN instruction without a feature of its own. -/
def lateInstr (s : State) (a b : BitVec 8) (f : LaneIn → LaneOut) : Host.Outcome State Fault Refusal :=
  lateLane s a b (fun _ => false) (fun _ _ _ x => f x)

/-- The frame handles among the active seats, in seat order (R202). -/
def Train.handles (t : Train) : List Nat := dedup (t.seats.map (fun x => x.inst.handle))

/-- R151: the number of seats N. -/
def Train.seatCount (t : Train) : Nat := if t.team then 1024 else 32

/-- The active seats of a train as cross-lane instructions see them. -/
def State.xseats (s : State) (c : Nat) (t : Train) : List XSeat :=
  t.seats.map (fun x => { seat := x.n, inp := s.seatIn c t x, idx := x.inst.idx, handle := tagHandle (s.tagOf c x.inst),
                          stage := (s.frame c x.inst.handle).stage })

/-- An XLN instruction (R151): `f` gives each active seat its result from all of them. -/
def xlnInstr (s : State) (a b : BitVec 8) (f : Nat → Nat → List XSeat → XSeat → LaneOut) :
    Host.Outcome State Fault Refusal :=
  laneNow s [a.toNat, b.toNat] (fun t c x =>
    let xs := s.xseats c t
    match seatOf xs x.n with
    | some y => f t.seatCount c xs y
    | none => ⟨0, 0⟩)

end Sys2Proof.Machine
end

