-- ==== Sys2Proof/Machine/TileMem.lean ====
section
/-!
DEFINITION. Accesses to tiles at their home (R308, R309, R313 to R318, R320, R329): checks, stores and counts as they are performed,
and the accesses that wait for a seal.
-/
namespace Sys2Proof.Machine

/-- R129: a write of n bytes in one access by an engine clears the error of the granules that it covers. -/
def Core.sramMend (k : Core) (place n : Nat) : Core :=
  if k.sramBad.isEmpty then k else { k with sramBad := k.sramBad.filter (fun g => !decide (place ≤ 32 * g ∧ 32 * g + 32 ≤ place + n)) }

/-- A handle that passed the first steps of R308. -/
structure HRef where
  core : Nat
  key : TileKey
  gen : Nat
  off : Nat
deriving DecidableEq, Repr

/-- R308 steps 1 to 3: the tile a handle names for an agent on core c, in a pool that `pools` gives for each core. -/
def tileRef (c : Nat) (r : LaunchRef) (h : Word) (pools : Nat → List TilePart) : Option (HRef × Nat × Tile) :=
  if !hndOk h || clusterOf (hndCore h) != clusterOf c then none
  else
    match poolFind (pools (hndCore h)) r (hndPart h) with
    | none => none
    | some q =>
      match q.tiles[hndTile h]? with
      | none => none
      | some t => some (⟨hndCore h, ⟨r, hndPart h, hndTile h⟩, hndGen h, hndOff h⟩, tileBytes q.tsize, t)

/-- R308 steps 1 to 4 for an access of n bytes, steps 1 to 3 alone when n is 0: the tile, or a fault code. -/
def tileRefAt (c : Nat) (r : LaunchRef) (h : Word) (n : Nat) (pools : Nat → List TilePart) : Except Nat (HRef × Tile) :=
  match tileRef c r h pools with
  | none => .error ACCESS_VIOLATION
  | some (x, size, t) =>
    if n = 0 then .ok (x, t)
    else if x.off % n != 0 then .error MISALIGNED
    else if decide (size < x.off + n) then .error ACCESS_VIOLATION
    else .ok (x, t)

/-- One act applied to a pool that stands for another core's (R329): the outcome R309 gives, without faults or notices. -/
def poolAct (ps : List TilePart) (k : TileKey) (gen : Nat) (a : TileAct) : List TilePart :=
  match poolTile ps k with
  | none => ps
  | some t =>
    match a with
    | .write off d => if t.judge gen .write false = .go then poolUpd ps k (fun u => { u with mem := u.mem.write off d }) else ps
    | .take =>
      if t.judge gen .take false = .go then
        let ps1 := poolUpd ps k (fun u => { u with count := u.count - 1 })
        if t.count ≤ 1 then poolReturn ps1 k else ps1
      else ps
    | .close =>
      if t.judge gen .close false = .go ∧ t.pend.isEmpty = true then poolUpd ps k (fun u => { u with state := .sealed, run := false }) else ps
    | .free =>
      if t.judge gen .free false = .go ∧ t.pend.isEmpty = true then poolReturn ps k else ps
    | .reg n => if t.judge gen .write false = .go then poolUpd ps k (fun u => { u with pend := u.pend ++ [n] }) else ps

/-- The pool of core h as a train on core c sees it: as it stands; in timetable mode, for another core, as the last boundary left
it with the own core's acts of the superstep (R329). -/
def State.poolSeen (s : State) (c : Nat) (tt : Bool) (h : Nat) : List TilePart :=
  if tt && h != c then
    (s.core c).sq.foldl (fun ps e =>
      match e.op with
      | .tile k key gen a _ => if k = h then poolAct ps key gen a else ps
      | _ => ps) (s.core h).eng.poolSnap
  else (s.core h).eng.pool

/-- A fault found at the home after issue (R313): one record, and the launch is FAULTED. DETAIL holds the handle as the seat presented it, which
its access carries there (R327). -/
def State.tileFault (s : State) (info : FaultInfo) (code : Nat) : State := s.faultNow { info with code := code, addr := 0 }

/-- The row of R309's table an act meets. -/
def TileAct.access : TileAct → TAccess
  | .write _ _ | .reg _ => .write | .take => .take | .close => .close | .free => .free

/-- The values of a tile access land (R53, R317). -/
def State.landTile (s : State) (c uid : Nat) (x : TileSeat) (v : Word) : State :=
  let l : Late := ⟨s.cyc.toNat, uid, x.info.seat, x.frame, x.targets.map (fun g => (g, v)), x.regs, v, 0, x.opId, .own⟩
  s.updCore c (fun k => { k with late := k.late ++ [l] })

/-- A seat of a waiting access leaves with a fault: the seat leaves its train, if it is still there (R182). -/
def State.waitLeave (s : State) (c uid : Nat) (x : TileSeat) (info : FaultInfo) : State :=
  ((s.faultNow info).updCore c (fun k => { k with trains := k.trains.map (fun t => if t.uid == uid then t.dropSeat x.info.seat else t) })).failOp c x.opId

/-- A seat of a waiting access faults at the home: the seat leaves its train, if it is still there (R309, R182). -/
def State.waitFault (s : State) (c uid : Nat) (x : TileSeat) (code : Nat) : State :=
  s.waitLeave c uid x { x.info with code := code, addr := 0 }

/-- The word a read delivers: `size` bytes at an offset, extended (R317); for 16 bytes the two words go to two slots. -/
def tileWord (t : Tile) (off size : Nat) (sgn : Bool) : Nat :=
  let v := t.mem.readNat off size
  if sgn then wrapTo 64 (toSigned (8 * size) v) else v

/-- Values by target for a datum of a size (R214, R317). -/
def tileVals (targets : List Nat) (v : Nat) : List (Nat × Word) :=
  targets.mapIdx (fun i g => (g, BitVec.ofNat 64 (v / 2 ^ (64 * i))))

/-- R129: whether n bytes of a tile of a core meet an uncorrectable error. -/
def State.tileErr (s : State) (home : Nat) (t : Tile) (off n : Nat) : Bool := (s.core home).sramErr (256 * t.unit + off) n

/-- Bytes written into a tile by an engine: a granule that they cover loses its error (R129). -/
def State.tileWrite (s : State) (home : Nat) (key : TileKey) (off : Nat) (bs : List Byte) : State :=
  match poolTile (s.core home).eng.pool key with
  | some t =>
    (s.updEng home (fun e => { e with pool := poolUpd e.pool key (fun u => { u with mem := u.mem.write off bs }) })).updCore home
      (fun k => k.sramMend (256 * t.unit + off) bs.length)
  | none => s

/-- One waiting access is judged again (R309): it goes on waiting, or its seats read and its read counts, or its seats fault. -/
def State.tileResume (s : State) (home : Nat) (w : TileWait) : State × Bool :=
  match poolTile (s.core home).eng.pool w.key with
  | none => (s, false)
  | some t =>
    match t.judge w.gen (if w.counted then .take else .peek) false with
    | .wait => (s, true)
    | .go | .noEffect =>
      let s1 := w.seats.foldl (fun st x =>
        if w.size = 0 then st
        else if s.tileErr home t x.off w.size then
          st.waitLeave w.core w.train x { x.info with code := DATA_UNCORRECTABLE, detail := 0, addr := x.info.detail }
        else
          let v := tileWord t x.off w.size w.sgn
          let l : Late := ⟨s.cyc.toNat, w.train, x.info.seat, x.frame, tileVals x.targets v, x.regs, BitVec.ofNat 64 v, 0, x.opId, .own⟩
          st.updCore w.core (fun k => { k with late := k.late ++ [l] })) s
      let s2 := if w.counted then s1.updEng home (fun e => e.countRead home w.key) else s1
      (s2.endOp w.core w.opId, false)
    | .stale =>
      ((w.seats.foldl (fun st x => st.waitFault w.core w.train x TILE_STALE) s).endOp w.core w.opId, false)
    | .overread =>
      ((w.seats.foldl (fun st x => st.waitFault w.core w.train x TILE_OVERREAD) s).endOp w.core w.opId, false)

/-- Every waiting access of a home judged again, in the order of arrival (R309, R320). -/
def State.tileWake (s : State) (home : Nat) : State :=
  let ws := (s.core home).eng.tileWaits
  if ws.isEmpty then s
  else
    let s0 := s.updEng home (fun e => { e with tileWaits := [] })
    let r := ws.foldl (fun (p : State × List TileWait) w =>
      let q := p.1.tileResume home w
      (q.1, if q.2 then p.2 ++ [w] else p.2)) (s0, [])
    r.1.updEng home (fun e => { e with tileWaits := r.2 ++ e.tileWaits })

/-- R314: an engine write that meets a tile code as it reaches the home: the operation that it belongs to has the error as its own. -/
def CoreEngines.markFault (e : CoreEngines) (n code : Nat) : CoreEngines :=
  { e with
    copies := e.copies.map (fun q => if q.mark == n then { q with fault := some (q.fault.getD (code, 0)), mark := 0 } else q)
    mq := e.mq.map (fun m => match m.kind with
      | .accst _ _ _ _ _ _ _ k => if k == n then { m with fault := some (m.fault.getD (code, 0)) } else m
      | _ => m) }

/-- An act that meets a tile code at the home: each seat that it acts for has its record (R327). -/
def State.actFault (s : State) (a : TileAct) (infos : List FaultInfo) (code src opId : Nat) : State :=
  match a with
  | .reg n => (s.updEng src (fun e => e.markFault n code)).endOp src opId
  | _ => (infos.foldl (fun (st : State) i => st.tileFault i code) s).endOp src opId

/-- R321: the one counted read of an engine operation whose handle has passed its checks; a tile that has been allocated again since counts
nothing. -/
def State.countTile (s : State) (h : HRef) (t : Tile) : State :=
  if t.judge h.gen .take false = .go then (s.updEng h.core (fun e => e.countRead h.core h.key)).tileWake h.core else s

/-- One act performed at the home (R309, R313, R315 to R318, R329): a write, a count, a seal or a free, with R309's fault recorded. A seal
or free that meets registered engine writes waits for them. `opId` on core `src` completes with it; `infos` name the seats that it acts for. -/
def State.tileAct (s : State) (home : Nat) (key : TileKey) (gen : Nat) (a : TileAct) (infos : List FaultInfo) (src opId : Nat) :
    State :=
  match poolTile (s.core home).eng.pool key with
  | none => s.endOp src opId
  | some t =>
    match t.judge gen a.access false with
    | .stale => s.actFault a infos TILE_STALE src opId
    | .overread => s.actFault a infos TILE_OVERREAD src opId
    | .noEffect => s.endOp src opId
    | .wait =>
      let xs : List TileSeat := infos.map (fun i => ⟨i, 0, 0, [], [], 0⟩)
      s.updEng home (fun e => { e with tileWaits := e.tileWaits ++ [⟨key, gen, true, 0, false, src, 0, xs, opId⟩] })
    | .go =>
      match a with
      | .write off d =>
        (s.updEng home (fun e => { e with pool := poolUpd e.pool key (fun u => { u with mem := u.mem.write off d }) })).endOp src opId
      | .take => ((s.updEng home (fun e => e.countRead home key)).tileWake home).endOp src opId
      | .close =>
        if t.pend.isEmpty then ((s.updEng home (fun e => e.seal key)).tileWake home).endOp src opId
        else s.updEng home (fun e => { e with seals := e.seals ++ [⟨key, gen, false, t.pend, src, opId⟩] })
      | .free =>
        if t.pend.isEmpty then ((s.updEng home (fun e => e.returnTile home key)).tileWake home).endOp src opId
        else s.updEng home (fun e => { e with seals := e.seals ++ [⟨key, gen, true, [], src, opId⟩] })
      | .reg n => (s.updEng home (fun e => e.register key n)).endOp src opId

end Sys2Proof.Machine
end

