-- ==== Sys2Proof/Machine/MemOps.lean ====
section
/-!
DEFINITION. The L path (R114, R209 to R222): store queue, forwarding, scratchpad windows, atomics, futures, remote requests.
-/
namespace Sys2Proof.Machine

/-! ## Scopes (R111, R112) -/

/-- The extent code a launch's scope map binds to a level; level 7 and code 7 are unbound. -/
def scopeCode (map level : Nat) : Nat := if level ≥ 7 then 7 else map / 2 ^ (3 * level) % 8

/-- R111: the extent code of a scope level for the train's launch. -/
def State.extent (s : State) (t : Train) (level : Nat) : Nat :=
  match s.launch? t.launch with
  | some l => scopeCode (recScopeMap l.record) level
  | none => 7

/-- R112: whether a static scope level is bound for the train's launch. -/
def State.scopeBound (s : State) (t : Train) (level : Nat) : Bool := s.extent t level != 7

/-! ## Scratchpad windows (R209, R210) -/

/-- The window of a launch on a core. -/
def Core.window? (k : Core) (r : LaunchRef) : Option Window := k.windows.find? (fun w => w.launch == r)

/-- The core a scratchpad address names for a train on core c (R209). -/
def spCore (c : Nat) (a : Word) : Nat := if bit a 27 then c else c / 8 * 8 + bits a 26 24
def spOffset (a : Word) : Nat := bits a 23 0
def spReservedOk (a : Word) : Bool := decide (a.toNat < 2 ^ 28)

/-- R210, R223: the checks of a scratchpad access of n bytes: a fault code, or core and offset. -/
def State.spAccess (s : State) (c : Nat) (r : LaunchRef) (a : Word) (n : Nat) : Except Nat (Nat × Nat) :=
  if !spReservedOk a then .error ACCESS_VIOLATION
  else if spOffset a % n != 0 then .error MISALIGNED
  else
    match (s.core (spCore c a)).window? r with
    | none => .error ACCESS_VIOLATION
    | some w => if spOffset a + n ≤ w.size then .ok (spCore c a, spOffset a) else .error ACCESS_VIOLATION

/-- Bytes of a launch's window on a core. -/
def State.winRead (s : State) (r : LaunchRef) (core off n : Nat) : List Byte :=
  match (s.core core).window? r with
  | some w => w.mem.read off n
  | none => List.replicate n 0

/-- R129: whether n bytes of a launch's window meet an uncorrectable error. -/
def State.winErr (s : State) (r : LaunchRef) (core off n : Nat) : Bool :=
  match (s.core core).window? r with
  | some w => (s.core core).sramErr (256 * w.unit + off) n
  | none => false

/-- Bytes of a plain store in a window: a barrier that it writes has undefined outcomes until the next `bari` (R349). -/
def Window.store (w : Window) (off : Nat) (bs : List Byte) : Window :=
  { w with
    mem := w.mem.write off bs
    spoilt := dedup (w.spoilt ++ w.bars.filter (fun b => decide (b < off + bs.length ∧ off < b + 16))) }

/-- R349: the outcomes of the barrier at a place are undefined: a plain store has written it since its last `bari`, or it holds what
only a plain store can have left there. -/
def Window.barOpen (w : Window) (off : Nat) : Bool :=
  w.spoilt.contains off || (!w.bars.contains off && decide (w.mem.readNat off 16 ≠ 0))

/-- A barrier as an update left it; `init`: by a `bari`. -/
def Window.setBar (w : Window) (off : Nat) (bs : List Byte) (init : Bool) : Window :=
  { w with
    mem := w.mem.write off bs
    bars := dedup (w.bars ++ [off])
    spoilt := if init then w.spoilt.filter (· != off) else if w.barOpen off then dedup (w.spoilt ++ [off]) else w.spoilt }

/-- A change of a launch's window on a core. -/
def State.updWindow (s : State) (r : LaunchRef) (core : Nat) (f : Window → Window) : State :=
  s.updCore core (fun k => { k with windows := k.windows.map (fun w => if w.launch == r then f w else w) })

/-- A plain store performed in a launch's window on a core. -/
def State.winStore (s : State) (r : LaunchRef) (core off : Nat) (bs : List Byte) : State := s.updWindow r core (fun w => w.store off bs)

/-! ## The store queue (R114) -/

/-- Bytes `data` at address `a` laid over the n bytes `base` read from address `lo`. -/
def overlay (lo : Nat) (base : List Byte) (a : Nat) (data : List Byte) : List Byte :=
  base.mapIdx (fun i b => if a ≤ lo + i ∧ lo + i < a + data.length then data.getD (lo + i - a) b else b)

/-- Whether a queued store is seen by a train of the core: its own, and in timetable mode every one (R114, R296). -/
def sqSeen (tt : Bool) (uid : Nat) (e : SQEntry) : Bool := tt || e.train == uid

/-- R114, R296: n bytes of local memory as a train of core c sees them. In timetable mode that is memory as the last boundary left it and the
core's stores since: an `atom` or `cas` of the superstep, the train's own included, is performed at the boundary (R295) and is not seen before it
(log 23). -/
def State.seeGlob (s : State) (c uid : Nat) (tt : Bool) (pa n : Nat) : List Byte :=
  (s.core c).sq.foldl (fun bs e =>
    if sqSeen tt uid e then
      match e.op with
      | .glob a none d => overlay pa bs a d
      | .mx a home d sa shome x =>
        let b1 := if home.isNone then overlay pa bs a d else bs
        if shome.isNone then overlay pa b1 sa [x] else b1
      | _ => bs
    else bs) (s.mem.read pa n)

/-- R114, R296: n bytes of a window as a train of core c sees them. -/
def State.seeWin (s : State) (c uid : Nat) (tt : Bool) (r : LaunchRef) (core off n : Nat) : List Byte :=
  (s.core c).sq.foldl (fun bs e =>
    match e.op with
    | .win k a d => if sqSeen tt uid e && k == core && e.launch == r then overlay off bs a d else bs
    | .barSet k a d _ => if sqSeen tt uid e && k == core && e.launch == r then overlay off bs a d else bs
    | _ => bs) (s.winRead r core off n)

/-- R129: n bytes of a window that an instruction of a train reads for itself, or the code of an uncorrectable error. -/
def State.winGet (s : State) (c : Nat) (t : Train) (core off n : Nat) : Except Nat (List Byte) :=
  if s.winErr t.launch core off n then .error DATA_UNCORRECTABLE else .ok (s.seeWin c t.uid (s.inTT t.launch) t.launch core off n)

/-- What a queued entry does to a window on a core. -/
def StoreOp.onWindow (core : Nat) (w : Window) (o : StoreOp) : Window :=
  match o with
  | .win k off d => if k == core then w.store off d else w
  | .barSet k off d init => if k == core then w.setBar off d init else w
  | _ => w

/-- R349: a train of core c finds that the outcomes of a barrier are undefined. -/
def State.barOpen (s : State) (c uid : Nat) (tt : Bool) (r : LaunchRef) (core off : Nat) : Bool :=
  match (s.core core).window? r with
  | none => false
  | some w => ((s.core c).sq.foldl (fun w e => if sqSeen tt uid e && e.launch == r then e.op.onWindow core w else w) w).barOpen off

/-- R105: a FUT bit. -/
def State.futFull (s : State) (pa : Nat) : Bool := s.fut.contains pa
def State.futSet (s : State) (pa : Nat) : State :=
  { s with fut := insertBy (fun a b => decide (a ≤ b)) pa (s.fut.filter (· != pa)) }
def State.futClear (s : State) (pa : Nat) : State := { s with fut := s.fut.filter (· != pa) }

/-- The waiters of one core whose word has filled become ready, unmarked, and restart their blocks (R178). -/
def Core.wakeAll (k : Core) : Core :=
  (k.waiters.filter (fun w => w.woken)).foldl (fun kk w => kk.makeReady w.inst false) { k with waiters := k.waiters.filter (fun w => !w.woken) }

/-- The waiters of one core on a word that fills. -/
def Core.markWoken (k : Core) (pa : Nat) : Core :=
  { k with waiters := k.waiters.map (fun w => if w.pa == pa then { w with woken := true } else w) }

/-- R178: every waiter on a word wakes when it fills. On a core of a timetable partition the wake-up waits for the boundary, and on one of
a swapped partition for its restore (R290, R295, R297). Instances of peers parked here are woken by a response (R433). -/
def State.futWake (s : State) (pa : Nat) : State :=
  let gone := s.link.parked.filter (fun w => w.2.1 == pa)
  { s with
    link := if gone.isEmpty then s.link else
      gone.foldl (fun (l : Link) w => l.emit (.wake w.1 w.2.1 w.2.2)) { s.link with parked := s.link.parked.filter (fun w => w.2.1 != pa) }
    cores := s.cores.map (fun e =>
      if e.2.waiters.isEmpty then e
      else
        let tt := match s.partOfCluster (clusterOf e.1) with
          | some p => (s.part p).tt.isSome
          | none => false
        let k := e.2.markWoken pa
        (e.1, if tt || s.swappedCore e.1 then k else k.wakeAll)) }

/-- R179: a fill writes the word, sets its bit and wakes its waiters. -/
def State.futFill (s : State) (pa : Nat) (v : Word) : State :=
  (({ s with mem := s.mem.writeNat pa 8 v.toNat }).futSet pa).futWake pa

/-- R217, R218: the new value of an atomic on w bits; op 7 stands for `cas`. -/
def rmwNew (op w : Nat) (sgn : Bool) (old r t : Nat) : Nat :=
  let rd := fun (v : Nat) => if sgn then toSigned w v else ((v % 2 ^ w : Nat) : Int)
  let rr := r % 2 ^ w
  match op with
  | 0 => (old + rr) % 2 ^ w
  | 1 => if rd old ≤ rd rr then old else rr
  | 2 => if rd old ≤ rd rr then rr else old
  | 3 => old &&& rr
  | 4 => old ||| rr
  | 5 => old ^^^ rr
  | 6 => rr
  | _ => if old = rr then t % 2 ^ w else old

/-- A loaded datum extended to 64 bits (R211). -/
def extend (sgn : Bool) (n v : Nat) : Word := if sgn then wordOfInt (toSigned (8 * n) v) else BitVec.ofNat 64 v

/-! ## Requests to peer devices (R433) -/

/-- The places that a request of a block whose parts lie at different devices stands for: device, address, bytes (R127). -/
def RemoteReq.parts (q : RemoteReq) : List (Option Nat × Nat × Nat) :=
  let own := (some q.peer, q.pa, q.size)
  match q.kind with
  | .mxRead _ _ r | .engMx _ r =>
    match r with
    | .both _ => []
    | .scaleHere sp => [own, (none, sp, 1)]
    | .scaleAt p sp => [own, (some p, sp, 1)]
    | .dataHere pa n => [own, (none, pa, n)]
    | .after _ => [own]
  | .mxPart _ r | .engPart _ r =>
    match r with
    | .here pa d => [own, (none, pa, d.length)]
    | .there p pa d => [own, (some p, pa, d.length)]
    | .last => [own]
  | _ => []

/-- R127: whether a request waits unsent behind an earlier access to the same block, whose parts lie at different devices: this device makes such
accesses one after another, so that each sees or leaves a block whole (log 15). -/
def Link.blockWaits (l : Link) (q : RemoteReq) : Bool :=
  (l.reqs.takeWhile (fun r => r.id != q.id)).any (fun r => r.parts.any (fun a => q.parts.any (fun b =>
    a.1 == b.1 && decide (a.2.1 < b.2.1 + b.2.2 ∧ b.2.1 < a.2.1 + a.2.2))))

/-- A memory request for the device that backs a page: sent, or kept behind an earlier access to the same block. -/
def Link.remote (l : Link) (q : RemoteReq) : Link :=
  let r := { q with id := l.reqSeq + 1 }
  let l1 := { l with reqSeq := r.id, reqs := l.reqs ++ [r] }
  if l1.blockWaits r then l1 else l1.emit (.request r)
def State.remote (s : State) (q : RemoteReq) : State := { s with link := s.link.remote q }

/-- The second request of such an access takes the place of the first, ahead of those that wait for it. -/
def State.follow (s : State) (q : RemoteReq) : State :=
  ({ s with link := { s.link with reqs := q :: s.link.reqs } } : State).emit (.request q)

/-- Whether the request of a number has not left this device: it waits behind another or for a route (R127, R428). -/
def State.unsent (s : State) (q : RemoteReq) : Bool :=
  s.link.blockWaits q || s.link.wait.any (fun p => match p.pkt with | .request r => r.id == q.id | _ => false)

/-- Requests that waited in one state behind an access that is over in another are sent. -/
def State.sendFreed (s s1 : State) : State :=
  (s1.link.reqs.filter (fun q => s.link.reqs.any (fun r => r.id == q.id && s.link.blockWaits r) && !s1.link.blockWaits q)).foldl (fun (st : State) q =>
    st.emit (.request q)) s1

/-- The peer of a leaf: none for local memory. -/
def leafHome (e : Nat) : Option Nat := if leafRemote e then some (leafPeer e) else none

/-! ## Performing queued accesses -/

/-- A request that carries an entry of the store queue to a peer. -/
def SQEntry.request (e : SQEntry) (c peer pa size : Nat) (kind : RKind) : RemoteReq :=
  { id := 0, peer := peer, pa := pa, va := e.va, size := size, kind := kind, core := c, train := e.train, launch := e.launch,
    seat := e.seat, handle := e.handle, targets := e.targets, regs := e.regs, instr := e.instr, opId := e.opId }

/-- The values a completed access delivers become a late result that lands next (R53). -/
def State.landNext (s : State) (c : Nat) (e : SQEntry) (v : Word) : State :=
  let l : Late := ⟨s.cyc.toNat, e.train, e.seat, e.handle, e.targets.map (fun g => (g, v)), e.regs, v, 0, e.opId, .far⟩
  s.updCore c (fun k => { k with late := k.late ++ [l] })

/-- Seat and instance of a train, by core, train and seat number. -/
def State.seatAt (s : State) (c uid seat : Nat) : Option (Train × Seat) :=
  match (s.core c).train? uid with
  | some t => (t.seat? seat).map (fun x => (t, x))
  | none => none

/-- A seat parks on a word (R178): its instance enters the waiter table, or is made ready with a yield mark when that is full. -/
def State.park (s : State) (c : Nat) (t : Train) (x : Seat) (pa : Nat) : State × Train :=
  ((s.leaveBlock c x.inst).updCore c (fun k =>
    if k.waiters.length < 1024 then { k with waiters := k.waiters ++ [⟨x.inst, pa, false⟩] } else k.makeReady x.inst true),
   t.dropSeat x.n)

/-- A seat of a resident train parks or traps after its instruction has issued (R295 step 1, R433). -/
def State.futMiss (s : State) (c uid seat pa va : Nat) (trap : Bool) (instr opId : Nat) : State :=
  match s.seatAt c uid seat with
  | some (t, x) =>
    let r := if trap then s.takeFault c t x TRAP 1 va 0 instr else s.park c t x pa
    (r.1.putTrain c r.2).failOp c opId
  | none => s.failOp c opId

/-- R348: one record taken from the ring whose descriptor lies at a physical address: the word delivered. -/
def State.popRing (s : State) (pa : Nat) : Word × State :=
  let d := s.mem.readNat pa 16
  let base := natBits d 120 64
  let head := natBits d 15 0
  if base = 0 ∨ head = natBits d 31 16 then (0, s)
  else
    (BitVec.ofNat 64 (2 ^ 63 + base + 32 * (head % 2 ^ natBits d 35 32)), { s with mem := s.mem.writeNat pa 2 ((head + 1) % 65536) })

/-- R222, R433: the request for a block's data or scale of which a part lies at a peer; none when the whole is here. -/
def mxRequest (pa : Nat) (peer : Option Nat) (sp : Nat) (speer : Option Nat) (f : Nat) (ms : List MxSeat) : Option (Nat × Nat × Nat × RKind) :=
  let d := 4 * (mxFmt f).width
  match peer, speer with
  | some p, some q => if p = q then some (p, pa, d, .mxRead f ms (.both sp)) else some (p, pa, d, .mxRead f ms (.scaleAt q sp))
  | some p, none => some (p, pa, d, .mxRead f ms (.scaleHere sp))
  | none, some q => some (q, sp, 1, .mxRead f ms (.dataHere pa d))
  | none, none => none

/-- R433: the request that an access of the queue makes to a peer: device, address there, bytes, kind; none for one that is performed here. -/
def StoreOp.ask : StoreOp → Option (Nat × Nat × Nat × RKind)
  | .glob pa (some p) d => some (p, pa, d.length, .write d)
  | .mx pa peer d sp speer x =>
    match peer, speer with
    | some p, some q => some (p, pa, d.length, if p = q then .mxWrite d sp x else .mxPart d (.there q sp [x]))
    | some p, none => some (p, pa, d.length, .mxPart d (.here sp [x]))
    | none, some q => some (q, sp, 1, .mxPart [x] (.here pa d))
    | none, none => none
  | .rmw pa (some p) size op sgn r t => some (p, pa, size, .rmw op sgn r t)
  | .fut pa (some p) f => some (p, pa, 8, .futWrite f)
  | .futTake pa va (some p) trap i => some (p, pa, 8, .futRead true trap va i)
  | .remoteRead pa p size sgn => some (p, pa, size, .read sgn)
  | .remoteMx pa peer sp speer f ms => mxRequest pa peer sp speer f ms
  | .remoteFut pa va p trap i => some (p, pa, 8, .futRead false trap va i)
  | _ => none

/-- One entry of a core's store queue performed at its home on this device (R114, R216, R295 step 1). -/
def State.perform (s : State) (c : Nat) (e : SQEntry) : State :=
  match e.op with
  | .glob pa none d => { s with mem := s.mem.write pa d }
  | .mx pa none d sp none x => { s with mem := (s.mem.write pa d).write sp [x] }
  | .win k off d => s.winStore e.launch k off d
  | .barSet k off d init => s.updWindow e.launch k (fun w => w.setBar off d init)
  | .tile home key gen a infos => s.tileAct home key gen a infos c e.opId
  | .bar k off op =>
    let pipe := match (s.core c).train? e.train with | some t => t.pipe | none => 0
    let upd : BarUpd := ⟨e.launch, off, op, c, pipe, e.seat⟩
    s.updEng k (fun g => { g with barq := g.barq ++ [upd] })
  | .rmw pa none size op sgn r t =>
    let old := s.mem.readNat pa size
    ({ s with mem := s.mem.writeNat pa size (rmwNew op (8 * size) sgn old r.toNat t.toNat) }).landNext c e (extend sgn size old)
  | .wrmw k off size op sgn r =>
    let old := ofLE (s.winRead e.launch k off size)
    (s.winStore e.launch k off (leBytes size (rmwNew op (8 * size) sgn old r.toNat 0))).landNext c e (extend sgn size old)
  | .fut pa none (some v) => (s.futFill pa v).endOp c e.opId
  | .fut pa none none => (s.futClear pa).endOp c e.opId
  | .futTake pa va none trap _ =>
    if s.futFull pa then (s.futClear pa).landNext c e (BitVec.ofNat 64 (s.mem.readNat pa 8))
    else s.futMiss c e.train e.seat pa va trap e.instr e.opId
  | .crpop pa =>
    let r := s.popRing pa
    r.2.landNext c e r.1
  | .glob .. | .mx .. | .rmw .. | .fut .. | .futTake .. | .remoteRead .. | .remoteMx .. | .remoteFut .. => s

/-- The oldest queued store drains (R114). One for a peer is asked for there, and stays the oldest until it is answered (R433). -/
def State.drainOne (s : State) (c : Nat) : State :=
  match (s.core c).sq with
  | [] => s
  | e :: rest =>
    if e.sent.isSome then s
    else
      match e.op.ask with
      | none => (s.updCore c (fun k => { k with sq := rest })).perform c e
      | some (p, pa, n, kind) =>
        let s1 := s.remote (e.request c p pa n kind)
        s1.updCore c (fun k => { k with sq := { e with sent := some s1.link.reqSeq } :: rest })

/-- R433: the oldest access of a core has been answered by a peer: it leaves the queue. -/
def State.answered (s : State) (c id : Nat) : State :=
  match (s.core c).sq with
  | [] => s
  | e :: rest =>
    if e.sent != some id then s else s.updCore c (fun k => { k with sq := rest })

/-- R433: the oldest access of a core has failed at a peer: it leaves the queue, and nothing more of it is done. -/
def State.notDone (s : State) (c id : Nat) : State :=
  s.updCore c (fun k => { k with sq := match k.sq with | e :: rest => if e.sent = some id then rest else k.sq | [] => [] })

/-- The n oldest queued stores drain in order, as far as no peer is awaited. -/
def State.drainN (s : State) (c : Nat) : Nat → State
  | 0 => s
  | n + 1 => (s.drainOne c).drainN c n

/-- R109: the path of a queued access: C for the updates of barriers, else L. -/
def StoreOp.path : StoreOp → Nat
  | .bar .. | .barSet .. => 1
  | _ => 0

/-- A queued access of a train on a path of a mask. -/
def SQEntry.onPath (e : SQEntry) (uid mask : Nat) : Bool := e.train == uid && mask.testBit e.op.path

/-- How many queue entries reach through the last one of a train on a path of a mask. -/
def sqThrough (uid mask : Nat) (q : List SQEntry) : Nat :=
  (q.mapIdx (fun i e => if e.onPath uid mask then i + 1 else 0)).foldl Nat.max 0

/-- Outside timetable mode, every queued access of a train on the paths of a mask drains, with those ahead of it (R114), as far as no peer is
awaited. In timetable mode stores stay in the core's buffer until the boundary (R296). -/
def State.drainPaths (s : State) (c : Nat) (t : Train) (mask : Nat) : State :=
  if s.inTT t.launch then s else s.drainN c (sqThrough t.uid mask (s.core c).sq)

/-- Every queued store of a train drains, as far as no peer is awaited. -/
def State.drainTrain (s : State) (c : Nat) (t : Train) : State := s.drainPaths c t 63

/-- A request that writes at a peer. -/
def RKind.writes : RKind → Bool
  | .write _ | .mxWrite .. | .mxPart .. | .rmw .. | .futWrite _ | .futRead true .. => true
  | _ => false

/-- R116, R117: outside timetable mode, whether writes of a train on the paths of a mask are still to be performed: they are queued, or under
way at a peer. -/
def State.queued (s : State) (c : Nat) (t : Train) (mask : Nat) : Bool :=
  !s.inTT t.launch && ((s.core c).sq.any (fun e => e.onPath t.uid mask) ||
    (mask.testBit 0 && s.link.reqs.any (fun r => r.core == c && r.train == t.uid && r.kind.writes)))

/-- An instruction that waits until its train's earlier writes on the paths of a mask have been performed: they drain, and the train holds while
one is under way at a peer (R114, R120, R122). -/
def afterWrites (s : State) (c : Nat) (t : Train) (mask : Nat) (f : State → Host.Outcome State Fault Refusal) :
    Host.Outcome State Fault Refusal :=
  let s1 := s.drainPaths c t mask
  if s1.queued c t mask then .next (s1.holdTrain c t .paths) else f s1

/-- R120, R296: in timetable mode a fence whose extent goes beyond its core waits until the boundary has performed what the core's buffer held,
on the paths of the mask, when it began to wait: what other trains of the core have stored counts too, since its train may have read it (R117). -/
def State.bufferHolds (s : State) (c : Nat) (t : Train) (level mask : Nat) : Bool :=
  s.inTT t.launch && decide (2 ≤ s.extent t level) &&
    (if t.moved = 0 then (s.core c).sq.any (fun e => mask.testBit e.op.path) else t.moved == (s.part t.launch.part).ssCount.toNat + 1)

/-- Stores appended to the core's queue in the order given (R114, R128); when they drain is free, within finite time (R220, log 2). -/
def State.enqueue (s : State) (c : Nat) (es : List SQEntry) : State :=
  let d := s.draw
  d.2.updCore c (fun k => { k with sq := k.sq ++ es.map (fun e => { e with due := s.cyc.toNat + Config.latency d.1 }) })

/-- A queue entry of a train's seat. -/
def sqEntry (t : Train) (x : Seat) (op : StoreOp) (targets regs : List Nat) (opId : Nat) : SQEntry :=
  { train := t.uid, launch := t.launch, op := op, va := (t.slot x.n t.pc .l).toNat, seat := x.n, handle := x.inst.handle, targets := targets, regs := regs,
    instr := t.pc, opId := opId, acq := false, sent := none, due := 0 }

end Sys2Proof.Machine
end

