-- ==== Sys2Proof/Machine/Mem.lean ====
section
/-!
DEFINITION. Class MEM: the meanings of its instructions (R120, R209 to R222).
-/
namespace Sys2Proof.Machine

/-- The checks of every active seat before any performs (R213 phase 1): seats with their outcome, in seat order. -/
def State.checkSeats (s : State) (c : Nat) (t : Train) (n : Nat) (need : Need) : List (Seat × Acc) :=
  t.seats.map (fun x => (x, s.access c t.asid t.failed (t.slot x.n t.pc .l).toNat n need))

/-- R224: the translations that an access of the active seats, at their L operands, has found fill the core's TLB. -/
def State.looked (s : State) (c : Nat) (t : Train) : State :=
  s.tlbFill c t.asid (t.seats.map (fun x => (t.slot x.n t.pc .l).toNat))

/-- The addresses that missed the TLB, with the kind and path of a page request (R227). -/
def missesOf (t : Train) (need : Need) (cs : List (Seat × Acc)) : List (Nat × Nat × Nat) :=
  cs.filterMap (fun a => match a.2 with | .miss => some ((t.slot a.1.n t.pc .l).toNat, need.kind, 0) | _ => none)

/-- R223, R129: the faults of the seats that failed, taken in ascending seat order; a performable seat that would consume an
uncorrectable granule fails too. -/
def State.failSeats (s : State) (c : Nat) (t : Train) (n : Nat) (reads : Bool) (cs : List (Seat × Acc)) : State × Train :=
  cs.foldl (fun (p : State × Train) a =>
    let va := (t.slot a.1.n t.pc .l).toNat
    match a.2 with
    | .bad code => p.1.takeFault c p.2 a.1 code 0 0 (if code = FEATURE_OFF then 0 else va) t.pc
    | .ok pa e =>
      if reads && !leafRemote e.leaf && granuleBad s.bad pa n then p.1.takeFault c p.2 a.1 DATA_UNCORRECTABLE 0 0 va t.pc else p
    | .miss => p) (s, t)

/-- The seats that perform (R213 phase 2), with their physical address and leaf. -/
def State.goodSeats (s : State) (n : Nat) (reads : Bool) (cs : List (Seat × Acc)) : List (Seat × Nat × TlbEntry) :=
  cs.filterMap (fun a =>
    match a.2 with
    | .ok pa e => if reads && !leafRemote e.leaf && granuleBad s.bad pa n then none else some (a.1, pa, e)
    | _ => none)

/-- R64, R112: with an order other than plain, an unbound scope level faults for every active seat. -/
def withScope (s : State) (ordered : Bool) (level : Nat) (f : Nat → Train → Host.Outcome State Fault Refusal) :
    Host.Outcome State Fault Refusal :=
  withTrain s (fun c t =>
    if ordered && !s.scopeBound t level then .next (s.faultAll c t SCOPE_BINDING 0) else f c t)

/-- Targets of a load: for a 128-bit datum the slot A names and the next slot of the same consumer (R214). -/
def loadVals (a z : Nat) (sgn : Bool) (v : Nat) : List (Nat × Word) :=
  if z = 4 then (if a < 4 then [] else [(a, BitVec.ofNat 64 v), (a + 1, BitVec.ofNat 64 (v / 2 ^ 64))])
  else [(a, extend sgn (2 ^ z) v)]

/-- The target bytes a load delivers to. -/
def loadTargets (a z : Nat) : List Nat := if a < 4 then [] else if z = 4 then [a, a + 1] else [a]

/-- A late memory result of one seat. -/
def State.memLate (s : State) (c : Nat) (t : Train) (x : Seat) (a z : Nat) (sgn : Bool) (v wbit : Nat) (kind : LateKind) :
    State × Train :=
  s.issueLate c t x (loadTargets a z) (loadVals a z sgn v) (extend sgn (2 ^ z) v) 0 wbit 0 kind

/-- An operation whose result comes back from elsewhere: targets and registers wait for it (R53, R192). -/
def State.openOp (s : State) (c : Nat) (t : Train) (x : Seat) (targets : List Nat) (wbit path : Nat) : Nat × State × Train :=
  let n := s.newOp c
  let s1 := n.2.startOp c t.uid wbit path n.1
  (n.1, t.writeRegs.foldl (fun st g => st.pendReg c t x g n.1) s1, targets.foldl (fun u g => u.pendOn x.n g n.1) t)

/-- The request of a seat to the device that backs its page (R433). -/
def seatRequest (c : Nat) (t : Train) (x : Seat) (peer pa size : Nat) (kind : RKind) (targets : List Nat) (opId : Nat) :
    RemoteReq :=
  { id := 0, peer := peer, pa := pa, va := (t.slot x.n t.pc .l).toNat, size := size, kind := kind, core := c, train := t.uid, launch := t.launch, seat := x.n,
    handle := x.inst.handle, targets := targets, regs := t.writeRegs, instr := t.pc, opId := opId }

/-- One seat of `ld` (R213): a local load is late; a load from a REMOTE page goes to the peer, at the boundary in timetable mode
(R295, R433). -/
def State.loadSeat (s : State) (c : Nat) (t : Train) (a z : Nat) (sgn acq : Bool) (x : Seat) (pa : Nat) (e : TlbEntry) :
    State × Train :=
  let n := 2 ^ z
  let tt := s.inTT t.launch
  match leafHome e.leaf with
  | none => s.memLate c t x a z sgn (ofLE (s.seeGlob c t.uid tt pa n)) 16 .mem
  | some peer =>
    let o := s.openOp c t x (loadTargets a z) 16 0
    if tt then (o.2.1.enqueue c [{ sqEntry t x (.remoteRead pa peer n sgn) (loadTargets a z) t.writeRegs o.1 with acq := acq }], o.2.2)
    else (o.2.1.remote (seatRequest c t x peer pa n (.read sgn) (loadTargets a z) o.1), o.2.2)

/-- R129: whether n bytes here meet an uncorrectable error; what a peer holds is checked there. -/
def State.homeErr (s : State) (peer : Option Nat) (pa n : Nat) : Bool := peer.isNone && granuleBad s.bad pa n

/-- What a write leaves of a carried register: its value, whether it is full, and its pending writer. -/
abbrev RegLook := Word × Bool × Option Writer

def Frame.look (f : Frame) (g : Nat) : RegLook := (f.reg g, f.full g, NMap.get? f.writer g)

/-- A carried register put back to what a write left of it. -/
def Frame.putLook (f : Frame) (g : Nat) (l : RegLook) : Frame :=
  let f1 := if l.2.1 then f.setReg g l.1 else f.empty g
  { f1 with writer := match l.2.2 with | some w => NMap.set f1.writer g w | none => NMap.erase f1.writer g }

/-- Seats act in ascending order (R114, R128); a carried register that several of them write keeps what the last in tag order wrote (R193). A seat that
faults has written nothing. -/
def State.actSeats {α : Type} (s : State) (c : Nat) (t : Train) (xs : List (Seat × α))
    (f : State → Train → Seat → α → State × Train) : State × Train :=
  let regs := t.writeRegs
  if regs.isEmpty then xs.foldl (fun p x => f p.1 p.2 x.1 x.2) (s, t)
  else
    let r := xs.foldl (fun (p : (State × Train) × List (Seat × List (Nat × RegLook))) x =>
      let q := f p.1.1 p.1.2 x.1 x.2
      if q.2.seats.any (fun y => y.n == x.1.n) then
        (q, p.2 ++ [(x.1, regs.map (fun g => (g, (q.1.frame c x.1.inst.handle).look g)))])
      else (q, p.2)) ((s, t), [])
    ((seatsByTag s c (r.2.map (·.1))).foldl (fun st x =>
      match r.2.find? (fun y => y.1.n == x.n) with
      | some y => y.2.foldl (fun u l => u.updFrame c x.inst.handle (fun k => k.putLook l.1 l.2)) st
      | none => st) r.1.1, r.1.2)

/-- R114, R219: whether an access reads what its train's earlier stores may still be changing elsewhere: an atomic, or a read at a peer. -/
def needsWrites (need : Need) (xs : List (Seat × Nat × TlbEntry)) : Bool :=
  need == .rmw || (need == .read && xs.any (fun x => leafRemote x.2.2.leaf))

/-- The shape of a global access (R213): scope, write entries, phase 1 for every seat, faults, phase 2. An atomic, and a read at a peer, first
waits for its train's earlier stores (R114). -/
def globInstr (s : State) (ordered : Bool) (level n : Nat) (need : Need) (reads : Bool)
    (f : Nat → State → Train → List (Seat × Nat × TlbEntry) → State × Train) : Host.Outcome State Fault Refusal :=
  withScope s ordered level (fun c t0 =>
    match s.prepare c t0 with
    | .hold s' => .next s'
    | .go s0 t =>
      let cs := s0.checkSeats c t n need
      let ms := missesOf t need cs
      if ms.isEmpty then
        afterWrites (s0.looked c t) c t (if needsWrites need (s0.goodSeats n reads cs) then 63 else 0) (fun s1 =>
          let p := s1.failSeats c t n reads cs
          let r := f c p.1 p.2 (s1.goodSeats n reads cs)
          .next ((r.1.putTrain c r.2).retireUid c t.uid))
      else .next (s0.missHold c t ms))

/-- R210, R223, R129: the checks of a scratchpad access of n bytes; with `reads` an uncorrectable error fails it too. -/
def State.spCheck (s : State) (c : Nat) (r : LaunchRef) (a : Word) (n : Nat) (reads : Bool) : Except Nat (Nat × Nat) :=
  match s.spAccess c r a n with
  | .ok (k, off) => if reads && s.winErr r k off n then .error DATA_UNCORRECTABLE else .ok (k, off)
  | e => e

/-- The shape of a scratchpad access (R210, R213); `atomic` marks one that waits for its train's earlier stores (R114). -/
def spInstr (s : State) (ordered : Bool) (level n : Nat) (reads atomic : Bool)
    (f : Nat → State → Train → List (Seat × Nat × Nat) → State × Train) : Host.Outcome State Fault Refusal :=
  withScope s ordered level (fun c t0 =>
    match s.prepare c t0 with
    | .hold s' => .next s'
    | .go s0 t =>
      afterWrites s0 c t (if atomic then 63 else 0) (fun s1 =>
        let cs := t.seats.map (fun x => (x, s1.spCheck c t.launch (t.slot x.n t.pc .l) n reads))
        let p := cs.foldl (fun (p : State × Train) a =>
          match a.2 with
          | .error code => p.1.takeFault c p.2 a.1 code 0 0 (t.slot a.1.n t.pc .l).toNat t.pc
          | .ok _ => p) (s1, t)
        let good := cs.filterMap (fun a => match a.2 with | .ok k => some (a.1, k.1, k.2) | .error _ => none)
        let r := f c p.1 p.2 good
        .next ((r.1.putTrain c r.2).retireUid c t.uid)))

/-- R213 `ld`. -/
def execLd (a : BitVec 8) (z : BitVec 3) (o : BitVec 1) (sc : BitVec 3) (_p : BitVec 2) (g : BitVec 1) (s : State) :
    Host.Outcome State Fault Refusal :=
  globInstr s (o == 1) sc.toNat (2 ^ z.toNat) .read true (fun c st t xs =>
    st.actSeats c t xs (fun s' t' x k => s'.loadSeat c t' a.toNat z.toNat (g == 1) (o == 1) x k.1 k.2))

/-- The bytes a store writes: R, or R and T for 128 bits (R213, R214). -/
def storeBytes (t : Train) (x : Seat) (z : Nat) : List Byte :=
  leBytes (2 ^ z) ((t.slot x.n t.pc .r).toNat + (if z = 4 then (t.slot x.n t.pc .t).toNat * 2 ^ 64 else 0))

/-- R213 `st`: the stores enter the core's queue in ascending seat order (R114, R128). -/
def execSt (z : BitVec 3) (o : BitVec 1) (sc : BitVec 3) (_p : BitVec 2) (s : State) : Host.Outcome State Fault Refusal :=
  globInstr s (o == 1) sc.toNat (2 ^ z.toNat) .write false (fun c st t xs =>
    (st.enqueue c (xs.map (fun y => sqEntry t y.1 (.glob y.2.1 (leafHome y.2.2.leaf) (storeBytes t y.1 z.toNat)) [] [] 0)), t))

/-- R213 `lds`. -/
def execLds (a : BitVec 8) (z : BitVec 3) (o : BitVec 1) (sc : BitVec 3) (g : BitVec 1) (s : State) :
    Host.Outcome State Fault Refusal :=
  spInstr s (o == 1) sc.toNat (2 ^ z.toNat) true false (fun c st t xs =>
    st.actSeats c t xs (fun s' t' x k =>
      s'.memLate c t' x a.toNat z.toNat (g == 1) (ofLE (st.seeWin c t.uid (st.inTT t.launch) t.launch k.1 k.2 (2 ^ z.toNat))) 16
        (if k.1 = c then .own else .mem)))

/-- R213, R216 `sts`. -/
def execSts (z : BitVec 3) (o : BitVec 1) (sc : BitVec 3) (s : State) : Host.Outcome State Fault Refusal :=
  spInstr s (o == 1) sc.toNat (2 ^ z.toNat) false false (fun c st t xs =>
    (st.enqueue c (xs.map (fun y => sqEntry t y.1 (.win y.2.1 y.2.2 (storeBytes t y.1 z.toNat)) [] [] 0)), t))

/-- The old value an atomic returns: late when it has a target or a write entry, otherwise done (R218). -/
def State.atomLate (s : State) (c : Nat) (t : Train) (x : Seat) (a n : Nat) (sgn : Bool) (old : Nat) (kind : LateKind) :
    State × Train :=
  if a < 4 && t.writeRegs.isEmpty then (s, t)
  else
    let v := extend sgn n old
    s.issueLate c t x (loadTargets a 3) [(a, v)] v 0 18 0 kind

/-- One seat of `atom` or `cas` (R218): performed at the home, indivisibly; at the boundary in timetable mode (R295), by the peer for a
REMOTE page (R219, R433). -/
def State.rmwSeat (s : State) (c : Nat) (t : Train) (a n op : Nat) (sgn acq : Bool) (x : Seat) (pa : Nat) (e : TlbEntry) :
    State × Train :=
  let r := t.slot x.n t.pc .r
  let w := t.slot x.n t.pc .t
  if s.inTT t.launch then
    let o := s.openOp c t x (loadTargets a 3) 18 0
    (o.2.1.enqueue c [{ sqEntry t x (.rmw pa (leafHome e.leaf) n op sgn r w) (loadTargets a 3) t.writeRegs o.1 with acq := acq }], o.2.2)
  else
    match leafHome e.leaf with
    | some peer =>
      let o := s.openOp c t x (loadTargets a 3) 18 0
      (o.2.1.remote (seatRequest c t x peer pa n (.rmw op sgn r w) (loadTargets a 3) o.1), o.2.2)
    | none =>
      let old := s.mem.readNat pa n
      let s1 := { s with mem := s.mem.writeNat pa n (rmwNew op (8 * n) sgn old r.toNat w.toNat) }
      s1.atomLate c t x a n sgn old .far

/-- R64: an ORDER that acquires. -/
def acquires (o : BitVec 3) : Bool := o == 1 || o == 3

/-- Atomics on the global space: the seats act in ascending seat order (R128). -/
def atomInstr (s : State) (level n op : Nat) (a : Nat) (sgn acq : Bool) : Host.Outcome State Fault Refusal :=
  globInstr s true level n .rmw true (fun c st t xs =>
    xs.foldl (fun p y => p.1.rmwSeat c p.2 a n op sgn acq y.1 y.2.1 y.2.2) (st, t))

/-- R217 `atom`. -/
def execAtom (a : BitVec 8) (z : BitVec 1) (o sc : BitVec 3) (g : BitVec 1) (x : BitVec 3) (s : State) :
    Host.Outcome State Fault Refusal :=
  atomInstr s sc.toNat (4 + 4 * z.toNat) x.toNat a.toNat (g == 1) (acquires o)

/-- R218 `cas`. -/
def execCas (a : BitVec 8) (z : BitVec 1) (o sc : BitVec 3) (g : BitVec 1) (s : State) : Host.Outcome State Fault Refusal :=
  atomInstr s sc.toNat (4 + 4 * z.toNat) 7 a.toNat (g == 1) (acquires o)

/-- One seat of `atoms` (R217, R219): in timetable mode an access to another core's window waits for the boundary, and one to the own
window is performed at issue (R296). -/
def State.spRmwSeat (s : State) (c : Nat) (t : Train) (a n op : Nat) (sgn acq : Bool) (x : Seat) (core off : Nat) : State × Train :=
  let r := t.slot x.n t.pc .r
  let tt := s.inTT t.launch
  if tt && core != c then
    let o := s.openOp c t x (loadTargets a 3) 18 0
    (o.2.1.enqueue c [{ sqEntry t x (.wrmw core off n op sgn r) (loadTargets a 3) t.writeRegs o.1 with acq := acq }], o.2.2)
  else
    let old := ofLE (s.seeWin c t.uid tt t.launch core off n)
    let new := leBytes n (rmwNew op (8 * n) sgn old r.toNat 0)
    let s1 := if tt then s.enqueue c [sqEntry t x (.win core off new) [] [] 0] else s.winStore t.launch core off new
    s1.atomLate c t x a n sgn old (if core = c then .own else .far)

/-- R217 `atoms`. -/
def execAtoms (a : BitVec 8) (z : BitVec 1) (o sc : BitVec 3) (g : BitVec 1) (x : BitVec 3) (s : State) :
    Host.Outcome State Fault Refusal :=
  let n := 4 + 4 * z.toNat
  spInstr s true sc.toNat n true true (fun c st t xs =>
    xs.foldl (fun p y => p.1.spRmwSeat c p.2 a.toNat n x.toNat (g == 1) (acquires o) y.1 y.2.1 y.2.2) (st, t))

/-- R120, R389: a fence of paths `mask` at a scope level: it waits for its train's earlier writes and operations on these paths, and in timetable
mode for the boundary. -/
def fenceInstr (s : State) (level mask : Nat) : Host.Outcome State Fault Refusal :=
  withScope s true level (fun c t =>
    afterWrites s c t mask (fun s1 =>
      if (s1.core c).pathsBusy t.uid mask then .next (s1.holdTrain c t .paths)
      else if s1.bufferHolds c t level mask then
        .next (s1.holdTrain c { t with moved := (s1.part t.launch.part).ssCount.toNat + 1 } .paths)
      else .next (s1.retire c t)))

/-- R120 `fence`: waits until every earlier operation of the train on a path in BEFORE has completed and its writes are performed. -/
def execFence (sc : BitVec 3) (b _c : BitVec 6) (s : State) : Host.Outcome State Fault Refusal := fenceInstr s sc.toNat b.toNat

/-- A walk made at once, which fills the TLBs and raises no page request (R221). -/
def State.quietWalk (s : State) (c asid va : Nat) : State :=
  if !vaOk va || (s.tlbHit c asid va).isSome then s
  else
    match s.walk asid va with
    | .leaf base size e =>
      let en : TlbEntry := ⟨asid, base, size, e⟩
      ((s.updCore c (fun k => { k with tlb := tlbAdd k.tlb 64 en })).updCluster (clusterOf c)
        (fun k => { k with tlb := tlbAdd k.tlb 2048 en })).countEvt c 6 1
    | _ => s.countEvt c 6 1

/-- The walks of the seats of a prefetch or maintenance instruction. -/
def State.quietWalks (s : State) (c : Nat) (t : Train) : State :=
  t.seats.foldl (fun st x => st.quietWalk c t.asid (t.slot x.n t.pc .l).toNat) s

/-- R221 `pref`: delivers no value, never faults, and completes at issue; the die cache is performance alone (R115, R215). -/
def execPref (_p : BitVec 2) (_n : BitVec 4) (s : State) : Host.Outcome State Fault Refusal :=
  withTrain s (fun c t => .next ((s.quietWalks c t).retire c t))

/-- R221: a write-back handed to the die caches; it completes under wait bit 17 with FLUSH_COMPLETE. -/
def flushInstr (s : State) : Host.Outcome State Fault Refusal :=
  withTrain s (fun c t =>
    let s1 := s.quietWalks c t
    let d := s1.draw
    let n := d.2.newOp c
    let s2 := n.2.startOp c t.uid 17 0 n.1
    let due := s.cyc.toNat + 1 + Config.latency d.1
    .next ((s2.updCore c (fun k => { k with flushes := k.flushes ++ [(due, n.1)] })).retire c t))

/-- R221 `cflush`: the lines named are written back; no order rule depends on it (R115). -/
def execCflush (_p : BitVec 1) (s : State) : Host.Outcome State Fault Refusal := flushInstr s

/-- R221 `cinv`: as `cflush`, and the lines are dropped; no dirty data is lost. -/
def execCinv (_p : BitVec 1) (s : State) : Host.Outcome State Fault Refusal := flushInstr s

/-! ## MX blocks (R222) -/

/-- Data bytes of a block: 32, 24 or 16 (R92, R108). -/
def mxBytes (f : Nat) : Nat := 4 * (mxFmt f).width

/-- Outcome of the checks of a block: its data and scale addresses on their pages, a fault code, or misses. -/
inductive MxAcc where
  | ok (pa : Nat) (peer : Option Nat) (spa : Nat) (speer : Option Nat)
  | bad (code : Nat)
  | miss (va : Nat)
deriving DecidableEq, Repr

/-- R108: the virtual address of a block's scale byte. -/
def mxScaleVa (e : TlbEntry) (va d : Nat) : Int := (e.base : Int) + leafMXS e.leaf * 8192 + ((va - e.base) / d : Nat)

/-- R108, R222, R223: the checks of a block at a virtual address. Its offset in its page decides the alignment; what every page base leaves of
it, the alignment to the part of d that divides 8 KiB, is checked before the translation. -/
def State.mxAccess (s : State) (c asid : Nat) (failed : List (Nat × Nat)) (va f : Nat) (need : Need) : MxAcc :=
  let d := mxBytes f
  if !vaOk va then .bad ACCESS_VIOLATION
  else if va % Nat.gcd d 8192 != 0 then .bad MISALIGNED
  else
    match failedCode failed va with
    | some code => .bad code
    | none =>
      match s.tlbHit c asid va with
      | none => .miss va
      | some e =>
        let off := va - e.base
        if off % d != 0 || decide (off + d > e.size) then .bad MISALIGNED
        else if !need.ok e.leaf || leafMXS e.leaf == 0 || (!leafRemote e.leaf && !physOk (e.phys va) d) then
          .bad ACCESS_VIOLATION
        else
          let sv := mxScaleVa e va d
          if sv < 0 || !vaOk sv.toNat then .bad ACCESS_VIOLATION
          else
            match s.translate c asid failed sv.toNat 1 need with
            | .bad code => .bad code
            | .miss => .miss sv.toNat
            | .ok spa se => .ok (e.phys va) (leafHome e.leaf) spa (leafHome se.leaf)

/-- The groups of eight seats that have an active seat, ascending (R222). -/
def Train.groups (t : Train) : List Nat := sortBy (fun a b => decide (a ≤ b)) (dedup (t.seats.map (fun x => x.n / 8)))

/-- The groups whose first seat is active, with that seat and its block's checks. -/
def State.mxGroups (s : State) (c : Nat) (t : Train) (f : Nat) (need : Need) : List (Nat × Seat × MxAcc) :=
  t.groups.filterMap (fun b => (t.seat? (8 * b)).map (fun x =>
    (b, x, s.mxAccess c t.asid t.failed (t.slot x.n t.pc .l).toNat f need)))

/-- The scale addresses of the blocks whose data pages are translated. -/
def State.mxScaleVas (s : State) (c : Nat) (t : Train) (f : Nat) : List Nat :=
  t.groups.filterMap (fun b => (t.seat? (8 * b)).bind (fun x =>
    let va := (t.slot x.n t.pc .l).toNat
    (s.tlbHit c t.asid va).map (fun e => (mxScaleVa e va (mxBytes f)).toNat)))

/-- R129: whether a part of a block here meets an uncorrectable error. -/
def State.mxErr (s : State) (f : Nat) (a : MxAcc) : Bool :=
  match a with
  | .ok pa peer spa speer => s.homeErr peer pa (mxBytes f) || s.homeErr speer spa 1
  | _ => false

/-- The shape of an MX access (R222): phase 1 for every group, faults of first seats, then the groups in ascending order. A fault's ADDR is the
data address also where the scale's page fails (log 45). -/
def mxInstr (s : State) (ordered : Bool) (level f : Nat) (need : Need)
    (act : Nat → State → Train → List (Nat × Seat × MxAcc) → State × Train) : Host.Outcome State Fault Refusal :=
  withScope s ordered level (fun c t0 =>
    match s.prepare c t0 with
    | .hold s' => .next s'
    | .go s0 t =>
      let gs := s0.mxGroups c t f need
      let ms := gs.filterMap (fun g => match g.2.2 with | .miss va => some (va, need.kind, 0) | _ => none)
      if ms.isEmpty then
        let far := need == .read && gs.any (fun g => match g.2.2 with | .ok _ none _ none => false | .ok .. => true | _ => false)
        afterWrites ((s0.looked c t).tlbFill c t.asid (s0.mxScaleVas c t f)) c t (if far then 63 else 0) (fun s1 =>
          let fault := fun (p : State × Train) (g : Nat × Seat × MxAcc) (code : Nat) =>
            p.1.takeFault c p.2 g.2.1 code 0 0 (t.slot g.2.1.n t.pc .l).toNat t.pc
          let p := gs.foldl (fun (p : State × Train) g =>
            match g.2.2 with
            | .bad code => fault p g code
            | a => if need == .read && s1.mxErr f a then fault p g DATA_UNCORRECTABLE else p) (s1, t)
          let r := act c p.1 p.2 gs
          .next ((r.1.putTrain c r.2).retireUid c t.uid))
      else .next (s0.missHold c t ms))

/-- The word `ldmx` delivers to seat 8b+i: four elements in the low bits and the scale in bits [63:56] (R94, R222). -/
def mxSeatWord (f data scale i : Nat) : Word :=
  let w := (mxFmt f).width
  BitVec.ofNat 64 (data / 2 ^ (4 * w * i) % 2 ^ (4 * w) + scale * 2 ^ 56)

/-- R222, R295, R433: the seats of a group of `ldmx` whose block lies at a peer, in whole or in part: asked for at once, or at the boundary in
timetable mode. What lies here is read as the peer answers (log 15). -/
def State.mxFar (s : State) (c : Nat) (t : Train) (acq : Bool) (xs : List Seat) (f a pa : Nat) (peer : Option Nat) (sp : Nat) (speer : Option Nat) :
    State × Train :=
  let r := xs.foldl (fun (p : State × Train × List MxSeat) x =>
    let o := p.1.openOp c p.2.1 x (loadTargets a 3) 16 0
    (o.2.1, o.2.2, p.2.2 ++ [⟨x.n, x.inst.handle, x.n % 8, o.1⟩])) (s, t, [])
  match xs, r.2.2 with
  | x :: _, m :: _ =>
    if s.inTT t.launch then
      (r.1.enqueue c [{ sqEntry t x (.remoteMx pa peer sp speer f r.2.2) (loadTargets a 3) t.writeRegs m.opId with acq := acq }], r.2.1)
    else
      match mxRequest pa peer sp speer f r.2.2 with
      | some (p, a', n, kind) => (r.1.remote (seatRequest c t x p a' n kind (loadTargets a 3) m.opId), r.2.1)
      | none => (r.1, r.2.1)
  | _, _ => (r.1, r.2.1)

/-- R222 `ldmx`. Where the first seat's block fails its checks the other seats of its group receive 0, and where its bytes meet an uncorrectable
error the bytes as they stand (log 46). -/
def execLdmx (a : BitVec 8) (o : BitVec 1) (sc : BitVec 3) (_p : BitVec 2) (f : BitVec 3) (s : State) :
    Host.Outcome State Fault Refusal :=
  mxInstr s (o == 1) sc.toNat f.toNat .read (fun c st t gs =>
    let tt := st.inTT t.launch
    let isFar := fun (b : Nat) => match gs.find? (fun g => g.1 == b) with | some (_, _, .ok _ none _ none) | none => false | some (_, _, .ok ..) => true | _ => false
    let near := t.seats.filter (fun x => !isFar (x.n / 8))
    let p := st.actSeats c t (near.map (fun x => (x, ()))) (fun s' t' x _ =>
      match gs.find? (fun g => g.1 == x.n / 8) with
      | some (_, _, .ok pa none spa none) =>
        let data := ofLE (st.seeGlob c t.uid tt pa (mxBytes f.toNat))
        let scale := ofLE (st.seeGlob c t.uid tt spa 1)
        let v := mxSeatWord f.toNat data scale (x.n % 8)
        s'.issueLate c t' x (loadTargets a.toNat 3) [(a.toNat, v)] v 0 16 0 .mem
      | _ => s'.issueLate c t' x (loadTargets a.toNat 3) [(a.toNat, 0)] 0 0 16 0 .mem)
    gs.foldl (fun (q : State × Train) g =>
      match g.2.2 with
      | .ok pa peer spa speer =>
        if isFar g.1 then q.1.mxFar c q.2 (o == 1) (t.seats.filter (fun x => x.n / 8 == g.1)) f.toNat a.toNat pa peer spa speer else q
      | _ => q) p)

/-- The data `stmx` assembles for a group: elements of its active seats, zero for the inactive (R222). -/
def stmxData (t : Train) (f b : Nat) : Nat :=
  let w := 4 * (mxFmt f).width
  packAt w (fun i => (t.slot (8 * b + i) t.pc .r).toNat % 2 ^ w) 8

/-- R222 `stmx`: the data bytes and the scale byte enter the store queue as one access (R127). -/
def execStmx (o : BitVec 1) (sc : BitVec 3) (_p : BitVec 2) (f : BitVec 3) (s : State) : Host.Outcome State Fault Refusal :=
  mxInstr s (o == 1) sc.toNat f.toNat .write (fun c st t gs =>
    (st.enqueue c (gs.filterMap (fun g =>
      match g.2.2 with
      | .ok pa peer spa speer =>
        some (sqEntry t g.2.1 (.mx pa peer (leBytes (mxBytes f.toNat) (stmxData t f.toNat g.1)) spa speer
          (BitVec.ofNat 8 (t.slot g.2.1.n t.pc .t).toNat)) [] [] 0)
      | _ => none)), t))

end Sys2Proof.Machine
end

