-- ==== Sys2Proof/Machine/Fire.lean ====
section
/-!
DEFINITION. Class FIRE: the meanings of its instructions (R122, R170 to R186).
-/
namespace Sys2Proof.Machine

/-- A token on its way: within the device to its core, or to the device its tag names (R16, R165). In timetable mode one for another device leaves at the
boundary (R295). -/
def State.sendCargo (s : State) (c : Nat) (tt : Bool) (tag : Word) (cargo : Cargo) (opId : Nat) : State :=
  if tagDevice tag = s.link.device then s.post c (tagCore tag) tt cargo opId
  else if tt then s.updCore c (fun k => { k with sends := k.sends ++ [(tagCore tag, ⟨0, none, cargo, opId, c, none, false⟩)] })
  else s.postRemote c (tagDevice tag) cargo opId

/-- R16, R17: the checks of a tag a send takes, at issue: ASID, device and core. -/
def State.tagFault (s : State) (asid : Nat) (tag : Word) : Option Nat :=
  if tagAsid tag != asid then some ACCESS_VIOLATION
  else if decide (1280 ≤ tagCore tag) || !s.link.members.contains (tagDevice tag) then some DEST_RANGE
  else none

/-- The payload and tag a seat supplies to a sending instruction (R63, R170). -/
def seatTag (s : State) (c : Nat) (t : Train) (x : Seat) (tsrc : Bool) : Word :=
  if tsrc then t.slot x.n t.pc .t else s.tagOf c x.inst

/-- A data token from a seat (R163, R164). Words PWORDS does not declare read zero. -/
def seatToken (s : State) (c : Nat) (t : Train) (x : Seat) (tag : Word) (dest scope pwords : Nat) : Token :=
  { tag := tag, src := s.tagOf c x.inst, dest := dest, scope := scope, pwords := pwords,
    pay0 := if pwords = 0 then 0 else t.slot x.n t.pc .l, pay1 := if pwords = 2 then t.slot x.n t.pc .r else 0,
    kind := 0, sided := false, sender := t.launch }

/-- A token released by a seat, with the operation that wait bit 23 covers (R166). -/
def State.release (s : State) (c : Nat) (t : Train) (tok : Token) : State :=
  let n := s.newOp c
  (n.2.startOp c t.uid 23 6 n.1).sendCargo c (s.inTT t.launch) tok.tag (.tok tok) n.1

/-- One seat of `send`, `sendsel` or `switch` to a destination (R16, R17, R63, R171, R172): delivered, or the seat faults. -/
def State.sendSeat (s : State) (c : Nat) (t : Train) (x : Seat) (dest scope pwords : Nat) (tsrc : Bool) (dcount : Nat) :
    State × Train :=
  let tag := seatTag s c t x tsrc
  if dcount ≤ dest then s.takeFault c t x DEST_RANGE 0 dest 0 t.pc
  else
    match s.tagFault t.asid tag with
    | some code => s.takeFault c t x code 0 (if code = DEST_RANGE then dest else 0) 0 t.pc
    | none => (s.release c t (seatToken s c t x tag dest scope pwords), t)

/-- The shape of a sending instruction: release scope, the wait for named paths, then the release of the train's L-path stores
(R112, R122). `tags` gives the tags it sends to: the train holds while its core is crowded with packets for one of them (R437). -/
def sendInstr (s : State) (scope paths : Nat) (tags : Nat → Train → List Word) (f : Nat → State → Train → State × Train) :
    Host.Outcome State Fault Refusal :=
  withScope s true scope (fun c t =>
    afterWrites s c t (paths ||| 1) (fun s1 =>
      if (s1.core c).pathsBusy t.uid paths then .next (s1.holdTrain c t .paths)
      else if (tags c t).any (s1.crowded c) then .next (s1.holdTrain c t .credit)
      else
        let r := f c s1 t
        .next ((r.1.draw.2.putTrain c r.2).retireUid c t.uid)))

/-- The tags of a send's active seats (R63). -/
def seatTags (s : State) (tsrc : Bool) (c : Nat) (t : Train) : List Word := t.seats.map (fun x => seatTag s c t x tsrc)

/-- R171 `send`: one token from each active seat to DEST. -/
def execSend (d : BitVec 12) (sc : BitVec 3) (t : BitVec 1) (w : BitVec 2) (p : BitVec 6) (s : State) :
    Host.Outcome State Fault Refusal :=
  sendInstr s sc.toNat p.toNat (seatTags s (t == 1)) (fun c st tr =>
    let n := st.destCount tr.asid tr.prog
    tr.seats.foldl (fun q x => q.1.sendSeat c q.2 x d.toNat sc.toNat w.toNat (t == 1) n) (st, tr))

/-- R171 `sendsel`: one token from each active seat to DEST + (P bit 0). -/
def execSendsel (d : BitVec 12) (sc : BitVec 3) (t : BitVec 1) (w : BitVec 2) (p : BitVec 6) (s : State) :
    Host.Outcome State Fault Refusal :=
  sendInstr s sc.toNat p.toNat (seatTags s (t == 1)) (fun c st tr =>
    let n := st.destCount tr.asid tr.prog
    tr.seats.foldl (fun q x =>
      q.1.sendSeat c q.2 x (d.toNat + b2n (bit (tr.slot x.n tr.pc .p) 0)) sc.toNat w.toNat (t == 1) n) (st, tr))

/-- R172, R181: DETAIL of `SWITCH_RANGE` for a seat: the offending seats of its own mask word, and that word's number. -/
def switchDetail (bad : List Seat) (n : Nat) : Nat :=
  bad.foldl (fun m y => if y.n / 32 = n / 32 then m + 2 ^ (y.n % 32) else m) 0 + n / 32 * 2 ^ 32

/-- R172 `switch`: every seat's index must lie within LEN, or no seat sends and every active seat faults. -/
def execSwitch (d : BitVec 12) (sc : BitVec 3) (t : BitVec 1) (w : BitVec 2) (l : BitVec 6) (s : State) :
    Host.Outcome State Fault Refusal :=
  sendInstr s sc.toNat 0 (seatTags s (t == 1)) (fun c st tr =>
    let bad := tr.seats.filter (fun x => decide (l.toNat < (tr.slot x.n tr.pc .p).toNat))
    if bad.isEmpty then
      let n := st.destCount tr.asid tr.prog
      tr.seats.foldl (fun q x =>
        q.1.sendSeat c q.2 x (d.toNat + (tr.slot x.n tr.pc .p).toNat) sc.toNat w.toNat (t == 1) n) (st, tr)
    else st.takeFaults c tr SWITCH_RANGE tr.pc (tr.seats.map (fun x => (x, switchDetail bad x.n, 0))))

/-- R20: the bytes of payload reserve of a program: twice the largest entry of its blocks, rounded up to 64. -/
def State.reserveBytes (s : State) (asid prog : Nat) : Nat :=
  match s.imgHeader asid prog with
  | none => 0
  | some h =>
    let e := (List.range h.blockCount).foldl (fun m b =>
      match s.blockHead asid prog b with
      | some (h0, _) => if h0Inputs h0 = 0 then m else Nat.max m (roundUp (16 + 24 * h0Inputs h0) 16)
      | none => m) 0
    roundUp (2 * e) 64

/-- R20: the order of a frame with a number of carried registers. -/
def State.frameOrder (s : State) (asid prog carry : Nat) : Nat :=
  orderFor (64 + 8 * roundUp carry 8 + s.reserveBytes asid prog)

/-- R19: MODE of a spawned frame: rounding, flush-to-zero and saturation policy of the spawner, sticky flags clear. -/
def childMode (m : Word) : Word := m &&& 0xF7#64

/-- R159, R173: a frame of the order needed taken for a spawn, when a handle and frame memory are free. -/
def State.allocSpawn (s : State) (c : Nat) (par : Frame) (carry : Nat) (ptag : Word) (pdest : Nat) : Option (Nat × State) :=
  let k := s.core c
  let ord := s.frameOrder par.asid par.prog carry
  match freeHandle k.frames, sramFind k.sram ord with
  | some h, some u =>
    if ord ≤ 8 then
      let f : Frame := { Frame.free with
        alloc := true, gen := ((s.frame c h).gen + 1) % 65536, launch := par.launch, asid := par.asid, prog := par.prog,
        mode := childMode par.mode, parentValid := true, parentTag := ptag, parentDest := pdest, stage := par.stage,
        carryCount := carry, order := ord, reserve := s.reserveBytes par.asid par.prog, unit := u, empties := List.range carry }
      some (h, s.setCore c { k with frames := NMap.set k.frames h f, sram := k.sram ++ [(u, ord)] })
    else none
  | _, _ => none

/-- R160: a spawn's allocation has failed: when enough frame memory is free in all, the compactor will run for its order, once for each order
asked for. -/
def State.askCompact (s : State) (c ord : Nat) : State :=
  s.updCore c (fun k =>
    if (sramFind k.sram ord).isNone && decide (ord ≤ 8 ∧ 2 ^ ord ≤ sramFree k.sram) then { k with compactFor := dedup (k.compactFor ++ [ord]) } else k)

/-- R173: one seat of `spawn`. -/
def State.spawnSeat (s : State) (c : Nat) (t : Train) (x : Seat) (dest scope pwords kgran : Nat) (tsrc : Bool) (dcount : Nat) :
    State × Train :=
  let p := t.slot x.n t.pc .p
  let cont := bits p 11 0
  let own := s.tagOf c x.inst
  let ptag := if tsrc then t.slot x.n t.pc .t else own
  if dcount ≤ cont then s.takeFault c t x DEST_RANGE 0 cont 0 t.pc
  else
    match (if tsrc then s.tagFault t.asid ptag else none) with
    | some code => s.takeFault c t x code 0 (if code = DEST_RANGE then cont else 0) 0 t.pc
    | none =>
      match s.allocSpawn c (s.frame c x.inst.handle) (8 * kgran) ptag cont with
      | some (h, s1) =>
        let tag := mkTag t.asid s.link.device c h (bits p 35 12)
        (s1.release c t (seatToken s c t x tag dest scope pwords), t)
      | none =>
        let f := s.frame c x.inst.handle
        let s1 := s.askCompact c (s.frameOrder f.asid f.prog (8 * kgran))
        if dcount ≤ dest + 1 then s1.takeFault c t x DEST_RANGE 0 (dest + 1) 0 t.pc
        else (s1.release c t (seatToken s c t x own (dest + 1) scope pwords), t)

/-- R173, R33 `spawn`: the seats take handles in seat order. It never holds for credit: a packet without any waits at the core. -/
def execSpawn (d : BitVec 12) (sc : BitVec 3) (t : BitVec 1) (w : BitVec 2) (k : BitVec 5) (s : State) :
    Host.Outcome State Fault Refusal :=
  sendInstr s sc.toNat 0 (fun _ _ => []) (fun c st tr =>
    let n := st.destCount tr.asid tr.prog
    tr.seats.foldl (fun q x => q.1.spawnSeat c q.2 x d.toNat sc.toNat w.toNat k.toNat (t == 1) n) (st, tr))

/-- R175: the frame's free is pending from now on; a second one has no further effect. -/
def State.freeFrame (s : State) (c h : Nat) : State := s.updFrame c h (fun f => { f with freePending := true })

/-- R247: the stores that a root frame's `ret` makes: payload word i at RESULT + 8·i. -/
def retStores (t : Train) (x : Seat) (result pwords : Nat) : List (Nat × Word) :=
  if result = 0 then []
  else (List.range pwords).map (fun i => (result + 8 * i, if i = 0 then t.slot x.n t.pc .l else t.slot x.n t.pc .r))

/-- The RESULT address of a train's launch (R247). -/
def State.resultOf (s : State) (t : Train) : Nat :=
  match s.launch? t.launch with
  | some l => recResult l.record
  | none => 0

/-- The checks of the stores of one seat's `ret` (R223, R247). -/
def State.retChecks (s : State) (c : Nat) (t : Train) (x : Seat) (pwords : Nat) : List (Nat × Word × Acc) :=
  if (s.frame c x.inst.handle).parentValid then []
  else (retStores t x (s.resultOf t) pwords).map (fun a => (a.1, a.2, s.access c t.asid t.failed a.1 8 .write))

/-- R174: one seat of `ret`: a token to the continuation, or the launch's completion target for a root frame; a fault of a store is the
seat's own; then `free` with FREE set. -/
def State.retSeat (s : State) (c : Nat) (t : Train) (x : Seat) (scope pwords : Nat) (fr : Bool) : State × Train :=
  let f := s.frame c x.inst.handle
  let done := fun (st : State) => (if fr then st.freeFrame c x.inst.handle else st)
  if f.parentValid then
    (done (s.release c t (seatToken s c t x f.parentTag f.parentDest scope pwords)), t)
  else
    let cs := s.retChecks c t x pwords
    match cs.findSome? (fun a => match a.2.2 with | .bad code => some (code, a.1) | _ => none) with
    | some (code, va) => s.takeFault c t x code 0 0 va t.pc
    | none =>
      let es := cs.filterMap (fun a =>
        match a.2.2 with
        | .ok pa e => some (sqEntry t x (.glob pa (leafHome e.leaf) (leBytes 8 a.2.1.toNat)) [] [] 0)
        | _ => none)
      (done (s.enqueue c es), t)

/-- R174 `ret`. -/
def execRet (sc : BitVec 3) (w : BitVec 2) (f : BitVec 1) (s : State) : Host.Outcome State Fault Refusal :=
  withScope s true sc.toNat (fun c t =>
    let ms := t.seats.flatMap (fun x => (s.retChecks c t x w.toNat).filterMap (fun a =>
      match a.2.2 with | .miss => some (a.1, Need.write.kind, 0) | _ => none))
    if ms.isEmpty then
      sendInstr s sc.toNat 0 (fun c t => (t.seats.filter (fun x => (s.frame c x.inst.handle).parentValid)).map
        (fun x => (s.frame c x.inst.handle).parentTag)) (fun c st tr =>
        tr.seats.foldl (fun q x => q.1.retSeat c q.2 x sc.toNat w.toNat (f == 1)) (st, tr))
    else .next (s.missHold c t ms))

/-- R175 `free`: ends the activation of each active seat's frame; seats that share a frame free it once. -/
def execFree (s : State) : Host.Outcome State Fault Refusal :=
  withTrain s (fun c t => .next ((t.handles.foldl (fun st h => st.freeFrame c h) s).retire c t))

/-- R176: the value `tag` delivers. -/
def tagValue (s : State) (m c : Nat) (t : Train) (x : Seat) : Word :=
  let own := s.tagOf c x.inst
  let f := s.frame c x.inst.handle
  let l := t.slot x.n t.pc .l
  match m with
  | 0 => own
  | 1 => setBits own 23 0 (bits l 23 0)
  | 2 => if f.parentValid then f.parentTag else 0
  | 3 => BitVec.ofNat 64 f.gen
  | _ => BitVec.ofNat 64 (bits (t.slot x.n t.pc .r) 23 0 + bits l 30 0 * 2 ^ 24 + t.asid * 2 ^ 55)

/-- R176 `tag`: delivers a tag or tag field in its issue cycle. -/
def execTag (a b : BitVec 8) (m : BitVec 3) (s : State) : Host.Outcome State Fault Refusal :=
  laneNow s [a.toNat, b.toNat] (fun t c x => ⟨tagValue s m.toNat c t x, 0⟩)

/-- R186: a stopping instruction behind an outward one faults for every active seat and does nothing else. -/
def withPlacement (s : State) (f : Nat → Train → Host.Outcome State Fault Refusal) : Host.Outcome State Fault Refusal :=
  withTrain s (fun c t => if t.outwardBefore then .next (s.faultAll c t TRAP_PLACEMENT 0) else f c t)

/-- R105, R177, R223: the checks of a future access: alignment, permission, a FUT page, and feature 4 for its attribute. -/
def State.futAccess (s : State) (c : Nat) (t : Train) (x : Seat) (need : Need) : Acc :=
  match s.access c t.asid t.failed (t.slot x.n t.pc .l).toNat 8 need with
  | .ok pa e => if !leafFUT e.leaf then .bad ACCESS_VIOLATION else if !s.featOn t.launch 4 then .bad FEATURE_OFF else .ok pa e
  | r => r

/-- R177: one seat of `futld` that passed its checks. -/
def State.futldSeat (s : State) (c : Nat) (t : Train) (a : Nat) (take trap acq : Bool) (x : Seat) (pa : Nat) (e : TlbEntry) :
    State × Train :=
  let va := (t.slot x.n t.pc .l).toNat
  let tt := s.inTT t.launch
  match leafHome e.leaf with
  | some peer =>
    let o := s.openOp c t x (loadTargets a 3) 0 0
    if tt then
      let op := if take then StoreOp.futTake pa va (some peer) trap x.inst else StoreOp.remoteFut pa va peer trap x.inst
      (o.2.1.enqueue c [{ sqEntry t x op (loadTargets a 3) t.writeRegs o.1 with acq := acq }], o.2.2)
    else (o.2.1.remote (seatRequest c t x peer pa 8 (.futRead take trap va x.inst) (loadTargets a 3) o.1), o.2.2)
  | none =>
    if tt && take then
      let o := s.openOp c t x (loadTargets a 3) 0 0
      (o.2.1.enqueue c [{ sqEntry t x (.futTake pa va none trap x.inst) (loadTargets a 3) t.writeRegs o.1 with acq := acq }], o.2.2)
    else if s.futFull pa && tt then
      let o := s.openOp c t x (loadTargets a 3) 0 0
      (o.2.1.landNext c (sqEntry t x (.futTake pa va none trap x.inst) (loadTargets a 3) t.writeRegs o.1)
        (BitVec.ofNat 64 (ofLE (s.seeGlob c t.uid tt pa 8))), o.2.2)
    else if s.futFull pa then
      let v := BitVec.ofNat 64 (ofLE (s.seeGlob c t.uid tt pa 8))
      (if take then s.futClear pa else s).issueLate c t x (loadTargets a 3) [(a, v)] v 0 0 0 .far
    else if trap then s.takeFault c t x TRAP 1 va 0 t.pc
    else s.park c t x pa

/-- R177 `futld`: reads a future and waits for it if it is empty. -/
def execFutld (a : BitVec 8) (o : BitVec 1) (sc : BitVec 3) (_p : BitVec 2) (k t : BitVec 1) (s : State) :
    Host.Outcome State Fault Refusal :=
  withPlacement s (fun _ _ =>
    withScope s (o == 1) sc.toNat (fun c t0 =>
      match s.prepare c t0 with
      | .hold s' => .next s'
      | .go s0 tr =>
        let need := if k == 1 then Need.rmw else Need.read
        let cs := tr.seats.map (fun x => (x, s0.futAccess c tr x need))
        let ms := missesOf tr need cs
        if ms.isEmpty then
          afterWrites (s0.looked c tr) c tr (if needsWrites need (s0.goodSeats 8 true cs) then 63 else 0) (fun s1 =>
            let p := s1.failSeats c tr 8 true cs
            let r := (s1.goodSeats 8 true cs).foldl (fun q y =>
              q.1.futldSeat c q.2 a.toNat (k == 1) (t == 1) (o == 1) y.1 y.2.1 y.2.2) p
            .next ((r.1.putTrain c r.2).retireUid c tr.uid))
        else .next (s0.missHold c tr ms)))

/-- R179: one seat of `futst` that passed its checks. -/
def State.futstSeat (s : State) (c : Nat) (t : Train) (empty : Bool) (x : Seat) (pa : Nat) (e : TlbEntry) : State :=
  let v := if empty then none else some (t.slot x.n t.pc .r)
  let peer := leafHome e.leaf
  if s.inTT t.launch then
    let s1 := s.enqueue c [sqEntry t x (.fut pa peer v) [] [] 0]
    if v.isSome && peer.isNone then s1.updCore c (fun k => { k with sends := k.sends ++ [(c, ⟨0, none, .wake pa, 0, c, none, false⟩)] }) else s1
  else if peer.isSome then
    let n := s.newOp c
    (n.2.startOp c t.uid 17 0 n.1).remote (seatRequest c t x (peer.getD 0) pa 8 (.futWrite v) [] n.1)
  else
    match v with
    | some w => s.futFill pa w
    | none => s.futClear pa

/-- R179 `futst`: fills or empties a future; seats that name one word act in ascending seat order (R128). -/
def execFutst (o : BitVec 1) (sc : BitVec 3) (_p : BitVec 2) (e : BitVec 1) (s : State) : Host.Outcome State Fault Refusal :=
  withScope s (o == 1) sc.toNat (fun c t =>
    let cs := t.seats.map (fun x => (x, s.futAccess c t x .write))
    let ms := missesOf t .write cs
    if ms.isEmpty then
      afterWrites (s.looked c t) c t 63 (fun s1 =>
        let p := s1.failSeats c t 8 false cs
        let r := (s1.goodSeats 8 false cs).foldl (fun st y => st.futstSeat c t (e == 1) y.1 y.2.1 y.2.2) p.1
        .next ((r.putTrain c p.2).retireUid c t.uid))
    else .next (s.missHold c t ms))

/-- R184: seats leave the train, made ready again with a yield mark. -/
def State.yieldSeats (s : State) (c : Nat) (t : Train) (xs : List Seat) : State × Train :=
  xs.foldl (fun (p : State × Train) x =>
    ((p.1.leaveBlock c x.inst).updCore c (fun k => k.makeReady x.inst true), p.2.dropSeat x.n)) (s, t)

/-- R184 `yield`: seats whose L bit 0 is 1, or all of them, leave the train. -/
def execYield (y : BitVec 1) (s : State) : Host.Outcome State Fault Refusal :=
  withPlacement s (fun c t =>
    let r := s.yieldSeats c t (t.seats.filter (fun x => y == 1 || bit (t.slot x.n t.pc .l) 0))
    .next ((r.1.putTrain c r.2).retireUid c t.uid))

/-- R180 `trapset`: registers or clears the frame's trap handler. -/
def execTrapset (d : BitVec 12) (k : BitVec 1) (s : State) : Host.Outcome State Fault Refusal :=
  withTrain s (fun c t =>
    let s1 := t.handles.foldl (fun st h => st.updFrame c h (fun f =>
      if k == 1 then { f with trapValid := false } else { f with trapValid := true, trapDest := d.toNat })) s
    .next (s1.retire c t))

/-- The block L[63:48] names for a seat of `trapret` (R183). -/
def trapretBlock (t : Train) (x : Seat) : Nat := bits (t.slot x.n t.pc .l) 63 48

/-- R183: the held instance of a seat's frame and index in a block is released, or its entry and tokens are discarded. -/
def State.trapretSeat (s : State) (c : Nat) (t : Train) (m : Nat) (x : Seat) : State × Train :=
  let k := s.core c
  let hit := fun (e : MEntry) => e.state == .held && e.inst.handle == x.inst.handle && e.inst.idx == x.inst.idx &&
    e.inst.block == trapretBlock t x
  match k.entries.find? hit with
  | none => s.takeFault c t x DEST_RANGE 0 0 0 t.pc
  | some e =>
    let k1 := { k with entries := k.entries.filter (fun y => !(hit y && y.since == e.since)) }
    let k2 := if m = 2 then k1 else k1.makeReady e.inst (m == 1)
    (s.setCore c k2, t)

/-- R183 `trapret`; issued in the block it would release, it is a stopping instruction (R186). -/
def execTrapret (m : BitVec 2) (s : State) : Host.Outcome State Fault Refusal :=
  withTrain s (fun c t =>
    if t.seats.any (fun x => trapretBlock t x == t.block) && t.outwardBefore then .next (s.faultAll c t TRAP_PLACEMENT 0)
    else
      let r := t.seats.foldl (fun (p : State × Train) x => p.1.trapretSeat c p.2 m.toNat x) (s, t)
      .next ((r.1.putTrain c r.2).retireUid c t.uid))

/-- R185: the fills of a platform become eligible: each of them holds seats. -/
def Core.forcePlat (k : Core) (asid prog block : Nat) : Core :=
  { k with plats := k.plats.map (fun e =>
      if e.2.asid == asid && e.2.prog == prog && e.2.block == block then
        (e.1, { e.2 with fills := e.2.fills.map (fun f => { f with elig := true, forced := true }) })
      else e) }

/-- R185: one seat of `depart`. -/
def State.departSeat (s : State) (c : Nat) (t : Train) (x : Seat) (far : Bool) : State × Train :=
  let idx := bits (t.slot x.n t.pc .l) 11 0
  let tag := t.slot x.n t.pc .r
  match s.imgDest t.asid t.prog idx with
  | none => s.takeFault c t x DEST_RANGE 0 idx 0 t.pc
  | some (block, _) =>
    if far then
      match s.tagFault t.asid tag with
      | some code => s.takeFault c t x code 0 (if code = DEST_RANGE then idx else 0) 0 t.pc
      | none => (s.sendCargo c (s.inTT t.launch) tag (.depart idx tag (s.tagOf c x.inst) t.launch) 0, t)
    else (s.updCore c (fun k => k.forcePlat t.asid t.prog block), t)

/-- R185 `depart`: makes a platform eligible, on this core or on the core that R's tag names. -/
def execDepart (t : BitVec 1) (s : State) : Host.Outcome State Fault Refusal :=
  withTrain s (fun c tr =>
    let r := tr.seats.foldl (fun (p : State × Train) x => p.1.departSeat c p.2 x (t == 1)) (s, tr)
    .next ((r.1.draw.2.putTrain c r.2).retireUid c tr.uid))

end Sys2Proof.Machine
end

