-- ==== Sys2Proof/Machine/EngOps.lean ====
section
/-!
DEFINITION. What the engines share: reads and writes of memory by walked translation, page requests and peer devices (R224, R229, R433),
completion rings (R345, R347), and tokens they send.
-/
namespace Sys2Proof.Machine

/-! ## Naming engine operations -/

def unitCopy (slot : Nat) : Nat := 4096 + slot
def unitMtx (ctx : Nat) : Nat := 8192 + ctx

/-! ## Memory -/

/-- What an engine finds when it reads n bytes: data with their page, a fault code, a missing leaf, or data still at a peer. -/
inductive EGet where
  | ok (bs : List Byte) (leaf base size : Nat)
  | bad (code addr : Nat)
  | page (va level : Nat)
  | remote (peer pa n va : Nat) (kind : RKind)
deriving DecidableEq, Repr

/-- Remote bytes that have come back to an operation. -/
def CoreEngines.remoteData (e : CoreEngines) (unit peer pa n : Nat) : Option (List Byte) :=
  (e.rdata.find? (fun d => d.unit == unit && d.peer == peer && d.pa == pa && d.data.length == n)).map (·.data)

/-- n bytes at a virtual address for an operation of core c (R223, R433). -/
def State.engRead (s : State) (c unit asid va n : Nat) : EGet :=
  match s.coreAcc c asid va n .read with
  | .bad code => .bad code va
  | .noLeaf l => .page va l
  | .ok pa leaf base size =>
    if leafRemote leaf then
      match (s.core c).eng.remoteData unit (leafPeer leaf) pa n with
      | some bs => .ok bs leaf base size
      | none => .remote (leafPeer leaf) pa n va .engRead
    else .ok (s.mem.read pa n) leaf base size

/-- R127, R433: an MX block of d data bytes at va with its scale at sv: the data, and behind them the scale, of one write. Where both lie at one
peer one request asks for both; where they lie at different devices, the last request of the two brings the whole block (log 15). -/
def State.engBlock (s : State) (c unit asid va d sv : Nat) : EGet :=
  match s.coreAcc c asid va d .read, s.coreAcc c asid sv 1 .read with
  | .ok pa leaf base size, .ok sp sl _ _ =>
    let got := fun (p a : Nat) (ask : EGet) =>
      match (s.core c).eng.remoteData unit p a (d + 1) with
      | some bs => .ok bs leaf base size
      | none => ask
    match leafHome leaf, leafHome sl with
    | none, none => .ok (s.mem.read pa d ++ s.mem.read sp 1) leaf base size
    | some p, none => got p pa (.remote p pa d va (.engMx d (.scaleHere sp)))
    | none, some q => got q sp (.remote q sp 1 va (.engMx d (.dataHere pa d)))
    | some p, some q =>
      if p = q then got p pa (.remote p pa (d + 1) va (.engMx d (.both sp))) else got q sp (.remote p pa d va (.engMx d (.scaleAt q sp)))
  | .bad code, _ => .bad code va
  | .noLeaf l, _ => .page va l
  | _, .bad code => .bad code sv
  | _, .noLeaf l => .page sv l

/-- A request of an engine operation to a peer. -/
def State.engAsk (s : State) (c unit : Nat) (r : LaunchRef) (peer pa n va : Nat) (kind : RKind) : State :=
  let q : RemoteReq := { id := 0, peer := peer, pa := pa, va := va, size := n, kind := kind, core := c, train := 0, launch := r, seat := unit,
                         handle := 0, targets := [], regs := [], instr := 0, opId := 0 }
  let s1 := s.remote q
  s1.updEng c (fun e => { e with rpend := e.rpend ++ [(unit, s1.link.reqSeq)] })

/-- Whether an operation has requests outstanding at peers. -/
def CoreEngines.asked (e : CoreEngines) (unit : Nat) : Bool := e.rpend.any (fun x => x.1 == unit)

/-- The remote bytes of a finished operation are dropped. -/
def CoreEngines.dropRemote (e : CoreEngines) (unit : Nat) : CoreEngines :=
  { e with rdata := e.rdata.filter (fun d => d.unit != unit) }

/-- What a write of an engine comes to. -/
inductive EPut where
  | ok (s : State)
  | bad (code addr : Nat)
  | page (va level : Nat)

/-- Whether an engine may write n bytes at a virtual address. -/
def State.engWritable (s : State) (c asid va n : Nat) : EAcc := s.coreAcc c asid va n .write

/-- Bytes written at a virtual address by an operation of core c (R223, R433). -/
def State.engWrite (s : State) (c unit : Nat) (r : LaunchRef) (asid va : Nat) (bs : List Byte) : EPut :=
  match s.engWritable c asid va bs.length with
  | .bad code => .bad code va
  | .noLeaf l => .page va l
  | .ok pa leaf _ _ =>
    if leafRemote leaf then .ok (s.engAsk c unit r (leafPeer leaf) pa bs.length va (.engWrite bs))
    else .ok (s.pathWrite pa bs)

/-- R127, R433: an MX block and its scale written: at one peer by one request; a part that lies here, or at another peer, as the request for the
first part is answered (log 15). -/
def State.engBlockWrite (s : State) (c unit : Nat) (r : LaunchRef) (asid va : Nat) (bs : List Byte) (sv : Nat) (x : Byte) : EPut :=
  match s.engWritable c asid va bs.length, s.engWritable c asid sv 1 with
  | .ok pa leaf _ _, .ok sp sl _ _ =>
    match leafHome leaf, leafHome sl with
    | none, none => .ok ((s.pathWrite pa bs).pathWrite sp [x])
    | some p, none => .ok (s.engAsk c unit r p pa bs.length va (.engPart bs (.here sp [x])))
    | none, some q => .ok (s.engAsk c unit r q sp 1 va (.engPart [x] (.here pa bs)))
    | some p, some q =>
      .ok (s.engAsk c unit r p pa bs.length va (if p = q then .engMxWrite bs sp x else .engPart bs (.there q sp [x])))
  | .bad code, _ => .bad code va
  | .noLeaf l, _ => .page va l
  | _, .bad code => .bad code sv
  | _, .noLeaf l => .page sv l

/-! ## Completion rings (R345, R347) -/

/-- What the look at a ring's descriptor gives: its physical address, value and address space; that there is none, or one that breaks R345; or a
missing leaf. -/
inductive RingDesc where
  | ok (pa d asid : Nat)
  | bad
  | page (asid va level : Nat)

/-- R235, R345: the descriptor of ring k of a launch, when it can be read and written. `failed`: 8 KiB units whose page request has failed. -/
def State.ringAt (s : State) (r : LaunchRef) (k : Nat) (failed : List Nat) : RingDesc :=
  match s.launch? r with
  | none => .bad
  | some l =>
    let tab := recRingTab l.record
    let va := tab + 16 * k
    if tab = 0 then .bad
    else
      match s.engAcc l.asid va 16 .rmw with
      | .ok pa leaf _ _ => if leafIMM leaf || leafRemote leaf then .bad else .ok pa (s.mem.readNat pa 16) l.asid
      | .noLeaf lv => if failed.contains (va / 8192) then .bad else .page l.asid va lv
      | .bad _ => .bad

/-- Whether a ring exists: RINGTAB is set and its BASE is not 0 (R340 REASON 6, R348). -/
def State.ringExists (s : State) (r : LaunchRef) (k : Nat) : Bool :=
  match s.ringAt r k [] with
  | .ok _ d _ => natBits d 120 64 != 0
  | _ => false

/-- The address of a ring's descriptor when its page has no leaf, and no request for it has failed: a train that names the ring holds (R229). -/
def State.ringMiss (s : State) (r : LaunchRef) (k : Nat) (failed : List (Nat × Nat)) : Option Nat :=
  match s.ringAt r k (failed.map (·.1)) with
  | .page _ va _ => some va
  | _ => none

/-- R345: the fields of a descriptor that has a ring. -/
def ringShape (d : Nat) : Bool :=
  let n := natBits d 35 32
  natBits d 127 121 == 0 && natBits d 47 36 == 0 && decide (4 ≤ n ∧ n ≤ 12) && natBits d 120 64 % 4096 == 0 && natBits d 120 64 != 0

/-- Outcome of a ring write; a page without a leaf is asked for, and the writer waits: nothing is lost (R227, R347). -/
inductive RingRes where
  | ok (s : State)
  | full
  | bad
  | page (asid va kind level : Nat)

/-- R345, R347: a 32-byte record claimed, written and published, in pages that are readable and writable. -/
def State.ringWrite (s : State) (r : LaunchRef) (k record : Nat) (failed : List Nat) : RingRes :=
  match s.ringAt r k failed with
  | .bad => .bad
  | .page asid va lv => .page asid va 8 lv
  | .ok pa d asid =>
    let head := natBits d 15 0
    let resv := natBits d 63 48
    let size := 2 ^ natBits d 35 32
    if !ringShape d then .bad
    else if size ≤ (resv + 65536 - head) % 65536 then .full
    else
      let va := natBits d 120 64 + 32 * (resv % size)
      match s.engAcc asid va 32 .write with
      | .ok ra leaf _ _ =>
        if leafIMM leaf || leafRemote leaf || !leafRD leaf then .bad
        else
          let next := (resv + 1) % 65536
          let s1 := s.pathWrite ra (leBytes 32 record)
          .ok { s1 with mem := (s1.mem.writeNat (pa + 6) 2 next).writeNat (pa + 2) 2 next }
      | .noLeaf lv => if failed.contains (va / 8192) then .bad else .page asid va 2 lv
      | .bad _ => .bad

/-- The page request of a ring's writer on core c; the path is C (R227, R347). -/
def State.ringPage (s : State) (c : Nat) (r : LaunchRef) (asid va kind level : Nat) : State := s.raisePage c r.part r.id asid va kind 1 level

/-! ## Tokens of engines -/

/-- R340 REASON 7: a completion token's tag names a device and core in the launch's ASID, and its destination a slot that declares two
payload words. -/
def State.tokTarget (s : State) (asid prog : Nat) (tag : Word) (dest : Nat) : Bool :=
  tagAsid tag == asid && decide (tagCore tag < 1280) && s.link.members.contains (tagDevice tag) &&
  (match s.imgDest asid prog dest with
   | none => false
   | some (b, k) =>
     match s.blockHead asid prog b with
     | some (_, h1) => h1PWords h1 k == 2
     | none => false)

/-- A token an engine of core c sends (R344, R353, R420, R448): in timetable mode it goes with boundary step 3 (R356). -/
def State.engToken (s : State) (c : Nat) (tt : Bool) (tok : Token) : State :=
  if tt && tagDevice tok.tag == s.link.device then
    s.updCore c (fun k => { k with sends := k.sends ++ [(tagCore tok.tag, ⟨0, none, .tok tok, 0, c, none, false⟩)] })
  else (s.sendCargo c false tok.tag (.tok tok) 0).draw.2

/-- An engine access that missed begins its walk (R224): path and kind of the access. Fabric engines and bank operations, of paths F and B,
translate through the cluster's TLB alone. -/
def State.engPage (s : State) (c : Nat) (r : LaunchRef) (asid va kind path : Nat) : State :=
  s.engMiss c asid va kind path r.id (path != 3 && path != 4)

/-! ## MX blocks (R91 to R93) -/

/-- R91: element i of a block as FP32 bits, exactly where FP32 holds the value; canonical NaN for scale 0xFF. -/
def mxExpand (f scale data i : Nat) : Nat :=
  let fmt := mxFmt f
  if scale = 255 then fp32.cnan
  else
    let x := data / 2 ^ (fmt.width * i) % 2 ^ fmt.width
    (fp32.widen envRNE ((fmt.decode x).scale ((scale : Int) - 127))).bits

/-- The largest finite magnitude of a list of values, as significand and exponent. -/
def maxMag : List FVal → Nat × Int
  | [] => (0, 0)
  | .fin _ m e :: vs =>
    let r := maxMag vs
    if (FVal.fin false r.1 r.2).lt (.fin false m e) then (m, e) else r
  | _ :: vs => maxMag vs

/-- A block formed from 32 FP32 values (R93): scale, data, whether an element clamped, whether the block is NaN. -/
structure MxBlock where
  scale : Nat
  data : Nat
  sat : Bool
  nan : Bool
deriving DecidableEq, Repr

def mxQuantise (f : Nat) (xs : List Nat) : MxBlock :=
  let fmt := mxFmt f
  let vs := xs.map fp32.decode
  if vs.any (fun v => v.isNan || v.isInf) then ⟨255, 0, false, true⟩
  else
    let m := maxMag vs
    let scale := mxScaleOf fmt.emax m.1 m.2
    let env : FEnv := { envRNE with satp := false }
    let rs := vs.map (fun v => if m.1 = 0 then (⟨0, 0⟩ : FRes) else fmt.narrow env (v.scale (127 - (scale : Int))))
    ⟨scale, packAt fmt.width (fun i => (rs.getD i ⟨0, 0⟩).bits) 32, rs.any (fun r => r.fl &&& fSAT != 0), false⟩

end Sys2Proof.Machine
end

