-- ==== Sys2Proof/Machine/Tile.lean ====
section
/-!
DEFINITION. Class TILE: the meanings of its instructions (R307 to R324, R329).
-/
namespace Sys2Proof.Machine

/-- What R308 and R309 make of one seat's access: it proceeds on a tile, waits there, has no effect, or faults with DETAIL and ADDR. -/
inductive TileRes where
  | go (x : HRef) (t : Tile)
  | wait (x : HRef)
  | noEffect
  | bad (code detail addr : Nat)
deriving DecidableEq, Repr

/-- Whether a seat's instance holds a tile (R311). -/
def holdsTile (c home : Nat) (x : Seat) (t : Tile) : Bool :=
  c == home && !t.hkind && !t.dropping && t.hframe == x.inst.handle && t.hindex == x.inst.idx

/-- R308, R309: one seat's access of n bytes (0 when the offset does not count) through handle L, as row `a` of the table. -/
def State.tileSeat (s : State) (c : Nat) (t : Train) (n : Nat) (a : TAccess) (x : Seat) : TileRes :=
  let h := t.slot x.n t.pc .l
  match tileRefAt c t.launch h n (s.poolSeen c (s.inTT t.launch)) with
  | .error code => .bad code 0 h.toNat
  | .ok (r, u) =>
    match u.judge r.gen a (holdsTile c r.core x u) with
    | .go => .go r u
    | .wait => .wait r
    | .noEffect => .noEffect
    | .stale => .bad TILE_STALE h.toNat 0
    | .overread => .bad TILE_OVERREAD h.toNat 0

/-- The faults of the seats whose access failed, in seat order. -/
def State.tileFaults (s : State) (c : Nat) (t : Train) (rs : List (Seat × TileRes)) : State × Train :=
  rs.foldl (fun (p : State × Train) r =>
    match r.2 with
    | .bad code detail addr => p.1.takeFault c p.2 r.1 code 0 detail addr t.pc
    | _ => p) (s, t)

/-- The distinct tiles of a list of accesses, in order of first mention. -/
def distinctTiles (xs : List HRef) : List HRef :=
  xs.foldl (fun acc x => if acc.any (fun y => y.core == x.core && y.key == x.key) then acc else acc ++ [x]) []

/-- The record of a fault that a seat's access may meet at the tile's home, with the handle as presented in DETAIL (R327). -/
def State.tileInfo (s : State) (c : Nat) (t : Train) (x : Seat) : FaultInfo :=
  { s.seatInfo c t x 0 0 0 0 t.pc with detail := (t.slot x.n t.pc .l).toNat }

/-- Whether stores of a train stand undrained in its core's queue behind one that is under way at a peer. -/
def State.behindStores (s : State) (c : Nat) (t : Train) : Bool := !s.inTT t.launch && (s.core c).sq.any (fun e => e.onPath t.uid 1)

/-- An act sent to a tile's home: at once; behind its train's undrained stores (R315, R320); or for another core's tile in timetable mode at the
boundary (R329). -/
def State.sendAct (s : State) (c : Nat) (t : Train) (xs : List Seat) (r : HRef) (a : TileAct) (wbit : Nat) : State :=
  let n := s.newOp c
  let s1 := n.2.startOp c t.uid wbit 0 n.1
  let infos := xs.map (fun x => s.tileInfo c t x)
  if (s.inTT t.launch && r.core != c) || s.behindStores c t then
    s1.enqueue c ((xs.take 1).map (fun x => sqEntry t x (.tile r.core r.key r.gen a infos) [] [] n.1))
  else s1.tileAct r.core r.key r.gen a infos c n.1

/-- R314, R329: an engine write that passed its checks is registered on its tiles, under one new name: in timetable mode the registration on another
core's tile reaches its home at the boundary. -/
def State.regTiles (s : State) (c : Nat) (t : Train) (x : Seat) (rs : List HRef) : State × Nat :=
  let n := (s.core c).eng.newMark c
  (rs.foldl (fun (st : State) r =>
    if s.inTT t.launch && r.core != c then
      st.enqueue c [sqEntry t x (.tile r.core r.key r.gen (.reg n.1) [s.tileInfo c t x]) [] [] 0]
    else st.updEng r.core (fun e => e.register r.key n.1)) (s.updEng c (fun _ => n.2)), n.1)

/-- The seats of a counted access or a seal by the tile and generation that they name: those that name one tile act once for it (R315, R317,
R318). -/
def goTiles (rs : List (Seat × TileRes)) : List (List Seat × HRef) :=
  rs.foldl (fun acc r =>
    match r.2 with
    | .go x _ =>
      let same := fun (y : List Seat × HRef) => y.2.core == x.core && y.2.key == x.key && y.2.gen == x.gen
      if acc.any same then acc.map (fun y => if same y then (y.1 ++ [r.1], y.2) else y) else acc ++ [([r.1], x)]
    | _ => acc) []

/-! ## talloc (R310, R311) -/

/-- R310: the read count of a seat. -/
def tallocCount (t : Train) (x : Seat) (count : Nat) : Nat := if count ≠ 0 then count else bits (t.slot x.n t.pc .l) 7 0

/-- R311: the highest partition in which an instance holds an UNSEALED tile. -/
def CoreEngines.highestHeld (e : CoreEngines) (r : LaunchRef) (frame idx : Nat) : Option Nat :=
  ((e.held (fun t => t.hframe == frame && t.hindex == idx)).filter (fun k => k.launch == r)).foldl
    (fun m k => some (match m with | some v => Nat.max v k.part | none => k.part)) none

/-- The fault R310 gives a seat, with DETAIL (R327). -/
def tallocFault (e : CoreEngines) (t : Train) (p count : Nat) (x : Seat) : Option (Nat × Nat) :=
  if tallocCount t x count = 0 then some (TILE_QUOTA, p + 4 * 2 ^ 8)
  else
    match e.highestHeld t.launch x.inst.handle x.inst.idx with
    | some q => if p ≤ q then some (TILE_ORDER, p + q * 2 ^ 8) else none
    | none => none

/-- One seat's grant: the lowest-numbered FREE tile (R310). -/
def CoreEngines.grantTile (e : CoreEngines) (c : Nat) (r : LaunchRef) (p count frame idx : Nat) : CoreEngines × Word :=
  match poolFind e.pool r p with
  | none => (e, 0)
  | some q =>
    match q.which (fun t => t.state == .free) with
    | [] => (e, 0)
    | i :: _ =>
      let gen := (((q.tiles[i]?).map (·.gen)).getD 0 + 1) % 65536
      ({ e with pool := poolUpd e.pool ⟨r, p, i⟩ (fun t => { t with
          gen := gen, state := .unsealed, count := count, hkind := false, hframe := frame, hindex := idx, run := true,
          dropping := false }) }, mkHandle gen c p i 0)

/-- The grants of all seats of a waiting `talloc`, ascending (R310). -/
def grantSeats (c : Nat) (r : LaunchRef) (p : Nat) (counts : List (Nat × Nat)) :
    List Seat → CoreEngines → List (Seat × LaneOut) → CoreEngines × List (Seat × LaneOut)
  | [], e, outs => (e, outs)
  | x :: xs, e, outs =>
    let n := NMap.getD counts x.n 0
    let g := e.grantTile c r p n x.inst.handle x.inst.idx
    grantSeats c r p counts xs g.1 (outs ++ [(x, ⟨g.2, 0⟩)])

/-- R310: the head of a partition's queue is granted all its tiles, when enough are FREE; its train goes on. -/
def State.tallocGrant (s : State) (c : Nat) (r : LaunchRef) (p : Nat) : Option State :=
  match poolFind (s.core c).eng.pool r p with
  | none => none
  | some q =>
    match q.queue with
    | [] => none
    | w :: rest =>
      match (s.core c).train? w.train with
      | none => some (s.updEng c (fun e => { e with pool := poolUpdPart e.pool r p (fun u => { u with queue := rest }) }))
      | some t =>
        if (q.which (fun u => u.state == .free)).length < t.seats.length then none
        else
          let g := grantSeats c r p w.counts t.seats (s.core c).eng []
          let s1 := s.updEng c (fun _ => { g.1 with pool := poolUpdPart g.1.pool r p (fun u => { u with queue := rest }) })
          some (s1.giveSeats c { t with hold := none, heldAt := none } w.target g.2)

/-- R310 `talloc`. -/
def execTalloc (a : BitVec 8) (k : BitVec 8) (p : BitVec 3) (s : State) : Host.Outcome State Fault Refusal :=
  withTrain s (fun c t0 =>
    match s.prepare c t0 with
    | .hold s' => .next s'
    | .go s0 t =>
      let part := p.toNat
      match poolFind (s0.core c).eng.pool t.launch part with
      | none => .next (s0.faultAll c t TILE_QUOTA (part + 1 * 2 ^ 8))
      | some q =>
        if q.queue.any (fun w => w.train == t.uid) then
          match s0.tallocGrant c t.launch part with
          | some s1 => if q.queue.head?.map (·.train) = some t.uid then .next s1 else .next (s0.holdTrain c t .talloc)
          | none => .next (s0.holdTrain c t .talloc)
        else if q.bound.isSome then .next (s0.faultAll c t TILE_QUOTA (part + 3 * 2 ^ 8))
        else if decide (q.tiles.length < t.seats.length) then .next (s0.faultAll c t TILE_QUOTA (part + 2 * 2 ^ 8))
        else
          let bad := t.seats.filterMap (fun x => (tallocFault (s0.core c).eng t part k.toNat x).map (fun f => (x, f)))
          if bad.isEmpty then
            let w : TallocReq := ⟨t.uid, a.toNat, t.seats.map (fun x => (x.n, tallocCount t x k.toNat))⟩
            let s1 := s0.updEng c (fun e => { e with pool := poolUpdPart e.pool t.launch part (fun u => { u with queue := u.queue ++ [w] }) })
            let s2 := s1.putTrain c t
            if q.queue.isEmpty then
              match s2.tallocGrant c t.launch part with
              | some s3 => .next s3
              | none => .next (s2.holdTrain c t .talloc)
            else .next (s2.holdTrain c t .talloc)
          else
            let r := bad.foldl (fun (u : State × Train) b => u.1.takeFault c u.2 b.1 b.2.1 0 b.2.2 0 t.pc) (s0, t)
            .next ((r.1.putTrain c r.2).retireUid c t.uid))

/-! ## Writing, sealing, freeing -/

/-- R313 `tst`: checked by R308 at issue; R309 meets the store at the home. On the issuing core in timetable mode it is performed at
issue (R329). -/
def execTst (z : BitVec 3) (s : State) : Host.Outcome State Fault Refusal :=
  withTrain s (fun c t =>
    let n := 2 ^ z.toNat
    let tt := s.inTT t.launch
    let cs := t.seats.map (fun x => (x, tileRefAt c t.launch (t.slot x.n t.pc .l) n (s.poolSeen c tt)))
    let p := cs.foldl (fun (p : State × Train) a =>
      match a.2 with
      | .error code => p.1.takeFault c p.2 a.1 code 0 0 (t.slot a.1.n t.pc .l).toNat t.pc
      | .ok _ => p) (s, t)
    let s2 := cs.foldl (fun st a =>
      match a.2 with
      | .error _ => st
      | .ok (r, _) =>
        let info := s.tileInfo c t a.1
        let act := TileAct.write r.off (storeBytes t a.1 z.toNat)
        if tt && r.core == c then st.tileAct r.core r.key r.gen act [info] c 0
        else st.enqueue c [sqEntry t a.1 (.tile r.core r.key r.gen act [info]) [] [] 0]) p.1
    .next ((s2.putTrain c p.2).retireUid c t.uid))

/-- R308, R309: a seat's access without data: judged at its home, or behind its train's undrained stores once it reaches it. -/
def State.noDataSeat (s : State) (c : Nat) (t : Train) (acc : TAccess) (x : Seat) : TileRes :=
  if s.behindStores c t then
    match tileRefAt c t.launch (t.slot x.n t.pc .l) 0 (s.poolSeen c (s.inTT t.launch)) with
    | .error code => TileRes.bad code 0 (t.slot x.n t.pc .l).toNat
    | .ok (r, u) => .go r u
  else s.tileSeat c t 0 acc x

/-- The shape of an access that acts once for each distinct tile under wait bit 19 (R315, R318). -/
def tileAccess (s : State) (acc : TAccess) (act : TileAct) : Host.Outcome State Fault Refusal :=
  withTrain s (fun c t =>
    let tt := s.inTT t.launch
    let s1 := s.drainPaths c t 1
    let rs := t.seats.map (fun x => (x, s1.noDataSeat c t acc x))
    if tt && rs.any (fun r => match r.2 with | .wait _ => true | _ => false) then .next (s1.holdTrain c t .engine)
    else
      let p := s1.tileFaults c t rs
      let s2 := (goTiles rs).foldl (fun st y => st.sendAct c t y.1 y.2 act 19) p.1
      let waits := distinctTiles (rs.filterMap (fun r => match r.2 with | .wait x => some x | _ => none))
      let s3 := waits.foldl (fun st w =>
        let n := st.newOp c
        let xs := rs.filterMap (fun r =>
          match r.2 with
          | .wait x =>
            if x.core == w.core && x.key == w.key then
              some (⟨s.tileInfo c t r.1, r.1.inst.handle, x.off, [], [], 0⟩ : TileSeat)
            else none
          | _ => none)
        (n.2.startOp c t.uid 19 0 n.1).updEng w.core (fun e =>
          { e with tileWaits := e.tileWaits ++ [⟨w.key, w.gen, true, 0, false, c, t.uid, xs, n.1⟩] })) s2
      .next ((s3.putTrain c p.2).retireUid c t.uid))

/-- R315 `tseal`: publishes each distinct tile once its earlier stores and registered writes are performed. -/
def execTseal (s : State) : Host.Outcome State Fault Refusal := tileAccess s .close .close

/-- R316, R320 `tfree`: gives up UNSEALED tiles, seat by seat: a seat that names a tile which an earlier one has returned meets it FREE. -/
def execTfree (s : State) : Host.Outcome State Fault Refusal :=
  withTrain s (fun c t =>
    let p := t.seats.foldl (fun (p : State × Train) x =>
      match p.1.noDataSeat c t .free x with
      | .bad code detail addr => p.1.takeFault c p.2 x code 0 detail addr t.pc
      | .go r _ => (p.1.sendAct c t [x] r .free 19, p.2)
      | _ => p) (s.drainPaths c t 1, t)
    .next ((p.1.putTrain c p.2).retireUid c t.uid))

/-- R318 `tabandon`: removes one read from each distinct tile. -/
def execTabandon (s : State) : Host.Outcome State Fault Refusal := tileAccess s .take .take

/-! ## Reading -/

/-- One seat of `tld` whose data are there: the datum is late under wait bit 16 (R317). -/
def State.tldSeat (s : State) (c : Nat) (t : Train) (a z : Nat) (sgn : Bool) (x : Seat) (r : HRef) (u : Tile) : State × Train :=
  s.memLate c t x a z sgn (u.mem.readNat r.off (2 ^ z)) 16 .own

/-- Seats of `tld` that wait at one tile's home: their targets wait for their operations. -/
def State.tldWait (s : State) (c : Nat) (t : Train) (a z : Nat) (sgn cnt : Bool) (w : HRef) (xs : List (Seat × HRef)) :
    State × Train :=
  let r := xs.foldl (fun (q : State × Train × List TileSeat) y =>
    let o := q.1.openOp c q.2.1 y.1 (loadTargets a z) 16 0
    (o.2.1, o.2.2, q.2.2 ++ [⟨s.tileInfo c t y.1, y.1.inst.handle, y.2.off, loadTargets a z, t.writeRegs, o.1⟩])) (s, t, [])
  (r.1.updEng w.core (fun e => { e with tileWaits := e.tileWaits ++ [⟨w.key, w.gen, cnt, 2 ^ z, sgn, c, t.uid, r.2.2, 0⟩] }), r.2.1)

/-- R317 `tld`: reads, and in the counted form removes one read for each distinct tile after every seat has read it, a seat that meets an
uncorrectable error (R129) included. -/
def execTld (a : BitVec 8) (c : BitVec 1) (g : BitVec 1) (z : BitVec 3) (s : State) : Host.Outcome State Fault Refusal :=
  withTrain s (fun k t0 =>
    match s.prepare k t0 with
    | .hold s' => .next s'
    | .go s0 t =>
      let tt := s0.inTT t.launch
      let cnt := c == 1
      afterWrites s0 k t 1 (fun s1 =>
      let rs := t.seats.map (fun x => (x, s1.tileSeat k t (2 ^ z.toNat) (if cnt then .take else .peek) x))
      if tt && rs.any (fun r => match r.2 with | .wait _ => true | _ => false) then .next (s1.holdTrain k t .engine)
      else
        let spoilt := fun (x : HRef) (u : Tile) => s1.tileErr x.core u x.off (2 ^ z.toNat)
        let p := s1.tileFaults k t (rs.map (fun r =>
          match r.2 with
          | .go x u => (r.1, if spoilt x u then TileRes.bad DATA_UNCORRECTABLE 0 (t.slot r.1.n t.pc .l).toNat else r.2)
          | _ => r))
        let good := rs.filterMap (fun r => match r.2 with | .go x u => if spoilt x u then none else some (r.1, x, u) | _ => none)
        let q := p.1.actSeats k p.2 good (fun st tr x y => st.tldSeat k tr a.toNat z.toNat (g == 1) x y.1 y.2)
        let waits := rs.filterMap (fun r => match r.2 with | .wait x => some (r.1, x) | _ => none)
        let v := (distinctTiles (waits.map (·.2))).foldl (fun (w : State × Train) h =>
          w.1.tldWait k w.2 a.toNat z.toNat (g == 1) cnt h (waits.filter (fun y => y.2.core == h.core && y.2.key == h.key))) q
        let s2 := if cnt then (goTiles rs).foldl (fun st y =>
            let infos := y.1.map (fun x => s.tileInfo k t x)
            if tt && y.2.core != k then
              st.enqueue k ((y.1.take 1).map (fun x => sqEntry t x (.tile y.2.core y.2.key y.2.gen .take infos) [] [] 0))
            else st.tileAct y.2.core y.2.key y.2.gen .take infos k 0) v.1 else v.1
        .next ((s2.putTrain k v.2).retireUid k t.uid)))

/-! ## Status -/

/-- R323: the status word of a tile. -/
def tstatWord (t : Tile) (gen : Nat) : Word :=
  BitVec.ofNat 64 (t.gen * 2 ^ 48 + t.state.code * 2 ^ 46 + b2n (t.gen == gen) * 2 ^ 45 + t.count % 256 * 2 ^ 37 +
    t.pend.length % 2 ^ 16 * 2 ^ 21)

/-- R323 `tstat`: faults only under R308 steps 1 to 3; late. -/
def execTstat (a : BitVec 8) (s : State) : Host.Outcome State Fault Refusal :=
  withTrain s (fun c t0 =>
    match s.prepare c t0 with
    | .hold s' => .next s'
    | .go s0 t =>
      afterWrites s0 c t 1 (fun s1 =>
      let rs := t.seats.map (fun x => (x, tileRef c t.launch (t.slot x.n t.pc .l) (s1.poolSeen c (s1.inTT t.launch))))
      let p := rs.foldl (fun (p : State × Train) r =>
        match r.2 with
        | none => p.1.takeFault c p.2 r.1 ACCESS_VIOLATION 0 0 (t.slot r.1.n t.pc .l).toNat t.pc
        | some _ => p) (s1, t)
      .next (p.1.issueLates c p.2 [a.toNat] 0 6 .own
        (rs.filterMap (fun r => r.2.map (fun h => (r.1, ⟨tstatWord h.2.2 h.1.gen, 0⟩)))))))

/-- R324: the partition word. -/
def tpartWord (q : TilePart) : Word :=
  let n := fun (f : Tile → Bool) => (q.which f).length
  BitVec.ofNat 64 (2 ^ 63 + q.tsize % 8 * 2 ^ 60 + q.tiles.length % 512 * 2 ^ 51 + n (fun t => t.state == .free) * 2 ^ 42 +
    n (fun t => t.state == .sealed) * 2 ^ 33 + n (fun t => t.state == .unsealed && !t.hkind) * 2 ^ 24 +
    q.queue.length % 64 * 2 ^ 18 + b2n q.bound.isSome * 2 ^ 17 + (q.bound.getD 0) % 512 * 2 ^ 8)

/-- R324 `tpart`: delivered in its issue cycle; zero for a partition that does not exist. -/
def execTpart (a : BitVec 8) (p : BitVec 3) (s : State) : Host.Outcome State Fault Refusal :=
  laneNow s [a.toNat] (fun t c _ =>
    match poolFind (s.core c).eng.pool t.launch p.toNat with
    | some q => ⟨tpartWord q, 0⟩
    | none => ⟨0, 0⟩)

end Sys2Proof.Machine
end

