-- ==== Sys2Proof/Machine/Copy.lean ====
section
/-!
DEFINITION. Class COPY and the copy engine (R330 to R356): requests, acceptance, elements, completion, streams and barriers.
-/
namespace Sys2Proof.Machine

/-! ## The request record (R330 to R332) -/

def crMagic (r : Nat) : Nat := natBits r 15 0
def crNdim (r : Nat) : Nat := natBits r 19 16
def crEsize (r : Nat) : Nat := natBits r 22 20
def crMxMode (r : Nat) : Nat := natBits r 24 23
def crMxF (r : Nat) : Nat := natBits r 27 25
def crSkind (r : Nat) : Nat := natBits r 29 28
def crDkind (r : Nat) : Nat := natBits r 31 30
def crBarv (r : Nat) : Bool := r.testBit 32
def crArrive (r : Nat) : Bool := r.testBit 33
def crRingv (r : Nat) : Bool := r.testBit 34
def crRingk (r : Nat) : Nat := natBits r 36 35
def crTokv (r : Nat) : Bool := r.testBit 37
def crFabv (r : Nat) : Bool := r.testBit 38
def crUserTag (r : Nat) : Nat := natBits r 63 48
def crSrc (r : Nat) : Nat := natBits r 127 64
def crDst (r : Nat) : Nat := natBits r 191 128
def crBar (r : Nat) : Word := BitVec.ofNat 64 (natBits r 255 192)
def crTokTag (r : Nat) : Word := BitVec.ofNat 64 (natBits r 319 256)
def crTokDest (r : Nat) : Nat := natBits r 331 320
def crTokScope (r : Nat) : Nat := natBits r 334 332
def crFabJob (r : Nat) : Nat := natBits r 447 384
def crRcons (r : Nat) : Nat := natBits r 463 448
def crRprod (r : Nat) : Nat := natBits r 479 464
def crSscale (r : Nat) : Nat := natBits r 575 512
def crDscale (r : Nat) : Nat := natBits r 639 576
/-- The stream word (R331). -/
def crPart (r : Nat) : Nat := natBits (crDst r) 2 0
def crReads (r : Nat) : Nat := natBits (crDst r) 15 8
def crChunk (r : Nat) : Nat := 16 * natBits (crDst r) 27 16
/-- Dimension descriptor d (R332). -/
def crDesc (r d : Nat) : Nat := natBits r (768 + 128 * d + 127) (768 + 128 * d)
def crExtent (r d : Nat) : Nat := natBits (crDesc r d) 31 0
def crSstride (r d : Nat) : Int := toSigned 48 (natBits (crDesc r d) 79 32)
def crDstride (r d : Nat) : Int := toSigned 48 (natBits (crDesc r d) 127 80)

/-- R332: the number of elements. -/
def crCount (r : Nat) : Nat := (List.range (crNdim r)).foldl (fun n d => n * crExtent r d) 1
/-- R334: the number of elements as the engine walks them; modes 2 and 3 take 32 along dimension 0 as one. -/
def crElems (r : Nat) : Nat := if crMxMode r ≥ 2 then crCount r / 32 else crCount r
/-- Data bytes of a block of the request's format. -/
def crBlock (r : Nat) : Nat := mxBytes (crMxF r)
/-- Bytes an element writes, its scale apart (R334). -/
def crDstSize (r : Nat) : Nat :=
  match crMxMode r with
  | 0 => 2 ^ crEsize r
  | 1 | 2 => crBlock r
  | _ => 128
/-- Bytes of an element on the source side that must be aligned together. -/
def crSrcUnit (r : Nat) : Nat :=
  match crMxMode r with
  | 0 => 2 ^ crEsize r
  | 1 | 3 => crBlock r
  | _ => 4
def crDstUnit (r : Nat) : Nat :=
  match crMxMode r with
  | 0 => 2 ^ crEsize r
  | 1 | 2 => crBlock r
  | _ => 4

/-- The mixed-radix digits of e, dimension 0 first (R332). -/
def digits (ext : Nat → Nat) : Nat → Nat → Nat → List Nat
  | 0, _, _ => []
  | n + 1, d, e => if ext d = 0 then 0 :: digits ext n (d + 1) 0 else e % ext d :: digits ext n (d + 1) (e / ext d)

/-- Σ i_d · stride_d over dimensions from d on. -/
def strideSum (stride : Nat → Int) : List Nat → Nat → Int
  | [], _ => 0
  | i :: is, d => (i : Int) * stride d + strideSum stride is (d + 1)

/-- The displacement of walked element e on one side: of its first bytes, or in modes 2 and 3 of the block's side by blocks of d
bytes along the row (R334). -/
def crDisp (r e : Nat) (stride : Nat → Int) (blockSide : Bool) : Int :=
  if crMxMode r ≥ 2 then
    match digits (crExtent r) (crNdim r) 0 (32 * e) with
    | [] => 0
    | i0 :: is => (if blockSide then ((i0 / 32 * crBlock r : Nat) : Int) else (i0 : Int) * stride 0) + strideSum stride is 1
  else strideSum stride (digits (crExtent r) (crNdim r) 0 e) 0

/-! ## Places (R333) -/

/-- Where an element's bytes lie. -/
inductive Place where
  | va (a : Int)
  | win (core : Nat) (off : Int)
  | tile (core : Nat) (key : TileKey) (gen size : Nat) (off : Int)
  | lost                    -- a handle that names no tile
deriving DecidableEq, Repr

/-- The place at a displacement from a base word of a kind. -/
def State.placeOf (s : State) (c : Nat) (r : LaunchRef) (kind base : Nat) (disp : Int) : Place :=
  let w : Word := BitVec.ofNat 64 base
  match kind with
  | 0 => .va ((base : Int) + disp)
  | 1 => .win (spCore c w) ((spOffset w : Int) + disp)
  | _ =>
    match tileRef c r w (fun h => (s.core h).eng.pool) with
    | some (x, size, _) => .tile x.core x.key x.gen size ((x.off : Int) + disp)
    | none => .lost

/-- The address a fault record or completion record names for a place. -/
def Place.addr : Place → Nat
  | .va a => a.toNat
  | .win _ o => o.toNat
  | .tile _ _ _ _ o => o.toNat
  | .lost => 0

/-- n bytes read at a place (R333). -/
def State.placeRead (s : State) (c unit asid : Nat) (r : LaunchRef) (p : Place) (n : Nat) : EGet :=
  match p with
  | .va a => if a < 0 then .bad ACCESS_VIOLATION 0 else s.engRead c unit asid a.toNat n
  | .win k o =>
    match (s.core k).window? r with
    | none => .bad COPY_BOUNDS p.addr
    | some w =>
      if o < 0 ∨ (w.size : Int) < o + n then .bad COPY_BOUNDS p.addr
      else if (s.core k).sramErr (256 * w.unit + o.toNat) n then .bad DATA_UNCORRECTABLE p.addr
      else .ok (w.mem.read o.toNat n) 0 0 0
  | .tile k key gen size o =>
    if o < 0 ∨ (size : Int) < o + n then .bad COPY_BOUNDS p.addr
    else
      match poolTile (s.core k).eng.pool key with
      | some t =>
        match t.judge gen .take false with
        | .stale => .bad TILE_STALE 0
        | .overread => .bad TILE_OVERREAD 0
        | _ => if s.tileErr k t o.toNat n then .bad DATA_UNCORRECTABLE p.addr else .ok (t.mem.read o.toNat n) 0 0 0
      | none => .bad COPY_BOUNDS p.addr
  | .lost => .bad COPY_BOUNDS 0

/-- Bytes written at a place (R333). -/
def State.placeWrite (s : State) (c unit asid : Nat) (r : LaunchRef) (p : Place) (bs : List Byte) : EPut :=
  match p with
  | .va a => if a < 0 then .bad ACCESS_VIOLATION 0 else s.engWrite c unit r asid a.toNat bs
  | .win k o =>
    match (s.core k).window? r with
    | none => .bad COPY_BOUNDS p.addr
    | some w =>
      if o < 0 ∨ (w.size : Int) < o + bs.length then .bad COPY_BOUNDS p.addr
      else .ok ((s.winStore r k o.toNat bs).updCore k (fun k => k.sramMend (256 * w.unit + o.toNat) bs.length))
  | .tile k key gen size o =>
    if o < 0 ∨ (size : Int) < o + bs.length then .bad COPY_BOUNDS p.addr
    else
      match (poolTile (s.core k).eng.pool key).map (fun (t : Tile) => t.judge gen .write false) with
      | some .go => .ok (s.tileWrite k key o.toNat bs)
      | some .overread => .bad TILE_OVERREAD 0
      | some _ => .bad TILE_STALE 0
      | none => .bad COPY_BOUNDS p.addr
  | .lost => .bad COPY_BOUNDS 0

/-- The place of the scale of a block (R108, R334): on a virtual-address operand through the page's MXS, else the j-th byte from the
scale base. The block's page must hold all its data. -/
def State.scalePlace (s : State) (c asid : Nat) (r : LaunchRef) (kind scaleBase j : Nat) (block : Place) (d : Nat) (need : Need) :
    Except EGet Place :=
  match kind, block with
  | 0, .va a =>
    if a < 0 then .error (.bad ACCESS_VIOLATION 0)
    else
      match s.corePage c asid a.toNat with
      | .invalid l => .error (.page a.toNat l)
      | .badData _ => .error (.bad DATA_UNCORRECTABLE a.toNat)
      | .leaf base size e =>
        let off := a.toNat - base
        if off % d != 0 || decide (off + d > size) then .error (.bad MISALIGNED a.toNat)
        else if !need.ok e || leafMXS e == 0 then .error (.bad ACCESS_VIOLATION a.toNat)
        else .ok (.va ((base : Int) + leafMXS e * 8192 + (off / d : Nat)))
  | _, _ => .ok (s.placeOf c r kind scaleBase j)

/-! ## One element (R332 to R335) -/

/-- Several reads; the first that does not succeed decides. -/
def State.readAll (s : State) (c unit asid : Nat) (r : LaunchRef) : List (Place × Nat) → Except EGet (List (List Byte))
  | [] => .ok []
  | (p, n) :: ps =>
    match s.placeRead c unit asid r p n with
    | .ok bs _ _ _ =>
      match State.readAll s c unit asid r ps with
      | .ok rest => .ok (bs :: rest)
      | .error e => .error e
    | e => .error e

/-- R127: a block of d bytes and its scale: data and scale as two pieces; by one request where both lie at one peer. -/
def State.readBlock (s : State) (c unit asid : Nat) (r : LaunchRef) (p sp : Place) (d : Nat) : Except EGet (List (List Byte)) :=
  match p, sp with
  | .va a, .va b =>
    if a < 0 ∨ b < 0 then .error (.bad ACCESS_VIOLATION 0)
    else
      match s.engBlock c unit asid a.toNat d b.toNat with
      | .ok bs _ _ _ => .ok [bs.take d, bs.drop d]
      | e => .error e
  | _, _ => s.readAll c unit asid r [(p, d), (sp, 1)]

/-- Outcome of one element. -/
inductive ElemRes where
  | ok (s : State) (bytes : Nat) (sat nan : Bool)
  | bad (code addr : Nat)
  | page (va level kind : Nat)
  | remote (peer pa n va : Nat) (kind : RKind)

def ElemRes.ofGet (g : EGet) : ElemRes :=
  match g with
  | .ok .. => .bad 0 0
  | .bad code a => .bad code a
  | .page va l => .page va l 1
  | .remote peer pa n va k => .remote peer pa n va k

/-- The writes of an element, all checked before any is made (R334). -/
def State.writeAll (s : State) (c unit asid : Nat) (r : LaunchRef) (ws : List (Place × List Byte)) : ElemRes :=
  let step := fun (acc : ElemRes) (w : Place × List Byte) =>
    match acc with
    | .ok st n a b =>
      match st.placeWrite c unit asid r w.1 w.2 with
      | .ok st' => .ok st' (n + w.2.length) a b
      | .bad code addr => .bad code addr
      | .page va l => .page va l 2
    | e => e
  ws.foldl step (.ok s 0 false false)

/-- R127: a block and its scale written; by one request where both lie at one peer. -/
def State.writeBlock (s : State) (c unit asid : Nat) (r : LaunchRef) (p sp : Place) (bs : List Byte) (x : Byte) : ElemRes :=
  match p, sp with
  | .va a, .va b =>
    if a < 0 ∨ b < 0 then .bad ACCESS_VIOLATION 0
    else
      match s.engBlockWrite c unit r asid a.toNat bs b.toNat x with
      | .ok st => .ok st bs.length false false
      | .bad code addr => .bad code addr
      | .page va l => .page va l 2
  | _, _ => s.writeAll c unit asid r [(p, bs), (sp, [x])]

/-- The source data of walked element e: its pieces, in order (R332, R334). For an MX source the last piece is the scale. -/
def State.elemSource (s : State) (c unit asid : Nat) (r : LaunchRef) (recd e : Nat) : Except EGet (List (List Byte)) :=
  let kind := crSkind recd
  let p := fun (d : Int) => s.placeOf c r kind (crSrc recd) d
  let disp := crDisp recd e (crSstride recd) (crMxMode recd == 3)
  match crMxMode recd with
  | 0 => s.readAll c unit asid r [(p disp, 2 ^ crEsize recd)]
  | 2 => s.readAll c unit asid r ((List.range 32).map (fun (k : Nat) => (p (disp + (k : Int) * crSstride recd 0), 4)))
  | _ =>
    match s.scalePlace c asid r kind (crSscale recd) e (p disp) (crBlock recd) .read with
    | .ok sp => s.readBlock c unit asid r (p disp) sp (crBlock recd)
    | .error g => .error g

/-- The words an element writes, from its source pieces: data pieces with their displacement, an MX scale, and whether it clamped or is
a NaN block (R334). -/
def elemData (recd : Nat) (src : List (List Byte)) : List (Int × List Byte) × Option Byte × Bool × Bool :=
  match crMxMode recd with
  | 0 => ([(0, src.getD 0 [])], none, false, false)
  | 1 => ([(0, src.getD 0 [])], some ((src.getD 1 []).getD 0 0), false, false)
  | 2 =>
    let b := mxQuantise (crMxF recd) (src.map ofLE)
    ([(0, leBytes (crBlock recd) b.data)], some (BitVec.ofNat 8 b.scale), b.sat, b.nan)
  | _ =>
    let scale := ofLE (src.getD 1 [])
    let data := ofLE (src.getD 0 [])
    ((List.range 32).map (fun (k : Nat) => ((k : Int) * crDstride recd 0, leBytes 4 (mxExpand (crMxF recd) scale data k))), none, false,
      scale == 255)

/-- One element copied to a destination outside a stream. -/
def State.copyElem (s : State) (c unit asid : Nat) (r : LaunchRef) (recd e : Nat) : ElemRes :=
  match s.elemSource c unit asid r recd e with
  | .error g => ElemRes.ofGet g
  | .ok src =>
    let o := elemData recd src
    let kind := crDkind recd
    let disp := crDisp recd e (crDstride recd) (crMxMode recd == 2)
    let p := fun (d : Int) => s.placeOf c r kind (crDst recd) (disp + d)
    let ws := o.1.map (fun w => (p w.1, w.2))
    let res := fun (xs : List (Place × List Byte)) =>
      match s.writeAll c unit asid r xs with
      | .ok st _ _ _ => ElemRes.ok st (crDstSize recd) o.2.2.1 o.2.2.2
      | q => q
    match o.2.1 with
    | none => res ws
    | some sc =>
      match s.scalePlace c asid r kind (crDscale recd) e (p 0) (crBlock recd) .write with
      | .error g => match ElemRes.ofGet g with | .page va l _ => .page va l 2 | q => q
      | .ok sp =>
        match s.writeBlock c unit asid r (p 0) sp (o.1.flatMap (·.2)) sc with
        | .ok st _ _ _ => .ok st (crDstSize recd) o.2.2.1 o.2.2.2
        | q => q

/-- The virtual address of a place, if it has one. -/
def Place.vas (p : Place) : List Nat :=
  match p with
  | .va a => if a < 0 then [] else [a.toNat]
  | _ => []

/-- R224: the virtual addresses that one side of walked element e touches: its pieces, and the scale of its block. -/
def State.sideVas (s : State) (c asid : Nat) (r : LaunchRef) (recd e : Nat) (dst : Bool) : List Nat :=
  let kind := if dst then crDkind recd else crSkind recd
  let stride := if dst then crDstride recd else crSstride recd
  let wide := crMxMode recd == if dst then 3 else 2
  let p := fun (d : Int) => s.placeOf c r kind (if dst then crDst recd else crSrc recd) (crDisp recd e stride (crMxMode recd == if dst then 2 else 3) + d)
  if wide then (List.range 32).flatMap (fun (k : Nat) => (p ((k : Int) * stride 0)).vas)
  else
    (p 0).vas ++
    (if crMxMode recd = 0 then []
     else
       match s.scalePlace c asid r kind (if dst then crDscale recd else crSscale recd) e (p 0) (crBlock recd) (if dst then .write else .read) with
       | .ok sp => sp.vas
       | .error _ => [])

/-- R224: an element's translations fill the core's TLB from its cluster's. -/
def State.elemFill (s : State) (c asid : Nat) (r : LaunchRef) (recd e : Nat) (stream : Bool) : State :=
  s.tlbFill c asid (s.sideVas c asid r recd e false ++ if stream then [] else s.sideVas c asid r recd e true)

/-- One element of a stream copied to offset `off` of a tile of generation `gen`; j is its number within the tile (R333, R334). -/
def State.streamElem (s : State) (c unit asid : Nat) (r : LaunchRef) (recd e : Nat) (key : TileKey) (gen size off j : Nat) : ElemRes :=
  match s.elemSource c unit asid r recd e with
  | .error g => ElemRes.ofGet g
  | .ok src =>
    let o := elemData recd src
    let data := (o.1.map (·.2)).flatten
    let ws := (Place.tile c key gen size off, data) ::
      (match o.2.1 with
       | some sc => [(Place.tile c key gen size (hndOff (BitVec.ofNat 64 (crDscale recd)) + j : Nat), [sc])]
       | none => [])
    match s.writeAll c unit asid r ws with
    | .ok st _ _ _ => .ok st (crDstSize recd) o.2.2.1 o.2.2.2
    | q => q

/-! ## Requests in the state -/

def CoreEngines.copy? (e : CoreEngines) (slot : Nat) : Option CopyReq := e.copies.find? (fun q => q.slot == slot)
def CoreEngines.setCopy (e : CoreEngines) (q : CopyReq) : CoreEngines :=
  { e with copies := e.copies.map (fun x => if x.slot == q.slot then q else x) }
def State.setCopy (s : State) (c : Nat) (q : CopyReq) : State := s.updEng c (fun e => e.setCopy q)

/-- R331: bytes of a chunk of a stream: CHUNK, or the tile size of its partition. -/
def CoreEngines.chunkOf (e : CoreEngines) (r : LaunchRef) (recd : Nat) : Nat :=
  if crChunk recd = 0 then ((poolFind e.pool r (crPart recd)).map (fun p => tileBytes p.tsize)).getD 0 else crChunk recd

/-- R353: elements of a stream's chunk. -/
def CoreEngines.chunkElems (e : CoreEngines) (r : LaunchRef) (recd : Nat) : Nat := e.chunkOf r recd / Nat.max 1 (crDstSize recd)

/-- R355: whether a stream stands inside a chunk. -/
def CoreEngines.midChunk (e : CoreEngines) (q : CopyReq) : Bool :=
  let first := q.chunk * e.chunkElems q.info.launch q.recd
  q.stream && crElems q.recd != 0 && (q.sealFor.isSome || (if crFabv q.recd then decide (first < q.fabOut) else q.pos != first))

/-- R338: the id word. -/
def idWord (core seq slot : Nat) : Word := BitVec.ofNat 64 (slot % 512 + seq % 65536 * 2 ^ 16 + core % 2048 * 2 ^ 32)

/-- The lowest free request slot of a core. -/
def CoreEngines.freeSlot (e : CoreEngines) : Option Nat := (List.range 512).find? (fun i => (e.copy? i).isNone)

/-! ## Acceptance (R339, R340) -/

/-- R210, R308: a base of a scratchpad or handle kind names a window or tile. -/
def State.baseOk (s : State) (c : Nat) (r : LaunchRef) (kind base : Nat) : Bool :=
  let w : Word := BitVec.ofNat 64 base
  match kind with
  | 0 => true
  | 1 =>
    match s.spAccess c r w 1 with
    | .ok _ => true
    | .error _ => false
  | _ => (tileRef c r w (fun h => (s.core h).eng.pool)).isSome

/-- The size of a bound partition's tiles, when a stream may bind it (R340 REASON 8). -/
def State.streamPart (s : State) (c : Nat) (r : LaunchRef) (recd : Nat) : Option Nat :=
  match poolFind (s.core c).eng.pool r (crPart recd) with
  | some q =>
    let size := tileBytes q.tsize
    if q.bound.isSome || !q.queue.isEmpty || crReads recd == 0 || decide (size < crChunk recd) ||
        (List.range (crNdim recd)).any (fun d => crDstride recd d != 0) then none
    else some size
  | none => none

/-- A value is a multiple of n. -/
def multOf (n : Nat) (x : Int) : Bool := x % (n : Int) == 0

/-- The base word's own address part for the alignment check (R340 REASON 4): a virtual address whole, else its OFFSET. -/
def baseAlign (kind base : Nat) : Nat :=
  match kind with
  | 0 => base
  | 1 => spOffset (BitVec.ofNat 64 base)
  | _ => hndOff (BitVec.ofNat 64 base)

/-- R340: the REASON of a record's first failure, in the table's order; 0 when it is accepted. `stream` is set for `cpys`. A stream's CHUNK is
checked as it takes effect: the tile size for 0 (log 27). -/
def State.copyReason (s : State) (c : Nat) (t : Train) (recd : Nat) (stream : Bool) : Nat :=
  let r := t.launch
  let dims := List.range (crNdim recd)
  let m := crMxMode recd
  let su := crSrcUnit recd
  let du := crDstUnit recd
  if crMagic recd != 0x4352 || natBits recd 767 640 != 0 || natBits recd 511 480 != 0 || natBits recd 383 335 != 0 ||
      natBits recd 47 39 != 0 || (crDkind recd == 3 && (natBits (crDst recd) 63 28 != 0 || natBits (crDst recd) 7 3 != 0)) then 1
  else if crNdim recd == 0 || decide (10 < crNdim recd) ||
      (List.range 10).any (fun d => decide (crNdim recd ≤ d) && crDesc recd d != 0) then 2
  else if decide (4 < crEsize recd) || decide (4 < crMxF recd) || crSkind recd == 3 || (crDkind recd == 3) != stream ||
      (crFabv recd && m != 0) || (m == 1 && crEsize recd != 0) || (decide (2 ≤ m) && crEsize recd != 2) ||
      (decide (2 ≤ m) && crExtent recd 0 % 32 != 0) || (m == 2 && crDstride recd 0 != 0) || (m == 3 && crSstride recd 0 != 0) ||
      (m == 1 && dims.any (fun d => !multOf (crBlock recd) (crSstride recd d) || !multOf (crBlock recd) (crDstride recd d))) then 3
  else if baseAlign (crSkind recd) (crSrc recd) % su != 0 ||
      (!stream && baseAlign (crDkind recd) (crDst recd) % du != 0) ||
      dims.any (fun d => !multOf su (crSstride recd d) || !multOf du (crDstride recd d)) ||
      (stream && (s.core c).eng.chunkOf r recd % crDstSize recd != 0) then 4
  else if (crBarv recd || crArrive recd) && (match s.spAccess c r (crBar recd) 16 with | .ok _ => false | .error _ => true) then 5
  else if crRingv recd && !s.ringExists r (crRingk recd) then 6
  else if crTokv recd && !s.tokTarget t.asid t.prog (crTokTag recd) (crTokDest recd) then 7
  else if stream && (s.streamPart c r recd).isNone then 8
  else if crFabv recd && (crRcons recd == 0 || crRprod recd == 0 || crCount recd % (16 * crRcons recd) != 0 ||
      crExtent recd 0 * crRprod recd % crRcons recd != 0) then 9
  else if !s.baseOk c r (crSkind recd) (crSrc recd) || (!stream && !s.baseOk c r (crDkind recd) (crDst recd)) ||
      (decide (1 ≤ m) && m != 2 && crSkind recd != 0 && !s.baseOk c r (crSkind recd) (crSscale recd)) ||
      (decide (1 ≤ m) && m != 3 && !stream && crDkind recd != 0 && !s.baseOk c r (crDkind recd) (crDscale recd)) then 10
  else 0

/-- R340: the fault of a record: FEATURE_OFF for an MX or fabric request without its feature, once the record is one at all. -/
def State.copyFault (s : State) (c : Nat) (t : Train) (recd : Nat) (stream : Bool) : Option (Nat × Nat) :=
  let k := s.copyReason c t recd stream
  if (k = 0 ∨ 3 ≤ k) ∧ ((crMxMode recd != 0 && !s.featOn t.launch 6) || (crFabv recd && !s.featOn t.launch 3)) = true then
    some (FEATURE_OFF, 0)
  else if k = 0 then none
  else some (COPY_RECORD, k)

/-- The tiles that the handles of a request's source or destination name, in the pools as given: that of its data, and that of its blocks' scales
where it is another (R334; log 86). -/
def copyTiles (c : Nat) (r : LaunchRef) (recd : Nat) (dst : Bool) (pools : Nat → List TilePart) : List (HRef × Tile) :=
  let tile := fun (h : Nat) => (tileRef c r (BitVec.ofNat 64 h) pools).map (fun x => (x.1, x.2.2))
  let m := crMxMode recd
  if (if dst then crDkind recd else crSkind recd) ≠ 2 then []
  else
    let data := (tile (if dst then crDst recd else crSrc recd)).toList
    if m == 0 || m == (if dst then 3 else 2) then data
    else data ++ (tile (if dst then crDscale recd else crSscale recd)).toList.filter (fun x =>
      !data.any (fun y => y.1.core == x.1.core && y.1.key == x.1.key && y.1.gen == x.1.gen))

/-- R309: the code of the first of several tiles that an access meets, when none waits. -/
def tilesCode (a : TAccess) (ts : List (HRef × Tile)) : Option Nat :=
  ts.findSome? (fun x => match x.2.judge x.1.gen a false with | .stale => some TILE_STALE | .overread => some TILE_OVERREAD | _ => none)

/-- R339, R314, R353: a request takes a slot: its destination handles are registered, or it fails with a tile code; a stream binds its
partition, whose FREE tiles become notices (R325). -/
def State.submitCopy (s : State) (c : Nat) (t : Train) (x : Seat) (recd : Nat) (stream : Bool) : Option (State × Word) :=
  match (s.core c).eng.freeSlot with
  | none => none
  | some slot =>
    let seq := (NMap.getD (s.core c).eng.copySeq slot 0 + 1) % 65536
    let n := s.newOp c
    let d := (n.2.startOp c t.uid 20 1 n.1).draw
    let reg : State × Nat × Option (Nat × Nat) :=
      let ts := copyTiles c t.launch recd true (s.poolSeen c (s.inTT t.launch))
      match tilesCode .write ts with
      | some code => (d.2, 0, some (code, 0))
      | none =>
        if ts.isEmpty then (d.2, 0, none)
        else
          let g := d.2.regTiles c t x (ts.map (·.1))
          (g.1, g.2, none)
    let q : CopyReq :=
      { slot := slot, seq := seq, info := s.seatInfo c t x 0 0 0 0 t.pc, train := t.uid, opId := n.1, tt := s.inTT t.launch,
        recd := recd, stream := stream, srcOk := false, mark := reg.2.1, pos := 0, bytes := 0, notices := [], ripe := 0, chunk := 0, sealFor := none, open' := [],
        lost := none, sat := false, nan := false, cancelled := false, cancelOps := [], due := s.cyc.toNat + 1 + Config.latency d.1, fault := reg.2.2,
        pageWait := none, reporting := 0, fab := none, fabOut := 0 }
    let s1 := reg.1.updEng c (fun e => { e with copies := e.copies ++ [q], copySeq := NMap.set e.copySeq slot seq })
    let part := crPart recd
    let s2 :=
      if stream && crElems recd != 0 then
        match poolFind (s1.core c).eng.pool t.launch part with
        | none => s1
        | some p =>
          let s3 := s1.updEng c (fun e => { e with pool := poolUpdPart e.pool t.launch part (fun y => { y with bound := some slot }) })
          (p.which (fun u => u.state == .free)).foldl (fun st i => st.updEng c (fun e => e.toStream c ⟨t.launch, part, i⟩ slot)) s3
      else s1
    some (s2, idWord c seq slot)

/-- R339: the record that a seat of `cpy` or `cpys` names, or the code of its fault. -/
def State.copyRecord (s : State) (c : Nat) (t : Train) (x : Seat) : Except Nat Nat :=
  let w := t.slot x.n t.pc .l
  if !spReservedOk w then .error ACCESS_VIOLATION
  else if spOffset w % 32 != 0 then .error MISALIGNED
  else
    match s.spAccess c t.launch w 32 with
    | .error code => .error code
    | .ok (k, off) =>
      match (s.core k).window? t.launch with
      | some v => if off + 256 ≤ v.size then (s.winGet c t k off 256).map ofLE else .error ACCESS_VIOLATION
      | none => .error ACCESS_VIOLATION

/-- R339: one seat of `cpy` or `cpys`. -/
def State.copySeat (s : State) (c : Nat) (t : Train) (stream : Bool) (a : Nat) (x : Seat) : State × Train :=
  match s.copyRecord c t x with
  | .error code => s.takeFault c t x code 0 0 (t.slot x.n t.pc .l).toNat t.pc
  | .ok recd =>
    match s.copyFault c t recd stream with
    | some (code, detail) => s.takeFault c t x code 0 detail 0 t.pc
    | none =>
      match s.submitCopy c t x recd stream with
      | none => (s, t)
      | some (s1, v) => s1.giveSeat c t x a v 0

/-- R229, R345: the seats' ring descriptors whose page has no leaf, of records that fail in nothing before. -/
def State.copyMisses (s : State) (c : Nat) (t : Train) (stream : Bool) : List (Nat × Nat × Nat) :=
  t.seats.filterMap (fun x =>
    match s.copyRecord c t x with
    | .ok recd =>
      if s.copyFault c t recd stream = some (COPY_RECORD, 6) then
        (s.ringMiss t.launch (crRingk recd) t.failed).map (fun va => (va, 8, 1))
      else none
    | .error _ => none)

/-- R339: the train holds until a request slot is free for every active seat, and while the page of a ring's descriptor is missing. -/
def copyInstr (s : State) (stream : Bool) (a : Nat) : Host.Outcome State Fault Refusal :=
  withTrain s (fun c t0 =>
    match s.prepare c t0 with
    | .hold s' => .next s'
    | .go s0 t =>
      afterWrites s0 c t 63 (fun s1 =>
      let ms := s1.copyMisses c t stream
      if !ms.isEmpty then .next (s1.missHold c t ms)
      else if 512 < (s1.core c).eng.copies.length + t.seats.length then .next (s1.holdTrain c t .engine)
      else
        let r := s1.actSeats c t (t.seats.map (fun x => (x, ()))) (fun st tr x _ => st.copySeat c tr stream a x)
        .next ((r.1.putTrain c r.2).retireUid c t.uid)))

/-- R339 `cpy`. -/
def execCpy (a : BitVec 8) (s : State) : Host.Outcome State Fault Refusal := copyInstr s false a.toNat

/-- R339, R353 `cpys`. -/
def execCpys (a : BitVec 8) (s : State) : Host.Outcome State Fault Refusal := copyInstr s true a.toNat

/-- R354: one seat of `cpyc`: the named request is marked; the operation ends with it. -/
def State.cancelSeat (s : State) (c : Nat) (t : Train) (x : Seat) : State :=
  let w := t.slot x.n t.pc .l
  let slot := bits w 8 0
  match (s.core c).eng.copy? slot with
  | some q =>
    if bits w 42 32 = c ∧ bits w 31 16 = q.seq then
      let n := s.newOp c
      (n.2.startOp c t.uid 20 1 n.1).setCopy c { q with cancelled := true, cancelOps := q.cancelOps ++ [n.1] }
    else s
  | none => s

/-- R354 `cpyc`. -/
def execCpyc (s : State) : Host.Outcome State Fault Refusal :=
  withTrain s (fun c t => .next ((t.seats.foldl (fun st x => st.cancelSeat c t x) s).retire c t))

/-! ## Barriers (R349 to R352) -/

def barErr (b : Nat) : Nat := natBits b 127 120
def barPhase (b : Nat) : Nat := natBits b 119 104
def barArrInit (b : Nat) : Nat := natBits b 103 92
def barArr (b : Nat) : Nat := natBits b 91 80
def barErrSlot (b : Nat) : Nat := natBits b 73 64
def barBytes (b : Nat) : Nat := natBits b 47 0
/-- R349: a barrier object from its fields. -/
def mkBar (err phase arrinit arr errslot bytes : Nat) : Nat :=
  bytes % 2 ^ 48 + errslot % 1024 * 2 ^ 64 + arr % 4096 * 2 ^ 80 + arrinit % 4096 * 2 ^ 92 + phase % 65536 * 2 ^ 104 +
    err % 256 * 2 ^ 120

/-- R350, R351, R343: one update. -/
def BarOp.apply (b : Nat) (o : BarOp) : Nat :=
  match o with
  | .init n => mkBar 0 0 n n 0 0
  | .add x => mkBar (barErr b) (barPhase b) (barArrInit b) (barArr b) (barErrSlot b) (barBytes b + x)
  | .bytes x => mkBar (barErr b) (barPhase b) (barArrInit b) (barArr b) (barErrSlot b) (barBytes b + (2 ^ 48 - x % 2 ^ 48))
  | .arrive =>
    if barArr b = 0 then
      if barErr b = 0 then mkBar 0x21 (barPhase b) (barArrInit b) 0 1023 (barBytes b) else b
    else mkBar (barErr b) (barPhase b) (barArrInit b) (barArr b - 1) (barErrSlot b) (barBytes b)
  | .err code slot => if barErr b = 0 then mkBar code (barPhase b) (barArrInit b) (barArr b) slot (barBytes b) else b

/-- R350: the check after a cycle's updates. -/
def barCheck (b : Nat) : Nat :=
  if barArr b = 0 ∧ barBytes b = 0 then mkBar (barErr b) (barPhase b + 1) (barArrInit b) (barArrInit b) (barErrSlot b) 0 else b

/-- R350: the order of the kinds within a cycle. -/
def BarOp.rank : BarOp → Nat
  | .init _ => 0 | .add _ => 1 | .bytes _ => 2 | .err _ _ => 2 | .arrive => 3

/-- R350: ascending kind, source core, pipe, and seat or slot. -/
def barLe (a b : BarUpd) : Bool :=
  let x := (((a.op.rank * 2048 + a.core) * 2 + a.pipe) * 1024) + a.n
  let y := (((b.op.rank * 2048 + b.core) * 2 + b.pipe) * 1024) + b.n
  decide (x ≤ y)

/-- A barrier whose outcomes are undefined (R349): its fields are free values (log 36). -/
def State.drawBar (s : State) : Nat × State :=
  let d := s.draw
  let e := d.2.draw
  let b := (Config.freeWord d.1).toNat + (Config.freeWord e.1).toNat * 2 ^ 64
  (mkBar (barErr b) (barPhase b) (barArrInit b) (barArr b) (barErrSlot b) (barBytes b), e.2)

/-- R350: every update that has reached one barrier in this cycle, then the one check. -/
def State.barUpdate (s : State) (home : Nat) (r : LaunchRef) (off : Nat) : State :=
  let q := (s.core home).eng.barq
  let mine := fun (u : BarUpd) => u.launch == r && u.off == off
  let us := sortBy barLe (q.filter mine)
  let init := us.any (fun u => u.op.rank == 0)
  let opens := match (s.core home).window? r with | some w => w.barOpen off | none => false
  let old := if opens && !init then s.drawBar else (ofLE (s.winRead r home off 16), s)
  let new := barCheck (us.foldl (fun b u => u.op.apply b) old.1)
  (old.2.updWindow r home (fun w => w.setBar off (leBytes 16 new) init)).updEng home (fun e => { e with barq := e.barq.filter (fun u => !mine u) })

/-- A barrier as a train of core c sees it. -/
def State.barSee (s : State) (c uid : Nat) (tt : Bool) (r : LaunchRef) (core off : Nat) : Nat × State :=
  if s.barOpen c uid tt r core off then s.drawBar else (ofLE (s.seeWin c uid tt r core off 16), s)

/-- Updates of one instruction to one barrier of the own window in timetable mode: performed at issue in the core's buffer (R296), in ascending
seat order, then the one check (R350). -/
def State.setBar (s : State) (c : Nat) (t : Train) (x : Seat) (off : Nat) (ops : List BarOp) : State :=
  let init := ops.any (fun o => o.rank == 0)
  let old := if init then (0, s) else s.barSee c t.uid true t.launch c off
  old.2.enqueue c [sqEntry t x (.barSet c off (leBytes 16 (barCheck (ops.foldl (fun b o => o.apply b) old.1))) init) [] [] 0]

/-- Barrier updates sent by the seats of one instruction: seat, core, offset (R351). They go through the store queue, but for those of the own
window in timetable mode. -/
def State.sendBars (s : State) (c : Nat) (t : Train) (xs : List (Seat × Nat × Nat × BarOp)) : State :=
  let near := fun (y : Seat × Nat × Nat × BarOp) => s.inTT t.launch && y.2.1 == c
  let s1 := s.enqueue c ((xs.filter (fun y => !near y)).map (fun y => sqEntry t y.1 (.bar y.2.1 y.2.2.1 y.2.2.2) [] [] 0))
  let own := xs.filter near
  (dedup (own.map (fun y => y.2.2.1))).foldl (fun st off =>
    let mine := own.filter (fun y => y.2.2.1 == off)
    match mine.head? with
    | some y => st.setBar c t y.1 off (mine.map (fun z => z.2.2.2))
    | none => st) s1

/-- The shape of `bari`, `bara` and `barx` (R337, R351). -/
def barInstr (s : State) (op : Train → Seat → Except Nat BarOp) : Host.Outcome State Fault Refusal :=
  withTrain s (fun c t =>
    let r := t.seats.foldl (fun (p : (State × Train) × List (Seat × Nat × Nat × BarOp)) x =>
      match p.1.1.spAccess c t.launch (t.slot x.n t.pc .l) 16 with
      | .error code => (p.1.1.takeFault c p.1.2 x code 0 0 (t.slot x.n t.pc .l).toNat t.pc, p.2)
      | .ok (k, off) =>
        match op t x with
        | .ok o => (p.1, p.2 ++ [(x, k, off, o)])
        | .error reason => (p.1.1.takeFault c p.1.2 x COPY_RECORD 0 reason 0 t.pc, p.2)) ((s, t), [])
    .next (((r.1.1.sendBars c t r.2).putTrain c r.1.2).retireUid c t.uid))

/-- R351 `bari`; an ARRINIT of 0 is `COPY_RECORD` with REASON 11. -/
def execBari (s : State) : Host.Outcome State Fault Refusal :=
  barInstr s (fun t x =>
    let n := bits (t.slot x.n t.pc .r) 11 0
    if n = 0 then .error 11 else .ok (.init n))

/-- R351 `bara`: one arrival. -/
def execBara (s : State) : Host.Outcome State Fault Refusal := barInstr s (fun _ _ => .ok .arrive)

/-- R351 `barx`: adds R[47:0] to BYTES. -/
def execBarx (s : State) : Host.Outcome State Fault Refusal := barInstr s (fun t x => .ok (.add (bits (t.slot x.n t.pc .r) 47 0)))

/-- R352 `barw`: holds until its train's own updates have reached their homes and every active seat's phase has passed; then delivers bits [127:64] of each barrier. -/
def execBarw (a : BitVec 8) (s : State) : Host.Outcome State Fault Refusal :=
  withTrain s (fun c t0 =>
    match s.prepare c t0 with
    | .hold s' => .next s'
    | .go s0 t =>
      let s1 := s0.drainTrain c t
      let cs := t.seats.map (fun x => (x, s1.spCheck c t.launch (t.slot x.n t.pc .l) 16 true))
      let p := cs.foldl (fun (p : State × Train) y =>
        match y.2 with
        | .error code => p.1.takeFault c p.2 y.1 code 0 0 (t.slot y.1.n t.pc .l).toNat t.pc
        | .ok _ => p) (s1, t)
      let r := cs.foldl (fun (q : State × List (Seat × Nat × Nat × Nat)) y =>
        match y.2 with
        | .ok (k, off) =>
          let v := q.1.barSee c t.uid (s1.inTT t.launch) t.launch k off
          (v.2, q.2 ++ [(y.1, k, off, v.1)])
        | .error _ => q) (p.1, [])
      let queued := (!s1.inTT t.launch && (s1.core c).sq.any (fun e => e.onPath t.uid 2)) || r.2.any (fun g => (s1.core g.2.1).eng.barq.any (fun u => u.launch == t.launch && u.off == g.2.2.1))
      if queued || r.2.any (fun g => barPhase g.2.2.2 == bits (t.slot g.1.n t.pc .r) 15 0) then
        .next ((r.1.putTrain c p.2).holdTrain c p.2 .engine)
      else
        .next (r.1.giveSeats c p.2 a.toNat (r.2.map (fun g => (g.1, ⟨BitVec.ofNat 64 (g.2.2.2 / 2 ^ 64), 0⟩)))))

/-! ## crpop (R348) -/

/-- R345, R348: one seat. A descriptor that cannot be read and written, or that lies on an IMM or REMOTE page, faults under R223. In timetable mode the record is taken at the superstep
boundary, as an atomic is (R356). -/
def State.crpopSeat (s : State) (c : Nat) (t : Train) (k a : Nat) (x : Seat) : State × Train :=
  match s.launch? t.launch with
  | none => (s, t)
  | some l =>
    let tab := recRingTab l.record
    let give := fun (st : State) (tr : Train) (v : Word) => st.issueLate c tr x (loadTargets a 3) [(a, v)] v 0 20 1 .far
    if tab = 0 then give s t 0
    else
      match s.engAcc l.asid (tab + 16 * k) 16 .rmw with
      | .bad code => s.takeFault c t x code 0 0 (tab + 16 * k) t.pc
      | .noLeaf _ => s.takeFault c t x PAGE_UNRESOLVED 0 0 (tab + 16 * k) t.pc
      | .ok pa leaf _ _ =>
        if leafRemote leaf || leafIMM leaf then s.takeFault c t x ACCESS_VIOLATION 0 0 (tab + 16 * k) t.pc
        else if s.inTT t.launch then
          let o := s.openOp c t x (loadTargets a 3) 20 1
          (o.2.1.enqueue c [sqEntry t x (.crpop pa) (loadTargets a 3) t.writeRegs o.1], o.2.2)
        else
          let r := s.popRing pa
          give r.2 t r.1

/-- R348 `crpop`: takes one record of a ring for each active seat; late, under wait bit 20. A descriptor page without a leaf raises a
page request and the train holds (R229). -/
def execCrpop (a : BitVec 8) (r : BitVec 2) (s : State) : Host.Outcome State Fault Refusal :=
  withTrain s (fun c t0 =>
    match s.prepare c t0 with
    | .hold s' => .next s'
    | .go s0 t =>
      let s1 := s0.drainTrain c t
      let tab := ((s1.launch? t.launch).map (fun l => recRingTab l.record)).getD 0
      let va := tab + 16 * r.toNat
      match (if tab = 0 then EAcc.bad 0 else s1.engAcc t.asid va 16 .rmw) with
      | .noLeaf _ =>
        match failedCode t.failed va with
        | some _ => .next (s1.faultAll c t PAGE_UNRESOLVED 0)
        | none => .next (s1.missHold c t [(va, 8, 1)])
      | _ =>
        let q := s1.actSeats c t (t.seats.map (fun x => (x, ()))) (fun st tr x _ => st.crpopSeat c tr r.toNat a.toNat x)
        .next ((q.1.putTrain c q.2).retireUid c t.uid))

end Sys2Proof.Machine
end

