-- ==== Sys2Proof/Machine/CopyRun.lean ====
section
/-!
DEFINITION. The copy engine at work (R335, R341 to R347, R353, R354): elements, errors, completion reports, streams.
-/
namespace Sys2Proof.Machine

/-- How far a run of elements came. -/
inductive RunEnd where
  | done | failed | held
deriving DecidableEq, Repr

/-- One element's outcome taken into the request: progress, an error, or a hold for a page or a peer (R333, R343). Bytes count as written at once,
or when the peers that its writes went to have answered (R335, R342). -/
def State.takeElem (s : State) (c : Nat) (q : CopyReq) (r : ElemRes) : State × CopyReq × RunEnd :=
  match r with
  | .ok st n sat nan =>
    let old := (s.core c).eng.rpend
    let new := ((st.core c).eng.rpend.filter (fun x => !old.contains x)).map (·.2)
    let q1 := { q with pos := q.pos + 1, sat := q.sat || sat, nan := q.nan || nan }
    (st.elemFill c q.info.asid q.info.launch q.recd q.pos q.stream, if new.isEmpty then { q1 with bytes := q.bytes + n }
         else { q1 with open' := q.open' ++ new.mapIdx (fun i id => (id, q.pos, if i = 0 then n else 0)) }, .done)
  | .bad code addr => (s, { q with fault := some (code, addr) }, .failed)
  | .page va _ kind =>
    (s.engPage c q.info.launch q.info.asid va kind 1, { q with pageWait := some va }, .held)
  | .remote peer pa n va k => (s.engAsk c (unitCopy q.slot) q.info.launch peer pa n va k, q, .held)

/-- Elements in linear order (R332) until one does not complete. -/
def State.runElems (s : State) (c : Nat) (q : CopyReq) : Nat → State × CopyReq × RunEnd
  | 0 => (s, q, .done)
  | n + 1 =>
    match s.takeElem c q (s.copyElem c (unitCopy q.slot) q.info.asid q.info.launch q.recd q.pos) with
    | (s', q', .done) => s'.runElems c q' n
    | r => r

/-- Elements of a stream's chunk, from number j of the tile on. -/
def State.runChunk (s : State) (c : Nat) (q : CopyReq) (key : TileKey) (gen size : Nat) : Nat → Nat → State × CopyReq × RunEnd
  | 0, _ => (s, q, .done)
  | n + 1, j =>
    let e := crDstSize q.recd
    let r := s.streamElem c (unitCopy q.slot) q.info.asid q.info.launch q.recd q.pos key gen size (j * e) j
    match s.takeElem c q r with
    | (s', q', .done) => s'.runChunk c q' key gen size n (j + 1)
    | r => r

/-- The barrier a request counts on: core and offset (R342). -/
def CopyReq.barAt (q : CopyReq) : Nat × Nat := (spCore q.info.core (crBar q.recd), spOffset (crBar q.recd))

/-- An update of the request's barrier reaches its home (R350). -/
def State.copyBar (s : State) (q : CopyReq) (op : BarOp) : State :=
  let u : BarUpd := ⟨q.info.launch, q.barAt.2, op, q.info.core, 0, q.slot⟩
  s.updEng q.barAt.1 (fun e => { e with barq := e.barq ++ [u] })

/-- Bytes counted on the barrier, when BARV is set (R351). -/
def State.countBytes (s : State) (q : CopyReq) (n : Nat) : State :=
  if crBarv q.recd && n != 0 then s.copyBar q (.bytes n) else s

/-- Elements a request delivers: with a fabric transform dimension 0 has EXTENT_0·RPROD/RCONS of them (R336). -/
def crOut (recd : Nat) : Nat := if crFabv recd then crElems recd * crRprod recd / Nat.max 1 (crRcons recd) else crElems recd

/-- Bytes a request would deliver in all (R343). -/
def crTotal (recd : Nat) : Nat := crOut recd * crDstSize recd

/-- R346: the completion record. -/
def CopyReq.ringRecord (q : CopyReq) (last : Nat) : Nat :=
  let code := (q.fault.map (·.1)).getD 0
  let addr := (q.fault.map (·.2)).getD 0
  1 + code % 256 * 2 ^ 8 + (b2n q.sat + 2 * b2n q.nan + 4 * b2n (q.cancelled && q.fault.isNone) + 8 * b2n q.stream) * 2 ^ 16 +
    q.slot % 512 * 2 ^ 23 + q.seq % 65536 * 2 ^ 32 + crUserTag q.recd * 2 ^ 48 + addr % 2 ^ 64 * 2 ^ 64 + q.bytes % 2 ^ 64 * 2 ^ 128 +
    last % 2 ^ 64 * 2 ^ 192

/-- R335, R353: LAST: for a stream the elements in sealed tiles, else the elements before the first that has not been written. -/
def CoreEngines.lastOf (e : CoreEngines) (q : CopyReq) : Nat :=
  if q.stream && q.fault.isSome then Nat.min (crOut q.recd) (q.chunk * e.chunkElems q.info.launch q.recd)
  else match q.lost with | some n => Nat.min n q.pos | none => q.pos

/-- Bytes the request has counted on its barrier: a stream counts chunk by chunk (R351, R353). -/
def CoreEngines.countedOf (e : CoreEngines) (q : CopyReq) : Nat :=
  if q.stream then Nat.min (crTotal q.recd) (e.lastOf q * crDstSize q.recd) else q.bytes

/-- R335, R342: a peer has answered a write of a request. The element's bytes count with its last answer; an error is the request's, and LAST
stops at the element. -/
def State.copyAnswered (s : State) (c slot id code va : Nat) : State :=
  match (s.core c).eng.copy? slot with
  | none => s
  | some q =>
    match q.open'.find? (fun x => x.1 == id) with
    | none => s
    | some (_, e, n) =>
      if code ≠ 0 then
        s.setCopy c { q with open' := q.open'.filter (fun x => x.2.1 != e), fault := some (q.fault.getD (code, va)),
                             lost := some (Nat.min e (q.lost.getD e)) }
      else
        let rest := q.open'.filter (fun x => x.1 != id)
        match rest.find? (fun x => x.2.1 == e) with
        | some y => s.setCopy c { q with open' := rest.map (fun x => if x.1 == y.1 then (x.1, x.2.1, x.2.2 + n) else x) }
        | none => (s.setCopy c { q with open' := rest, bytes := q.bytes + n }).countBytes q n

/-- A token of a copy request, the k-th of a stream: in timetable mode it goes with the others of boundary step 3 (R356). -/
def State.copySend (s : State) (c : Nat) (q : CopyReq) (k : Nat) (tok : Token) : State :=
  if q.tt then s.updCore c (fun m => { m with csends := m.csends ++ [(q.slot, k, tok)] }) else s.engToken c false tok

/-- R342 steps 3 and 4, R347: the ring record, or a wait for ring space; then the token, and the slot is freed, with that of its
transform's card (R422). -/
def State.copyReport (s : State) (c : Nat) (q : CopyReq) : State :=
  let last := (s.core c).eng.lastOf q
  let record := q.ringRecord last
  let finish := fun (st : State) =>
    let tok : Token := { tag := crTokTag q.recd, src := q.info.tag, dest := crTokDest q.recd, scope := crTokScope q.recd, pwords := 2,
                         pay0 := BitVec.ofNat 64 record, pay1 := BitVec.ofNat 64 last, kind := 0, sided := false,
                         sender := q.info.launch }
    let st1 := if crTokv q.recd && !q.stream then st.copySend c q 0 tok else st
    let st1' := match q.fab with
      | some f => st1.updCluster (clusterOf c) (fun k => { k with fab := { k.fab with cards := k.fab.cards.filter (fun x => x.slot != f) } })
      | none => st1
    let st2 := st1'.updEng c (fun e => { e.dropRemote (unitCopy q.slot) with copies := e.copies.filter (fun x => x.slot != q.slot) })
    q.cancelOps.foldl (fun u o => u.endOp c o) (st2.endOp c q.opId)
  if crRingv q.recd then
    let bad := finish (s.faultRecord { q.info with code := COPY_RECORD, detail := 6, source := 2, addr := 0 })
    if q.reporting = 2 then bad
    else
      match s.ringWrite q.info.launch (crRingk q.recd) record [] with
      | .ok s1 => finish s1
      | .full => s.setCopy c { q with reporting := 1 }
      | .bad => bad
      | .page asid va kind lv => (s.ringPage c q.info.launch asid va kind lv).setCopy c { q with reporting := 1, pageWait := some va }
  else finish s

/-- R314, R321, R342, R343: a request has ended: registered writes and counted reads are settled, the barrier takes what is left, and the
reports follow. -/
def State.copyEnd (s : State) (c : Nat) (q : CopyReq) : State :=
  let r := q.info.launch
  let s1 :=
    if q.mark = 0 then s
    else
      (copyTiles c r q.recd true (fun h => (s.core h).eng.pool)).foldl (fun (st : State) h =>
        (st.updEng h.1.core (fun e => e.performed h.1.core q.mark)).tileWake h.1.core) s
  let s2 :=
    if q.srcOk then
      (copyTiles c r q.recd false (fun h => (s1.core h).eng.pool)).foldl (fun (st : State) h => st.countTile h.1 h.2) s1
    else s1
  let rest := if q.fault.isSome || (q.cancelled && !q.stream) then crTotal q.recd - (s.core c).eng.countedOf q else 0
  let s3 := s2.countBytes q rest
  let s4 := match q.fault with
    | some (code, _) => if crBarv q.recd then s3.copyBar q (.err code q.slot) else s3
    | none => s3
  let s5 := if crArrive q.recd then s4.copyBar q .arrive else s4
  let s6 := match q.fault with
    | some (code, addr) =>
      if !crBarv q.recd && !crRingv q.recd && !crTokv q.recd then
        s5.faultNow { q.info with code := code, addr := addr, source := 2, detail := (idWord c q.seq q.slot).toNat }
      else s5
    | none => s5
  s6.copyReport c q

/-- R309, R321: what the handles of a source come to before the first read: none while one waits for the seal. -/
def State.sourceJudge (s : State) (c : Nat) (q : CopyReq) : Option CopyReq :=
  if crSkind q.recd != 2 || q.srcOk then some q
  else
    let ts := copyTiles c q.info.launch q.recd false (fun h => (s.core h).eng.pool)
    match tilesCode .take ts with
    | some code => some { q with fault := some (code, 0) }
    | none =>
      if ts.isEmpty then some { q with fault := some (ACCESS_VIOLATION, crSrc q.recd) }
      else if ts.any (fun x => x.2.judge x.1.gen .take false == .wait) then none
      else some { q with srcOk := true }

/-- Whether a request can act now. -/
def CopyReq.free (q : CopyReq) (e : CoreEngines) : Bool := q.pageWait.isNone && !e.asked (unitCopy q.slot)

/-- An ordinary request without a fabric transform, or an empty one of any kind, runs and completes (R341 to R343), or holds at an element; none when it cannot act. -/
def State.copyComplete (s : State) (c slot : Nat) : Option State :=
  match (s.core c).eng.copy? slot with
  | none => none
  | some q0 =>
    if ((q0.stream || crFabv q0.recd) && crElems q0.recd != 0) || q0.reporting != 0 || !q0.free (s.core c).eng then none
    else if q0.cancelled || q0.fault.isSome then some (s.copyEnd c q0)
    else
      match s.sourceJudge c q0 with
      | none => none
      | some q1 =>
        if q1.fault.isSome then some (s.copyEnd c q1)
        else
          let before := q1.bytes
          match s.runElems c q1 (crElems q1.recd - q1.pos) with
          | (s1, q, .held) => some ((s1.setCopy c q).countBytes q (q.bytes - before))
          | (s1, q, _) =>
            let s2 := (s1.setCopy c q).countBytes q (q.bytes - before)
            if (s2.core c).eng.asked (unitCopy q.slot) then some s2 else some (s2.copyEnd c q)

/-- R347: the retry of a completion that waits for ring space or a page; none while the ring is still full. -/
def State.ringRetry (s : State) (c slot : Nat) : Option State :=
  match (s.core c).eng.copy? slot with
  | some q =>
    if q.reporting = 0 ∨ q.pageWait.isSome = true then none
    else
      match s.ringWrite q.info.launch (crRingk q.recd) 0 [] with
      | .full => if q.reporting = 2 then some (s.copyReport c q) else none
      | _ => some (s.copyReport c q)
  | none => none

/-! ## Streams (R353, R354) -/

/-- R325, R353: a stream ends: the partition is unbound and its unfilled tiles are FREE. -/
def State.unbind (s : State) (c : Nat) (q : CopyReq) : State :=
  s.updEng c (fun e => { e with pool := poolUpdPart e.pool q.info.launch (crPart q.recd) (fun p =>
    { p with bound := none, tiles := p.tiles.map (fun t =>
        if t.state == .unsealed && t.hkind && t.hframe == q.slot % 512 then { t with state := .free, hkind := false } else t) }) })

/-- R353: the stream ends and completes under R342. -/
def State.streamEnd (s : State) (c : Nat) (q : CopyReq) : State := (s.unbind c q).copyEnd c q

/-- R315, R353: whether the seal of a chunk's tile still waits for writes that were registered before it: those that `sealFor` names, or as the
seal comes up those registered now. -/
def State.sealHeld (s : State) (c : Nat) (q : CopyReq) (key : TileKey) : List Nat :=
  let pend := ((poolTile (s.core c).eng.pool key).map (·.pend)).getD []
  match q.sealFor with
  | some l => l.filter (fun n => pend.contains n)
  | none => pend

/-- R309, R315: the code that the seal of a chunk meets at a tile which is no longer the stream's. -/
def State.sealCode (s : State) (c : Nat) (key : TileKey) (h : Word) : Option Nat :=
  match (poolTile (s.core c).eng.pool key).map (fun (t : Tile) => t.judge (hndGen h) .close false) with
  | some .stale | none => some TILE_STALE
  | some .overread => some TILE_OVERREAD
  | some _ => none

/-- R353 steps 2 and 3: the tile sealed with READS while it is still UNSEALED in the notice's generation (R315), its bytes counted, its token
sent. -/
def State.sealChunk (s : State) (c : Nat) (q : CopyReq) (key : TileKey) (h : Word) (bytes : Nat) (last : Bool) : State :=
  let s1 := (s.updEng c (fun e => { e with pool := poolUpd e.pool key (fun t =>
    if t.judge (hndGen h) .close false = .go then { t with state := .sealed, run := false, hkind := false, count := crReads q.recd } else t) })).setCopy c
      { q with chunk := q.chunk + 1, notices := q.notices.drop 1, ripe := q.ripe - 1, sealFor := none }
  let s2 := (s1.countBytes q bytes).tileWake c
  if crTokv q.recd then
    let tag := setBits (crTokTag q.recd) 23 0 ((tagIdx (crTokTag q.recd) + q.chunk) % 2 ^ 24)
    let tok : Token :=
      { tag := tag, src := q.info.tag, dest := crTokDest q.recd, scope := crTokScope q.recd, pwords := 2, pay0 := h,
        pay1 := BitVec.ofNat 64 (q.chunk % 2 ^ 32 + bytes % 2 ^ 17 * 2 ^ 32 + b2n last * 2 ^ 63), kind := 0, sided := false,
        sender := q.info.launch }
    s2.copySend c q q.chunk tok
  else s2

/-- The notices that a stream may handle now: at a superstep boundary those produced before step 3 (R356). -/
def CopyReq.heard (q : CopyReq) : List Word := if q.tt && q.ripe == 0 then [] else q.notices

/-- R353: the stream handles its oldest freed-slot notice; none when it has none or cannot act. A cancelled one finishes the tile that it is
filling (R354). -/
def State.streamNotice (s : State) (c slot : Nat) : Option State :=
  match (s.core c).eng.copy? slot with
  | none => none
  | some q0 =>
    if !q0.stream || crFabv q0.recd || crElems q0.recd == 0 || q0.reporting != 0 || !q0.free (s.core c).eng then none
    else if (q0.cancelled && !(s.core c).eng.midChunk q0) || q0.fault.isSome then some (s.streamEnd c q0)
    else
      match s.sourceJudge c q0 with
      | none => none
      | some q1 =>
        if q1.fault.isSome then some (s.streamEnd c q1)
        else
          match q1.heard with
          | [] => none
          | h :: _ =>
            let r := q1.info.launch
            let key : TileKey := ⟨r, crPart q1.recd, hndTile h⟩
            let size := match poolFind (s.core c).eng.pool r (crPart q1.recd) with | some p => tileBytes p.tsize | none => 1024
            let per := (s.core c).eng.chunkElems r q1.recd
            let first := q1.chunk * per
            let stop := Nat.min (crElems q1.recd) (first + per)
            match s.runChunk c q1 key (hndGen h) size (stop - q1.pos) (q1.pos - first) with
            | (s1, q, .held) => some (s1.setCopy c q)
            | (s1, q, .failed) => some ((s1.setCopy c q).streamEnd c q)
            | (s1, q, .done) =>
              let lastOne := decide (crElems q.recd ≤ stop)
              let wait := s1.sealHeld c q key
              if !wait.isEmpty then (if q0.sealFor = some wait then none else some (s1.setCopy c { q with sealFor := some wait }))
              else
                match s1.sealCode c key h with
                | some code => let q' := { q with fault := some (code, 0) }; some ((s1.setCopy c q').streamEnd c q')
                | none =>
                  let s3 := s1.sealChunk c q key h ((stop - first) * crDstSize q.recd) lastOne
                  match (s3.core c).eng.copy? slot with
                  | some x => if lastOne || q.cancelled then some (s3.streamEnd c x) else some s3
                  | none => some s3

end Sys2Proof.Machine
end

