-- ==== Sys2Proof/Machine/ChunkOps.lean ====
section
/-!
DEFINITION. The chunk promotion rule shared by the matrix engine and the bank engines (R96, R97).
-/
namespace Sys2Proof.Machine

/-- The formats of an operand element: a floating format, or signed integers of a width. -/
inductive ElemFmt where
  | flt (f : Fmt)
  | int (w : Nat)
deriving DecidableEq, Repr

def ElemFmt.width : ElemFmt → Nat
  | .flt f => f.width
  | .int w => w

/-- The value of an element. -/
def ElemFmt.value (f : ElemFmt) (x : Nat) : FVal :=
  match f with
  | .flt g => g.decode x
  | .int w => let i := toSigned w x; .fin (decide (i < 0)) i.natAbs 0

/-- Element k of packed bytes. -/
def packedElem (f : ElemFmt) (data k : Nat) : Nat := data / 2 ^ (f.width * k) % 2 ^ f.width

/-- The value of an MX element under a scale byte (R91). -/
def mxValue (f : ElemFmt) (x scale : Nat) : FVal :=
  if scale = 255 then .nan false else (f.value x).scale ((scale : Int) - 127)

/-- R96: S, over the pairs counted; an exact zero is +0 (R97). -/
def chunkSum (ps : List (FVal × FVal)) : FVal :=
  match (sumVals .rne (ps.map (fun p => (mulVal p.1 p.2).1))).1 with
  | .fin _ 0 _ => .fin false 0 0
  | v => v

/-- A promoted element; whether the promotion overflowed or gave an infinity; whether a rounding overflowed. -/
structure Promoted where
  acc : Nat
  inf : Bool
  ovf : Bool
deriving DecidableEq, Repr

/-- R96: one chunk applied to an accumulator element: first rounding of S·sA·sB, second rounding of the sum; a chunk that counts no product
leaves the element. -/
def promote (acc : Nat) (ps : List (FVal × FVal)) (sa sb : FVal) : Promoted :=
  if ps.isEmpty then ⟨acc, false, false⟩
  else
    let v := (mulVal (mulVal (chunkSum ps) sa).1 sb).1
    let p := fp32.deliver envRNE v 0
    let r := fp32.add envRNE acc p.bits
    let isInf := fun (x : Nat) => (fp32.decode x).isInf
    let first := isInf p.bits && !v.isInf
    ⟨r.bits, isInf r.bits || first, first || r.fl &&& fOF != 0⟩

/-- The neutral scale. -/
def oneVal : FVal := .fin false 1 0

end Sys2Proof.Machine
end

