-- ==== Sys2Proof/Machine/Mtx.lean ====
section
/-!
DEFINITION. Class MTX: the meanings of its instructions (R359, R366 to R373, R377).
-/
namespace Sys2Proof.Machine

/-! ## Contexts -/

def Pair.ctx (p : Pair) (i : Nat) : MCtx := NMap.getD p.ctxs i MCtx.reset
def State.mctx (s : State) (c i : Nat) : MCtx := (s.pair (pairOf c)).ctx i
def State.setMctx (s : State) (c i : Nat) (x : MCtx) : State :=
  let p := s.pair (pairOf c)
  s.setPair (pairOf c) { p with ctxs := NMap.set p.ctxs i x }

/-- Whether frame h of core c owns a context (R359). -/
def MCtx.ownedBy (x : MCtx) (c h : Nat) : Bool := x.owner == some (c, h) && !x.releasing

/-- R359: a claim: both tiles +0, the record cleared, the owner set. -/
def MCtx.claimFor (x : MCtx) (c h : Nat) (r : LaunchRef) : MCtx :=
  { x with owner := some (c, h), launch := r, ops := 0, code := 0, rowp := 0, chunkp := 0, faddr := 0, disc := false, sat := false,
           inf := false, nan := false, rows := [], releasing := false, bad := [] }

/-- R359, R372: a released context whose commands have completed: the record of an unreported error, and the owner gone. -/
def MCtx.statusWord (x : MCtx) : Nat :=
  x.ops % 65536 * 2 ^ 48 + x.code * 2 ^ 40 + (if x.code = 0 then 0 else x.rowp * 2 ^ 32 + x.chunkp % 16 * 2 ^ 28) +
    b2n x.disc * 8 + b2n x.sat * 4 + b2n x.inf * 2 + b2n x.nan

/-- The release of a context takes effect; an error that no `mwait` reported is recorded and the launch enters FAULTED (R372). -/
def State.releaseCtx (s : State) (c i : Nat) : State :=
  let x := s.mctx c i
  let x' := { x with owner := none, releasing := false, rows := [], bad := [] }
  let s1 := s.setMctx c i x'
  if x.code = 0 then s1
  else
    s1.faultNow { FaultInfo.plain MTX_FAULT x.statusWord x.faddr x.launch (s.launchAsid x.launch) 2 with
      core := (x.owner.map (·.1)).getD c }

/-- The lowest active seat. -/
def Train.lowest (t : Train) : Option Seat := t.seats.foldl (fun m x => match m with
  | none => some x
  | some y => if x.n < y.n then some x else some y) none

/-- R368: an MTX instruction executes once, with the slots of the lowest active seat. -/
def withLowest (s : State) (f : Nat → Train → Seat → Host.Outcome State Fault Refusal) : Host.Outcome State Fault Refusal :=
  withTrain s (fun c t =>
    match t.lowest with
    | none => .next (s.retire c t)
    | some x => f c t x)

/-- A fault of the lowest active seat; the instruction queues nothing and retires. -/
def State.lowFault (s : State) (c : Nat) (t : Train) (x : Seat) (code detail addr : Nat) : State :=
  let r := s.takeFault c t x code 0 detail addr t.pc
  (r.1.putTrain c r.2).retireUid c t.uid

/-! ## Operand checks (R369) -/

/-- Bytes of a row of K elements of a width. -/
def rowBytes (w k : Nat) : Nat := w * k / 8

/-- The element formats of a TYPE (R363). -/
def mmaFmts (ty : Nat) (e : Option MExt) : ElemFmt × ElemFmt :=
  match ty with
  | 0 => (.flt bf16, .flt bf16)
  | 1 => (.flt e4m3, .flt e4m3)
  | 2 => (.flt e4m3, .flt e5m2)
  | 3 => (.flt e5m2, .flt e4m3)
  | 4 => (.flt e5m2, .flt e5m2)
  | 5 => (.int 8, .int 8)
  | 6 => (.flt e4m3, .flt e4m3)
  | 7 => (.flt (mxFmt ((e.map (·.fa)).getD 0)), .flt (mxFmt ((e.map (·.fb)).getD 0)))
  | _ => (.int 4, .int 4)

/-- R362: the rows of an MC code. -/
def mcRows (mc : Nat) : Nat := 32 * 2 ^ mc

/-- Whether a base is a tile handle (R305). -/
def isHandle (w : Word) : Bool := bit w 63

/-- R369: the REASON of a base with a stride, rows of n bytes: 1, 2 or 3; 0 when it passes. -/
def State.baseReason (s : State) (c : Nat) (r : LaunchRef) (base : Word) (stride rows n align : Nat) : Nat :=
  if !isHandle base && !vaOk base.toNat then 1
  else if stride % align != 0 then 2
  else if isHandle base then
    if hndOff base % align != 0 then 2
    else
      match tileRef c r base (fun h => (s.core h).eng.pool) with
      | none => 3
      | some (x, size, _) => if x.off + (rows - 1) * stride + n ≤ size then 0 else 3
  else if base.toNat % align != 0 then 2
  else 0

/-- R369: the first failing operand of an `mma`: REASON and the operand. -/
def State.mmaReason (s : State) (c : Nat) (r : LaunchRef) (ty kc mc : Nat) (a b st : Word) (e : Option MExt) : Option (Nat × Word) :=
  let k := 128 * (kc + 1)
  let f := mmaFmts ty e
  let al := fun (g : ElemFmt) => if ty = 7 then g.width * 4 else 16
  let ra := s.baseReason c r a (bits st 31 0) (mcRows mc) (rowBytes f.1.width k) (al f.1)
  let rb := s.baseReason c r b (bits st 63 32) 128 (rowBytes f.2.width k) (al f.2)
  if ra ≠ 0 then some (ra, a)
  else if rb ≠ 0 then some (rb, b)
  else
    match e with
    | none => none
    | some x =>
      let scaled := ty = 6 ∨ ty = 7
      let bad := fun (w : Word) => isHandle w || !vaOk w.toNat
      if scaled ∧ bad x.sca = true then some (1, x.sca)
      else if scaled ∧ bad x.scb = true then some (1, x.scb)
      else if (x.bma || x.bmb) && bad x.bm then some (1, x.bm)
      else if ty = 6 ∧ (x.sca.toNat % 4 != 0 || x.sca == 0) = true then some (2, x.sca)
      else if ty = 6 ∧ (x.scb.toNat % 4 != 0 || x.scb == 0) = true then some (2, x.scb)
      else if (x.bma || x.bmb) && x.bm.toNat % 16 != 0 then some (2, x.bm)
      else if ty = 7 ∧ (x.sca == 0 && isHandle a) = true then some (5, a)
      else if ty = 7 ∧ (x.scb == 0 && isHandle b) = true then some (5, b)
      else none

/-! ## Issue (R368) -/

/-- A command of an instruction. -/
def State.mkCmd (s : State) (c : Nat) (t : Train) (x : Seat) (ctx : Nat) (kind : MKind) (opId : Nat) : MCmd :=
  { kind := kind, ctx := ctx, info := s.seatInfo c t x 0 0 0 0 t.pc, train := t.uid, frame := x.inst.handle, opId := opId, seq := 0,
    started := false, okA := false, okB := false, nan := false, inf := false, pageWait := none, fault := none }

/-- Places taken in a context's queue, as the issuing core counts them (R360, R377). -/
def State.mtxDepth (s : State) (c : Nat) (t : Train) (ctx : Nat) : Nat :=
  if s.inTT t.launch then
    (s.mctx c ctx).queue.length + ((s.core c).eng.mq.filter (fun m => m.ctx == ctx && (match m.kind with
      | .mma .. | .accz .. | .accld .. | .accst .. | .accrd .. => true
      | _ => false))).length
  else (s.mctx c ctx).queue.length

/-- A command joins its context's queue; in timetable mode the core's list for boundary step 3 (R377). -/
def State.pushCmd (s : State) (c : Nat) (t : Train) (m : MCmd) : State :=
  if s.inTT t.launch then s.updEng c (fun e => { e with mq := e.mq ++ [m] })
  else
    let x := s.mctx c m.ctx
    s.setMctx c m.ctx { x with seq := x.seq + 1, queue := x.queue ++ [{ m with seq := x.seq + 1 }] }

/-- The shape of `mma`, `accz`, `accld` and `accst`: feature, ownership, operands, order, queue (R368). -/
def mtxIssue (s : State) (ctx : Nat) (feature : State → Train → Seat → Bool) (reason : State → Nat → Train → Seat → Option (Nat × Word))
    (kind : State → Nat → Train → Seat → State × MKind) : Host.Outcome State Fault Refusal :=
  withLowest s (fun c t x =>
    if !feature s t x then .next (s.lowFault c t x FEATURE_OFF 0 0)
    else if !(s.mctx c ctx).ownedBy c x.inst.handle then .next (s.lowFault c t x MTX_OPERAND 4 0)
    else
      match reason s c t x with
      | some (k, w) => .next (s.lowFault c t x MTX_OPERAND k w.toNat)
      | none =>
        afterWrites s c t 63 (fun s1 =>
          if 4 ≤ s1.mtxDepth c t ctx then .next (s1.holdTrain c t .engine)
          else
            let k := kind s1 c t x
            let n := k.1.newOp c
            let s2 := (n.2.startOp c t.uid 21 2 n.1).pushCmd c t (s1.mkCmd c t x ctx k.2 n.1)
            .next (s2.retire c { t with ext := none })))

/-- What the preceding `mmax` supplies to an `mma` (R364). -/
def Train.mext (t : Train) (e : BitVec 1) : Option MExt :=
  if e == 1 then
    match t.ext with
    | some (f, sca, scb, bm) =>
      some ⟨natBits f 15 13, natBits f 12 10, f.testBit 9, f.testBit 8, sca, scb, bm⟩
    | none => some ⟨0, 0, false, false, 0, 0, 0⟩
  else none

/-- R368: the features of an `mma`. -/
def mmaFeature (s : State) (t : Train) (ty : Nat) (e : Option MExt) : Bool :=
  !(ty == 6 && !s.featOn t.launch 7) && !(ty == 7 && !s.featOn t.launch 6) &&
  !((match e with | some x => x.bma || x.bmb | none => false) && !s.featOn t.launch 5)

/-- R370 `mma`. -/
def execMma (t k : BitVec 4) (m : BitVec 2) (u c l e : BitVec 1) (s : State) : Host.Outcome State Fault Refusal :=
  mtxIssue s c.toNat (fun st tr _ => mmaFeature st tr t.toNat (tr.mext e))
    (fun st co tr x => st.mmaReason co tr.launch t.toNat k.toNat m.toNat (tr.slot x.n tr.pc .l) (tr.slot x.n tr.pc .r)
      (tr.slot x.n tr.pc .t) (tr.mext e))
    (fun st _ tr x => (st, .mma t.toNat k.toNat m.toNat (u == 1) l.toNat (tr.slot x.n tr.pc .l) (tr.slot x.n tr.pc .r)
      (tr.slot x.n tr.pc .t) (tr.mext e)))

/-- R364 `mmax`: holds the scale and bitmap bases for the `mma` that follows. -/
def execMmax (x y : BitVec 3) (m n : BitVec 1) (s : State) : Host.Outcome State Fault Refusal :=
  withLowest s (fun c t z =>
    let f := n.toNat * 2 ^ 8 + m.toNat * 2 ^ 9 + y.toNat * 2 ^ 10 + x.toNat * 2 ^ 13
    let t' := { t with ext := some (f, t.slot z.n t.pc .l, t.slot z.n t.pc .r, t.slot z.n t.pc .t) }
    .next ((s.putTrain c t').retire c t'))

/-- R371 `accz`. -/
def execAccz (c l : BitVec 1) (s : State) : Host.Outcome State Fault Refusal :=
  mtxIssue s c.toNat (fun _ _ _ => true) (fun _ _ _ _ => none) (fun st _ _ _ => (st, .accz l.toNat))

/-- R369: the operand of `accld` and `accst`. -/
def accReason (st : State) (co : Nat) (tr : Train) (x : Seat) (mc size : Nat) : Option (Nat × Word) :=
  let base := tr.slot x.n tr.pc .l
  let k := st.baseReason co tr.launch base (bits (tr.slot x.n tr.pc .r) 31 0) (mcRows mc) (128 * size) 16
  if k = 0 then none else some (k, base)

/-- R371 `accld`. -/
def execAccld (m : BitVec 2) (c l : BitVec 1) (s : State) : Host.Outcome State Fault Refusal :=
  mtxIssue s c.toNat (fun _ _ _ => true) (fun st co tr x => accReason st co tr x m.toNat 4)
    (fun st _ tr x => (st, .accld l.toNat m.toNat (tr.slot x.n tr.pc .l) (bits (tr.slot x.n tr.pc .r) 31 0)))

/-- Bytes of an output element (R371). -/
def ofmtBytes (f : Nat) : Nat :=
  match f with
  | 0 => 4 | 1 | 2 => 2 | _ => 1

/-- R371 `accst`: RND 0 takes RM, and SATP, from the lowest active seat's frame at issue; a handle destination is registered (R314). -/
def execAccst (f r : BitVec 3) (m : BitVec 2) (c l : BitVec 1) (s : State) : Host.Outcome State Fault Refusal :=
  mtxIssue s c.toNat (fun _ _ _ => true) (fun st co tr x => accReason st co tr x m.toNat (ofmtBytes f.toNat))
    (fun st co tr x =>
      let mode := (st.frame co x.inst.handle).mode
      let rm := if r = 0 then modeRM mode else r.toNat
      let base := tr.slot x.n tr.pc .l
      let reg : State × Nat :=
        if isHandle base then
          match tileRef co tr.launch base (st.poolSeen co (st.inTT tr.launch)) with
          | some (h, _, u) => if u.judge h.gen .write false = .go then st.regTiles co tr x [h] else (st, 0)
          | none => (st, 0)
        else (st, 0)
      (reg.1, .accst l.toNat m.toNat f.toNat rm (modeSATP mode == 1) base (bits (tr.slot x.n tr.pc .r) 31 0) reg.2))

/-- The seats of an `accrd`, each with an operation its targets wait for. -/
def State.accrdSeats (s : State) (c : Nat) (t : Train) (targets : List Nat) (wbit : Nat) : List Seat → List TileSeat →
    State × Train × List TileSeat
  | [], acc => (s, t, acc)
  | x :: xs, acc =>
    let o := s.openOp c t x targets wbit 2
    State.accrdSeats o.2.1 c o.2.2 targets wbit xs (acc ++ [⟨s.seatInfo c t x 0 0 0 0 t.pc, x.inst.handle, 0, targets, t.writeRegs, o.1⟩])

/-- R371 `accrd`: for each active seat, late under wait bit 21. -/
def execAccrd (a : BitVec 8) (c l : BitVec 1) (s : State) : Host.Outcome State Fault Refusal :=
  withLowest s (fun co t0 x =>
    if !(s.mctx co c.toNat).ownedBy co x.inst.handle then .next (s.lowFault co t0 x MTX_OPERAND 4 0)
    else
      match s.prepare co t0 with
      | .hold s' => .next s'
      | .go s0 t =>
        let s1 := s0.drainTrain co t
        if 4 ≤ s1.mtxDepth co t c.toNat then .next (s1.holdTrain co t .engine)
        else
          let order := if t.writeRegs.isEmpty then t.seats else seatsByTag s1 co t.seats
          let r := s1.accrdSeats co t (loadTargets a.toNat 3) 21 order []
          let seats := r.2.2.map (fun y => (y, (t.slot y.info.seat t.pc .l).toNat))
          let s2 := r.1.pushCmd co t (s1.mkCmd co t x c.toNat (.accrd l.toNat seats) 0)
          .next ((s2.putTrain co r.2.1).retireUid co t.uid))

/-! ## mctx (R372) -/

/-- R372 `mctx.get`: the claim is served at once when the context is free and nobody asked earlier. Where F owns the context a claim that the train
has made before is dropped. -/
def mctxGet (s : State) (c : Nat) (t : Train) (x : Seat) (ctx : Nat) : State :=
  let m := s.mctx c ctx
  let h := x.inst.handle
  if m.ownedBy c h then
    (s.setMctx c ctx { m with claims := m.claims.filter (fun q => !(q.core == c && q.train == t.uid)) }).retire c t
  else if s.inTT t.launch then
    let asked := (s.core c).eng.mq.any (fun q => q.train == t.uid && q.ctx == ctx && (match q.kind with | .claim => true | _ => false)) ||
      m.claims.any (fun q => q.core == c && q.train == t.uid)
    (if asked then s else s.pushCmd c t (s.mkCmd c t x ctx .claim 0)).holdTrain c t .engine
  else if m.owner.isNone && m.claims.isEmpty then (s.setMctx c ctx (m.claimFor c h t.launch)).retire c t
  else
    let asked := m.claims.any (fun q => q.core == c && q.train == t.uid)
    (if asked then s else s.setMctx c ctx { m with claims := m.claims ++ [⟨c, t.uid, h⟩] }).holdTrain c t .engine

/-- R372 `mctx.try`: never holds. -/
def mctxTry (s : State) (c : Nat) (t : Train) (x : Seat) (ctx a : Nat) : State :=
  let m := s.mctx c ctx
  let h := x.inst.handle
  if s.inTT t.launch then
    let order := if t.writeRegs.isEmpty then t.seats else seatsByTag s c t.seats
    let r := s.accrdSeats c t (loadTargets a 3) 21 order []
    let s1 := r.1.pushCmd c t (s.mkCmd c t x ctx (.tryClaim r.2.2) 0)
    (s1.putTrain c r.2.1).retireUid c t.uid
  else
    let give := fun (st : State) (v : Word) => st.giveSeats c t a (t.seats.map (fun y => (y, ⟨v, 0⟩)))
    if m.ownedBy c h then give s 1
    else if m.owner.isNone && m.claims.isEmpty then give (s.setMctx c ctx (m.claimFor c h t.launch)) 1
    else give s 0

/-- R372 `mctx.put`: releases the ownership of F; the release takes effect when the queue is empty. -/
def mctxPut (s : State) (c : Nat) (t : Train) (x : Seat) (ctx : Nat) : State :=
  let m := s.mctx c ctx
  if !m.ownedBy c x.inst.handle then s.lowFault c t x MTX_OPERAND 4 0
  else if s.inTT t.launch then (s.pushCmd c t (s.mkCmd c t x ctx .put 0)).retire c t
  else
    let s1 := s.setMctx c ctx { m with releasing := true }
    (if m.queue.isEmpty then s1.releaseCtx c ctx else s1).retire c t

/-- R372 `mctx.addr`: delivers FADDR. -/
def mctxAddr (s : State) (c : Nat) (t : Train) (x : Seat) (ctx a : Nat) : State :=
  if s.inTT t.launch then
    let order := if t.writeRegs.isEmpty then t.seats else seatsByTag s c t.seats
    let r := s.accrdSeats c t (loadTargets a 3) 21 order []
    let s1 := r.1.pushCmd c t (s.mkCmd c t x ctx (.addr r.2.2) 0)
    (s1.putTrain c r.2.1).retireUid c t.uid
  else s.giveSeats c t a (t.seats.map (fun y => (y, ⟨BitVec.ofNat 64 (s.mctx c ctx).faddr, 0⟩)))

/-- R372 `mctx`. -/
def execMctx (a : BitVec 8) (c : BitVec 1) (t : BitVec 2) (s : State) : Host.Outcome State Fault Refusal :=
  withLowest s (fun co tr0 x =>
    match s.prepare co tr0 with
    | .hold s' => .next s'
    | .go s0 tr =>
      match t.toNat with
      | 0 => .next (mctxGet s0 co tr x c.toNat)
      | 1 => .next (mctxTry s0 co tr x c.toNat a.toNat)
      | 2 => .next (mctxPut s0 co tr x c.toNat)
      | _ => .next (mctxAddr s0 co tr x c.toNat a.toNat))

/-! ## mwait (R373) -/

/-- R373: the report: the status word delivered, or the fault of the lowest active seat; the context's fields are cleared either way. -/
def State.mwaitReport (s : State) (c : Nat) (t : Train) (ctx a : Nat) (nf : Bool) : State :=
  let m := s.mctx c ctx
  let w := m.statusWord
  let s1 := s.setMctx c ctx { m with ops := 0, code := 0, faddr := 0, disc := false, sat := false, inf := false, nan := false,
                                     waits := m.waits.filter (fun q => !(q.1 == c && q.2.1 == t.uid)) }
  let t' := { t with hold := none, heldAt := none }
  match t.lowest with
  | some x =>
    if m.code ≠ 0 ∧ nf = false then s1.lowFault c t' x MTX_FAULT w m.faddr
    else s1.giveSeats c t' a (t.seats.map (fun y => (y, ⟨BitVec.ofNat 64 w, 0⟩)))
  | none => s1.retire c t'

/-- R373 `mwait`: holds until every command that reached the context before it has completed. -/
def execMwait (a : BitVec 8) (c n : BitVec 1) (s : State) : Host.Outcome State Fault Refusal :=
  withLowest s (fun co t0 x =>
    let ctx := c.toNat
    if !(s.mctx co ctx).ownedBy co x.inst.handle then .next (s.lowFault co t0 x MTX_OPERAND 4 0)
    else
      match s.prepare co t0 with
      | .hold s' => .next s'
      | .go s0 t =>
        if s0.inTT t.launch then
          let asked := (s0.core co).eng.mq.any (fun q => q.train == t.uid && (match q.kind with | .wait .. => true | _ => false))
          .next ((if asked then s0 else s0.pushCmd co t (s0.mkCmd co t x ctx (.wait a.toNat (n == 1)) 0)).holdTrain co t .engine)
        else
          let m := s0.mctx co ctx
          let mark := match m.waits.find? (fun q => q.1 == co && q.2.1 == t.uid) with | some q => q.2.2 | none => m.seq
          if m.queue.any (fun q => decide (q.seq ≤ mark)) then
            let w := m.waits.filter (fun q => !(q.1 == co && q.2.1 == t.uid)) ++ [(co, t.uid, mark)]
            .next ((s0.setMctx co ctx { m with waits := w }).holdTrain co t .engine)
          else .next ((s0.putTrain co t).mwaitReport co t ctx a.toNat (n == 1)))

end Sys2Proof.Machine
end

