-- ==== Sys2Proof/Machine/MtxRun.lean ====
section
/-!
DEFINITION. The matrix engine at work (R357 to R362, R364, R365, R370, R371, R374): tile steps, errors, completion.
-/
namespace Sys2Proof.Machine

/-! ## Reading operands (R362, R364, R365) -/

/-- n bytes at a virtual address, read piece by piece within 8 KiB units. -/
def State.readSpan (s : State) (c unit asid : Nat) : Nat → Nat → Nat → EGet
  | 0, _, _ => .ok [] 0 0 0
  | fuel + 1, va, n =>
    if n = 0 then .ok [] 0 0 0
    else
      let k := Nat.min n (8192 - va % 8192)
      match s.engRead c unit asid va k with
      | .ok bs _ _ _ =>
        match State.readSpan s c unit asid fuel (va + k) (n - k) with
        | .ok rest _ _ _ => .ok (bs ++ rest) 0 0 0
        | e => e
      | e => e

/-- n bytes of an operand at displacement d from its base: a tile or the virtual space (R365). -/
def State.operandRead (s : State) (c unit asid : Nat) (r : LaunchRef) (base : Word) (d n : Nat) : EGet :=
  if isHandle base then
    match tileRef c r base (fun h => (s.core h).eng.pool) with
    | none => .bad ACCESS_VIOLATION 0
    | some (x, size, t) =>
      if size < x.off + d + n then .bad ACCESS_VIOLATION 0
      else
        match t.judge x.gen .take false with
        | .stale => .bad TILE_STALE 0
        | .overread => .bad TILE_OVERREAD 0
        | _ => if s.tileErr x.core t (x.off + d) n then .bad DATA_UNCORRECTABLE 0 else .ok (t.mem.read (x.off + d) n) 0 0 0
  else s.readSpan c unit asid (n / 8192 + 2) (base.toNat + d) n

/-- Block j of a row's chunk at a virtual address, n data bytes with its scale behind them (R127): the scale at an explicit base, or through
the page's MXS (R364); a block that runs past its page is `MISALIGNED` either way (R108). -/
def State.mxBlock (s : State) (c unit asid va n : Nat) (sc : Word) (place : Nat) : EGet :=
  if !vaOk va then .bad ACCESS_VIOLATION va
  else
  match s.corePage c asid va with
  | .invalid lv => .page va lv
  | .badData _ => .bad DATA_UNCORRECTABLE va
  | .leaf pb size e =>
    let off := va - pb
    if size < off + n then .bad MISALIGNED va
    else if sc != 0 then s.engBlock c unit asid va n (sc.toNat + place)
    else if off % n != 0 then .bad MISALIGNED va
    else if !leafRD e || leafMXS e == 0 then .bad ACCESS_VIOLATION va
    else
      let sv := (pb : Int) + leafMXS e * 8192 + (off / n : Nat)
      if sv < 0 then .bad ACCESS_VIOLATION va else s.engBlock c unit asid va n sv.toNat

/-- The four blocks of a row's chunk (R364): their data, and their scales. Those of a tile have their scales at an explicit base. -/
def State.mxRow (s : State) (c unit asid : Nat) (r : LaunchRef) (base : Word) (d n : Nat) (sc : Word) (place : Nat) :
    Except EGet (List Byte × List Nat) :=
  if isHandle base then
    match s.operandRead c unit asid r base d (4 * n) with
    | .ok bs _ _ _ =>
      match s.readSpan c unit asid 3 (sc.toNat + place) 4 with
      | .ok xs _ _ _ => .ok (bs, xs.map (·.toNat))
      | e => .error e
    | e => .error e
  else
    (List.range 4).foldl (fun acc j =>
      match acc with
      | .error e => .error e
      | .ok (bs, l) =>
        match s.mxBlock c unit asid (base.toNat + d + j * n) n sc (place + j) with
        | .ok xs _ _ _ => .ok (bs ++ xs.take n, l ++ [(xs.getD n 0).toNat])
        | e => .error e) (.ok ([], []))

/-- One row of a chunk: values of its 128 elements, which of them count, and its coarse scale. -/
structure ChunkRow where
  vals : List FVal
  counted : List Bool
deriving DecidableEq, Repr

/-- Row m of an operand over chunk ch (R362, R364): data, scales, bitmap. `side` is 0 for A and 1 for B. -/
def State.chunkRow (s : State) (c unit asid : Nat) (r : LaunchRef) (ty kc : Nat) (f : ElemFmt) (base : Word) (stride m ch : Nat)
    (sc : Word) (bitmap : Option (Word × Nat)) : Except EGet ChunkRow :=
  let k := 128 * (kc + 1)
  let n := rowBytes f.width 128
  let d := m * stride + ch * n
  let vals : Except EGet (List FVal) :=
    if ty = 7 then
      match s.mxRow c unit asid r base d (f.width * 4) sc (m * (k / 32) + 4 * ch) with
      | .ok (bs, l) => .ok ((List.range 128).map (fun i => mxValue f (packedElem f (ofLE bs) i) (l.getD (i / 32) 255)))
      | .error e => .error e
    else
      match s.operandRead c unit asid r base d n with
      | .ok bs _ _ _ => .ok ((List.range 128).map (fun i => f.value (packedElem f (ofLE bs) i)))
      | e => .error e
  match vals with
  | .error e => .error e
  | .ok vs =>
    match bitmap with
    | none => .ok ⟨vs, List.replicate 128 true⟩
    | some (bm, place) =>
      match s.readSpan c unit asid 3 (bm.toNat + place + m * (k / 8) + 16 * ch) 16 with
      | .ok ms _ _ _ => .ok ⟨vs, (List.range 128).map (fun i => (ofLE ms).testBit i)⟩
      | e => .error e

/-- Several rows in turn. -/
def chunkRows (f : Nat → Except EGet ChunkRow) : List Nat → Except EGet (List ChunkRow)
  | [] => .ok []
  | m :: ms =>
    match f m with
    | .error e => .error e
    | .ok x =>
      match chunkRows f ms with
      | .ok xs => .ok (x :: xs)
      | .error e => .error e

/-- Coarse scales by address: the FP32 word as a value (R95, R364). -/
def State.coarse (s : State) (c unit asid va : Nat) : Except EGet FVal :=
  match s.readSpan c unit asid 2 va 4 with
  | .ok bs _ _ _ => .ok (fp32.decode (ofLE bs))
  | e => .error e

/-- The pairs of two rows that count (R96). -/
def countedPairs (a b : ChunkRow) : List (FVal × FVal) :=
  (List.range 128).filterMap (fun k =>
    if a.counted.getD k false && b.counted.getD k false then some (a.vals.getD k (.nan false), b.vals.getD k (.nan false)) else none)

/-- A row of a tile: 128 FP32 patterns. -/
def MCtx.row (x : MCtx) (tile m : Nat) : List Nat := NMap.getD x.rows (128 * tile + m) (List.replicate 128 0)
/-- A row written whole, which clears an error of it (R129). -/
def MCtx.setRow (x : MCtx) (tile m : Nat) (v : List Nat) : MCtx :=
  { x with rows := NMap.put x.rows (128 * tile + m) v (List.replicate 128 0), bad := x.bad.filter (· != 128 * tile + m) }

/-- R129, R477: whether one of the eight rows of a block from row m on has an uncorrectable error. -/
def MCtx.badRows (x : MCtx) (tile m : Nat) : Bool := (List.range 8).any (fun i => x.bad.contains (128 * tile + m + i))

/-- A command changed at the head of its context's queue. -/
def MCtx.setHead (x : MCtx) (m : MCmd) : MCtx := { x with queue := m :: x.queue.drop 1 }

/-! ## Ends of commands -/

/-- R321: a handle operand that passed its checks counts one read. -/
def State.countHandle (s : State) (c : Nat) (r : LaunchRef) (base : Word) (passed : Bool) : State :=
  if isHandle base && passed then
    match tileRef c r base (fun h => (s.core h).eng.pool) with
    | some (x, _, t) => s.countTile x t
    | none => s
  else s

/-- The counts and registrations a command settles when it ends (R314, R321). -/
def State.settleCmd (s : State) (m : MCmd) : State :=
  let c := m.info.core
  let r := m.info.launch
  match m.kind with
  | .mma _ _ _ _ _ a b _ _ => (s.countHandle c r a m.okA).countHandle c r b m.okB
  | .accld _ _ base _ => s.countHandle c r base m.okA
  | .accst _ _ _ _ _ base _ mark =>
    if mark = 0 then s
    else
      match tileRef c r base (fun h => (s.core h).eng.pool) with
      | some (x, _, _) => (s.updEng x.core (fun e => e.performed x.core mark)).tileWake x.core
      | none => s
  | _ => s

/-- The command at the head has ended: it leaves the queue; a release that waited takes effect (R359). -/
def State.popCmd (s : State) (c ctx : Nat) (m : MCmd) : State :=
  let x := s.mctx c ctx
  let s1 := s.setMctx c ctx { x with queue := x.queue.drop 1 }
  let s2 := (s1.settleCmd m).updEng m.info.core (fun e => e.dropRemote (unitMtx ctx))
  s2.endOp m.info.core m.opId

/-- A command completes without error (R370, R371). -/
def State.cmdDone (s : State) (c ctx : Nat) (m : MCmd) : State :=
  let x := s.mctx c ctx
  let x' := { x with ops := (x.ops + 1) % 65536, nan := x.nan || m.nan, inf := x.inf || m.inf }
  (s.setMctx c ctx x').popCmd c ctx m

/-- A command ends with an error (R374): CODE and FADDR are set when CODE was 0. What its earlier steps wrote stands, with its marks (R361). -/
def State.cmdFailed (s : State) (c ctx : Nat) (m : MCmd) (code addr : Nat) : State :=
  let x0 := s.mctx c ctx
  let x := { x0 with nan := x0.nan || m.nan, inf := x0.inf || m.inf }
  let x' := if x.code = 0 then { x with code := code, faddr := addr } else x
  (s.setMctx c ctx x').popCmd c ctx m

/-- An access that cannot be made yet or at all: a page request and PARKED, a request to a peer, or the end of the command (R374). -/
def State.cmdBlocked (s : State) (c ctx : Nat) (m : MCmd) (write : Bool) (g : EGet) : State :=
  match g with
  | .ok .. => s
  | .bad code addr => s.cmdFailed c ctx m code addr
  | .page va _ =>
    let s1 := s.engPage m.info.core m.info.launch m.info.asid va (if write then 2 else 1) 2
    s1.setMctx c ctx ((s1.mctx c ctx).setHead { m with pageWait := some va })
  | .remote peer pa n va k => s.engAsk m.info.core (unitMtx ctx) m.info.launch peer pa n va k

/-! ## Steps -/

/-- R309: whether a handle operand can be read now: none while it waits for the seal, else a tile code or the pass. -/
def State.handleReady (s : State) (c : Nat) (r : LaunchRef) (base : Word) (passed : Bool) : Option (Except Nat Bool) :=
  if !isHandle base || passed then some (.ok true)
  else
    match tileRef c r base (fun h => (s.core h).eng.pool) with
    | none => some (.error ACCESS_VIOLATION)
    | some (x, _, t) =>
      match t.judge x.gen .take false with
      | .wait => none
      | .stale => some (.error TILE_STALE)
      | .overread => some (.error TILE_OVERREAD)
      | _ => some (.ok true)

/-- R370: everything a step of `mma` reads. -/
def State.mmaStepData (s : State) (m : MCmd) (unit ty kc mc row ch : Nat) (a b st : Word) (e : Option MExt) :
    Except EGet (List ChunkRow × List ChunkRow × List FVal × FVal) :=
  let c := m.info.core
  let asid := m.info.asid
  let r := m.info.launch
  let f := mmaFmts ty e
  let k := 128 * (kc + 1)
  let x := e.getD ⟨0, 0, false, false, 0, 0, 0⟩
  let bmA := if x.bma then some (x.bm, 0) else none
  let bmB := if x.bmb then some (x.bm, if x.bma then mcRows mc * (k / 8) else 0) else none
  match chunkRows (fun i => s.chunkRow c unit asid r ty kc f.1 a (bits st 31 0) i ch x.sca bmA) ((List.range 8).map (· + row)) with
  | .error g => .error g
  | .ok ra =>
    match chunkRows (fun i => s.chunkRow c unit asid r ty kc f.2 b (bits st 63 32) i ch x.scb bmB) (List.range 128) with
    | .error g => .error g
    | .ok rb =>
      if ty = 6 then
        let sas := (List.range 8).foldl (fun (acc : Except EGet (List FVal)) i =>
          match acc with
          | .error g => .error g
          | .ok l =>
            match s.coarse c unit asid (x.sca.toNat + 4 * ((row + i) * (kc + 1) + ch)) with
            | .ok v => .ok (l ++ [v])
            | .error g => .error g) (.ok [])
        match sas, s.coarse c unit asid (x.scb.toNat + 4 * ch) with
        | .ok l, .ok sb => .ok (ra, rb, l, sb)
        | .error g, _ => .error g
        | _, .error g => .error g
      else .ok (ra, rb, List.replicate 8 oneVal, oneVal)

/-- The eight rows of a block after a chunk (R370), with the statuses raised by the elements that it writes: those with a counted product. -/
def mmaRows (x : MCtx) (tile row : Nat) (ra rb : List ChunkRow) (sa : List FVal) (sb : FVal) : MCtx × Bool × Bool :=
  (List.range 8).foldl (fun (acc : MCtx × Bool × Bool) i =>
    let old := acc.1.row tile (row + i)
    let a := ra.getD i ⟨[], []⟩
    let ps := (List.range 128).map (fun n =>
      let l := countedPairs a (rb.getD n ⟨[], []⟩)
      (promote (old.getD n 0) l (sa.getD i oneVal) sb, !l.isEmpty))
    (acc.1.setRow tile (row + i) (ps.map (·.1.acc)),
     acc.2.1 || ps.any (fun p => p.2 && (fp32.decode p.1.acc).isNan), acc.2.2 || ps.any (·.1.inf))) (x, false, false)

/-- R224: the virtual addresses at which a step of `mma` reads its operands; their translations fill the leader core's TLB. -/
def mmaVas (ty kc mc row ch : Nat) (a b st : Word) (e : Option MExt) : List Nat :=
  let f := mmaFmts ty e
  let k := 128 * (kc + 1)
  let x := e.getD ⟨0, 0, false, false, 0, 0, 0⟩
  let rows := fun (base : Word) (stride n : Nat) (ms : List Nat) =>
    if isHandle base then [] else ms.flatMap (fun m => let va := base.toNat + m * stride + ch * n; [va, va + n - 1])
  let ra := (List.range 8).map (· + row)
  rows a (bits st 31 0) (rowBytes f.1.width 128) ra ++ rows b (bits st 63 32) (rowBytes f.2.width 128) (List.range 128) ++
  (if ty = 7 then
    (if x.sca == 0 then [] else ra.map (fun m => x.sca.toNat + m * (k / 32) + 4 * ch)) ++
    (if x.scb == 0 then [] else (List.range 128).map (fun m => x.scb.toNat + m * (k / 32) + 4 * ch))
   else if ty = 6 then ra.map (fun m => x.sca.toNat + 4 * (m * (kc + 1) + ch)) ++ [x.scb.toNat + 4 * ch]
   else []) ++
  (if x.bma then ra.map (fun m => x.bm.toNat + m * (k / 8) + 16 * ch) else []) ++
  (if x.bmb then (List.range 128).map (fun m => x.bm.toNat + (if x.bma then mcRows mc * (k / 8) else 0) + m * (k / 8) + 16 * ch) else [])

/-- One address for each 8 KiB unit of some addresses. -/
def unitVas (vas : List Nat) : List Nat := (dedup (vas.map (· / 8192))).map (· * 8192)

/-- Rows 0 to n − 1 of a tile set to +0. -/
def MCtx.zeroRows (x : MCtx) (tile n : Nat) : MCtx :=
  let mine := fun (k : Nat) => k / 128 == tile && decide (k % 128 < n)
  { x with rows := x.rows.filter (fun e => !mine e.1), bad := x.bad.filter (fun k => !mine k) }

/-- One tile step of an `mma` (R370, R374). -/
def State.mmaStep (s : State) (c ctx : Nat) (m : MCmd) (ty kc mc tile : Nat) (a b st : Word) (e : Option MExt) : State :=
  let x := s.mctx c ctx
  let m1 := { m with started := true, okA := true, okB := true }
  let s1 := s.setMctx c ctx (x.setHead m1)
  if x.badRows tile x.rowp then s1.cmdFailed c ctx m1 DATA_UNCORRECTABLE 0
  else
  match s1.mmaStepData m1 (unitMtx ctx) ty kc mc x.rowp x.chunkp a b st e with
  | .error g => s1.cmdBlocked c ctx m1 false g
  | .ok (ra, rb, sa, sb) =>
    let r := mmaRows x tile x.rowp ra rb sa sb
    let m2 := { m1 with nan := m1.nan || r.2.1, inf := m1.inf || r.2.2 }
    let s1 := s1.tlbFill m1.info.core m1.info.asid (unitVas (mmaVas ty kc mc x.rowp x.chunkp a b st e))
    let y := if x.chunkp = kc then { r.1 with rowp := x.rowp + 8, chunkp := 0 } else { r.1 with chunkp := x.chunkp + 1 }
    let s2 := s1.setMctx c ctx (y.setHead m2)
    if mcRows mc ≤ y.rowp then s2.cmdDone c ctx m2 else s2

/-- One row block of an `accld` (R371). -/
def State.accldStep (s : State) (c ctx : Nat) (m : MCmd) (tile mc : Nat) (base : Word) (stride : Nat) : State :=
  let x := s.mctx c ctx
  let m1 := { m with started := true, okA := true }
  let s1 := s.setMctx c ctx (x.setHead m1)
  let reads := (List.range 8).map (fun i =>
    s1.operandRead m.info.core (unitMtx ctx) m.info.asid m.info.launch base ((x.rowp + i) * stride) 512)
  match reads.find? (fun g => match g with | .ok .. => false | _ => true) with
  | some g => s1.cmdBlocked c ctx m1 false g
  | none =>
    let rows := reads.map (fun g => match g with
      | .ok bs _ _ _ => (List.range 128).map (fun n => ofLE ((bs.drop (4 * n)).take 4))
      | _ => [])
    let y := (List.range 8).foldl (fun z i => z.setRow tile (x.rowp + i) (rows.getD i [])) x
    let y' := { y with rowp := x.rowp + 8 }
    let vas := if isHandle base then [] else (List.range 8).flatMap (fun i => let va := base.toNat + (x.rowp + i) * stride; [va, va + 511])
    let s1 := s1.tlbFill m.info.core m.info.asid (unitVas vas)
    let s2 := s1.setMctx c ctx (y'.setHead m1)
    let nan := rows.any (fun row => row.any (fun v => (fp32.decode v).isNan))
    if mcRows mc ≤ y'.rowp then s2.cmdDone c ctx { m1 with nan := nan || m1.nan }
    else s2.setMctx c ctx (y'.setHead { m1 with nan := nan || m1.nan })

/-- An output element (R371): its bits and the statuses SAT, INF, NAN. -/
def ofmtElem (ofmt rm : Nat) (satp : Bool) (v : Nat) : Nat × Bool × Bool × Bool :=
  let fin := fun (f : Fmt) (r : FRes) =>
    (r.bits, r.fl &&& fSAT != 0, (r.fl &&& fOF != 0) || (f.decode r.bits).isInf, (f.decode r.bits).isNan)
  let env : FEnv := { rm := RM.ofCode rm, ftzi := false, ftzo := false, satp := satp }
  let conv := fun (f : Fmt) => fin f (f.narrow env (fp32.decode v))
  match ofmt with
  | 0 => (v, false, (fp32.decode v).isInf, (fp32.decode v).isNan)
  | 1 => conv bf16
  | 2 => conv fp16
  | 3 => conv e4m3
  | _ => conv e5m2

/-- The bytes of a row of at most 8 KiB cut where an 8 KiB unit ends, so that each piece is one access (R129). -/
def cutAtUnit (va : Nat) (bs : List Byte) : List (Nat × List Byte) :=
  let k := 8192 - va % 8192
  if bs.length ≤ k then [(va, bs)] else [(va, bs.take k), (va + k, bs.drop k)]

/-- Writes of several rows, all checked first so that a step is written as a whole (R374). -/
def State.writeRows (s : State) (c unit asid : Nat) (r : LaunchRef) (base : Word) (rows : List (Nat × List Byte)) : Except EGet State :=
  if isHandle base then
    match tileRef c r base (fun h => (s.core h).eng.pool) with
    | none => .error (.bad ACCESS_VIOLATION 0)
    | some (x, _, t) =>
      match t.judge x.gen .write false with
      | .go => .ok (rows.foldl (fun st w => st.tileWrite x.core x.key (x.off + w.1) w.2) s)
      | .overread => .error (.bad TILE_OVERREAD 0)
      | _ => .error (.bad TILE_STALE 0)
  else
    let pieces := rows.flatMap (fun w => cutAtUnit (base.toNat + w.1) w.2)
    let bad := pieces.findSome? (fun p =>
      match s.engWritable c asid p.1 p.2.length with
      | .ok .. => none
      | .bad code => some (EGet.bad code p.1)
      | .noLeaf l => some (.page p.1 l))
    match bad with
    | some g => .error g
    | none => .ok (pieces.foldl (fun st p =>
        match st.engWrite c unit r asid p.1 p.2 with
        | .ok st' => st'
        | _ => st) s)

/-- One row block of an `accst` (R371); it completes once its writes are performed. -/
def State.accstStep (s : State) (c ctx : Nat) (m : MCmd) (tile mc ofmt rm : Nat) (satp : Bool) (base : Word) (stride : Nat) : State :=
  let x := s.mctx c ctx
  let m1 := { m with started := true }
  let s1 := s.setMctx c ctx (x.setHead m1)
  if mcRows mc ≤ x.rowp then s1.cmdDone c ctx m1
  else if x.badRows tile x.rowp then s1.cmdFailed c ctx m1 DATA_UNCORRECTABLE 0
  else
    let size := ofmtBytes ofmt
    let es := (List.range 8).map (fun i => (x.row tile (x.rowp + i)).map (ofmtElem ofmt rm satp))
    let rows := es.mapIdx (fun i row => ((x.rowp + i) * stride, (row.map (fun v => leBytes size v.1)).flatten))
    match s1.writeRows m.info.core (unitMtx ctx) m.info.asid m.info.launch base rows with
    | .error g => s1.cmdBlocked c ctx m1 true g
    | .ok s2 =>
      let any := fun (f : Nat × Bool × Bool × Bool → Bool) => es.any (fun row => row.any f)
      let m2 := { m1 with nan := m1.nan || any (·.2.2.2), inf := m1.inf || any (·.2.2.1) }
      let vas := if isHandle base then [] else rows.flatMap (fun w => let va := base.toNat + w.1; [va, va + w.2.length - 1])
      let s2 := s2.tlbFill m.info.core m.info.asid (unitVas vas)
      let y := { (s2.mctx c ctx) with rowp := x.rowp + 8, sat := x.sat || any (·.2.1) }
      let s3 := s2.setMctx c ctx (y.setHead m2)
      if mcRows mc ≤ y.rowp && !(s3.core m.info.core).eng.asked (unitMtx ctx) then s3.cmdDone c ctx m2 else s3

/-- R371 `accrd`: the pairs of each seat land (R53). An uncorrectable error of a row that it reads is the context's first error when it has none (R129,
log 91). -/
def State.accrdStep (s : State) (c ctx : Nat) (m : MCmd) (tile : Nat) (seats : List (TileSeat × Nat)) : State :=
  let x := s.mctx c ctx
  let s1 := seats.foldl (fun st y =>
    let row := x.row tile (y.2 % 128)
    let j := natBits y.2 13 8
    st.landTile m.info.core m.train y.1 (BitVec.ofNat 64 (row.getD (2 * j) 0 + row.getD (2 * j + 1) 0 * 2 ^ 32))) s
  let s2 :=
    if x.code = 0 ∧ seats.any (fun y => x.bad.contains (128 * tile + y.2 % 128)) = true then
      s1.setMctx c ctx { s1.mctx c ctx with code := DATA_UNCORRECTABLE, faddr := 0 }
    else s1
  s2.popCmd c ctx m

/-- R372: a command that a context whose CODE is set discards. -/
def MCtx.discards (x : MCtx) (m : MCmd) : Bool :=
  !m.started && x.code != 0 && (match m.kind with | .mma .. | .accz .. | .accld .. | .accst .. => true | _ => false)

/-- R309, R365: whether the head command of a context waits for the seal of an operand's tile. -/
def State.cmdSeals (s : State) (x : MCtx) (m : MCmd) : Bool :=
  let c := m.info.core
  let r := m.info.launch
  !x.discards m &&
  (match m.kind with
   | .mma _ _ _ _ _ a b _ _ => (s.handleReady c r a m.okA).isNone || (s.handleReady c r b m.okB).isNone
   | .accld _ _ base _ => (s.handleReady c r base m.okA).isNone
   | _ => false)

/-- R361: PARKED: the running command waits for a page or a seal. -/
def State.parked (s : State) (x : MCtx) : Bool :=
  match x.queue with
  | m :: _ => m.pageWait.isSome || s.cmdSeals x m
  | [] => false

/-- Whether the head command of a context can run a step now: not parked, nothing outstanding at a peer, its handle operands sealed. -/
def State.cmdReady (s : State) (ctx : Nat) (x : MCtx) (m : MCmd) : Bool :=
  m.pageWait.isNone && !(s.core m.info.core).eng.asked (unitMtx ctx) && !s.cmdSeals x m

/-- The tile code a handle operand of a command met. -/
def State.cmdTileCode (s : State) (m : MCmd) : Option Nat :=
  let c := m.info.core
  let r := m.info.launch
  let code := fun (w : Word) (ok : Bool) => match s.handleReady c r w ok with | some (.error k) => some k | _ => none
  match m.kind with
  | .mma _ _ _ _ _ a b _ _ => match code a m.okA with | some k => some k | none => code b m.okB
  | .accld _ _ base _ => code base m.okA
  | _ => none

/-- R321: the operands that have passed their tiles' checks, each by itself: one that has counts once even if the other fails. -/
def State.cmdPassed (s : State) (m : MCmd) : MCmd :=
  let ok := fun (w : Word) (was : Bool) => match s.handleReady m.info.core m.info.launch w was with | some (.ok _) => true | _ => was
  match m.kind with
  | .mma _ _ _ _ _ a b _ _ => { m with okA := ok a m.okA, okB := ok b m.okB }
  | .accld _ _ base _ => { m with okA := ok base m.okA }
  | _ => m

/-- R370: an `mma` with ACC 0 zeroes its rows before it reads. -/
def MCtx.begin (x : MCtx) (m : MCmd) : MCtx :=
  match m.kind with
  | .mma _ _ mc acc tile .. => if m.started || acc then x else x.zeroRows tile (mcRows mc)
  | _ => x

/-- One step of the head command of a context (R358, R370 to R372, R374). ROWP and CHUNKP start anew with a command, but keep where a command has
failed until `mwait` reports it (R361, R373). -/
def State.runStep (s : State) (c ctx : Nat) (m0 : MCmd) : State :=
  let x0 := s.mctx c ctx
  if x0.discards m0 then (s.setMctx c ctx { x0 with disc := true }).popCmd c ctx m0
  else
    let x := if m0.started || x0.code != 0 then x0 else { x0 with rowp := 0, chunkp := 0 }.begin m0
    let s := s.setMctx c ctx x
    match m0.fault with
    | some (code, addr) => s.cmdFailed c ctx m0 code addr
    | none =>
      let m0 := s.cmdPassed m0
      match s.cmdTileCode m0 with
      | some k => s.cmdFailed c ctx m0 k 0
      | none =>
        match m0.kind with
        | .mma ty kc mc _ tile a b st e => s.mmaStep c ctx m0 ty kc mc tile a b st e
        | .accz tile => (s.setMctx c ctx (x.zeroRows tile 128)).cmdDone c ctx m0
        | .accld tile mc base stride => s.accldStep c ctx m0 tile mc base stride
        | .accst tile mc ofmt rm satp base stride _ => s.accstStep c ctx m0 tile mc ofmt rm satp base stride
        | .accrd tile seats => s.accrdStep c ctx m0 tile seats
        | _ => s.popCmd c ctx m0

/-- The head command of context i of a pair, when it can run a step. -/
def State.readyCmd (s : State) (p i : Nat) : Option MCmd :=
  match ((s.pair p).ctx i).queue.head? with
  | some m => if s.cmdReady i ((s.pair p).ctx i) m then some m else none
  | none => none

/-- R358: the context whose turn it is: the one that did not run the previous step, when it is ready. -/
def State.stepChoice (s : State) (p : Nat) : Option (Nat × MCmd) :=
  let other := 1 - (s.pair p).last
  match s.readyCmd p other with
  | some m => some (other, m)
  | none => (s.readyCmd p (1 - other)).map (fun m => (1 - other, m))

/-- R358: a pair performs one tile step; none when neither context is ready. -/
def State.tileStep (s : State) (p : Nat) : Option State :=
  match s.stepChoice p with
  | none => none
  | some (i, m) =>
    let s1 := s.runStep (2 * p) i m
    some (s1.setPair p { s1.pair p with last := i, stepCyc := some s1.cyc.toNat })

/-- R372: a waiting claim served; none when the context is owned or nobody waits. -/
def State.serveClaim (s : State) (p i : Nat) : Option State :=
  let x := (s.pair p).ctx i
  match x.owner, x.claims with
  | none, q :: rest =>
    match (s.core q.core).train? q.train with
    | some t => some (s.setMctx (2 * p) i { x.claimFor q.core q.frame t.launch with claims := rest })
    | none => some (s.setMctx (2 * p) i { x with claims := rest })
  | _, _ => none

/-- R359: a release that waited for its commands takes effect; none when there is none. -/
def State.serveRelease (s : State) (p i : Nat) : Option State :=
  let x := (s.pair p).ctx i
  if x.releasing && x.queue.isEmpty then some (s.releaseCtx (2 * p) i) else none

/-- Tile steps of one context until its queue is empty or it waits (R377). -/
def State.drainCtx (s : State) (c i : Nat) : Nat → State
  | 0 => s
  | fuel + 1 =>
    match s.readyCmd (pairOf c) i with
    | some m => State.drainCtx (s.runStep c i m) c i fuel
    | none => s

/-- Operations that a command's late results wait for. -/
def MKind.lateOps : MKind → List Nat
  | .accrd _ seats => seats.map (fun y => y.1.opId)
  | .tryClaim seats | .addr seats => seats.map (·.opId)
  | _ => []

/-- R359: a command that needs the ownership of its context. -/
def MKind.owning : MKind → Bool
  | .claim | .tryClaim _ | .addr _ => false
  | _ => true

/-- R377: one command of a timetable core performed in boundary step 3. One whose frame does not own the context any more faults with REASON 4
(R359). -/
def State.boundaryCmd (s : State) (c : Nat) (m : MCmd) : State :=
  let x := s.mctx c m.ctx
  if m.kind.owning && !x.ownedBy c m.frame then
    match m.kind with
    | .wait .. => s                                      -- its train tries again, and faults
    | _ => (s.endOp c m.opId).lateFault c m.info m.train m.kind.lateOps MTX_OPERAND 4 0
  else
  let land := fun (st : State) (seats : List TileSeat) (v : Word) => seats.foldl (fun u y => u.landTile c m.train y v) st
  match m.kind with
  | .claim =>
    if x.ownedBy c m.frame then s
    else if x.owner.isNone then s.setMctx c m.ctx (x.claimFor c m.frame m.info.launch)
    else s.setMctx c m.ctx { x with claims := x.claims ++ [⟨c, m.train, m.frame⟩] }
  | .tryClaim seats =>
    if x.ownedBy c m.frame then land s seats 1
    else if x.owner.isNone && x.claims.isEmpty then land (s.setMctx c m.ctx (x.claimFor c m.frame m.info.launch)) seats 1
    else land s seats 0
  | .put => (s.releaseCtx c m.ctx).serveClaim (pairOf c) m.ctx |>.getD (s.releaseCtx c m.ctx)
  | .addr seats => land s seats (BitVec.ofNat 64 x.faddr)
  | .wait a nf =>
    match (s.core c).train? m.train with
    | some t => s.mwaitReport c t m.ctx a nf
    | none => s
  | _ =>
    let x' := { x with seq := x.seq + 1, queue := x.queue ++ [{ m with seq := x.seq + 1 }] }
    (s.setMctx c m.ctx x').drainCtx c m.ctx 4096

end Sys2Proof.Machine
end

