-- ==== Sys2Proof/Machine/Bank.lean ====
section
/-!
DEFINITION. Class BANK and the bank engines (R378 to R390).
-/
namespace Sys2Proof.Machine

/-! ## Records (R382, R385) -/

def bkMagic (r : Nat) : Nat := natBits r 15 0
def bkWfmt (r : Nat) : Nat := natBits r 19 18
def bkXfmt (r : Nat) : Nat := natBits r 21 20
def bkBmx (r : Nat) : Bool := r.testBit 22
def bkAcc (r : Nat) : Bool := r.testBit 23
def bkK (r : Nat) : Nat := natBits r 63 32
/-- ROWS of `bgemv`, LEN of `bred`. -/
def bkRows (r : Nat) : Nat := natBits r 95 64
/-- WSTRIDE, PSTRIDE. -/
def bkStride (r : Nat) : Nat := natBits r 127 96
def bkWbase (r : Nat) : Nat := natBits r 184 128
/-- XADDR, PBASE. -/
def bkXaddr (r : Nat) : Nat := natBits r 248 192
def bkYaddr (r : Nat) : Nat := natBits r 312 256
def bkScw (r : Nat) : Nat := natBits r 376 320
def bkScx (r : Nat) : Nat := natBits r 440 384
def bkXbm (r : Nat) : Nat := natBits r 504 448
def bkNpart (r : Nat) : Nat := natBits r 28 24

/-- R379: bytes of a weight row. -/
def bkRowBytes (r : Nat) : Nat :=
  match bkWfmt r with
  | 0 => 2 * bkK r
  | 1 => bkK r
  | _ => bkK r / 2

/-- Bytes of an x element (R382). -/
def bkXsize (r : Nat) : Nat :=
  match bkXfmt r with
  | 0 => 4 | 1 => 2 | _ => 1

def allBelow (xs : List Nat) : Bool := xs.all (fun x => decide (x ≤ 2 ^ 57))

/-- R386: the REASON of a `bgemv` record; 0 when it is accepted. -/
def gemvReason (r : Nat) : Nat :=
  if bkMagic r != 0x4247 || natBits r 511 505 != 0 || natBits r 447 441 != 0 || natBits r 383 377 != 0 || natBits r 319 313 != 0 ||
      natBits r 255 249 != 0 || natBits r 191 185 != 0 || natBits r 31 24 != 0 || natBits r 17 16 != 0 then 1
  else if bkRows r == 0 || decide (65536 < bkRows r) || bkK r == 0 || decide (65536 < bkK r) || bkK r % 128 != 0 then 2
  else if bkWfmt r == 3 || bkXfmt r == 3 || (bkXfmt r == 2 && bkWfmt r != 1) || ((bkScw r == 0) == (bkWfmt r == 1)) ||
      ((bkScx r == 0) == (bkXfmt r == 2)) || ((bkXbm r == 0) == bkBmx r) then 3
  else if bkWbase r % 64 != 0 || bkStride r % 64 != 0 || bkXaddr r % 16 != 0 || bkYaddr r % 16 != 0 || bkXbm r % 16 != 0 ||
      bkScw r % 4 != 0 || bkScx r % 4 != 0 then 4
  else if !allBelow [bkWbase r + (bkRows r - 1) * bkStride r + bkRowBytes r, bkXaddr r + bkK r * bkXsize r, bkYaddr r + 4 * bkRows r,
      bkScw r + 4 * ((bkRows r - 1) / 128 * (bkK r / 128) + bkK r / 128), bkScx r + bkK r / 32, bkXbm r + bkK r / 8] then 5
  else 0

/-- R386: the REASON of a `bred` record. -/
def redReason (r : Nat) : Nat :=
  if bkMagic r != 0x4252 || natBits r 511 313 != 0 || natBits r 255 249 != 0 || natBits r 191 128 != 0 || natBits r 63 29 != 0 ||
      natBits r 22 16 != 0 then 1
  else if bkRows r == 0 || decide (65536 < bkRows r) then 2
  else if bkXaddr r % 16 != 0 || bkYaddr r % 16 != 0 || bkStride r % 16 != 0 then 4
  else if !allBelow [bkXaddr r + bkNpart r * bkStride r + 4 * bkRows r, bkYaddr r + 4 * bkRows r] then 5
  else 0

/-- R386: the features a record needs. -/
def State.bankFeature (s : State) (l : LaunchRef) (r : Nat) (red : Bool) : Bool :=
  red || (!((bkWfmt r == 1 || bkXfmt r == 2) && !s.featOn l 7) && !(bkWfmt r == 2 && !s.featOn l 6) && !(bkBmx r && !s.featOn l 5))

/-! ## Issue (R380, R386) -/

def CoreEngines.bank? (e : CoreEngines) (slot : Nat) : Option BankOp := e.banks.find? (fun b => b.slot == slot)
def State.setBank (s : State) (c : Nat) (b : BankOp) : State :=
  s.updEng c (fun e => { e with banks := e.banks.map (fun x => if x.slot == b.slot then b else x) })
def CoreEngines.freeBank (e : CoreEngines) : Option Nat := (List.range 64).find? (fun i => (e.bank? i).isNone)

/-- R386: one seat of `bgemv` or `bred`. -/
def State.bankSeat (s : State) (c : Nat) (t : Train) (red : Bool) (a : Nat) (x : Seat) : State × Train :=
  let w := t.slot x.n t.pc .l
  match s.spAccess c t.launch w 64 with
  | .error code => s.takeFault c t x code 0 0 w.toNat t.pc
  | .ok (k, off) =>
    match s.winGet c t k off 64 with
    | .error code => s.takeFault c t x code 0 0 w.toNat t.pc
    | .ok bs =>
    let r := ofLE bs
    let reason := if red then redReason r else gemvReason r
    if !s.bankFeature t.launch r red then s.takeFault c t x FEATURE_OFF 0 0 0 t.pc
    else if reason != 0 then s.takeFault c t x ILLEGAL_FORMAT 0 reason 0 t.pc
    else
      match (s.core c).eng.freeBank with
      | none => (s, t)
      | some slot =>
        let seq := (NMap.getD (s.core c).eng.bankSeq slot 0 + 1) % 65536
        let n := s.newOp c
        let d := (n.2.startOp c t.uid 22 4 n.1).draw
        let b : BankOp :=
          { slot := slot, seq := seq, info := s.seatInfo c t x 0 0 0 0 t.pc, frame := x.inst.handle, opId := n.1,
            tt := s.inTT t.launch, red := red, recd := r, row := 0, nan := false, inf := false, pageWait := none, fault := none,
            done := false, orphan := false, due := s.cyc.toNat + 1 + Config.latency d.1 }
        let s1 := d.2.updEng c (fun e => { e with banks := e.banks ++ [b], bankSeq := NMap.set e.bankSeq slot seq })
        s1.giveSeat c t x a (idWord c seq slot) 0

/-- R386: the train holds until every earlier store has drained and a slot is free for every active seat. -/
def bankInstr (s : State) (red : Bool) (a : Nat) : Host.Outcome State Fault Refusal :=
  withTrain s (fun c t0 =>
    match s.prepare c t0 with
    | .hold s' => .next s'
    | .go s0 t =>
      afterWrites s0 c t 63 (fun s1 =>
        if 64 < (s1.core c).eng.banks.length + t.seats.length then .next (s1.holdTrain c t .engine)
        else
          let r := s1.actSeats c t (t.seats.map (fun x => (x, ()))) (fun st tr x _ => st.bankSeat c tr red a x)
          .next ((r.1.putTrain c r.2).retireUid c t.uid)))

/-- R383 `bgemv`. -/
def execBgemv (a : BitVec 8) (s : State) : Host.Outcome State Fault Refusal := bankInstr s false a.toNat

/-- R385 `bred`. -/
def execBred (a : BitVec 8) (s : State) : Host.Outcome State Fault Refusal := bankInstr s true a.toNat

/-- R389 `bfence`: a fence with BEFORE = AFTER = L and B. -/
def execBfence (sc : BitVec 3) (s : State) : Host.Outcome State Fault Refusal :=
  fenceInstr s sc.toNat 17

/-- R388: the status word. -/
def BankOp.status (b : BankOp) : Nat :=
  2 ^ 63 + (b.fault.map (·.1)).getD 0 * 2 ^ 40 + b2n b.inf * 2 ^ 33 + b2n b.nan * 2 ^ 32 + b.row % 2 ^ 17

/-- The operation an id word names (R388). -/
def State.bankNamed (s : State) (c : Nat) (w : Word) : Option BankOp :=
  match (s.core c).eng.bank? (bits w 5 0) with
  | some b => if bits w 42 32 = c ∧ bits w 31 16 = b.seq then some b else none
  | none => none

/-- R388: one seat of `bwait` whose operation has completed. -/
def State.bwaitSeat (s : State) (c : Nat) (t : Train) (nf : Bool) (a : Nat) (x : Seat) : State × Train :=
  let give := fun (st : State) (v : Word) => st.giveSeat c t x a v 22
  match s.bankNamed c (t.slot x.n t.pc .l) with
  | none => give s 0
  | some b =>
    let s1 := s.updEng c (fun e => { e with banks := e.banks.filter (fun y => y.slot != b.slot) })
    match b.fault with
    | some (code, addr) => if nf then give s1 (BitVec.ofNat 64 b.status) else s1.takeFault c t x code 0 b.status addr t.pc
    | none => give s1 (BitVec.ofNat 64 b.status)

/-- R388 `bwait`. -/
def execBwait (a : BitVec 8) (n : BitVec 1) (s : State) : Host.Outcome State Fault Refusal :=
  withTrain s (fun c t0 =>
    match s.prepare c t0 with
    | .hold s' => .next s'
    | .go s0 t =>
      let waits := t.seats.any (fun x => match s0.bankNamed c (t.slot x.n t.pc .l) with | some b => !b.done | none => false)
      if waits then .next (s0.holdTrain c t .engine)
      else
        let r := s0.actSeats c t (t.seats.map (fun x => (x, ()))) (fun st tr x _ => st.bwaitSeat c tr (n == 1) a.toNat x)
        .next ((r.1.putTrain c r.2).retireUid c t.uid))

/-! ## The engines at work (R378, R379, R383, R385, R387) -/

/-- R129: the failing address of an access of n bytes: the first byte that lies in a granule with an uncorrectable error. -/
def State.failAt (s : State) (c asid va n : Nat) : Nat :=
  va + ((List.range n).find? (fun d => match s.clusterAcc c asid (va + d) 1 .read with
    | .bad code => code == DATA_UNCORRECTABLE
    | _ => false)).getD 0

/-- n bytes for a bank operation: no REMOTE page (R387). -/
def State.bankRead (s : State) (c asid va n : Nat) : EGet :=
  match s.clusterAcc c asid va n .read with
  | .bad code => .bad code (if code = DATA_UNCORRECTABLE then s.failAt c asid va n else va)
  | .noLeaf l => .page va l
  | .ok pa leaf base size => if leafRemote leaf then .bad ACCESS_VIOLATION va else .ok (s.mem.read pa n) leaf base size

/-- n bytes within 8 KiB pieces. -/
def State.bankSpan (s : State) (c asid : Nat) : Nat → Nat → Nat → Except EGet (List Byte)
  | 0, _, _ => .ok []
  | fuel + 1, va, n =>
    if n = 0 then .ok []
    else
      let k := Nat.min n (8192 - va % 8192)
      match s.bankRead c asid va k with
      | .ok bs _ _ _ =>
        match State.bankSpan s c asid fuel (va + k) (n - k) with
        | .ok rest => .ok (bs ++ rest)
        | .error e => .error e
      | e => .error e

/-- A weight row with the scales of its MX blocks (R378, R379). -/
def State.weightRow (s : State) (c asid r n : Nat) : Except EGet (List Byte × List Nat) :=
  let va := bkWbase r + n * bkStride r
  let rb := bkRowBytes r
  match s.clusterAcc c asid va 1 .read with
  | .bad code => .error (.bad code va)
  | .noLeaf l => .error (.page va l)
  | .ok pa leaf base size =>
    let off := va - base
    let slice := size / 32
    let want := if bkWfmt r = 2 then 2 else 1
    if leafLayout leaf != want || slice == 0 || decide (size < off + rb) || off / slice != (off + rb - 1) / slice then
      .error (.bad BANK_LAYOUT va)
    else if !physOk pa rb then .error (.bad ACCESS_VIOLATION va)
    else if granuleBad s.bad pa rb then
      .error (.bad DATA_UNCORRECTABLE (va + ((List.range rb).find? (fun d => granuleBad s.bad (pa + d) 1)).getD 0))
    else
      let data := s.mem.read pa rb
      if bkWfmt r = 2 then
        let sv := (base : Int) + leafMXS leaf * 8192 + (off / 16 : Nat)
        if sv < 0 then .error (.bad ACCESS_VIOLATION va)
        else
          match s.bankSpan c asid (rb / 16 / 8192 + 2) sv.toNat (rb / 16) with
          | .ok bs => .ok (data, bs.map (·.toNat))
          | .error e => .error e
      else .ok (data, [])

/-- The x vector with bitmap and scales (R383). -/
structure BankX where
  vals : List FVal
  counted : List Bool
  scales : List FVal

def State.bankX (s : State) (c asid r : Nat) : Except EGet BankX :=
  let k := bkK r
  let f : Fmt := match bkXfmt r with | 0 => fp32 | 1 => bf16 | _ => e4m3
  match s.bankSpan c asid (k * bkXsize r / 8192 + 2) (bkXaddr r) (k * bkXsize r) with
  | .error e => .error e
  | .ok bs =>
    let z := bkXsize r
    let vals := (List.range k).map (fun i => f.decode (ofLE ((bs.drop (z * i)).take z)))
    let bm := if bkBmx r then s.bankSpan c asid 4 (bkXbm r) (k / 8) else .ok []
    let sc := if bkXfmt r = 2 then s.bankSpan c asid 3 (bkScx r) (k / 32) else .ok []
    match bm, sc with
    | .ok b, .ok c =>
      .ok ⟨vals, (List.range k).map (fun i => !bkBmx r || (b.getD (i / 8) 0).toNat.testBit (i % 8)),
        (List.range (k / 128)).map (fun i => if bkXfmt r = 2 then fp32.decode (ofLE ((c.drop (4 * i)).take 4)) else oneVal)⟩
    | .error e, _ => .error e
    | _, .error e => .error e

/-- R383: one row, and whether a rounding overflowed. -/
def State.gemvRow (s : State) (c asid r n : Nat) (x : BankX) : Except EGet (Nat × Bool) :=
  match s.weightRow c asid r n with
  | .error e => .error e
  | .ok (data, scales) =>
    let f : ElemFmt := match bkWfmt r with | 0 => .flt bf16 | 1 => .flt e4m3 | _ => .flt e2m1
    let d := ofLE data
    let w := fun (k : Nat) =>
      let raw := packedElem f d k
      if bkWfmt r = 2 then mxValue f raw (scales.getD (k / 32) 255) else f.value raw
    let sb := if bkWfmt r = 1 then s.bankSpan c asid 3 (bkScw r + 4 * (n / 128 * (bkK r / 128))) (bkK r / 32) else .ok []
    let y0 := if bkAcc r then s.bankSpan c asid 2 (bkYaddr r + 4 * n) 4 else .ok []
    match sb, y0 with
    | .ok sw, .ok y =>
      .ok ((List.range (bkK r / 128)).foldl (fun (acc : Nat × Bool) c =>
        let ps := (List.range 128).filterMap (fun j =>
          let k := 128 * c + j
          if x.counted.getD k false then some (x.vals.getD k (.nan false), w k) else none)
        let sB := if bkWfmt r = 1 then fp32.decode (ofLE ((sw.drop (4 * c)).take 4)) else oneVal
        let p := promote acc.1 ps (x.scales.getD c oneVal) sB
        (p.acc, acc.2 || p.ovf)) (ofLE y, false))
    | .error e, _ => .error e
    | _, .error e => .error e

/-- R385: one element of `bred`: the bits, and whether a rounding overflowed. -/
def State.redElem (s : State) (c asid r n : Nat) : Except EGet (Nat × Bool) :=
  let addrs := (if bkAcc r then [bkYaddr r + 4 * n] else []) ++
    (List.range (bkNpart r + 1)).map (fun p => bkXaddr r + p * bkStride r + 4 * n)
  let vs := addrs.foldl (fun (acc : Except EGet (List Nat)) a =>
    match acc with
    | .error e => .error e
    | .ok l =>
      match s.bankSpan c asid 2 a 4 with
      | .ok bs => .ok (l ++ [ofLE bs])
      | .error e => .error e) (.ok [])
  match vs with
  | .error e => .error e
  | .ok [] => .ok (0, false)
  | .ok (v :: rest) =>
    .ok (rest.foldl (fun (acc : Nat × Bool) w => let x := fp32.add envRNE acc.1 w; (x.bits, acc.2 || (x.fl &&& fOF != 0))) (v, false))

/-- A result written to y[n]: one single-copy atomic write (R383, R387). -/
def State.bankWrite (s : State) (c asid va v : Nat) : Except EGet State :=
  match s.clusterAcc c asid va 4 .write with
  | .bad code => .error (.bad code va)
  | .noLeaf l => .error (.page va l)
  | .ok pa leaf _ _ =>
    if leafRemote leaf || leafIMM leaf then .error (.bad ACCESS_VIOLATION va) else .ok { s with mem := s.mem.writeNat pa 4 v }

/-- A row's outcome: written, an error, or a hold for a page (R387). -/
def State.bankRow (s : State) (c : Nat) (b : BankOp) (res : Except EGet (Nat × Bool)) : State × BankOp × RunEnd :=
  let block := fun (g : EGet) (kind : Nat) =>
    match g with
    | .bad code addr => (s, { b with fault := some (code, addr), done := true }, RunEnd.failed)
    | .page va _ => (s.engPage c b.info.launch b.info.asid va kind 4, { b with pageWait := some va }, RunEnd.held)
    | _ => (s, b, RunEnd.held)
  match res with
  | .error g => block g 1
  | .ok (v, ov) =>
    match s.bankWrite c b.info.asid (bkYaddr b.recd + 4 * b.row) v with
    | .error g => block g 2
    | .ok s1 =>
      let d := fp32.decode v
      (s1, { b with row := b.row + 1, nan := b.nan || d.isNan, inf := b.inf || ov || d.isInf }, .done)

/-- Rows or elements in ascending order until one does not complete. -/
def State.bankRun (s : State) (c : Nat) (b : BankOp) (x : Option BankX) : Nat → State × BankOp × RunEnd
  | 0 => (s, { b with done := true }, .done)
  | n + 1 =>
    let res := match x with
      | some v => s.gemvRow c b.info.asid b.recd b.row v
      | none => s.redElem c b.info.asid b.recd b.row
    match s.bankRow c b res with
    | (s', b', .done) => s'.bankRun c b' x n
    | r => r

/-- R388: a completed operation whose frame is gone: the slot is freed, and an uncollected error recorded. -/
def State.bankCollect (s : State) (c : Nat) (b : BankOp) : State :=
  let s1 := s.updEng c (fun e => { e with banks := e.banks.filter (fun y => y.slot != b.slot) })
  match b.fault with
  | some (code, addr) => s1.faultNow { b.info with code := code, detail := b.status, addr := addr, source := 2 }
  | none => s1

/-- A bank operation runs and completes (R383, R385, R387), or holds at a row; none when it cannot act. A completed one whose frame has been
freed gives up its slot. -/
def State.bankComplete (s : State) (c slot : Nat) : Option State :=
  match (s.core c).eng.bank? slot with
  | none => none
  | some b =>
    if b.done then (if b.orphan then some (s.bankCollect c b) else none)
    else if b.pageWait.isSome then none
    else
      let finish := fun (r : State × BankOp × RunEnd) =>
        let s1 := r.1.setBank c r.2.1
        if r.2.1.done then s1.endOp c b.opId else s1
      if b.fault.isSome then some (finish (s, { b with done := true }, .failed))
      else if b.red then some (finish (s.bankRun c b none (bkRows b.recd - b.row)))
      else
        match s.bankX c b.info.asid b.recd with
        | .ok x => some (finish (s.bankRun c b (some x) (bkRows b.recd - b.row)))
        | .error (.bad code addr) => some (finish (s, { b with fault := some (code, addr), done := true }, .failed))
        | .error (.page va _) =>
          some (finish (s.engPage c b.info.launch b.info.asid va 1 4, { b with pageWait := some va }, .held))
        | .error _ => none

end Sys2Proof.Machine
end

