-- ==== Sys2Proof/Machine/Carry.lean ====
section
/-!
DEFINITION. Class CARRY: the meanings of its instructions (R195, R202, R206).
-/
namespace Sys2Proof.Machine

/-- What one seat of an instruction comes to: a new state with a result, or a fault with DETAIL and ADDR. -/
inductive SeatRes where
  | done (s : State) (out : LaneOut)
  | fault (code detail addr : Nat)
  | miss (va : Nat)
  | busy                    -- a lent slot is not free yet (R204)

/-- A seat's fault: its code, DETAIL and ADDR. -/
abbrev SeatFault := Seat × Nat × Nat × Nat

/-- The faults of several seats of an instruction, in ascending seat order (R265). -/
def State.raiseSeats (s : State) (c : Nat) (t : Train) (fs : List SeatFault) : State × Train :=
  (sortBy (fun (a b : SeatFault) => decide (a.1.n ≤ b.1.n)) fs).foldl (fun (p : State × Train) x =>
    p.1.takeFault c p.2 x.1 x.2.1 0 x.2.2.1 x.2.2.2 t.pc) (s, t)

/-- Seats act one after another in a given order; those that fault then leave the train (R181, R265). Addresses that miss the TLB are collected,
with none for a lent slot that is not free: the train then holds and the instruction performs anew. -/
def State.eachSeat (s : State) (c : Nat) (t : Train) (f : State → Seat → SeatRes) :
    List Seat → List (Seat × LaneOut) → List (Option Nat) → List SeatFault → State × Train × List (Seat × LaneOut) × List (Option Nat)
  | [], outs, ms, fs => let r := s.raiseSeats c t fs; (r.1, r.2, outs, ms)
  | x :: xs, outs, ms, fs =>
    match f s x with
    | .done s' o => State.eachSeat s' c t f xs (outs ++ [(x, o)]) ms fs
    | .fault code detail addr => State.eachSeat s c t f xs outs ms (fs ++ [(x, code, detail, addr)])
    | .miss va => State.eachSeat s c t f xs outs (ms ++ [some va]) fs
    | .busy => State.eachSeat s c t f xs outs (ms ++ [none]) fs

/-- The train holds for what its seats have missed: translations, or a lent slot. -/
def State.carryHold (s : State) (c : Nat) (t : Train) (ms : List (Option Nat)) : State :=
  let vas := ms.filterMap id
  if vas.isEmpty then s.holdTrain c t .lent else s.missHold c t (vas.map (fun va => (va, 1, 0)))

/-- R194, R195: the register L names, when it lies below CARRY_COUNT. -/
def carryIdx (s : State) (c : Nat) (t : Train) (x : Seat) : Option Nat :=
  let n := (t.slot x.n t.pc .l).toNat
  if n < (s.frame c x.inst.handle).carryCount then some n else none

/-- A register's value for a reader: its value, with the replays that gave it; or nothing while it is empty or its replay has not ended, with
what is to be replayed (R191, R203). -/
inductive RegRead where
  | val (v : Word) (f : Frame) (n : Nat)
  | wait (x : Option Replay)
  | fault (detail : Nat)
  | err                     -- its granule has an uncorrectable error (R129)

/-- R203: a replayed value is stored back once its slot is free; a replay whose load misses the TLB ends later. -/
def State.readReg (s : State) (c h g : Nat) : RegRead :=
  let f := s.frame c h
  if !f.full g then .wait none
  else
    match f.binding? g with
    | some b =>
      if b.dropped then
        let x := s.replayOf c f b
        match s.rebuild c h [] f x with
        | .ok v _ => .val v ((s.core c).storeReplay h f g v) 1
        | .miss _ => .wait (some x)
        | .fail _ va _ => .fault (recipeDetail g va)
      else if (s.core c).regErr f g then .err else .val (f.reg g) f 0
    | none => if (s.core c).regErr f g then .err else .val (f.reg g) f 0

/-- R195: the late delivery of an indexed read to one seat: of its value, or once the register fills or its replay ends. -/
def State.gldxSeat (s : State) (c : Nat) (t : Train) (x : Seat) (g : Nat) (targets : List Nat) : State × Train :=
  match s.readReg c x.inst.handle g with
  | .val v f n => (s.setPrepared c x.inst.handle f n).issueLate c t x targets (targets.map (fun b => (b, v))) v 0 0 6 .own
  | r =>
    let n := s.newOp c
    let regs := t.writeRegs
    let replay := match r with | .wait y => y | _ => none
    let w : RegWait := ⟨x.inst.handle, g, t.uid, x.n, t.pc, replay, targets, regs, n.1⟩
    let s1 := (n.2.updCore c (fun k => { k with regWaits := k.regWaits ++ [w] })).startOp c t.uid 0 6 n.1
    (regs.foldl (fun st r => st.pendReg c t x r n.1) s1, targets.foldl (fun u b => u.pendOn x.n b n.1) t)

/-- R195 `gldx`: delivers the register L names; late, pending while the register is empty, replayed first when dropped. -/
def execGldx (a b : BitVec 8) (s : State) : Host.Outcome State Fault Refusal :=
  withTrain s (fun c t =>
    match s.prepare c t with
    | .hold s' => .next s'
    | .go s1 t1 =>
      let chk := s1.eachSeat c t1 (fun st x =>
        match carryIdx st c t1 x with
        | none => .fault CARRY_RANGE (t1.slot x.n t1.pc .l).toNat 0
        | some g =>
          match st.readReg c x.inst.handle g with
          | .fault d => .fault RECIPE_FAULT d 0
          | .err => .fault DATA_UNCORRECTABLE 0 0
          | _ => .done st ⟨0, 0⟩) (seatsByTag s1 c t1.seats) [] [] []
      let r := (chk.2.2.1.map (·.1)).foldl (fun (p : State × Train) x =>
        match carryIdx p.1 c t1 x with
        | some g => p.1.gldxSeat c p.2 x g [a.toNat, b.toNat]
        | none => p) (chk.1, chk.2.1)
      .next ((r.1.putTrain c r.2).retireUid c t1.uid))

/-- R195, R204: an indexed write by one seat: the write is prepared, then `w` makes it. -/
def indexedWrite (c : Nat) (t : Train) (w : State → Seat → Nat → State) (st : State) (x : Seat) : SeatRes :=
  match carryIdx st c t x with
  | none => .fault CARRY_RANGE (t.slot x.n t.pc .l).toNat 0
  | some g =>
    match st.prepWrite c x.inst.handle t.failed (st.frame c x.inst.handle) g false with
    | .miss va => .miss va
    | .fault d => .fault RECIPE_FAULT d 0
    | .busy => .busy
    | .ok f n => .done (w (st.setPrepared c x.inst.handle f n) x g) ⟨0, 0⟩

/-- Seats of an instruction without a result act in tag order (R193); the train holds when a load of a replay misses. -/
def writeInstr (s : State) (f : Nat → Train → State → Seat → SeatRes) : Host.Outcome State Fault Refusal :=
  withTrain s (fun c t =>
    let r := s.eachSeat c t (f c t) (seatsByTag s c t.seats) [] [] []
    if r.2.2.2.isEmpty then .next ((r.1.putTrain c r.2.1).retireUid c t.uid)
    else .next (s.carryHold c t r.2.2.2))

/-- R195 `gstx`: gn := R, FULL := 1. -/
def execGstx (s : State) : Host.Outcome State Fault Refusal :=
  writeInstr s (fun c t => indexedWrite c t (fun st x g => st.issueWrite c t x.inst.handle g (t.slot x.n t.pc .r)))

/-- The register emptied, its value unspecified: a free value (R195, log 12). -/
def State.emptyReg (s : State) (c : Nat) (t : Train) (h g : Nat) : State :=
  if s.overtaken c t h g then s
  else
    let d := s.draw
    (d.2.updFrame c h (fun f =>
      let f1 := { f with regs := NMap.set f.regs g (Config.freeWord d.1), writer := NMap.erase f.writer g }
      f1.empty g)).noteWrite c t h g

/-- R195 `gempty`: FULL := 0, the value unspecified. -/
def execGempty (s : State) : Host.Outcome State Fault Refusal :=
  writeInstr s (fun c t => indexedWrite c t (fun st x g => st.emptyReg c t x.inst.handle g))

/-- R195: bit 0 FULL, bit 1 recipe-tagged, bit 2 dropped. -/
def gtestWord (f : Frame) (g : Nat) : Word :=
  let tagged := (f.binding? g).isSome
  let dropped := (f.binding? g).any (·.dropped)
  BitVec.ofNat 64 (b2n (f.full g) + 2 * b2n tagged + 4 * b2n dropped)

/-- R195 `gtest`: delivers the state of the register L names, in its issue cycle. -/
def execGtest (a b : BitVec 8) (s : State) : Host.Outcome State Fault Refusal :=
  withTrain s (fun c t =>
    match s.prepare c t with
    | .hold s' => .next s'
    | .go s1 t1 =>
      let r := s1.eachSeat c t1 (fun st x =>
        match carryIdx st c t1 x with
        | none => .fault CARRY_RANGE (t1.slot x.n t1.pc .l).toNat 0
        | some g => .done st ⟨gtestWord (st.frame c x.inst.handle) g, 0⟩) t1.seats [] [] []
      .next (r.1.finishLanes c r.2.1 [a.toNat, b.toNat] r.2.2.1))

/-- A fault raised for every active seat of a frame (R202). -/
def frameFaults (t : Train) (h code detail addr : Nat) : List SeatFault :=
  (t.seats.filter (fun x => x.inst.handle == h)).map (fun x => (x, code, detail, addr))

/-- Outcome of the action for one frame. -/
inductive FrameRes where
  | done (s : State) (out : LaneOut)
  | fault (code detail addr : Nat)
  | miss (va : Nat)
  | wait (h : Hold)

/-- R205: DETAIL of `RECIPE_SOURCE`. -/
def sourceDetail (reason reg : Nat) : Nat := reason + reg * 256

/-- R202: the first check of `rcpset` that fails, with its DETAIL. -/
def State.rcpCheck (s : State) (c : Nat) (f : Frame) (g : Nat) (srcs : List Nat) : Option Nat :=
  match srcs.find? (fun x => (f.binding? x).isSome) with
  | some x => some (sourceDetail 1 x)
  | none =>
    if srcs.contains g then some (sourceDetail 2 g)
    else if (s.dependants c f g).any (fun b => b.reg != g) then some (sourceDetail 2 g)
    else if (f.binding? g).isSome || decide (f.binds.length < 16) then none
    else some (sourceDetail 3 g)

/-- R70, R198: whether an operation of a recipe needs a feature that is not effective for a launch. -/
def State.recipeOff (s : State) (r : LaunchRef) (body : List IWord) : Bool :=
  ((body.drop 1).take (natBits (body.getD 0 0).toNat 27 26 + 1)).any (fun w =>
    let n := w.toNat
    match decodeWord (natBits n 31 28) (BitVec.ofNat 32 (natBits n 27 20 * 2 ^ 24 + natBits n 7 0)) with
    | .ok (.cvt _ _ _ k) => cvtNeedsFP64 k.toNat && !s.featOn r 10
    | .ok (.cvtsc ..) => !s.featOn r 6
    | _ => false)

/-- R202: `rcpset` for one frame. -/
def State.rcpsetFrame (s : State) (c : Nat) (t : Train) (rcp g h : Nat) : FrameRes :=
  let f := s.frame c h
  let body := ((s.core c).recipe? f.asid f.prog rcp).getD []
  let srcs := rcpSources body
  if f.carryCount ≤ g then .fault CARRY_RANGE g 0
  else
    match srcs.find? (fun x => decide (f.carryCount ≤ x)) with
    | some x => .fault CARRY_RANGE x 0
    | none =>
      match s.rcpCheck c f g srcs with
      | some d => .fault RECIPE_SOURCE d 0
      | none =>
        if srcs.any (fun x => !f.full x && (NMap.get? f.writer x).isSome) then .wait .source
        else
          match srcs.find? (fun x => !f.full x) with
          | some x => .fault RECIPE_SOURCE (sourceDetail 5 x) 0
          | none =>
            let mode := f.mode &&& 0xF7#64
            if s.recipeOff t.launch body then .fault FEATURE_OFF 0 0
            else match s.rcpEval c h t.failed f body mode with
            | .miss va => .miss va
            | .fail 0 _ _ => .fault DATA_UNCORRECTABLE 0 0
            | .fail reason va reg => .fault RECIPE_SOURCE (sourceDetail reason reg) va
            | .ok v fl =>
              match s.prepWrite c h t.failed f g true with
              | .miss va => .miss va
              | .fault d => .fault RECIPE_FAULT d 0
              | .busy => .wait .lent
              | .ok f1 n =>
                let bs := f1.binds.filter (fun b => b.reg != g) ++ (if s.overtaken c t h g then [] else [⟨g, rcp, false, mode, none⟩])
                .done ((s.setPrepared c h { f1 with binds := bs } n).issueWrite c t h g v) ⟨v, fl⟩

/-- Why an instruction that acts by frames holds its train. -/
inductive FrameStop where
  | miss (va : Nat)
  | wait (h : Hold)

/-- Frames act one after another; the seats of those that fault then leave the train in seat order. -/
def State.eachFrame (s : State) (c : Nat) (t : Train) (f : State → Nat → FrameRes) :
    List Nat → List (Nat × LaneOut) → List SeatFault → Except FrameStop (State × Train × List (Nat × LaneOut))
  | [], outs, fs => let r := s.raiseSeats c t fs; .ok (r.1, r.2, outs)
  | h :: hs, outs, fs =>
    match f s h with
    | .done s' v => State.eachFrame s' c t f hs (outs ++ [(h, v)]) fs
    | .fault code detail addr => State.eachFrame s c t f hs outs (fs ++ frameFaults t h code detail addr)
    | .miss va => .error (.miss va)
    | .wait h => .error (.wait h)

/-- An instruction that acts once for each frame among its active seats (R202, R206). -/
def frameInstr (s : State) (f : Nat → Train → State → Nat → FrameRes)
    (fin : Nat → State → Train → List (Nat × LaneOut) → State) : Host.Outcome State Fault Refusal :=
  withTrain s (fun c t =>
    match s.prepare c t with
    | .hold s' => .next s'
    | .go s1 t1 =>
      match s1.eachFrame c t1 (f c t1) t1.handles [] [] with
      | .error (.miss va) => .next (s1.missHold c t1 [(va, 1, 0)])
      | .error (.wait h) => .next (s1.holdTrain c t1 h)
      | .ok (s2, t2, outs) => .next (fin c s2 t2 outs))

/-- R202 `rcpset`: tags a register with a recipe and sets its value; target A receives the value, late (R53), and the flags of the evaluation reach
MODE with it (R88). -/
def execRcpset (a : BitVec 8) (rcp : BitVec 8) (g : BitVec 7) (s : State) : Host.Outcome State Fault Refusal :=
  frameInstr s (fun c t st h => st.rcpsetFrame c t rcp.toNat g.toNat h)
    (fun c st t outs => st.issueLates c t [a.toNat] 0 6 .own (t.seats.filterMap (fun x =>
      (outs.find? (fun o => o.1 == x.inst.handle)).map (fun o => (x, o.2)))))

/-- R206 `rcpdrop`: sets DROPPED on the register's binding; nothing on an untagged register. The
spec gives CARRY_RANGE no DETAIL here: REG (log 18). -/
def execRcpdrop (g : BitVec 7) (s : State) : Host.Outcome State Fault Refusal :=
  frameInstr s (fun c _ st h =>
    let f := st.frame c h
    if f.carryCount ≤ g.toNat then .fault CARRY_RANGE g.toNat 0
    else
      let bs := f.binds.map (fun b => if b.reg == g.toNat then { b with dropped := true } else b)
      .done (st.setFrame c h { f with binds := bs }) ⟨0, 0⟩)
    (fun c st t _ => (st.putTrain c t).retireUid c t.uid)

/-- R206 `rcpclr`: replays a dropped value, then removes the binding; nothing on an untagged register. A tagged register is a source of no
binding (R202), so the write has no dependants. -/
def execRcpclr (g : BitVec 7) (s : State) : Host.Outcome State Fault Refusal :=
  frameInstr s (fun c t st h =>
    let f := st.frame c h
    if f.carryCount ≤ g.toNat then .fault CARRY_RANGE g.toNat 0
    else
      match f.binding? g.toNat with
      | none => .done st ⟨0, 0⟩
      | some _ =>
        match st.prepWrite c h t.failed f g.toNat true with
        | .miss va => .miss va
        | .fault d => .fault RECIPE_FAULT d 0
        | .busy => .wait .lent
        | .ok f1 n1 =>
          match f1.binding? g.toNat with
          | none => .done (st.setPrepared c h f1 n1) ⟨0, 0⟩
          | some b =>
            match st.materialise c h t.failed f1 b with
            | .miss va => .miss va
            | .fault d => .fault RECIPE_FAULT d 0
            | .busy => .wait .lent
            | .ok f2 n2 => .done (st.setPrepared c h { f2 with binds := f2.binds.filter (fun x => x.reg != g.toNat) } (n1 + n2)) ⟨0, 0⟩)
    (fun c st t _ => (st.putTrain c t).retireUid c t.uid)

end Sys2Proof.Machine
end

