-- ==== Sys2Proof/Machine/Act.lean ====
section
/-!
DEFINITION. The steps a machine takes of itself, each with what selects it; every one is a row of spec/opcode_table.json without an
encoding, and names the event of `Instr` that performs it.
-/
namespace Sys2Proof.Machine

/-- A step of the machine's own. -/
inductive Act where
  -- the firing engine
  | tokenArrival (core : Nat)
  | departCommandArrival (core : Nat)
  | departureTimerExpiry (core : Nat)
  | trainDeparture (core : Nat)
  | trainEnd (core uid : Nat)
  | lateValueLands (core : Nat)
  | recipeReplay (core : Nat)
  | freeCompletion (core handle : Nat)
  | compaction (core order : Nat)
  -- memory
  | storeDrain (core : Nat)
  | flushComplete (core op : Nat)
  | translationWalk (core : Nat)
  | pageRequestTimeout (part : Nat)
  | tlbInvalidationComplete (part : Nat)
  -- the launch engine
  | launchAdmit (part : Nat)
  | gridWordRead (part id : Nat)
  | launchPlacement (part id : Nat)
  | launchStall (part id : Nat)
  | launchCompletion (part id : Nat)
  | faultedLaunchAutoend (part id : Nat)
  | sidingReplay (part id die : Nat)
  | yardRecordArrival (die yard : Nat)
  | yardTimerExpiry (die yard : Nat)
  | teamPlacement (die yard : Nat)
  -- the control engine
  | drainlimExpiry (part : Nat)
  | saveStart (part : Nat)
  | saveComplete (part : Nat)
  | loadComplete (part : Nat)
  | haltQuiesced (part : Nat)
  | timetableStep (core : Nat)
  | superstepBoundary (part : Nat)
  | timetableFreeze (part : Nat)
  | timetableHalt (part : Nat)
  -- the engines
  | copyCompletion (core slot : Nat)
  | ringSpaceRetry (kind unit slot : Nat)
  | barrierUpdate (core : Nat)
  | freedSlotNotice (core slot : Nat)
  | tallocGrant (core : Nat)
  | tileSealComplete (core : Nat)
  | tfreeComplete (core : Nat)
  | mctxClaim (pair ctx : Nat)
  | mctxRelease (pair ctx : Nat)
  | mtxTileStep (pair : Nat)
  | bankOperationComplete (core slot : Nat)
  | fabCardBind (cluster : Nat)
  | fabUnitFire (cluster ctx unit : Nat)
  | fabSourceToken (cluster ctx eng : Nat)
  | fabSinkCommit (cluster ctx eng : Nat)
  | fabJobComplete (cluster slot : Nat)
  -- the link engine and the host interface
  | queueEntryArrival (core : Nat)
  | queueRefusal (core ser code : Nat)
  | queueAck (core ser : Nat)
  | queueSidingRetry (core queue : Nat)
  | queueCycleScan
  | frameFillTimer (core builder : Nat)
  | frameSend (core builder : Nat)
  | rowFrameArrival (core : Nat)
  | creditGrant (core dev : Nat)
  | msixIntervalExpiry (vec : Nat)
deriving DecidableEq, Repr

end Sys2Proof.Machine
end

