-- ==== Sys2Proof/Machine/Reads.lean ====
section
/-!
DEFINITION. Which operand slots an instruction reads, and so which pending slots hold it (R51, R53, and the chapter of each instruction).
-/
namespace Sys2Proof.Machine

/-- A slot that is read under a condition. -/
def slotIf (b : Bool) (k : Slot) : List Slot := if b then [k] else []

/-- R164: the slots that PWORDS payload words come from. -/
def payReads (w : BitVec 2) : List Slot := slotIf (w != 0) .l ++ slotIf (w == 2) .r

/-- The operand slots that an instruction reads; `fresh b` says that frame builder b of its core is empty, so that a `frmput` reads its
descriptor (R454). A predicated form reads P, and L for the seats whose predicate is false (R67). An event reads none. -/
def instrReads (fresh : Nat → Bool) : Instr → List Slot
  | .shfl _ _ f => [.l, .r] ++ slotIf (f == 2) .t
  | .shflx _ _ f => [.l, .r] ++ slotIf (f == 2) .t
  | .shflup _ _ f => [.l, .r] ++ slotIf (f == 2) .t
  | .shfldn _ _ f => [.l, .r] ++ slotIf (f == 2) .t
  | .bcast _ _ f => [.l, .r] ++ slotIf (f == 2) .t
  | .reduce _ _ _ _ _ m => [.l] ++ slotIf (m == 1) .r
  | .scan _ _ _ _ _ m _ => [.l] ++ slotIf (m == 1) .r
  | .send _ _ t w _ => payReads w ++ slotIf (t == 1) .t
  | .sendsel _ _ t w _ => .p :: payReads w ++ slotIf (t == 1) .t
  | .switch _ _ t w _ => .p :: payReads w ++ slotIf (t == 1) .t
  | .spawn _ _ t w _ => .p :: payReads w ++ slotIf (t == 1) .t
  | .ret _ w _ => payReads w
  | .tag _ _ m => slotIf (m == 1 || m == 4) .l ++ slotIf (m == 4) .r
  | .futst _ _ _ e => .l :: slotIf (e == 0) .r
  | .yield y => slotIf (y == 0) .l
  | .depart t => .l :: slotIf (t == 1) .r
  | .st z _ _ _ => [.l, .r] ++ slotIf (z == 4) .t
  | .sts z _ _ => [.l, .r] ++ slotIf (z == 4) .t
  | .talloc _ c _ => slotIf (c == 0) .l
  | .tst z => [.l, .r] ++ slotIf (z == 4) .t
  | .frmput b => [.r, .t] ++ slotIf (fresh b.toNat) .l
  | .mode _ _ m => if m == 1 then [.l, .r] else []
  | .iadd .. | .isub .. | .imul .. | .imulh .. | .imin .. | .imax .. | .iand .. | .ior .. | .ixor .. | .andn .. | .shl ..
  | .shr .. | .sar .. | .rot .. | .bfx .. | .icmp .. | .fadd .. | .fsub .. | .fmul .. | .fmin .. | .fmax .. | .fcmp ..
  | .fdiv .. | .idiv .. | .irem .. | .gstx .. | .atom .. | .atoms .. | .bari .. | .barx .. | .barw .. | .accld ..
  | .accst .. | .fpush .. | .dsig .. | .qenq .. => [.l, .r]
  | .imad .. | .bfi .. | .addx .. | .ffma .. | .fdot2 .. | .fdot4 .. | .cvtsc .. | .cas .. | .stmx .. | .mma .. | .mmax ..
  | .dpub .. => [.l, .r, .t]
  | .iabs .. | .ineg .. | .inot .. | .popc .. | .clz .. | .brev .. | .mov .. | .consh .. | .consw .. | .iaddi .. | .fabs ..
  | .fneg .. | .fclass .. | .frcp .. | .frsq .. | .fsqrt .. | .fexp2 .. | .flog2 .. | .fsin .. | .fcos .. | .ftanh ..
  | .frint .. | .cvt .. | .vote .. | .xmatch .. | .futld .. | .trapret .. | .gldx .. | .gempty .. | .gtest .. | .ld ..
  | .lds .. | .pref .. | .cflush .. | .cinv .. | .ldmx .. | .tseal .. | .tld .. | .tabandon .. | .tfree .. | .tstat ..
  | .cpy .. | .cpys .. | .cpyc .. | .bara .. | .accrd .. | .bgemv .. | .bred .. | .bwait .. | .fjob .. | .fwait ..
  | .fcan .. | .fpull .. | .launch .. | .nrec .. | .qdeq .. | .qpoll .. | .qmake .. | .qkill .. | .trap .. | .sregw .. => [.l]
  | .sel .. | .iaddPred .. | .isubPred .. | .imulPred .. | .imulhPred .. | .iminPred .. | .imaxPred .. | .iandPred ..
  | .iorPred .. | .ixorPred .. | .andnPred .. | .shlPred .. | .shrPred .. | .sarPred .. | .rotPred .. | .bfxPred ..
  | .icmpPred .. | .faddPred .. | .fsubPred .. | .fmulPred .. | .fminPred .. | .fmaxPred .. | .fcmpPred .. | .fdivPred ..
  | .idivPred .. | .iremPred .. => [.l, .r, .p]
  | .const .. | .seatid .. | .tagord .. | .free .. | .trapset .. | .rcpset .. | .rcpdrop .. | .rcpclr .. | .fence ..
  | .tpart .. | .crpop .. | .mctx .. | .mwait .. | .accz .. | .bfence .. | .scfg .. | .sbind .. | .sgo .. | .sbar ..
  | .sdone .. | .sloop .. | .frmclose .. | .clk .. | .evt .. | .brk .. | .sregr .. => []
  | .imadPred .. | .bfiPred .. | .addxPred .. | .ffmaPred .. | .fdot2Pred .. | .fdot4Pred .. | .cvtscPred .. => [.l, .r, .t, .p]
  | .iabsPred .. | .inegPred .. | .inotPred .. | .popcPred .. | .clzPred .. | .brevPred .. | .movPred .. | .constPred ..
  | .conshPred .. | .conswPred .. | .iaddiPred .. | .fabsPred .. | .fnegPred .. | .fclassPred .. | .frcpPred ..
  | .frsqPred .. | .fsqrtPred .. | .fexp2Pred .. | .flog2Pred .. | .fsinPred .. | .fcosPred .. | .ftanhPred ..
  | .frintPred .. | .cvtPred .. => [.l, .p]
  -- events
  | .tokenArrival .. | .discardNotice .. | .sendAck .. | .departCommandArrival .. | .departureTimerExpiry ..
  | .trainDeparture .. | .trainEnd .. | .lateValueLands .. | .recipeReplay .. | .freeCompletion .. | .compaction ..
  | .storeDrain .. | .translationWalk .. | .pageResponse .. | .pageRequestTimeout .. | .tlbinv ..
  | .tlbInvalidationComplete .. | .prqctlWrite .. | .partitionRegisterWrite .. | .sslenWrite .. | .hostDoorbell ..
  | .launchAdmit .. | .gridWordRead .. | .launchPlacement .. | .launchStall .. | .launchCompletion .. | .noticeHeadWrite ..
  | .sidingReplay .. | .yardRecordArrival .. | .yardTimerExpiry .. | .teamPlacement .. | .endLaunch ..
  | .faultedLaunchAutoend .. | .preempt .. | .restore .. | .halt .. | .resume .. | .drainlimExpiry .. | .saveStart ..
  | .saveComplete .. | .loadComplete .. | .haltQuiesced .. | .timetableStep .. | .superstepBoundary .. | .timetableFreeze ..
  | .timetableHalt .. | .copyCompletion .. | .ringSpaceRetry .. | .barrierUpdate .. | .freedSlotNotice .. | .tallocGrant ..
  | .tileSealComplete .. | .tfreeComplete .. | .mctxClaim .. | .mctxRelease .. | .mtxTileStep .. | .bankOperationComplete ..
  | .fabCardBind .. | .fabUnitFire .. | .fabSourceToken .. | .fabSinkCommit .. | .fabReplay .. | .fabJobComplete ..
  | .queueEntryArrival .. | .queueRefusal .. | .queueAck .. | .queueSidingRetry .. | .queueCycleScan .. | .frameFillTimer ..
  | .frameSend .. | .rowFrameArrival .. | .creditGrant .. | .remoteMemoryRequest .. | .remoteMemoryResponse ..
  | .routeChange .. | .flitRetransmit .. | .featacceptWrite .. | .msixIntervalExpiry .. | .mgmtPhysicalAccess ..
  | .mgmtRegisterAccess .. | .mgmtObjectAccess .. | .mgmtFutViewAccess .. | .mgmtAsidEntryAccess .. | .powerUp ..
  | .endpointReset .. | .setDomain .. | .setPartition .. | .setPriv .. | .setPowerCap .. | .moduleReset ..
  | .activateVersion .. | .getErrorLog .. | .getRouteTable .. | .pldmSensorRead .. | .firmwareUpdate .. | .getVersion ..
  | .getCapabilities .. | .negotiateAlgorithms .. | .getDigests .. | .getCertificate .. | .challenge ..
  | .getMeasurements .. | .powerCapThrottle .. | .thermalThrottle .. | .thermalHalt .. | .patrolScrub ..
  | .controlStateError .. | .throttleRelease .. | .configurationRequest .. | .flitForward .. | .statusWrite ..
  | .mstatWrite .. | .pldmBaseDiscovery .. | .waitGraphEdgeExchange .. | .flushComplete .. => []

/-- The instruction that a train stands at. -/
def Train.nextInstr (t : Train) : Option Instr :=
  match t.next? with
  | some b => match decodeWord b.cls b.word with | .ok i => some i | .error _ => none
  | none => none

/-- R447: frame builder b of the core is empty: no row is filling and no closed frame waits. -/
def Core.fresh (k : Core) (b : Nat) : Bool :=
  match NMap.get? k.builders b with
  | some x => !x.filling && x.closed.isNone
  | none => true

/-- R109: an instruction whose accesses lie on path L. -/
def onPathL : Instr → Bool
  | .ld .. | .st .. | .lds .. | .sts .. | .atom .. | .atoms .. | .cas .. | .ldmx .. | .stmx .. | .futld .. | .futst .. | .tst .. | .tld .. => true
  | _ => false

/-! ## Passes of a wide team (R32) -/

/-- The numbers of the instructions of the clause that the train's next instruction lies in. -/
def Train.clausePcs (t : Train) : List Nat :=
  let bs := blockInstrs (t.words.getD [])
  match bs[t.pc - 1]? with
  | none => []
  | some b => ((List.range bs.length).map (· + 1)).filter (fun n => match bs[n - 1]? with | some x => x.place + t.pc == b.place + n | none => false)

/-- R32: whether a team's pipe sweeps the clause word by word: it is of a class whose instructions act on each lane by itself (INT, FLT or SFN),
and none feeds a write entry, whose value is the last in tag order of all seats (R193). The other classes act on the team as a whole: R151 for
XLN, R213 for MEM, and R265 has an instruction's fault cover every active seat (log 77). -/
def Train.sweeps (t : Train) : Bool :=
  t.team &&
    (let ws := t.words.getD []
     let bs := blockInstrs ws
     t.clausePcs.all (fun n =>
       !(writeEntries ws).any (fun e => e.2 == n) &&
       match bs[n - 1]? with
       | some b => decide (b.cls ≤ 2)
       | none => true))

/-- The lowest non-empty mask word from one on. -/
def Train.wordFrom (t : Train) (w : Nat) : Option Nat := minBy (fun a b => decide (a ≤ b)) ((t.seats.map (fun x => x.n / 32)).filter (fun v => decide (w ≤ v)))

/-- R32: the train as an instruction of a swept clause sees it: the seats of one mask word. -/
def Train.inWord (t : Train) : Train :=
  if !t.sweeps then t
  else
    let w := if t.clausePcs.head? = some t.pc then (t.wordFrom t.pass).getD t.pass else t.pass
    { t with pass := w, seats := t.seats.filter (fun x => x.n / 32 == w), aside := t.seats.filter (fun x => x.n / 32 != w) }

/-- The train with all its seats again. -/
def Train.rejoin (t : Train) : Train :=
  if t.aside.isEmpty then t else { t with seats := sortBy (fun a b => decide (a.n ≤ b.n)) (t.seats ++ t.aside), aside := [] }

/-- R32: behind the last instruction of a swept clause the pipe returns to its first with the next non-empty word, when there is one. -/
def Train.nextPass (t old : Train) : Train :=
  if t.pc = old.pc || !old.sweeps || old.clausePcs.getLast? != some old.pc then t
  else
    match t.wordFrom (t.pass + 1) with
    | some w => { t with pc := old.clausePcs.headD t.pc, pass := w }
    | none => { t with pass := 0 }

/-! ## Slots that an instruction reads -/

/-- R53: whether a pending slot, by its key, is one that the train's next instruction reads. -/
def Core.readsKey (k : Core) (t : Train) (key : Nat) : Bool :=
  key % 256 / 4 == t.pc &&
    match t.nextInstr with
    | some i => (instrReads k.fresh i).any (fun x => targetOf t.pc x == key % 256)
    | none => false

/-- R53: operations whose results the slots wait for that the train's next instruction reads. -/
def Core.pendOps (k : Core) (t : Train) : List Nat := (t.pend.filter (fun e => k.readsKey t e.1)).map (·.2)

end Sys2Proof.Machine
end

