-- ==== Sys2Proof/Machine/FabOps.lean ====
section
/-!
DEFINITION. The fabric's records and their checks, its arithmetic on elements, token delivery, and the end of a job (R391 to R423).
-/
namespace Sys2Proof.Machine

/-! ## Cards and buffers (R396 to R398) -/

def fcArrive (k : Nat) : Bool := k.testBit 34
def fcRingv (k : Nat) : Bool := k.testBit 35
def fcRingk (k : Nat) : Nat := natBits k 37 36
def fcTokv (k : Nat) : Bool := k.testBit 38
def fcFh (k : Nat) : Nat := natBits k 83 80
def fcFw (k : Nat) : Nat := natBits k 87 84
def fcNeng (k : Nat) : Nat := natBits k 91 88
def fcNbuf (k : Nat) : Nat := natBits k 95 92
def fcWords (k : Nat) : Nat := natBits k 111 102
def fcUserTag (k : Nat) : Nat := natBits k 127 112
def fcCmdAddr (k : Nat) : Nat := natBits k 511 455
def fcBufTab (k : Nat) : Nat := natBits k 575 519
def fcBar (k : Nat) : Word := BitVec.ofNat 64 (natBits k 639 576)
def fcTokScope (k : Nat) : Nat := natBits k 691 689
def fcTokDest (k : Nat) : Nat := natBits k 703 692
def fcTokTag (k : Nat) : Word := BitVec.ofNat 64 (natBits k 767 704)

/-- R397: MAGIC, and reserved fields zero. -/
def cardShape (k : Nat) : Bool :=
  natBits k 15 0 == 0x464A && natBits k 1023 768 == 0 && natBits k 688 640 == 0 && natBits k 518 512 == 0 && natBits k 454 128 == 0 &&
  natBits k 101 96 == 0 && natBits k 79 39 == 0 && natBits k 33 16 == 0

/-- R412 REASON 2. -/
def cardSize (k : Nat) : Bool := fcWords k != 0 && decide (fcFh k ≤ 11 ∧ fcFw k ≤ 11)

def fbBase (b : Nat) : Nat := natBits b 120 64
def fbSize (b : Nat) : Nat := natBits b 47 0
def fbRD (b : Nat) : Bool := b.testBit 48
def fbWR (b : Nat) : Bool := b.testBit 49

/-- R398: a buffer entry passes. -/
def bufOk (b : Nat) : Bool :=
  natBits b 127 121 == 0 && natBits b 63 50 == 0 && fbSize b != 0 && (fbRD b || fbWR b) && fbBase b % 4 == 0 &&
  decide (fbBase b + fbSize b ≤ 2 ^ 57)

/-- R399: a copy request's card has every completion field zero. -/
def cardQuiet (k : Nat) : Bool :=
  natBits k 767 689 == 0 && natBits k 639 576 == 0 && natBits k 38 34 == 0

/-- R412 REASON 4. -/
def State.cardTargets (s : State) (c asid prog : Nat) (r : LaunchRef) (k : Nat) : Bool :=
  (!fcArrive k || (match s.spAccess c r (fcBar k) 16 with | .ok _ => true | .error _ => false)) &&
  (!fcRingv k || s.ringExists r (fcRingk k)) && (!fcTokv k || s.tokTarget asid prog (fcTokTag k) (fcTokDest k))

/-- Bytes of a card's table cut into entries. -/
def cutBufs (bs : List Byte) (n : Nat) : List Nat := (List.range n).map (fun i => ofLE ((bs.drop (16 * i)).take 16))

/-- R401, R412: the REASON of a card and its table; 0 when they pass. -/
def State.cardReason (s : State) (c asid prog : Nat) (r : LaunchRef) (copy : Bool) (k : Nat) (bufs : Option (List Nat)) : Nat :=
  if !cardShape k then 1
  else if !cardSize k then 2
  else if (match bufs with | some bs => !bs.all bufOk | none => true) then 3
  else if (if copy then !cardQuiet k else !s.cardTargets c asid prog r k) then 4
  else 0

/-- The buffer table of a card, 16-aligned. -/
def State.cardBufs (s : State) (c asid k : Nat) : Except EGet (List Nat) :=
  if fcBufTab k % 16 != 0 then .error (.bad MISALIGNED (fcBufTab k))
  else
    match s.bankSpan c asid 3 (fcBufTab k) (16 * (fcNbuf k + 1)) with
    | .ok bs => .ok (cutBufs bs (fcNbuf k + 1))
    | .error e => .error e

/-! ## Fabrics in the state -/

def State.fab (s : State) (cl : Nat) : Fabric := (s.cluster cl).fab
def State.updFab (s : State) (cl : Nat) (f : Fabric → Fabric) : State := s.updCluster cl (fun k => { k with fab := f k.fab })
def Fabric.card? (f : Fabric) (slot : Nat) : Option FCard := f.cards.find? (fun k => k.slot == slot)
def Fabric.setCard (f : Fabric) (k : FCard) : Fabric := { f with cards := f.cards.map (fun x => if x.slot == k.slot then k else x) }
def Fabric.dropCard (f : Fabric) (slot : Nat) : Fabric := { f with cards := f.cards.filter (fun x => x.slot != slot) }
def State.setFCard (s : State) (cl : Nat) (k : FCard) : State := s.updFab cl (fun f => f.setCard k)
def Fabric.ctx? (f : Fabric) (x : Nat) : Option FCtx := NMap.get? f.ctxs x
def State.setFCtx (s : State) (cl n : Nat) (x : FCtx) : State := s.updFab cl (fun f => { f with ctxs := NMap.set f.ctxs n x })
/-- Cards that wait unbound (R396). -/
def Fabric.waiting (f : Fabric) : List FCard := f.cards.filter (fun k => k.stage == .waiting)
/-- R401: a free slot with fewer than 64 cards waiting. -/
def Fabric.room (f : Fabric) : Bool := decide (f.cards.length < 80 ∧ f.waiting.length < 64)

/-- R396: the id word. -/
def fabId (core seq slot : Nat) : Word := BitVec.ofNat 64 (slot % 128 + seq % 65536 * 2 ^ 16 + core % 2048 * 2 ^ 32)

/-- The lowest free slot, taken by a card; SEQ advances (R401). -/
def State.takeCard (s : State) (cl : Nat) (mk : Nat → Nat → FCard) : State × Nat × Nat :=
  let f := s.fab cl
  let slot := ((List.range 80).find? (fun i => (f.card? i).isNone)).getD 0
  let seq := (NMap.getD f.seqs slot 0 + 1) % 65536
  (s.updFab cl (fun f => { f with cards := f.cards ++ [mk slot seq], seqs := NMap.set f.seqs slot seq }), slot, seq)

/-! ## Binding descriptors (R414, R415) -/

def fdKind (d : Nat) : Nat := natBits d 195 192
def fdBus (d : Nat) : Nat := natBits d 203 202
def fdBusNo (d : Nat) : Nat := natBits d 207 204
def fdLabel (d : Nat) : Nat := natBits d 215 208
def fdLCount (d : Nat) : Nat := natBits d 223 216
def fdScope (d : Nat) : Nat := natBits d 235 233
def fdBuf (d : Nat) : Nat := natBits d 239 236
def fdNdim (d : Nat) : Nat := natBits d 243 240
def fdDest (d : Nat) : Nat := natBits d 255 244
def fdTag (d : Nat) : Word := BitVec.ofNat 64 (natBits d 319 256)
def fdParam (d : Nat) : Nat := natBits d 351 320
def fdAddr (d : Nat) : Nat := natBits d 415 352
def fdPat (d : Nat) : Nat := natBits d 479 423
def fdStride (d : Nat) : Int := toSigned 32 (natBits d 511 480)

def isSink (kind : Nat) : Bool := kind == 2 || kind == 4 || kind == 6 || kind == 8 || kind == 10
def isSource (kind : Nat) : Bool := kind == 1 || kind == 3 || kind == 5 || kind == 7 || kind == 9

/-- R412 REASON 10, a notify sink's partition apart. -/
def bindShape (k e d : Nat) : Bool :=
  let kind := fdKind d
  natBits d 15 0 == 0x4642 && natBits d 191 16 == 0 && natBits d 201 196 == 0 && natBits d 232 224 == 0 && natBits d 422 416 == 0 &&
  decide (1 ≤ kind ∧ kind ≤ 10) && decide (e ≤ fcNeng k) && (fdBus d == 1 || fdBus d == 2) &&
  decide (fdBusNo d ≤ (if fdBus d = 1 then fcFh k else fcFw k)) && decide (fdBuf d ≤ fcNbuf k) &&
  (if kind ≤ 4 then decide (1 ≤ fdNdim d ∧ fdNdim d ≤ 10) else fdNdim d == 0) && (!isSink kind || fdLCount d == 0) &&
  (decide (9 ≤ kind) || fdParam d == 0) && (!(decide (5 ≤ kind ∧ kind ≤ 8)) || fdAddr d == 0) && fdPat d % 16 == 0

/-! ## Patterns (R414, R416) -/

def patExt (p : Nat) : Nat := natBits p 31 0
def patStride (p : Nat) : Int := toSigned 48 (natBits p 79 32)
/-- Elements of a pattern. -/
def patCount (ps : List Nat) : Nat := ps.foldl (fun n p => n * patExt p) 1
/-- The displacement of element e: mixed-radix digits, dimension 0 fastest. -/
def patDisp : List Nat → Nat → Int
  | [], _ => 0
  | p :: ps, e => if patExt p = 0 then 0 else (e % patExt p : Nat) * patStride p + patDisp ps (e / patExt p)
/-- The least and greatest displacement of any element. -/
def patSpan : List Nat → Int × Int
  | [] => (0, 0)
  | p :: ps =>
    let r := patSpan ps
    let d := ((patExt p : Int) - 1) * patStride p
    if d < 0 then (r.1 + d, r.2) else (r.1, r.2 + d)

/-- ADDR moved by the iterations taken (R416). -/
def FEng.addr (g : FEng) : Int := (fdAddr g.desc : Int) + g.iter * fdStride g.desc
/-- The handle of a tile binding with its OFFSET moved. -/
def FEng.handle (g : FEng) : Word := BitVec.ofNat 64 (fdAddr g.desc)
def FEng.off (g : FEng) : Int := (hndOff g.handle : Int) + g.iter * fdStride g.desc
/-- The elements of its pattern. -/
def FEng.count (g : FEng) : Nat := patCount g.pats

/-- R416: a buffer window [lo, lo + n) inside SIZE. -/
def bufFits (b : Nat) (lo hi : Int) : Bool := decide (0 ≤ lo ∧ hi ≤ (fbSize b : Int))

/-- R416: the REASON 11 or 12 of a binding against its buffers and tiles, with ADDR as the engine would start; 0 when it passes. -/
def State.patReason (s : State) (c : Nat) (r : LaunchRef) (bufs : List Nat) (g : FEng) : Nat :=
  let d := g.desc
  let b := bufs.getD (fdBuf d) 0
  let sp := patSpan g.pats
  let aligned := g.pats.all (fun p => patStride p % 4 == 0 && natBits p 127 80 == 0)
  match fdKind d with
  | 1 | 2 =>
    if g.addr % 4 ≠ 0 ∨ aligned = false ∨ (if fdKind d = 1 then fbRD b else fbWR b) = false then 11
    else if g.count = 0 ∨ bufFits b (g.addr + sp.1) (g.addr + sp.2 + 4) = true then 0 else 11
  | 3 | 4 =>
    if g.off % 4 ≠ 0 ∨ aligned = false then 11
    else
      match tileRef c r g.handle (fun h => (s.core h).eng.pool) with
      | none => 12
      | some (_, size, _) => if g.count = 0 ∨ (0 ≤ g.off + sp.1 ∧ g.off + sp.2 + 4 ≤ (size : Int)) then 0 else 12
  | 9 =>
    if g.addr % 4 ≠ 0 ∨ fbRD b = false ∨ bufFits b g.addr (g.addr + 4 * (fdParam d / 256 : Nat)) = false then 11 else 0
  | 10 => if g.addr % 4 ≠ 0 ∨ fbRD b = false ∨ bufFits b g.addr (g.addr + 8) = false then 11 else 0
  | _ => 0

/-! ## Image entries (R407, R408) -/

def fuRow (u : Nat) : Nat := natBits u 3 0
def fuCol (u : Nat) : Nat := natBits u 7 4
def fuCpl (u : Nat) : Nat := natBits u 10 8
def fuOp (u : Nat) : Nat := natBits u 21 16
def fuType (u : Nat) : Nat := natBits u 23 22
def fuRM (u : Nat) : Nat := natBits u 26 24
def fuPort (u p : Nat) : Nat := natBits u (32 + 12 * p + 11) (32 + 12 * p)
def fuBus (u p : Nat) : Nat := fuPort u p % 4
def fuEpol (u p : Nat) : Nat := fuPort u p / 4 % 4
def fuLabel (u p : Nat) : Nat := fuPort u p / 16
def fuObus (u : Nat) : Nat := natBits u 69 68
def fuOlabel (u : Nat) : Nat := natBits u 77 70
def fuConst (u : Nat) : Nat := natBits u 159 128
def fuParam (u : Nat) : Nat := natBits u 191 160
def fuState0 (u : Nat) : Nat := natBits u 223 192

/-- R391: height and width of a coupled set. -/
def cplShape (j : Nat) : Nat × Nat :=
  match j with
  | 0 => (1, 1) | 1 => (1, 2) | 2 => (2, 2) | 3 => (2, 4) | _ => (4, 4)

/-- The units an entry takes, as 12r + c. -/
def fuUnits (u : Nat) : List Nat :=
  let d := cplShape (fuCpl u)
  (List.range d.1).flatMap (fun i => (List.range d.2).map (fun j => 12 * (fuRow u + i) + fuCol u + j))

/-- R408: reserved fields zero, and the set at its place inside the image's H and W. -/
def fuPlaced (u h w : Nat) : Bool :=
  let d := cplShape (fuCpl u)
  natBits u 255 224 == 0 && natBits u 127 78 == 0 && natBits u 31 27 == 0 && !u.testBit 11 && decide (fuCpl u ≤ 4) &&
  fuRow u % d.1 == 0 && fuCol u % d.2 == 0 && decide (fuRow u + d.1 ≤ h + 1 ∧ fuCol u + d.2 ≤ w + 1)

/-- Whether any two entries share a unit. -/
def overlapping : List Nat → Bool
  | [] => false
  | u :: us => us.any (fun v => (fuUnits u).any (fun x => (fuUnits v).contains x)) || overlapping us

/-- Input ports an operator takes (R409). -/
def fuInputs (op : Nat) : Nat :=
  match op with
  | 0 | 9 | 10 | 11 => 1
  | 4 | 8 => 3
  | _ => 2

/-- R412 REASON 7. -/
def fuLegal (u : Nat) : Bool :=
  decide (fuOp u ≤ 11) && decide (fuType u ≤ 2) && (!(fuOp u == 4 || fuOp u == 7) || fuType u == 0) &&
  decide (1 ≤ fuRM u ∧ fuRM u ≤ 5) && (List.range 3).all (fun p => fuEpol u p != 3) &&
  (List.range (fuInputs (fuOp u))).all (fun p => fuBus u p != 0) &&
  (fuOp u != 11 || decide (1 ≤ fuParam u % 256 ∧ fuParam u % 256 ≤ 64))

/-- R413: the code of a level in an image's SCOPE field. -/
def fabScope (sc k : Nat) : Nat := natBits sc (4 * k + 3) (4 * k)
/-- R413: legal codes, not decreasing over the bound levels. -/
def scopeOk (sc : Nat) : Bool :=
  let cs := (List.range 8).map (fabScope sc)
  let bound := cs.filter (· != 15)
  cs.all (fun c => decide (c ≤ 3) || c == 15) && (List.range (bound.length - 1)).all (fun i => decide (bound.getD i 0 ≤ bound.getD (i + 1) 0))

/-- A placed operator with every stateful part at STATE0 (R406). -/
def FUnit.fresh (u : Nat) : FUnit :=
  { entry := u, ports := [[], [], []], acc := List.replicate 16 (fuState0 u), folded := 0, line := [], emitted := 0, flushed := false,
    ended := false }

/-! ## Elements (R409, R410) -/

/-- An element formed by an operator: bits, and whether a rounding overflowed. -/
structure FVal32 where
  bits : Nat
  inf : Bool
deriving DecidableEq, Repr

def fabEnv (u : Nat) : FEnv := { rm := RM.ofCode (fuRM u), ftzi := false, ftzo := false, satp := true }

def ofFRes (r : FRes) : FVal32 := ⟨r.bits, r.fl &&& fOF != 0⟩

/-- Canonical NaN in an f32 result (R80, R410). -/
def canon32 (x : Nat) : Nat := if (fp32.decode x).isNan then fp32.cnan else x

/-- Two integers compared under TYPE (1 s32, 2 n32). -/
def lessInt (ty x y : Nat) : Bool := if ty = 1 then decide (toSigned 32 x < toSigned 32 y) else decide (x < y)

/-- R409: the result of an operator that works element by element. -/
def fabElem (u op a b c : Nat) : FVal32 :=
  let env := fabEnv u
  let ty := fuType u
  let m := 2 ^ 32
  match op with
  | 1 | 9 => if ty = 0 then ofFRes (fp32.add env a b) else ⟨(a + b) % m, false⟩
  | 2 => if ty = 0 then ofFRes (fp32.sub env a b) else ⟨(a + m - b) % m, false⟩
  | 3 => if ty = 0 then ofFRes (fp32.mul env a b) else ⟨a * b % m, false⟩
  | 4 => ofFRes (fp32.fma env a b c)
  | 5 => if ty = 0 then ofFRes (fp32.minMax env false a b) else ⟨if lessInt ty b a then b else a, false⟩
  | 6 | 10 => if ty = 0 then ofFRes (fp32.minMax env true a b) else ⟨if lessInt ty a b then b else a, false⟩
  | 8 => let x := if c ≠ 0 then a else b; ⟨if ty = 0 then canon32 x else x, false⟩
  | _ => ⟨if ty = 0 then canon32 a else a, false⟩

/-- R409: the identity an absorbed element takes. -/
def fabIdentity (op ty : Nat) : Option Nat :=
  match op with
  | 1 | 2 | 9 => some 0
  | 3 => some (if ty = 0 then 0x3F800000 else 1)
  | 5 => some (if ty = 0 then 0x7F800000 else if ty = 1 then 0x7FFFFFFF else 0xFFFFFFFF)
  | 6 | 10 => some (if ty = 0 then 0xFF800000 else if ty = 1 then 0x80000000 else 0)
  | _ => none

/-- R409: a KEYCAP key. -/
def keycap (b id : Nat) : Nat :=
  let k := if b.testBit 31 then 2 ^ 32 - 1 - b else b ^^^ 0x80000000
  k / 256 * 256 + id % 256

/-- What one input gives an element (R410): a value, the mark of an invalid output, or an absorbed identity. -/
inductive FIn where
  | val (v : Nat)
  | absorbed (v : Nat)
  | off
deriving DecidableEq, Repr

/-- R410: input p's element i. -/
def FUnit.input (u : FUnit) (heads : List (Option FTok)) (p i : Nat) : FIn :=
  let e := u.entry
  let raw : Option Nat :=
    if fuBus e p = 3 then some (fuConst e)
    else
      match heads.getD p none with
      | some t => if t.valid.testBit i then some (t.data.getD i 0) else none
      | none => none
  match raw with
  | some v => .val v
  | none =>
    match fuEpol e p with
    | 1 => match fabIdentity (fuOp e) (fuType e) with | some v => .absorbed v | none => .off
    | 2 => .val (fuConst e)
    | _ => .off

/-- An output element: bits, valid, NaN met, overflow or infinity met (R410). -/
structure FOut where
  bits : Nat
  valid : Bool
  nan : Bool
  inf : Bool
deriving DecidableEq, Repr

def FOut.none : FOut := ⟨0, false, false, false⟩

/-- An f32 result delivered: its NaN and infinity go to the job's status (R410). -/
def fOutOf (u : Nat) (r : FVal32) : FOut :=
  let v := fp32.decode r.bits
  let f := fuType u == 0
  ⟨r.bits, true, f && v.isNan, f && (r.inf || v.isInf)⟩

/-- R410, R409: output element i of a unit from the tokens at its ports. For RSUM and RMAX it is the element to fold. -/
def FUnit.element (u : FUnit) (heads : List (Option FTok)) (i : Nat) : FOut :=
  let e := u.entry
  let op := fuOp e
  let ins := (List.range (fuInputs op)).map (fun p => u.input heads p i)
  if ins.any (fun x => x == .off) || ins.all (fun x => match x with | .absorbed _ => true | _ => false) then FOut.none
  else
    let v := fun (p : Nat) => match ins.getD p .off with | .val x => x | .absorbed x => x | .off => 0
    if op = 7 then
      if (fp32.decode (v 0)).isNan then ⟨0, false, true, false⟩
      else
        let k := keycap (v 0) (fuParam e)
        ⟨k, decide (k < v 1), false, false⟩
    else if op = 9 ∨ op = 10 then ⟨v 0, true, false, false⟩
    else fOutOf e (fabElem e op (v 0) (v 1) (v 2))

/-! ## Buses (R394, R395) -/

/-- A listener: a unit's input port or an edge engine. -/
inductive FPort where
  | unit (i p : Nat)
  | eng (e : Nat)
deriving DecidableEq, Repr

/-- A bus of the footprint with a label: kind (1 row, 2 column), number, label. -/
structure BusKey where
  bus : Nat
  no : Nat
  label : Nat
deriving DecidableEq, Repr

/-- Where input port p of an entry listens (R394); BUS 1 or 2. -/
def fuListens (u p : Nat) : Option BusKey :=
  match fuBus u p with
  | 1 => some ⟨1, fuRow u, fuLabel u p⟩
  | 2 => some ⟨2, fuCol u, fuLabel u p⟩
  | _ => none

/-- Where an entry's output goes (R408). -/
def fuSends (u : Nat) : List BusKey :=
  (if fuObus u = 1 ∨ fuObus u = 3 then [⟨1, fuRow u, fuOlabel u⟩] else []) ++
  (if fuObus u = 2 ∨ fuObus u = 3 then [⟨2, fuCol u, fuOlabel u⟩] else [])

/-- Where a bound engine listens: a sink, or a gather for its index stream (R415). -/
def fdListens (d : Nat) : Option BusKey :=
  if isSink (fdKind d) then some ⟨fdBus d, fdBusNo d, fdLabel d⟩
  else if fdKind d = 9 then some ⟨fdBus d, fdBusNo d, fdParam d % 256⟩
  else none

/-- The label of a source's token t (R414). -/
def fdLabelOf (d t : Nat) : BusKey := ⟨fdBus d, fdBusNo d, (fdLabel d + t % (fdLCount d + 1)) % 256⟩

/-- Every label a source sends. -/
def fdSends (d : Nat) : List BusKey :=
  if isSource (fdKind d) then (List.range (fdLCount d + 1)).map (fdLabelOf d) else []

/-- Listeners of a bus and label: unit ports, and the engines of the running phase. -/
def FCtx.listeners (x : FCtx) (k : BusKey) : List FPort :=
  (x.units.mapIdx (fun i u => (List.range 3).filterMap (fun p => if fuListens u.entry p = some k then some (FPort.unit i p) else none))).flatten ++
  x.engs.filterMap (fun e => if e.2.running && fdListens e.2.desc == some k then some (FPort.eng e.1) else none)

/-- Tokens a listener holds of one traffic class; R394 gives no depth (log 20). -/
def fabDepth : Nat := 4

/-- R395: the traffic class of a token: 1 END, 3 empty and error, 4 data. -/
def FKind.cls : FKind → Nat
  | .fin => 1
  | .empty | .err => 3
  | .data => 4

/-- Tokens that a listener holds. -/
def FCtx.held (x : FCtx) (p : FPort) : List FTok :=
  match p with
  | .unit i k => ((x.units[i]?).map (fun u => u.ports.getD k [])).getD []
  | .eng e => ((NMap.get? x.engs e).map (fun g => g.queue)).getD []

/-- Whether a listener has buffer space for one token more on the virtual channel of a class (R394, R395). -/
def FCtx.portRoom (x : FCtx) (cls : Nat) (p : FPort) : Bool := decide (((x.held p).filter (fun t => t.kind.cls == cls)).length < fabDepth)

/-- R395: the order in which a transfer acquires its channels: row buses before column buses, lower numbers first. -/
def busOrder (ks : List BusKey) : List BusKey := sortBy (fun a b => decide (a.bus < b.bus ∨ (a.bus = b.bus ∧ a.no ≤ b.no))) ks

/-- Whether every listener of some buses has space for a token of a class (R394): a transfer needs all its channels (R395). -/
def FCtx.busRoom (x : FCtx) (ks : List BusKey) (kind : FKind) : Bool := ((busOrder ks).flatMap x.listeners).all (x.portRoom kind.cls)

/-- Whether they have space for a token of a stream, which may travel as data, empty or error. -/
def FCtx.dataRoom (x : FCtx) (ks : List BusKey) : Bool := x.busRoom ks .data && x.busRoom ks .empty

/-- A list with one entry changed. -/
def changeAt {α : Type} (l : List α) (i : Nat) (f : α → α) : List α := l.mapIdx (fun j a => if j = i then f a else a)

def FCtx.deliver (x : FCtx) (t : FTok) (p : FPort) : FCtx :=
  match p with
  | .unit i k => { x with units := changeAt x.units i (fun u => { u with ports := changeAt u.ports k (fun q => q ++ [t]) }) }
  | .eng e =>
    match NMap.get? x.engs e with
    | some g => { x with engs := NMap.set x.engs e { g with queue := g.queue ++ [t] } }
    | none => x

/-- A token delivered to every listener of some buses (R394). -/
def FCtx.send (x : FCtx) (ks : List BusKey) (t : FTok) : FCtx := ((busOrder ks).flatMap x.listeners).foldl (fun y p => y.deliver t p) x

/-- END of a stream that carried n elements. -/
def finTok (n : Nat) : FTok := { data := [], valid := 0, elem := n, kind := .fin, origin := 0, lane := 0 }

/-- R393: a token of 16 elements; one without a valid element is empty. -/
def mkTok (data : List Nat) (valid elem : Nat) : FTok :=
  { data := data, valid := valid, elem := elem, kind := if valid = 0 then .empty else .data, origin := 0, lane := 0 }

/-- R417: an error token that keeps the good lanes below the failing one. -/
def errTok (data : List Nat) (valid elem origin lane : Nat) : FTok :=
  { data := data, valid := valid % 2 ^ lane, elem := elem, kind := .err, origin := origin, lane := lane }

/-- The 64-byte layout of R393, as context images show a token. -/
def FTok.image (t : FTok) (ctx label : Nat) : Nat :=
  (match t.kind with | .data => 0 | .empty => 1 | .err => 2 | .fin => 3) + label * 2 ^ 32 + ctx * 2 ^ 40 + t.elem % 2 ^ 32 * 2 ^ 48 +
  t.valid % 2 ^ 16 * 2 ^ 80 + t.origin * 2 ^ 96 + t.lane * 2 ^ 104 + packAt 32 (fun i => t.data.getD i 0) 16 * 2 ^ 128

/-! ## The end of a job (R402, R418, R421) -/

/-- R421: a binding is given up: its tile's engine read counts, and its registered write ends. -/
def State.dropEng (s : State) (c : Nat) (r : LaunchRef) (g : FEng) : State :=
  let tile := tileRef c r g.handle (fun h => (s.core h).eng.pool)
  match fdKind g.desc, tile with
  | 3, some (h, _, t) => if g.srcOk then s.countTile h t else s
  | 4, some (h, _, _) => if g.mark = 0 then s else (s.updEng h.core (fun e => e.performed h.core g.mark)).tileWake h.core
  | _, _ => s

/-- Whether a kind commits elements that the job counts (R402). -/
def countsCommit (kind : Nat) : Bool := isSink kind && kind != 8

/-- Elements committed by all sinks (R402). -/
def FCtx.committed (x : FCtx) : Nat :=
  (x.engs.map (fun e => if countsCommit (fdKind e.2.desc) then e.2.commit + e.2.total else 0)).foldl (· + ·) x.past

/-- How a job ends. -/
structure FEnd where
  code : Nat
  reason : Nat
  engine : Nat
  element : Nat
  faddr : Nat
  cancelled : Bool
deriving DecidableEq, Repr

/-- The graph context of a card is free (R399). -/
def Fabric.freeCtx (f : Fabric) (slot : Nat) : Fabric := { f with ctxs := f.ctxs.filter (fun x => x.2.slot != slot) }

/-- A context whose job has ended: no engine runs, and no token is left (R403, R418). -/
def FCtx.stop (x : FCtx) : FCtx :=
  { x with pages := [], units := x.units.map (fun u => { u with ports := [[], [], []] }),
           engs := x.engs.map (fun e => (e.1, { e.2 with running := false, queue := [], port := [], cells := [] })) }

/-- A bound job ends: its sources stop, tokens in flight are discarded, and its reports are due (R403, R418). The context is its own until it has
completed; its record shows how the job ended (R399; log 87). -/
def State.endJob (s : State) (cl : Nat) (k : FCard) (e : FEnd) : State :=
  match (s.fab cl).ctx? k.ctx with
  | none => s
  | some x =>
    let n := if e.code = 0 then x.committed else e.element
    let s1 := x.engs.foldl (fun st g => st.dropEng k.info.core k.info.launch g.2) s
    let k' : FCard := { k with stage := .ended, code := e.code, reason := e.reason, engine := e.engine, cancelled := e.cancelled,
                               inf := x.inf, nan := x.nan, element := n % 2 ^ 32, faddr := e.faddr }
    s1.updFab cl (fun f => { f.setCard k' with ctxs := NMap.set f.ctxs k.ctx x.stop })

/-- R412: a failure of the configuration. -/
def FEnd.config (reason engine : Nat) : FEnd := ⟨FAB_CONFIG, reason, engine, 0, 0, false⟩
/-- R418: an access that failed. -/
def FEnd.access (code engine element addr : Nat) : FEnd := ⟨code, 0, engine, element, addr, false⟩

/-- R402: the status word. -/
def FCard.status (k : FCard) : Nat :=
  2 ^ 63 + k.code % 256 * 2 ^ 48 + k.reason % 256 * 2 ^ 40 + k.engine % 16 * 2 ^ 36 + b2n k.cancelled * 2 ^ 34 + b2n k.inf * 2 ^ 33 +
  b2n k.nan * 2 ^ 32 + k.element % 2 ^ 32

/-- The bound context of a running job. -/
def State.jobCtx (s : State) (cl : Nat) (k : FCard) : Option FCtx := if k.stage = .running then (s.fab cl).ctx? k.ctx else none

/-! ## Memory accesses of a context (R416) -/

/-- What a context's access comes to. -/
inductive FGet where
  | ok (bs : List Byte)
  | bad (code addr : Nat)
  | wait (s : State)        -- a walk has been begun
  | hold                    -- one is outstanding

/-- A miss: the failed request's code, a walk begun with PATH 3, or a wait (R224, R227, R229, R416). -/
def State.fabPage (s : State) (cl : Nat) (k : FCard) (x : FCtx) (va kind : Nat) : FGet :=
  let u := va / 8192
  if x.failed.contains u then .bad PAGE_UNRESOLVED va
  else if x.pages.contains u then .hold
  else .wait ((s.engPage k.info.core k.info.launch k.info.asid va kind 3).setFCtx cl k.ctx { x with pages := x.pages ++ [u] })

/-- n bytes read by a context; no REMOTE page (R416). -/
def State.fabRead (s : State) (cl : Nat) (k : FCard) (x : FCtx) (va n : Nat) : FGet :=
  match s.bankSpan k.info.core k.info.asid (n / 8192 + 2) va n with
  | .ok bs => .ok bs
  | .error (.bad code a) => .bad code a
  | .error (.page a _) => s.fabPage cl k x a 1
  | .error _ => .hold

end Sys2Proof.Machine
end

