-- ==== Sys2Proof/Machine/Fab.lean ====
section
/-!
DEFINITION. Class FAB and the commands of a fabric command list (R400 to R406).
-/
namespace Sys2Proof.Machine

/-! ## fjob (R401) -/

/-- A card taken for a seat of a train. -/
def newCard (info : FaultInfo) (frame train opId : Nat) (tt : Bool) (card : Nat) (bufs : List Nat) (copy : Option Nat) (due slot seq : Nat) :
    FCard :=
  { slot := slot, seq := seq, info := info, frame := frame, train := train, opId := opId, tt := tt, card := card, bufs := bufs, copy := copy,
    stage := .waiting, ctx := 0, code := 0, reason := 0, engine := 0, cancelled := false, inf := false, nan := false, element := 0,
    faddr := 0, orphan := false, cancelOps := [], pages := [], failed := [], due := due }

/-- The checks of a card address: an aligned read that stays on the device (R401, R416). -/
def State.cardAccess (s : State) (c : Nat) (t : Train) (x : Seat) : Acc :=
  match s.access c t.asid t.failed (t.slot x.n t.pc .l).toNat 128 .read with
  | .ok pa e => if leafRemote e.leaf then .bad ACCESS_VIOLATION else if granuleBad s.bad pa 128 then .bad DATA_UNCORRECTABLE else .ok pa e
  | r => r

/-- R401: one seat's card posted: the REASON of a failure, or the state with the card and its id word. -/
def State.postCard (s : State) (c : Nat) (r : LaunchRef) (asid prog k : Nat) (mk : Nat → List Nat → Nat → Nat → FCard) (copy : Bool) :
    Except Nat (State × Word) :=
  let bufs := s.cardBufs c asid k
  let b : Option (List Nat) := match bufs with | .ok l => some l | .error _ => none
  let reason := s.cardReason c asid prog r copy k b
  if reason != 0 then .error reason
  else
    match b with
    | none => .error 3
    | some l =>
      let d := s.draw
      let q := d.2.takeCard (clusterOf c) (mk (s.cyc.toNat + 1 + Config.latency d.1) l)
      .ok (q.1, fabId c q.2.2 q.2.1)

/-- R401: one active seat, its address checked. -/
def State.fjobSeat (s : State) (c : Nat) (t : Train) (a : Nat) (x : Seat) : State × Train :=
  match s.cardAccess c t x with
  | .bad code => s.takeFault c t x code 0 0 (t.slot x.n t.pc .l).toNat t.pc
  | .miss => (s, t)
  | .ok pa _ =>
    let n := s.newOp c
    let info := s.seatInfo c t x 0 0 0 0 t.pc
    let card := s.mem.readNat pa 128
    match (n.2.startOp c t.uid 22 3 n.1).postCard c t.launch t.asid t.prog card
        (fun due l slot seq => newCard info x.inst.handle t.uid n.1 false card l none due slot seq) false with
    | .error reason => s.takeFault c t x FAB_CONFIG 0 reason 0 t.pc
    | .ok (s1, v) => s1.giveSeat c t x a v 0

/-- R401: the seats in order, each checked and then held until the fabric has a free slot; true when all are served. -/
def State.fjobSeats (s : State) (c a : Nat) : Train → List Seat → State × Train × Bool
  | t, [] => (s, t, true)
  | t, x :: xs =>
    if (s.fab (clusterOf c)).room || (match s.cardAccess c t x with | .bad _ => true | _ => false) then
      let r := s.fjobSeat c t a x
      State.fjobSeats r.1 c a { r.2 with moved := x.n + 1 } xs
    else (s, t, false)

/-- R427: `fjob` in timetable mode: the request goes to the boundary; its id word is late. -/
def State.fjobLater (s : State) (c : Nat) (t : Train) (a : Nat) (x : Seat) : State × Train :=
  match s.cardAccess c t x with
  | .bad code => s.takeFault c t x code 0 0 (t.slot x.n t.pc .l).toNat t.pc
  | _ =>
    let n := s.newOp c
    let i := (n.2.startOp c t.uid 22 3 n.1).newOp c
    let s1 := i.2
    let regs := t.writeRegs
    let q : FReq := { ask := .job (t.slot x.n t.pc .l).toNat a regs i.1, info := s.seatInfo c t x 0 0 0 0 t.pc, handle := x.inst.handle,
                      train := t.uid, opId := n.1, pages := [], failed := [] }
    let s2 := regs.foldl (fun st g => st.pendReg c t x g i.1) s1
    (s2.updEng c (fun e => { e with fq := e.fq ++ [q] }), t.pendOn x.n a i.1)

/-- Pages of a buffer table or of a ring's descriptor without a leaf that no failed request answers: they hold the train (R229, R345). -/
def State.tableMiss (s : State) (c : Nat) (t : Train) (x : Seat) : List (Nat × Nat × Nat) :=
  match s.cardAccess c t x with
  | .ok pa _ =>
    let card := s.mem.readNat pa 128
    match s.cardBufs c t.asid card with
    | .error (.page va _) => if (failedCode t.failed va).isSome then [] else [(va, 1, 3)]
    | .ok bufs =>
      if fcRingv card && s.cardReason c t.asid t.prog t.launch false card (some bufs) == 4 then
        (s.ringMiss t.launch (fcRingk card) t.failed).toList.map (fun va => (va, 8, 1))
      else []
    | _ => []
  | _ => []

/-- R401 `fjob`. -/
def execFjob (a : BitVec 8) (s : State) : Host.Outcome State Fault Refusal :=
  withTrain s (fun c t0 =>
    match s.prepare c t0 with
    | .hold s' => .next s'
    | .go s0 t =>
      let xs := t.seats.filter (fun x => decide (t.moved ≤ x.n))
      let ms := xs.flatMap (fun x =>
        match s0.cardAccess c t x with
        | .miss => [((t.slot x.n t.pc .l).toNat, Need.read.kind, 3)]
        | _ => [])
      if !ms.isEmpty then .next (s0.missHold c t ms)
      else afterWrites s0 c t 63 (fun s1 =>
      if s1.inTT t.launch then
        let r := s1.actSeats c t (xs.map (fun x => (x, ()))) (fun st tr x _ => st.fjobLater c tr a.toNat x)
        .next ((r.1.putTrain c r.2).retireUid c t.uid)
      else
        let tm := xs.flatMap (s1.tableMiss c t)
        if !tm.isEmpty then .next (s1.missHold c t tm)
        else
          match s1.fjobSeats c a.toNat t xs with
          | (s2, t2, true) => .next ((s2.putTrain c t2).retireUid c t2.uid)
          | (s2, t2, false) => .next ((s2.putTrain c t2).holdTrain c t2 .engine)))

/-! ## fwait and fcan (R402, R403) -/

/-- The job an id word names for a train on core c (R402). -/
def State.fabNamed (s : State) (c : Nat) (w : Word) : Option FCard :=
  match (s.fab (clusterOf c)).card? (bits w 6 0) with
  | some k => if bits w 42 32 = c ∧ k.info.core = c ∧ bits w 31 16 = k.seq ∧ k.copy = none then some k else none
  | none => none

/-- R402: one seat whose job has completed. -/
def State.fwaitSeat (s : State) (c : Nat) (t : Train) (nf : Bool) (a : Nat) (x : Seat) : State × Train :=
  let give := fun (st : State) (v : Word) => st.giveSeat c t x a v 22
  match s.fabNamed c (t.slot x.n t.pc .l) with
  | none => give s 0
  | some k =>
    let s1 := s.updFab (clusterOf c) (fun f => f.dropCard k.slot)
    if k.code != 0 && !nf then s1.takeFault c t x k.code 0 k.status k.faddr t.pc else give s1 (BitVec.ofNat 64 k.status)

/-- R402: whether some job that a seat of `fwait` names has not completed. -/
def State.fwaitHolds (s : State) (c : Nat) (t : Train) : Bool :=
  t.seats.any (fun x => match s.fabNamed c (t.slot x.n t.pc .l) with | some k => k.stage != .done | none => false)

/-- R427: in timetable mode an `fwait` is asked for at the boundary, once, and its train holds until its values have landed there. -/
def State.fwaitLater (s : State) (c : Nat) (t : Train) (nf : Bool) (a : Nat) : State :=
  let asked := (s.core c).eng.fq.any (fun q => q.train == t.uid && (match q.ask with | .wait .. => true | _ => false))
  let s1 := match t.seats.head? with
    | some x =>
      let q : FReq := { ask := .wait nf a, info := s.seatInfo c t x 0 0 0 0 t.pc, handle := x.inst.handle, train := t.uid, opId := 0, pages := [],
                        failed := [] }
      if asked then s else s.updEng c (fun e => { e with fq := e.fq ++ [q] })
    | none => s
  s1.holdTrain c t .engine

/-- R402 `fwait`. -/
def execFwait (a : BitVec 8) (n : BitVec 1) (s : State) : Host.Outcome State Fault Refusal :=
  withTrain s (fun c t0 =>
    match s.prepare c t0 with
    | .hold s' => .next s'
    | .go s0 t =>
      if s0.inTT t.launch && !t.seats.isEmpty then .next (s0.fwaitLater c t (n == 1) a.toNat)
      else if s0.fwaitHolds c t then .next (s0.holdTrain c t .engine)
      else
        let r := s0.actSeats c t (t.seats.map (fun x => (x, ()))) (fun st tr x _ => st.fwaitSeat c tr (n == 1) a.toNat x)
        .next ((r.1.putTrain c r.2).retireUid c t.uid))

/-- The job of a launch that an id word names, on the fabric of the core it names (R403, R404). -/
def State.fabJob (s : State) (r : LaunchRef) (w : Word) : Option FCard :=
  let core := bits w 42 32
  match (s.fab (clusterOf core)).card? (bits w 6 0) with
  | some k => if k.info.core = core ∧ bits w 31 16 = k.seq ∧ k.info.launch = r ∧ k.copy = none then some k else none
  | none => none

/-- A waiting card leaves the queue as a cancelled job; a bound one ends (R403). One that has ended keeps the operations that end with it. -/
def State.cancelJob (s : State) (cl : Nat) (k : FCard) : State :=
  match k.stage with
  | .waiting => s.setFCard cl { k with stage := .ended, cancelled := true }
  | .running => s.endJob cl k ⟨0, 0, 0, 0, 0, true⟩
  | .ended | .ring | .done => s.setFCard cl k

/-- R403: the job is cancelled; an operation of core c ends with it. -/
def State.cancelFor (s : State) (c : Nat) (r : LaunchRef) (w : Word) (opId : Nat) : State :=
  match s.fabJob r w with
  | some k =>
    if k.stage = .done then s.endOp c opId
    else s.cancelJob (clusterOf (bits w 42 32)) { k with cancelOps := k.cancelOps ++ [(c, opId)] }
  | none => s.endOp c opId

/-- R403, R400 `fcan`: reads L of the lowest active seat. -/
def execFcan (s : State) : Host.Outcome State Fault Refusal :=
  withTrain s (fun c t =>
    match t.seats with
    | [] => .next (s.retire c t)
    | x :: _ =>
      let w := t.slot x.n t.pc .l
      let n := s.newOp c
      let s1 := n.2.startOp c t.uid 22 3 n.1
      if s.inTT t.launch then
        let q : FReq := { ask := .can w, info := s.seatInfo c t x 0 0 0 0 t.pc, handle := x.inst.handle, train := t.uid, opId := n.1, pages := [],
                          failed := [] }
        .next ((s1.updEng c (fun e => { e with fq := e.fq ++ [q] })).retire c t)
      else .next ((s1.cancelFor c t.launch w n.1).retireUid c t.uid))

/-! ## fpush and fpull (R404) -/

/-- A train port of a running job: cluster, card, engine. -/
def State.trainPort (s : State) (r : LaunchRef) (w : Word) (e kind : Nat) : Option (Nat × FCard × FCtx × FEng) :=
  match s.fabJob r w with
  | none => none
  | some k =>
    let cl := clusterOf (bits w 42 32)
    match s.jobCtx cl k with
    | none => none
    | some x =>
      match NMap.get? x.engs e with
      | some g => if fdKind g.desc = kind then some (cl, k, x, g) else none
      | none => none

/-- R404: REASON 14 for the lowest active seat. -/
def State.portFault (s : State) (c : Nat) (t : Train) (e : Nat) : State :=
  match t.seats with
  | [] => s.retire c t
  | x :: _ =>
    let r := s.takeFault c t x FAB_CONFIG 0 (14 + 256 * e) 0 t.pc
    r.1.retire c r.2

/-- Groups of 16 seats with an active seat, ascending. -/
def Train.groups16 (t : Train) : List Nat := dedup (t.seats.map (fun x => x.n / 16))

/-- R404: the token of group g. -/
def Train.groupTok (t : Train) (g : Nat) : FTok :=
  let seat := fun (i : Nat) => t.seat? (16 * g + i)
  mkTok ((List.range 16).map (fun i => if (seat i).isSome then bits (t.slot (16 * g + i) t.pc .r) 31 0 else 0))
    (packAt 1 (fun i => b2n (seat i).isSome) 16) 0

/-- Everything an `fpush` injects. -/
def Train.pushToks (t : Train) (fin : Bool) : List FTok := t.groups16.map t.groupTok ++ (if fin then [finTok 0] else [])

/-- Tokens injected while the port has room: how many went in. -/
def State.injectToks (s : State) (cl ctx e : Nat) : List FTok → Nat → State × Nat
  | [], n => (s, n)
  | k :: ks, n =>
    match (s.fab cl).ctx? ctx with
    | none => (s, n)
    | some x =>
      match NMap.get? x.engs e with
      | none => (s, n)
      | some g =>
        if g.port.length < 8 then
          (s.setFCtx cl ctx { x with engs := NMap.set x.engs e { g with port := g.port ++ [k] } }).injectToks cl ctx e ks (n + 1)
        else (s, n)

/-- R404 `fpush`. -/
def execFpush (e : BitVec 1) (n : BitVec 4) (s : State) : Host.Outcome State Fault Refusal :=
  withTrain s (fun c t =>
    match t.seats with
    | [] => .next (s.retire c t)
    | x :: _ =>
      let w := t.slot x.n t.pc .l
      match s.trainPort t.launch w n.toNat 7 with
      | none => .next (s.portFault c t n.toNat)
      | some (cl, k, _, _) =>
        let toks := t.pushToks (e == 1)
        if s.inTT t.launch then
          let o := s.newOp c
          let q : FReq := { ask := .push cl k.slot n.toNat toks, info := s.seatInfo c t x 0 0 0 0 t.pc, handle := x.inst.handle,
                            train := t.uid, opId := o.1, pages := [], failed := [] }
          .next (((o.2.startOp c t.uid 22 3 o.1).updEng c (fun g => { g with fq := g.fq ++ [q] })).retire c t)
        else
          let r := s.injectToks cl k.ctx n.toNat (toks.drop t.moved) t.moved
          if toks.length ≤ r.2 then .next (r.1.retire c t) else .next (r.1.holdTrain c { t with moved := r.2 } .engine))

/-- R404: what seat 16g + i receives of a token; the bits of an invalid element are open (log 12). -/
def pullWord (k : FTok) (i : Nat) (free : Word) : Word :=
  match k.kind with
  | .fin => BitVec.ofNat 64 (2 ^ 33)
  | _ =>
    let v := k.valid.testBit i
    BitVec.ofNat 64 ((if v then k.data.getD i 0 else bits free 31 0) + b2n v * 2 ^ 32 + (if k.kind = .err then 2 ^ 34 else 0))

/-- The token at a train-out port taken: END stays there and finishes the engine (R404, R406). -/
def State.takePort (s : State) (cl ctx e : Nat) : Option (FTok × State) :=
  match (s.fab cl).ctx? ctx with
  | none => none
  | some x =>
    match NMap.get? x.engs e with
    | none => none
    | some g =>
      match g.port with
      | [] => none
      | k :: ks =>
        let g' := if k.kind = .fin then { g with running := false } else { g with port := ks }
        some (k, s.setFCtx cl ctx { x with engs := NMap.set x.engs e g' })

/-- R404: the groups in order, each held until a token or END is at the port; true when all are served. -/
def State.pullGroups (s : State) (c cl ctx e a : Nat) : Train → List Nat → State × Train × Bool
  | t, [] => (s, t, true)
  | t, g :: gs =>
    match s.takePort cl ctx e with
    | none => (s, t, false)
    | some (k, s1) =>
      let xs := seatsByTag s c (t.seats.filter (fun x => x.n / 16 == g))
      let r := xs.foldl (fun (p : State × Train) x =>
        let d := p.1.draw
        let v := pullWord k (x.n % 16) (Config.freeWord d.1)
        d.2.issueLate c p.2 x (loadTargets a 3) [(a, v)] v 0 22 3 .far) (s1, t)
      State.pullGroups r.1 c cl ctx e a { r.2 with moved := g + 1 } gs

/-- R427: one group of an `fpull` in timetable mode, asked for at the boundary; its values are late. -/
def State.pullLater (s : State) (c cl slot e a : Nat) (x0 : Seat) (t : Train) (g : Nat) : State × Train :=
  let regs := t.writeRegs
  let r := (t.seats.filter (fun x => x.n / 16 == g)).foldl (fun (p : State × Train × List (Nat × Nat × Nat)) x =>
    let n := p.1.newOp c
    let s1 := n.2.startOp c t.uid 22 3 n.1
    (regs.foldl (fun st k => st.pendReg c p.2.1 x k n.1) s1, p.2.1.pendOn x.n a n.1, p.2.2 ++ [(x.n, x.inst.handle, n.1)])) (s, t, [])
  let q : FReq := { ask := .pull cl slot e r.2.2 a regs, info := s.seatInfo c t x0 0 0 0 0 t.pc, handle := x0.inst.handle, train := t.uid,
                    opId := 0, pages := [], failed := [] }
  (r.1.updEng c (fun k => { k with fq := k.fq ++ [q] }), r.2.1)

/-- R404 `fpull`. -/
def execFpull (a : BitVec 8) (n : BitVec 4) (s : State) : Host.Outcome State Fault Refusal :=
  withTrain s (fun c t0 =>
    match s.prepare c t0 with
    | .hold s' => .next s'
    | .go s0 t =>
      match t.seats with
      | [] => .next (s0.retire c t)
      | x :: _ =>
        match s0.trainPort t.launch (t.slot x.n t.pc .l) n.toNat 8 with
        | none => .next (s0.portFault c t n.toNat)
        | some (cl, k, _, _) =>
          let gs := t.groups16.filter (fun g => decide (t.moved ≤ g))
          if s0.inTT t.launch then
            let r := gs.foldl (fun (p : State × Train) g => p.1.pullLater c cl k.slot n.toNat a.toNat x p.2 g) (s0, t)
            .next ((r.1.putTrain c r.2).retireUid c t.uid)
          else
            match s0.pullGroups c cl k.ctx n.toNat a.toNat t gs with
            | (s1, t1, true) => .next ((s1.putTrain c t1).retireUid c t.uid)
            | (s1, t1, false) => .next ((s1.putTrain c t1).holdTrain c t1 .engine))

/-! ## Command lists (R405, R406) -/

/-- The running job of context n of a cluster, whose command executes. -/
def State.streamJob (s : State) : Option (Nat × FCard × FCtx) :=
  let cl := s.cur.1
  match (s.fab cl).cards.find? (fun k => k.stage == .running && k.ctx == s.cur.2) with
  | some k => (s.jobCtx cl k).map (fun x => (cl, k, x))
  | none => none

/-- Run a command of the current context: `none` while it waits. -/
def withJob (s : State) (f : Nat → FCard → FCtx → Option State) : Host.Outcome State Fault Refusal :=
  match s.streamJob with
  | some (cl, k, x) => .next ((f cl k x).getD s)
  | none => .fault .notEnabled

/-- Operand i of the command at PC (R405). -/
def FCtx.operand (x : FCtx) (i : Nat) : Nat :=
  x.words.getD (x.pc + 1 + 2 * i) 0 + x.words.getD (x.pc + 2 + 2 * i) 0 * 2 ^ 32

/-- The context at the next command. -/
def FCtx.advance (x : FCtx) (operands : Nat) : FCtx := { x with pc := x.pc + 1 + 2 * operands }

/-- A read of the sequencer: its failure ends the job, a missing page holds it. -/
def State.withRead (s : State) (cl : Nat) (k : FCard) (x : FCtx) (va n e : Nat) (f : List Byte → Option State) : Option State :=
  match s.fabRead cl k x va n with
  | .ok bs => f bs
  | .bad code a => some (s.endJob cl k (FEnd.access code e 0 a))
  | .wait s' => some s'
  | .hold => none

/-- R407: the header's own checks against the length and the footprint. -/
def headOk (h len : Nat) (x : FCtx) : Bool :=
  natBits h 15 0 == 0x4643 && natBits h 511 64 == 0 && decide (1 ≤ natBits h 23 16 ∧ natBits h 23 16 ≤ 144) &&
  len == 64 + 32 * natBits h 23 16 && decide (natBits h 27 24 ≤ x.fh ∧ natBits h 31 28 ≤ x.fw)

/-- R412 REASONS 6, 7 and 9 of an image; 0 when it passes. -/
def imageReason (h : Nat) (us : List Nat) : Nat :=
  if !us.all (fun u => fuPlaced u (natBits h 27 24) (natBits h 31 28)) || overlapping us then 6
  else if !us.all fuLegal then 7
  else if !scopeOk (natBits h 63 32) then 9
  else 0

/-- R406 `scfg`. -/
def State.doScfg (s : State) (cl : Nat) (k : FCard) (x : FCtx) : Option State :=
  if x.engs.any (fun e => e.2.running) then none
  else
    let fail := fun (r : Nat) => some (s.endJob cl k (FEnd.config r 0))
    let va := x.operand 0
    let len := x.operand 1
    if va % 64 ≠ 0 then fail 6
    else
      s.withRead cl k x va 64 0 (fun hb =>
        let h := ofLE hb
        if !headOk h len x then fail 6
        else
          let n := natBits h 23 16
          s.withRead cl k x (va + 64) (32 * n) 0 (fun bs =>
            let us := (List.range n).map (fun i => ofLE ((bs.drop (32 * i)).take 32))
            let r := imageReason h us
            if r ≠ 0 then fail r
            else some (s.setFCtx cl k.ctx { x.advance 2 with scope := some (natBits h 63 32), units := us.map FUnit.fresh, check := none, imgAt := va })))

/-- R406 `scfg`: loads and places a configuration image. -/
def execScfg (s : State) : Host.Outcome State Fault Refusal := withJob s (fun cl k x => s.doScfg cl k x)

/-- A fresh binding of an engine. -/
def FEng.fresh (phys desc : Nat) (pats : List Nat) : FEng :=
  { phys := phys, desc := desc, pats := pats, iter := 0, running := false, started := false, pos := 0, commit := 0, total := 0, queue := [],
    port := [], srcOk := false, mark := 0, tsize := 0, cells := [] }

/-- R420: the tile size of the partition a notify sink names, on the core its TAG names. -/
def State.notifySize (s : State) (r : LaunchRef) (asid d : Nat) : Option Nat :=
  let tag := fdTag d
  if tagDevice tag ≠ s.link.device ∨ 1280 ≤ tagCore tag ∨ tagAsid tag ≠ asid then none
  else (poolFind (s.core (tagCore tag)).eng.pool r (fdParam d / 256 % 8)).map (fun q => tileBytes q.tsize)

/-- R412 REASONS 10 and 14 of a descriptor. -/
def State.bindReason (s : State) (k : FCard) (e d : Nat) : Nat :=
  if !bindShape k.card e d || (fdKind d == 10 && (s.notifySize k.info.launch k.info.asid d).isNone) then 10
  else if (fdKind d == 5 || fdKind d == 6) && k.copy.isNone then 14
  else 0

/-- R414, R421: a checked binding takes effect: the earlier one is given up, a tile sink registers its write. -/
def State.bindEng (s : State) (cl : Nat) (k : FCard) (x : FCtx) (e : Nat) (g : FEng) : State :=
  let c := k.info.core
  let r := k.info.launch
  let old := NMap.get? x.engs e
  let s1 := match old with | some o => s.dropEng c r o | none => s
  let past := match old with | some o => if countsCommit (fdKind o.desc) then o.commit + o.total else 0 | none => 0
  let put := fun (st : State) (g' : FEng) =>
    st.setFCtx cl k.ctx { x.advance 1 with engs := NMap.set x.engs e g', kinds := dedup (x.kinds ++ [fdKind g.desc]), past := x.past + past }
  match fdKind g.desc, tileRef c r g.handle (fun h => (s1.core h).eng.pool) with
  | 4, some (h, _, t) =>
    match t.judge h.gen .write false with
    | .go =>
      let q := (s1.core c).eng.newMark c
      put ((s1.updEng c (fun _ => q.2)).updEng h.core (fun e => e.register h.key q.1)) { g with mark := q.1 }
    | .overread => s1.endJob cl k ⟨TILE_OVERREAD, 0, e, 0, 0, false⟩
    | _ => s1.endJob cl k ⟨TILE_STALE, 0, e, 0, 0, false⟩
  | _, _ => put s1 g

/-- R406 `sbind` of engine e; it waits while the engine's earlier binding runs. -/
def State.doSbind (s : State) (cl : Nat) (k : FCard) (x : FCtx) (e : Nat) : Option State :=
  if ((NMap.get? x.engs e).map (fun g => g.running)).getD false then none
  else
    let fail := fun (r : Nat) => some (s.endJob cl k (FEnd.config r e))
    let va := x.operand 0
    if va % 64 ≠ 0 then fail 10
    else
      s.withRead cl k x va 64 e (fun bs =>
        let d := ofLE bs
        let r := s.bindReason k e d
        if r ≠ 0 then fail r
        else
          s.withRead cl k x (fdPat d) (16 * fdNdim d) e (fun ps =>
            let g0 := FEng.fresh (x.phys.getD e 0) d (cutBufs ps (fdNdim d))
            let g := { g0 with tsize := (s.notifySize k.info.launch k.info.asid d).getD 0 }
            let q := s.patReason k.info.core k.info.launch k.bufs g
            if q ≠ 0 then fail q else some (s.bindEng cl k x e g)))

/-- R406 `sbind`: binds an edge engine from a descriptor. -/
def execSbind (e : BitVec 4) (s : State) : Host.Outcome State Fault Refusal := withJob s (fun cl k x => s.doSbind cl k x e.toNat)

/-- Engine numbers of a mask, ascending. -/
def maskList (m : Nat) : List Nat := (List.range 16).filter (fun i => m.testBit i)

/-- R412 REASON 8: every (bus, label) has one producer at most, and one at least where it is listened to. -/
def FCtx.labelsOk (x : FCtx) : Bool :=
  let made := x.units.flatMap (fun u => fuSends u.entry) ++ x.engs.flatMap (fun e => dedup (fdSends e.2.desc))
  let heard := x.units.flatMap (fun u => (List.range 3).filterMap (fuListens u.entry)) ++ x.engs.filterMap (fun e => fdListens e.2.desc)
  (dedup made).length == made.length && heard.all (fun k => made.contains k)

/-- R413: whether a level is bound by the image, and by the launch's map where the image hands it on. -/
def State.levelBound (s : State) (r : LaunchRef) (sc level : Nat) : Bool :=
  let c := fabScope sc level
  if c = 15 then false
  else if c = 3 then
    (match s.launch? r with | some l => scopeCode (recScopeMap l.record) level != 7 | none => false)
  else true

/-- R406, R416: the engine as `sgo` starts it. -/
def FEng.start (g : FEng) (iter : Nat) : FEng :=
  { g with iter := iter, running := true, started := true, pos := 0, total := g.total + g.commit, commit := 0, queue := [], cells := [],
           port := g.port.filter (fun t => fdKind g.desc == 7 || t.kind != .fin) }

/-- R406: the first failing engine of `sgo`, with its REASON. -/
def State.goReason (s : State) (k : FCard) (x : FCtx) (m : Nat) : Option (Nat × Nat) :=
  let es := maskList m
  match es.find? (fun e => (NMap.get? x.engs e).isNone) with
  | some e => some (13, e)
  | none =>
    match x.scope with
    | none => some (13, 0)
    | some sc =>
      if !x.labelsOk then some (8, 0)
      else
        es.findSome? (fun e =>
          match NMap.get? x.engs e with
          | none => none
          | some g =>
            let kind := fdKind g.desc
            if (kind == 4 || kind == 10) && !s.levelBound k.info.launch sc (fdScope g.desc) then some (9, e)
            else
              let r := s.patReason k.info.core k.info.launch k.bufs (g.start x.iter)
              if r = 0 then none else some (r, e))

/-- R406, R419 `sgo`: checks, the checkpoint, and the engines of the mask started; it waits while one of them still runs. Where no engine runs a
phase begins: no token of an earlier one is left. Where some do, the checkpoint of their phase takes in the engines started now. -/
def State.doSgo (s : State) (cl : Nat) (k : FCard) (x : FCtx) (m : Nat) : Option State :=
  if (maskList m).any (fun e => ((NMap.get? x.engs e).map (fun g => g.running)).getD false) then none
  else
    match s.goReason k x m with
    | some (r, e) => some (s.endJob cl k (FEnd.config r e))
    | none =>
      let idle := !x.engs.any (fun e => e.2.running)
      let us := if idle then x.units.map (fun u => { u with ports := [[], [], []], emitted := 0, flushed := false, ended := false }) else x.units
      let engs := x.engs.map (fun e => if m.testBit e.1 then (e.1, e.2.start x.iter) else e)
      let ck : FCheck :=
        match (if idle then none else x.check) with
        | some old => ⟨old.units, x.iter, dedup (old.engs ++ maskList m)⟩
        | none => ⟨us, x.iter, maskList m⟩
      some (s.setFCtx cl k.ctx { x.advance 0 with units := us, engs := engs, check := some ck })

/-- R406 `sgo`. -/
def execSgo (m : BitVec 16) (s : State) : Host.Outcome State Fault Refusal := withJob s (fun cl k x => s.doSgo cl k x m.toNat)

/-- R406 `sbar`: waits until every engine of the mask has finished. -/
def State.doSbar (s : State) (cl : Nat) (k : FCard) (x : FCtx) (m : Nat) : Option State :=
  let es := maskList m
  match es.find? (fun e => (NMap.get? x.engs e).isNone) with
  | some e => some (s.endJob cl k (FEnd.config 13 e))
  | none =>
    if es.any (fun e => ((NMap.get? x.engs e).map (fun g => g.running)).getD false) then none
    else some (s.setFCtx cl k.ctx (x.advance 0))

/-- R406 `sbar`. -/
def execSbar (m : BitVec 16) (s : State) : Host.Outcome State Fault Refusal := withJob s (fun cl k x => s.doSbar cl k x m.toNat)

/-- R406 `sdone`: once every started engine has finished, the job ends; with REASON 14 that of a copy request which has not bound both copy kinds
(R422; log 87). -/
def State.doSdone (s : State) (cl : Nat) (k : FCard) (x : FCtx) : Option State :=
  if x.engs.any (fun e => e.2.running) then none
  else if k.copy.isSome && !(x.kinds.contains 5 && x.kinds.contains 6) then some (s.endJob cl k (FEnd.config 14 0))
  else some (s.endJob cl k ⟨0, 0, 0, 0, 0, false⟩)

/-- R406 `sdone`. -/
def execSdone (s : State) : Host.Outcome State Fault Refusal := withJob s (fun cl k x => s.doSdone cl k x)

/-- R405: 64-bit operands of a command by opcode. -/
def nopnd (w : Nat) : Nat :=
  match w / 2 ^ 24 with
  | 0x81 => 2
  | 0x82 => 1
  | _ => 0

/-- Word offset of command n from an offset. -/
def cmdOffset (ws : List Nat) : Nat → Nat → Nat
  | 0, off => off
  | n + 1, off => cmdOffset ws n (off + 1 + 2 * nopnd (ws.getD off 0))

/-- R406 `sloop`; met while another one is active, REASON 5. -/
def State.doSloop (s : State) (cl : Nat) (k : FCard) (x : FCtx) (count target : Nat) : State :=
  let go := fun (left : Nat) =>
    if 0 < left then s.setFCtx cl k.ctx { x with left := some (x.pc, left - 1), iter := x.iter + 1, pc := cmdOffset x.words target 0 }
    else s.setFCtx cl k.ctx { x.advance 0 with left := none }
  match x.left with
  | none => go count
  | some (p, left) => if p = x.pc then go left else s.endJob cl k (FEnd.config 5 0)

/-- R406 `sloop`. -/
def execSloop (c t : BitVec 8) (s : State) : Host.Outcome State Fault Refusal :=
  withJob s (fun cl k x => some (s.doSloop cl k x c.toNat t.toNat))

end Sys2Proof.Machine
end

