-- ==== Sys2Proof/Machine/FabRun.lean ====
section
/-!
DEFINITION. The fabric at work: the arbiter, sources, units, sinks, replay, completion, and jobs of copy requests (R399, R405 to R427).
-/
namespace Sys2Proof.Machine

/-! ## The arbiter (R399) -/

/-- Grid units that contexts hold, as 12r + c. -/
def Fabric.taken (f : Fabric) : List Nat :=
  f.ctxs.flatMap (fun e => (List.range (e.2.fh + 1)).flatMap (fun i => (List.range (e.2.fw + 1)).map (fun j =>
    12 * (e.2.orow + i) + e.2.ocol + j)))

/-- R399: the lowest free origin of an (h + 1) × (w + 1) rectangle. -/
def Fabric.place (f : Fabric) (h w : Nat) : Option (Nat × Nat) :=
  let used := f.taken
  ((List.range (12 - h)).flatMap (fun r => (List.range (12 - w)).map (fun c => (r, c)))).find? (fun o =>
    (List.range (h + 1)).all (fun i => (List.range (w + 1)).all (fun j => !used.contains (12 * (o.1 + i) + o.2 + j))))

/-- R399: context, engines and origin for a card, when all are free at once. -/
def Fabric.grant (f : Fabric) (card : Nat) : Option (Nat × List Nat × Nat × Nat) :=
  let busy := f.ctxs.flatMap (fun e => e.2.phys)
  let free := (List.range 16).filter (fun i => !busy.contains i)
  let n := fcNeng card + 1
  match (List.range 16).find? (fun i => (f.ctx? i).isNone), f.place (fcFh card) (fcFw card) with
  | some x, some o => if n ≤ free.length then some (x, free.take n, o.1, o.2) else none
  | _, _ => none

/-- R405: the commands of a list from an offset: each legal, with its number, up to the end; the flag tells that an `sdone` was seen. -/
def listOk (ws : List Nat) : Nat → Nat → Nat → Bool → Bool
  | 0, _, _, _ => false
  | fuel + 1, off, num, done =>
    if off = ws.length then done
    else if ws.length < off then false
    else
      match decodeWord 15 (BitVec.ofNat 32 (ws.getD off 0)) with
      | .error _ => false
      | .ok i =>
        let next := off + 1 + 2 * nopnd (ws.getD off 0)
        match i with
        | .sloop c t => c != 0 && decide (t.toNat < num) && listOk ws fuel next (num + 1) done
        | .sdone => listOk ws fuel next (num + 1) true
        | _ => listOk ws fuel next (num + 1) done

/-- A context right after its binding. -/
def FCtx.fresh (slot orow ocol fh fw : Nat) (phys ws : List Nat) : FCtx :=
  { slot := slot, orow := orow, ocol := ocol, fh := fh, fw := fw, phys := phys, left := none, iter := 0, pc := 0, stopped := false,
    replay := false, words := ws, scope := none, units := [], engs := [], check := none, imgAt := 0, kinds := [], past := 0, nan := false, inf := false, pages := [],
    failed := [] }

/-- The card's command list, read in full (R399). -/
def State.readList (s : State) (k : FCard) : Except EGet (List Nat) :=
  if fcCmdAddr k.card % 4 ≠ 0 then .ok []
  else
    match s.bankSpan k.info.core k.info.asid 3 (fcCmdAddr k.card) (4 * fcWords k.card) with
    | .ok bs => .ok ((List.range (fcWords k.card)).map (fun i => ofLE ((bs.drop (4 * i)).take 4)))
    | .error e => .error e

/-- R399: the head card is bound and its list read and checked; none when there is no card to bind, or it waits for a page. -/
def State.cardBind (s : State) (cl : Nat) : Option State :=
  match (s.fab cl).waiting with
  | [] => none
  | k :: _ =>
    match (s.fab cl).grant k.card with
    | none => none
    | some (n, phys, r, c) =>
      let bind := fun (ws : List Nat) =>
        let k' : FCard := { k with stage := .running, ctx := n }
        (k', s.updFab cl (fun f => { f.setCard k' with
          ctxs := NMap.set f.ctxs n (FCtx.fresh k.slot r c (fcFh k.card) (fcFw k.card) phys ws) }))
      match s.readList k with
      | .ok ws =>
        let b := bind ws
        if listOk ws (ws.length + 1) 0 0 false then some b.2 else some (b.2.endJob cl b.1 (FEnd.config 5 0))
      | .error (.bad code a) => let b := bind []; some (b.2.endJob cl b.1 (FEnd.access code 0 0 a))
      | .error (.page va _) =>
        let u := va / 8192
        if k.failed.contains u then let b := bind []; some (b.2.endJob cl b.1 (FEnd.access PAGE_UNRESOLVED 0 0 va))
        else if k.pages.contains u then none
        else some ((s.engPage k.info.core k.info.launch k.info.asid va 1 3).setFCard cl { k with pages := k.pages ++ [u] })
      | .error _ => none

/-! ## Sources (R414, R415, R417) -/

/-- ORIGIN of a code a source's access met (R417). -/
def originOf (code : Nat) : Nat := if code = PAGE_UNRESOLVED then 2 else if code = DATA_UNCORRECTABLE then 4 else 3

/-- What a source gathers for one token: its elements, an error at a lane, or a wait. -/
inductive Gathered where
  | ok (data : List Nat) (valid : Nat)
  | err (data : List Nat) (valid lane origin : Nat)
  | wait (s : State)
  | hold

/-- Elements of a token, lane by lane; `rd` reads lane i, none where the lane is invalid. -/
def gatherLanes (rd : Nat → Option FGet) : Nat → Nat → List Nat → Nat → Gathered
  | 0, _, data, valid => .ok data valid
  | n + 1, i, data, valid =>
    match rd i with
    | none => gatherLanes rd n (i + 1) (data ++ [0]) valid
    | some (.ok bs) => gatherLanes rd n (i + 1) (data ++ [ofLE bs % 2 ^ 32]) (valid + 2 ^ i)
    | some (.bad code _) => .err data valid i (originOf code)
    | some (.wait s) => .wait s
    | some .hold => .hold

/-- An engine replaced in a context. -/
def FCtx.setEng (x : FCtx) (e : Nat) (g : FEng) : FCtx := { x with engs := NMap.set x.engs e g }

/-- A source's next token, or END after n elements, sent when every listener has space (R394, R414). -/
def State.sendSource (s : State) (cl : Nat) (k : FCard) (x : FCtx) (e : Nat) (g : FEng) (n : Nat) (rd : Nat → Option FGet) : Option State :=
  if n ≤ 16 * g.pos then
    let ks := dedup (fdSends g.desc)
    if x.busRoom ks .fin then some (s.setFCtx cl k.ctx ((x.setEng e { g with running := false }).send ks (finTok n))) else none
  else
    let ks := [fdLabelOf g.desc g.pos]
    if !x.dataRoom ks then none
    else
      let put := fun (t : FTok) => some (s.setFCtx cl k.ctx ((x.setEng e { g with pos := g.pos + 1 }).send ks t))
      match gatherLanes (fun i => if 16 * g.pos + i < n then rd i else none) 16 0 [] 0 with
      | .ok data valid => put (mkTok data valid (16 * g.pos))
      | .err data valid lane origin => put (errTok data valid (16 * g.pos) origin lane)
      | .wait s' => some s'
      | .hold => none

/-- The token at the head of an engine's own queue sent on: from a train (R404), or a gather's result. -/
def State.sendOn (s : State) (cl : Nat) (k : FCard) (x : FCtx) (e : Nat) (g : FEng) (t : FTok) : Option State :=
  match t.kind with
  | .fin =>
    let ks := dedup (fdSends g.desc)
    if x.busRoom ks .fin then some (s.setFCtx cl k.ctx ((x.setEng e { g with running := false }).send ks (finTok (16 * g.pos)))) else none
  | _ =>
    let ks := [fdLabelOf g.desc g.pos]
    if x.busRoom ks t.kind then
      some (s.setFCtx cl k.ctx ((x.setEng e { g with pos := g.pos + 1 }).send ks { t with elem := 16 * g.pos }))
    else none

/-- The copy request that posted a job. -/
def State.postedBy (s : State) (k : FCard) : Option CopyReq :=
  match k.copy with
  | some slot => (s.core k.info.core).eng.copy? slot
  | none => none

/-- An element of a copy request as a 32-bit token element (R336); the spec states none for elements above 4 bytes (log 21). -/
def copyToken (recd : Nat) (bs : List Byte) : List Byte :=
  if crEsize recd ≤ 2 then bs else leBytes 4 (bits (Config.freeWord (ofLE bs)) 31 0)

/-- Element n of the posting request's source (R422). -/
def State.copySource (s : State) (cl : Nat) (k : FCard) (x : FCtx) (q : CopyReq) (n : Nat) : FGet :=
  let c := k.info.core
  let unit := unitCopy q.slot
  match s.elemSource c unit q.info.asid q.info.launch q.recd n with
  | .ok src => .ok (copyToken q.recd (src.getD 0 []))
  | .error (.bad code a) => .bad code a
  | .error (.page va _) => s.fabPage cl k x va 1
  | .error (.remote peer pa m va kind) =>
    if (s.core c).eng.asked unit then .hold else .wait (s.engAsk c unit q.info.launch peer pa m va kind)
  | .error _ => .hold

/-- R414, R415: a source edge engine sends its next token; none when it cannot. -/
def State.sourceToken (s : State) (cl : Nat) (k : FCard) (x : FCtx) (e : Nat) (g : FEng) : Option State :=
  let r := k.info.launch
  match fdKind g.desc with
  | 1 =>
    let b := k.bufs.getD (fdBuf g.desc) 0
    s.sendSource cl k x e g g.count (fun i =>
      some (s.fabRead cl k x ((fbBase b : Int) + g.addr + patDisp g.pats (16 * g.pos + i)).toNat 4))
  | 3 =>
    match tileRef k.info.core r g.handle (fun h => (s.core h).eng.pool) with
    | none => some (s.endJob cl k (FEnd.config 12 e))
    | some (h, _, t) =>
      match t.judge h.gen .take false with
      | .wait => none
      | .stale => some (s.endJob cl k (FEnd.access TILE_STALE e 0 0))
      | .overread => some (s.endJob cl k (FEnd.access TILE_OVERREAD e 0 0))
      | _ =>
        if g.srcOk then
          s.sendSource cl k x e g g.count (fun i =>
            let off := (g.off + patDisp g.pats (16 * g.pos + i)).toNat
            some (if s.tileErr h.core t off 4 then .bad DATA_UNCORRECTABLE 0 else .ok (t.mem.read off 4)))
        else some (s.setFCtx cl k.ctx (x.setEng e { g with srcOk := true }))
  | 5 =>
    match s.postedBy k with
    | none => none
    | some q => s.sendSource cl k x e g (crElems q.recd) (fun i => some (s.copySource cl k x q (16 * g.pos + i)))
  | 7 =>
    match g.port with
    | [] => none
    | t :: ts => s.sendOn cl k x e { g with port := ts } t
  | 9 =>
    match g.queue with
    | [] => none
    | t :: ts =>
      let g' := { g with queue := ts }
      let b := k.bufs.getD (fdBuf g.desc) 0
      let n := fdParam g.desc / 256
      let rd := fun (i : Nat) =>
        if !t.valid.testBit i then none
        else
          let v := t.data.getD i 0
          if n ≤ v then some (FGet.bad 0 0)
          else some (s.fabRead cl k x ((fbBase b : Int) + g.addr + 4 * v).toNat 4)
      if t.kind == .fin then s.sendOn cl k x e g' t
      else if !x.dataRoom [fdLabelOf g.desc g.pos] then none
      else
        match gatherLanes rd 16 0 [] 0 with
        | .ok data valid =>
          if t.kind == .err then s.sendOn cl k x e g' (errTok data valid 0 t.origin t.lane) else s.sendOn cl k x e g' (mkTok data valid 0)
        | .err data valid lane origin =>
          let o := if n ≤ t.data.getD lane 0 then 1 else origin
          if t.kind == .err && decide (t.lane ≤ lane) then s.sendOn cl k x e g' (errTok data valid 0 t.origin t.lane)
          else s.sendOn cl k x e g' (errTok data valid 0 o lane)
        | .wait s' => some s'
        | .hold => none
  | _ => none

/-! ## Units (R410, R411) -/

/-- The unit after a firing, and the token it emits, if any. -/
structure UnitStep where
  unit : FUnit
  out : Option FTok
  nan : Bool
  inf : Bool

/-- R98, R411: one token's elements folded into the accumulators. The first value of a lane is the fold so far, its bits unchanged, whatever the
register held since STATE0 (log 71). -/
def FUnit.fold (u : FUnit) (os : List FOut) : FUnit × Bool × Bool :=
  let op := fuOp u.entry
  let step := (List.range 16).map (fun i =>
    let o := os.getD i FOut.none
    let a := u.acc.getD i 0
    if !o.valid then ⟨a, false, false, false⟩
    else if !u.folded.testBit i then ⟨o.bits, true, false, false⟩
    else fOutOf u.entry (fabElem u.entry op a o.bits 0))
  ({ u with acc := step.map (·.bits),
            folded := packAt 1 (fun i => b2n (u.folded.testBit i || (os.getD i FOut.none).valid)) 16 },
   step.any (·.nan), step.any (·.inf))

/-- R402, R410: whether a fold delivers a NaN, and whether an infinity, in some lanes. -/
def FUnit.foldFlags (u : FUnit) (lanes : Nat) : Bool × Bool :=
  let vs := (List.range 16).filterMap (fun i => if lanes.testBit i then some (fp32.decode (u.acc.getD i 0)) else none)
  (fuType u.entry == 0 && vs.any (·.isNan), fuType u.entry == 0 && vs.any (·.isInf))

/-- R410: a firing with data at every stream port. -/
def FUnit.take (u : FUnit) (heads : List (Option FTok)) : UnitStep :=
  let e := u.entry
  let op := fuOp e
  let os := (List.range 16).map (u.element heads)
  let data := os.map (fun o => if o.valid then o.bits else 0)
  let valid := packAt 1 (fun i => b2n (os.getD i FOut.none).valid) 16
  let nan := os.any (·.nan)
  let inf := os.any (·.inf)
  let errs := (heads.filterMap id).filter (fun t => t.kind == .err)
  let bad := errs.foldl (fun (m : Option FTok) t => match m with | some b => if t.lane < b.lane then some t else m | none => some t) none
  let fd := if op = 9 ∨ op = 10 then u.fold os else (u, false, false)
  match bad with
  | some b =>
    let folds := op = 9 ∨ op = 10
    let shown : List Nat × Nat := if folds then (fd.1.acc, fd.1.folded) else (data, valid)
    let fl := if folds then fd.1.foldFlags (fd.1.folded % 2 ^ b.lane) else (false, false)
    ⟨{ fd.1 with emitted := u.emitted + 1 }, some (errTok shown.1 shown.2 (16 * u.emitted) b.origin b.lane), nan || fd.2.1 || fl.1,
     inf || fd.2.2 || fl.2⟩
  | none =>
    if op = 9 ∨ op = 10 then ⟨fd.1, none, fd.2.1, fd.2.2⟩
    else if op = 11 then
      let line := u.line ++ [mkTok data valid 0]
      if fuParam e % 256 < line.length then
        let o := line.getD 0 (mkTok [] 0 0)
        ⟨{ u with line := line.drop 1, emitted := u.emitted + 1 }, some { o with elem := 16 * u.emitted }, nan, inf⟩
      else ⟨{ u with line := line }, none, nan, inf⟩
    else ⟨{ u with emitted := u.emitted + 1 }, some (mkTok data valid (16 * u.emitted)), nan, inf⟩

/-- R410, R411: what a unit whose stream inputs have all delivered END emits next: the fold, the delay line, then END. -/
def FUnit.finish (u : FUnit) : UnitStep :=
  let op := fuOp u.entry
  if (op = 9 ∨ op = 10) ∧ u.flushed = false then
    let fl := u.foldFlags u.folded
    ⟨{ u with acc := List.replicate 16 (fuState0 u.entry), folded := 0, flushed := true, emitted := u.emitted + 1 },
     some (mkTok ((List.range 16).map (fun i => if u.folded.testBit i then u.acc.getD i 0 else 0)) u.folded (16 * u.emitted)), fl.1, fl.2⟩
  else
    match u.line with
    | o :: rest => ⟨{ u with line := rest, emitted := u.emitted + 1 }, some { o with elem := 16 * u.emitted }, false, false⟩
    | [] => ⟨{ u with ended := true }, some (finTok (16 * u.emitted)), false, false⟩

/-- Stream ports of a unit: BUS 1 or 2. -/
def FUnit.streamPorts (u : FUnit) : List Nat := (List.range 3).filter (fun p => fuBus u.entry p == 1 || fuBus u.entry p == 2)

/-- R410: unit i fires; none when it cannot, or a listener has no space. -/
def FCtx.unitFire (x : FCtx) (i : Nat) : Option FCtx :=
  match x.units[i]? with
  | none => none
  | some u =>
    let ps := u.streamPorts
    let heads := (List.range 3).map (fun p => if ps.contains p then (u.ports.getD p []).head? else none)
    let all := fun (f : FTok → Bool) => ps.all (fun p => match heads.getD p none with | some t => f t | none => false)
    let pop := fun (v : FUnit) => { v with ports := v.ports.mapIdx (fun p q => if ps.contains p then q.drop 1 else q) }
    let emit := fun (st : UnitStep) (v : FUnit) =>
      let y := { x with units := changeAt x.units i (fun _ => v), nan := x.nan || st.nan, inf := x.inf || st.inf }
      match st.out with
      | none => some y
      | some t => if x.busRoom (fuSends u.entry) t.kind then some (y.send (fuSends u.entry) t) else none
    if u.ended then none
    else if all (fun t => t.kind == .fin) then
      let st := u.finish
      emit st (if st.unit.ended then pop st.unit else st.unit)
    else if all (fun t => t.kind != .fin) then
      let st := u.take heads
      emit st (pop st.unit)
    else none

/-! ## Sinks (R415, R418, R420) -/

/-- What one element at a sink comes to. -/
inductive SinkRes where
  | ok (s : State)
  | bad (e : FEnd)
  | wait (s : State)
  | hold

/-- The outcome of a sink's write. -/
def State.sinkPut (s : State) (cl : Nat) (k : FCard) (x : FCtx) (e n : Nat) (r : EPut) : SinkRes :=
  match r with
  | .ok s' => .ok s'
  | .bad code a => .bad (FEnd.access code e n a)
  | .page va _ =>
    match s.fabPage cl k x va 2 with
    | .bad code a => .bad (FEnd.access code e n a)
    | .wait s' => .wait s'
    | _ => .hold

/-- A word written by a memory sink: no REMOTE or IMM page (R416, R418). -/
def State.sinkWrite (s : State) (c asid va v : Nat) : EPut :=
  match s.clusterAcc c asid va 4 .write with
  | .bad code => .bad code va
  | .noLeaf l => .page va l
  | .ok pa leaf _ _ =>
    if leafRemote leaf || leafIMM leaf then .bad ACCESS_VIOLATION va else .ok { s with mem := s.mem.writeNat pa 4 v }

/-- R336: output element n of a copy request as ESIZE bytes; the spec states none above 4 bytes (log 21). -/
def copyBytes (recd v : Nat) : List Byte :=
  if crEsize recd ≤ 2 then leBytes (2 ^ crEsize recd) v
  else leBytes (2 ^ crEsize recd) ((Config.freeWord v).toNat + (Config.freeWord (v + 2 ^ 32)).toNat * 2 ^ 64)

/-- The displacement of output element n: the source's shape with EXTENT_0·RPROD/RCONS elements in dimension 0 (R336). -/
def copyOutDisp (recd n : Nat) : Int :=
  let ext := fun (d : Nat) => if d = 0 then crExtent recd 0 * crRprod recd / Nat.max 1 (crRcons recd) else crExtent recd d
  strideSum (crDstride recd) (digits ext (crNdim recd) 0 n) 0

/-- The tile of a stream's chunk: its name, size, elements, and the handle of the notice (R353). -/
def State.chunkTile (s : State) (c : Nat) (q : CopyReq) : Option (TileKey × Nat × Nat × Word) :=
  match q.heard with
  | [] => none
  | h :: _ =>
    let size := match poolFind (s.core c).eng.pool q.info.launch (crPart q.recd) with | some p => tileBytes p.tsize | none => 1024
    some (⟨q.info.launch, crPart q.recd, hndTile h⟩, size, Nat.max 1 ((s.core c).eng.chunkElems q.info.launch q.recd), h)

/-- R353: a fabric stream's chunk is written whole: its tile is sealed, once the writes registered before the seal are performed (R315). A tile that
is no longer the stream's ends the request. -/
def State.chunkSeal (s : State) (c : Nat) (q : CopyReq) : State :=
  match s.chunkTile c q with
  | none => s.setCopy c q
  | some (key, _, per, h) =>
    let first := q.chunk * per
    let stop := Nat.min (crOut q.recd) (first + per)
    let wait := s.sealHeld c q key
    if wait.isEmpty then
      match s.sealCode c key h with
      | some code => s.setCopy c { q with fault := some (code, 0), sealFor := none }
      | none => s.sealChunk c q key h ((stop - first) * crDstSize q.recd) (decide (crOut q.recd ≤ stop))
    else s.setCopy c { q with sealFor := some wait }

/-- R336: a request after output element n: its chunk's tile is sealed when the element is the last of it (R353), its bytes are counted. -/
def State.sinkDone (s : State) (c : Nat) (q : CopyReq) (n before : Nat) : State :=
  if q.stream then
    if (n + 1) % Nat.max 1 ((s.core c).eng.chunkElems q.info.launch q.recd) = 0 ∨ crOut q.recd ≤ n + 1 then s.chunkSeal c q
    else s.setCopy c q
  else (s.setCopy c q).countBytes q (q.bytes - before)

/-- R354, R355: whether a fabric stream takes no further tile: it is cancelled, or its partition is not in state RUN. -/
def State.streamStops (s : State) (c : Nat) (q : CopyReq) : Bool :=
  q.stream && !(s.core c).eng.midChunk q &&
    (q.cancelled || (match s.partOfCluster (clusterOf c) with | some p => (s.part p).state != .run | none => true))

/-- Element n of the job's output at the copy sink (R336, R422). -/
def State.copySinkElem (s : State) (cl : Nat) (k : FCard) (x : FCtx) (e n : Nat) (v : Option Nat) : SinkRes :=
  let c := k.info.core
  match s.postedBy k with
  | none => .hold
  | some q =>
    if crOut q.recd ≤ n then .bad (FEnd.access COPY_BOUNDS e n 0)
    else if q.sealFor.isSome || q.fault.isSome || s.streamStops c q then .hold
    else
      let size := crDstSize q.recd
      let take := fun (st : State) =>
        let a := s.takeElem c { q with pos := n } (.ok st size false false)
        a.1.sinkDone c { a.2.1 with fabOut := q.fabOut + 1 } n q.bytes
      let place : Option Place :=
        if q.stream then (s.chunkTile c q).map (fun t => .tile c t.1 (hndGen t.2.2.2) t.2.1 ((n % t.2.2.1 * size : Nat) : Int))
        else some (s.placeOf c q.info.launch (crDkind q.recd) (crDst q.recd) (copyOutDisp q.recd n))
      match place with
      | none => .hold
      | some p =>
        let r := match v with
          | none => EPut.ok s
          | some w => s.placeWrite c (unitCopy q.slot) q.info.asid q.info.launch p (copyBytes q.recd w)
        match s.sinkPut cl k x e n r with
        | .ok s1 => .ok (take s1)
        | z => z

/-- R415, R418: element n of a sink's stream, valid with its bits or invalid. -/
def State.sinkElem (s : State) (cl : Nat) (k : FCard) (x : FCtx) (e : Nat) (g : FEng) (n : Nat) (v : Option Nat) : SinkRes :=
  match fdKind g.desc, v with
  | 2, some w =>
    if g.count ≤ n then .ok s
    else
      let b := k.bufs.getD (fdBuf g.desc) 0
      s.sinkPut cl k x e n (s.sinkWrite k.info.core k.info.asid ((fbBase b : Int) + g.addr + patDisp g.pats n).toNat w)
  | 4, some w =>
    if g.count ≤ n then .ok s
    else
      match tileRef k.info.core k.info.launch g.handle (fun h => (s.core h).eng.pool) with
      | some (h, _, _) =>
        let off := (g.off + patDisp g.pats n).toNat
        .ok (s.updEng h.core (fun q => { q with pool := poolUpd q.pool h.key (fun t => { t with mem := t.mem.writeNat off 4 w }) }))
      | none => .bad (FEnd.config 12 e)
  | 6, _ => s.copySinkElem cl k x e n v
  | _, _ => .ok s

/-- Elements of the stream that a sink counts: a pattern's own; a copy request's output (R402, R418). -/
def State.sinkLimit (s : State) (k : FCard) (g : FEng) : Option Nat :=
  match fdKind g.desc with
  | 2 | 4 => some g.count
  | 6 => (s.postedBy k).map (fun q => crOut q.recd)
  | _ => none

/-- COMMIT after stream position n. -/
def State.commitTo (s : State) (k : FCard) (g : FEng) (n : Nat) : Nat :=
  match s.sinkLimit k g with
  | some l => Nat.min n l
  | none => n

/-- How a run of lanes at a sink ends. -/
inductive SinkEnd where
  | done | wait | hold
  | bad (e : FEnd)

/-- R418: lanes from i on of the token at stream position 16·pos, committed in order; elements below COMMIT are suppressed (R419). -/
def State.sinkLanes (s : State) (cl : Nat) (k : FCard) (e : Nat) (tok : FTok) : Nat → Nat → State × SinkEnd
  | 0, _ => (s, .done)
  | fuel + 1, i =>
    match (s.fab cl).ctx? k.ctx with
    | none => (s, .done)
    | some x =>
      match NMap.get? x.engs e with
      | none => (s, .done)
      | some g =>
        let n := 16 * g.pos + i
        if n < g.commit then State.sinkLanes s cl k e tok fuel (i + 1)
        else
          match s.sinkElem cl k x e g n (if tok.valid.testBit i then some (tok.data.getD i 0) else none) with
          | .ok s1 =>
            let g1 := { g with commit := s1.commitTo k g (n + 1) }
            let s2 := match (s1.fab cl).ctx? k.ctx with
              | some y => s1.setFCtx cl k.ctx (y.setEng e g1)
              | none => s1
            State.sinkLanes s2 cl k e tok fuel (i + 1)
          | .bad f => (s, .bad f)
          | .wait s1 => (s1, .wait)
          | .hold => (s, .hold)

/-- The token at the head of a sink taken; END finishes the sink. -/
def State.sinkPop (s : State) (cl : Nat) (k : FCard) (e : Nat) (fin : Bool) : State :=
  match (s.fab cl).ctx? k.ctx with
  | none => s
  | some x =>
    match NMap.get? x.engs e with
    | none => s
    | some g => s.setFCtx cl k.ctx (x.setEng e { g with queue := g.queue.drop 1, pos := g.pos + 1, running := g.running && !fin })

/-- R420 steps 1 to 3: a tile allocated, written, sealed and announced; none while the partition has no FREE tile. -/
def State.notifyTile (s : State) (k : FCard) (g : FEng) (id : Nat) : Option State :=
  let core := tagCore (fdTag g.desc)
  let part := fdParam g.desc / 256 % 8
  let reads := fdParam g.desc % 256
  match poolFind (s.core core).eng.pool k.info.launch part with
  | none => none
  | some q =>
    match q.which (fun t => t.state == .free) with
    | [] => none
    | i :: _ =>
      let key : TileKey := ⟨k.info.launch, part, i⟩
      let gen := (((poolTile (s.core core).eng.pool key).map (·.gen)).getD 0 + 1) % 65536
      let s1 := s.updEng core (fun e => { e with pool := poolUpd e.pool key (fun t =>
        { t with gen := gen, state := .sealed, run := false, hkind := false, count := reads, hframe := 0, hindex := 0, dropping := false,
                 mem := g.cells.foldl (fun m w => m.writeNat w.1 4 w.2) t.mem }) })
      let tok : Token :=
        { tag := setBits (fdTag g.desc) 23 0 id, src := k.info.tag, dest := fdDest g.desc, scope := fdScope g.desc, pwords := 2,
          pay0 := mkHandle gen core part i 0, pay1 := BitVec.ofNat 64 id, kind := 0, sided := false, sender := k.info.launch }
      some (s1.engToken k.info.core k.tt tok)

/-- R420: one token at a notify sink. -/
def State.notifyToken (s : State) (cl : Nat) (k : FCard) (x : FCtx) (e : Nat) (g : FEng) (tok : FTok) : SinkRes :=
  let per := Nat.max 16 (g.tsize / 4)
  let first := 16 * g.pos
  let id := fdParam g.desc / 2 ^ 16 + first / per
  let done := fun (st : State) (cells : List (Nat × Nat)) =>
    SinkRes.ok (st.setFCtx cl k.ctx (x.setEng e { g with commit := Nat.max g.commit (first + 16), cells := cells }))
  if first < g.commit then .ok s
  else
    let b := k.bufs.getD (fdBuf g.desc) 0
    match s.fabRead cl k x ((fbBase b : Int) + g.addr).toNat 8 with
    | .bad code a => .bad (FEnd.access code e first a)
    | .wait s' => .wait s'
    | .hold => .hold
    | .ok bs =>
      let wanted := decide (id < 64) && (ofLE bs).testBit id
      let new := (List.range 16).filterMap (fun i =>
        if tok.valid.testBit i then some (4 * ((first + i) % per), tok.data.getD i 0) else none)
      let cells := (if first % per = 0 then [] else g.cells) ++ new
      if (first + 16) % per ≠ 0 then done s cells
      else if !wanted then done s []
      else
        match s.notifyTile k { g with cells := cells } id with
        | none => .hold
        | some s1 => done s1 []

/-- COMMIT of engine e. -/
def State.sinkCount (s : State) (cl : Nat) (k : FCard) (e : Nat) : Nat :=
  (((s.fab cl).ctx? k.ctx).bind (fun x => (NMap.get? x.engs e).map (fun g => g.commit))).getD 0

/-- R418: a sink takes the token at its head: commits its elements, ends with END, or stops the job on an error; none when it cannot act. -/
def State.sinkCommit (s : State) (cl : Nat) (k : FCard) (x : FCtx) (e : Nat) (g : FEng) : Option State :=
  match g.queue with
  | [] => none
  | t :: _ =>
    let kind := fdKind g.desc
    if kind = 8 then
      if g.port.length < 8 then
        let keep := t.kind == .fin || decide (g.commit ≤ 16 * g.pos)
        let g' := { g with queue := g.queue.drop 1, pos := g.pos + 1, port := if keep then g.port ++ [t] else g.port,
                           commit := if t.kind == .fin then g.commit else Nat.max g.commit (16 * g.pos + 16) }
        some (s.setFCtx cl k.ctx (x.setEng e g'))
      else none
    else
      let run : State × SinkEnd :=
        if kind = 10 then
          match s.notifyToken cl k x e g t with
          | .ok s1 => (s1, .done)
          | .bad f => (s, .bad f)
          | .wait s1 => (s1, .wait)
          | .hold => (s, .hold)
        else s.sinkLanes cl k e t (if t.kind = .err then t.lane else 16) 0
      match t.kind with
      | .fin => some (s.sinkPop cl k e true)
      | _ =>
        if t.kind = .err ∧ kind = 10 then some (s.endJob cl k ⟨FAB_ELEMENT, t.origin, e, 16 * g.pos + t.lane, 0, false⟩)
        else
          match run with
          | (s1, .done) =>
            if t.kind = .err then some (s1.endJob cl k ⟨FAB_ELEMENT, t.origin, e, 16 * g.pos + t.lane, 0, false⟩)
            else some (s1.sinkPop cl k e false)
          | (s1, .bad f) => some (s1.endJob cl k f)
          | (s1, .wait) => some s1
          | (s1, .hold) => if s1.sinkCount cl k e = g.commit then none else some s1

/-! ## Replay (R419) -/

/-- R419: a soft error in a running phase: tokens in flight are discarded, the checkpoint is restored and the sources restart; sinks keep
COMMIT, and a notify sink the words below it of the tile that it is forming. A phase with a train-in engine ends the job. -/
def State.fabReplay (s : State) (cl : Nat) (k : FCard) (x : FCtx) : Option State :=
  match x.check with
  | none => none
  | some ck =>
    let mine := fun (e : Nat × FEng) => ck.engs.contains e.1
    if !x.engs.any (fun e => mine e && e.2.running) then none
    else if x.engs.any (fun e => mine e && fdKind e.2.desc == 7) then some (s.endJob cl k (FEnd.access DATA_UNCORRECTABLE 0 0 0))
    else
      let back := fun (g : FEng) =>
        { g with running := g.running || fdKind g.desc != 8, pos := 0, queue := [],
                 port := g.port.filter (fun t => t.kind != .fin) }
      let us := ck.units.map (fun u => { u with ports := [[], [], []] })
      some (s.setFCtx cl k.ctx { x with units := us, iter := ck.iter, engs := x.engs.map (fun e => if mine e then (e.1, back e.2) else e),
                                        replay := false })

/-! ## Completion (R423) -/

/-- R423: the ring record. -/
def FCard.ringRecord (k : FCard) : Nat :=
  3 + k.code % 256 * 2 ^ 8 + (b2n k.nan + 2 * b2n k.inf + 4 * b2n k.cancelled) * 2 ^ 16 + k.reason % 256 * 2 ^ 24 + k.seq % 65536 * 2 ^ 32 +
    fcUserTag k.card * 2 ^ 48 + k.slot % 128 * 2 ^ 64 + k.faddr % 2 ^ 64 * 2 ^ 128 + k.element * 2 ^ 192

/-- R402: a completed job whose frame is gone: the slot is freed, and an uncollected error recorded. -/
def State.fabCollect (s : State) (cl : Nat) (k : FCard) : State :=
  let s1 := s.updFab cl (fun f => f.dropCard k.slot)
  if k.code = 0 then s1
  else s1.faultNow { k.info with code := k.code, detail := k.status, addr := k.faddr, source := 2 }

/-- The completion token, and the operations that end with the job (R423, R403). -/
def State.jobFinish (s : State) (cl : Nat) (k : FCard) : State :=
  let record := k.ringRecord
  let tok : Token := { tag := fcTokTag k.card, src := k.info.tag, dest := fcTokDest k.card, scope := fcTokScope k.card, pwords := 2,
                       pay0 := BitVec.ofNat 64 record, pay1 := BitVec.ofNat 64 k.element, kind := 0, sided := false, sender := k.info.launch }
  let s1 := if fcTokv k.card then s.engToken k.info.core k.tt tok else s
  let s2 := ((s1.setFCard cl { k with stage := .done }).updFab cl (fun f => f.freeCtx k.slot)).endOp k.info.core k.opId
  k.cancelOps.foldl (fun st o => st.endOp o.1 o.2) s2

/-- R423 step 2 on: the record is written, or waits for ring space or a page (R347). -/
def State.jobRing (s : State) (cl : Nat) (k : FCard) : Option State :=
  if fcRingv k.card then
    match s.ringWrite k.info.launch (fcRingk k.card) k.ringRecord k.failed with
    | .ok s1 => some (s1.jobFinish cl k)
    | .full => none
    | .page asid va kind lv =>
      if k.pages.contains (va / 8192) then none
      else some ((s.ringPage k.info.core k.info.launch asid va kind lv).setFCard cl { k with stage := .ring, pages := k.pages ++ [va / 8192] })
    | .bad => some ((s.faultRecord { k.info with code := COPY_RECORD, detail := 6, source := 2, addr := 0 }).jobFinish cl k)
  else some (s.jobFinish cl k)

/-- R423: a job completes: arrival, ring record, token. A job whose frame is gone is collected; none when there is nothing to do. -/
def State.jobComplete (s : State) (cl slot : Nat) : Option State :=
  match (s.fab cl).card? slot with
  | none => none
  | some k =>
    if k.copy.isSome then none
    else
      match k.stage with
      | .ended =>
        let s1 :=
          if fcArrive k.card then
            let u : BarUpd := ⟨k.info.launch, spOffset (fcBar k.card), .arrive, k.info.core, 0, k.slot⟩
            s.updEng (spCore k.info.core (fcBar k.card)) (fun e => { e with barq := e.barq ++ [u] })
          else s
        match s1.jobRing cl k with
        | some s2 => some s2
        | none => some (s1.setFCard cl { k with stage := .ring })
      | .ring => s.jobRing cl k
      | .done => if k.orphan then some (s.fabCollect cl k) else none
      | _ => none

/-! ## Jobs of copy requests (R336, R422) -/

/-- A request or a stream ends (R342, R353). -/
def State.reqEnd (s : State) (c : Nat) (q : CopyReq) : State := if q.stream then s.streamEnd c q else s.copyEnd c q

/-- R336: the request posts its card, once a slot is free. -/
def State.copyPost (s : State) (c : Nat) (q : CopyReq) : Option State :=
  let cl := clusterOf c
  let va := crFabJob q.recd
  let fail := fun (code a : Nat) => some (s.reqEnd c { q with fault := some (code, a) })
  let page := fun (va : Nat) =>
    some ((s.engPage c q.info.launch q.info.asid va 1 1).setCopy c { q with pageWait := some va })
  if va % 128 ≠ 0 then fail MISALIGNED va
  else
    match s.bankSpan c q.info.asid 2 va 128 with
    | .error (.bad code a) => fail code a
    | .error (.page a _) => page a
    | .error _ => none
    | .ok bs =>
      let card := ofLE bs
      match s.cardBufs c q.info.asid card with
      | .error (.page a _) => page a
      | _ =>
        if !(s.fab cl).room then none
        else
          match s.postCard c q.info.launch q.info.asid q.info.prog card
              (fun due l slot seq => newCard q.info 0 q.train 0 q.tt card l (some q.slot) due slot seq) true with
          | .error _ => fail FAB_CONFIG 0
          | .ok (s1, w) => some (s1.setCopy c { q with fab := some (bits w 6 0) })

/-- R336, R422: a request with a fabric transform: its card posted, then its end with the job's; none when it cannot act. A cancelled stream
finishes the tile that it is filling (R354); an error that it has met itself, as the failure of a write at a peer, stops the job (R343). -/
def State.copyFab (s : State) (c slot : Nat) : Option State :=
  let cl := clusterOf c
  match (s.core c).eng.copy? slot with
  | none => none
  | some q =>
    if !crFabv q.recd || q.reporting != 0 || !q.free (s.core c).eng || crElems q.recd == 0 then none
    else if q.sealFor.isSome && q.fault.isNone && ((s.chunkTile c q).map (fun t => (s.sealHeld c q t.1).isEmpty)).getD false then some (s.chunkSeal c q)
    else
      match q.fab with
      | none =>
        if q.cancelled || q.fault.isSome then some (s.reqEnd c q)
        else
          match s.sourceJudge c q with
          | none => none
          | some q1 => if q1.fault.isSome then some (s.reqEnd c q1) else s.copyPost c q1
      | some f =>
        match (s.fab cl).card? f with
        | none => some (s.reqEnd c q)
        | some k =>
          match k.stage with
          | .ended =>
            if q.sealFor.isSome && q.fault.isNone then none else
            let fault :=
              if q.fault.isSome then q.fault else if k.code ≠ 0 then some (k.code, k.faddr) else if q.cancelled then none
              else if q.fabOut < crOut q.recd then some (COPY_BOUNDS, 0) else none
            some (((s.setFCard cl { k with stage := .done }).updFab cl (fun g => g.freeCtx f)).reqEnd c { q with fault := fault, nan := q.nan || k.nan })
          | _ => if q.fault.isSome || (q.cancelled && !(s.core c).eng.midChunk q) then some (s.cancelJob cl k) else none

/-! ## The superstep boundary (R427) -/

/-- A request of a core leaves its queue, or another takes its place. -/
def State.swapAsk (s : State) (c : Nat) (q : FReq) (r : Option FReq) : State :=
  s.updEng c (fun e => { e with fq := e.fq.flatMap (fun x => if x == q then r.toList else [x]) })

/-- R404: an `fpull` whose job has ended before the boundary: its requests go, and the seat it was issued for faults. -/
def State.pullGone (s : State) (c e : Nat) (q : FReq) : State :=
  let ops := fun (x : FReq) => match x.ask with | .pull _ _ _ seats _ _ => seats.map (fun y => y.2.2) | _ => []
  let mine := fun (x : FReq) => x.train == q.train && x.info.instr == q.info.instr && !(ops x).isEmpty
  let gone := ((s.core c).eng.fq.filter mine).flatMap ops
  (s.updEng c (fun k => { k with fq := k.fq.filter (fun x => !mine x) })).lateFault c q.info q.train gone FAB_CONFIG (14 + 256 * e) 0

/-- R427, R401: an `fjob` at the boundary: `s` is the state in which it has left the queue, `s0` the one in which it has not. A page of its card,
its buffer table or its ring's descriptor without a leaf is asked for, and it waits. -/
def State.jobAsk (s0 s : State) (c : Nat) (q : FReq) (va a : Nat) (regs : List Nat) (idOp : Nat) : Option State :=
  let asid := q.info.asid
  let fail := fun (code detail addr : Nat) => some ((s.endOp c q.opId).lateFault c q.info q.train [idOp] code detail addr)
  let ask := fun (p kind path : Nat) =>
    some ((s0.swapAsk c q (some { q with pages := [p / 8192] })).engPage c q.info.launch asid p kind path)
  let post := fun (card : Nat) =>
    match s.postCard c q.info.launch asid q.info.prog card
        (fun due l slot seq => newCard q.info q.handle q.train q.opId true card l none due slot seq) false with
    | .error reason => fail FAB_CONFIG reason 0
    | .ok (s1, v) =>
      let l : Late := ⟨s.cyc.toNat, q.train, q.info.seat, q.handle, [(a, v)], regs, v, 0, idOp, .far⟩
      some (s1.updCore c (fun m => { m with late := m.late ++ [l] }))
  if !q.pages.isEmpty || !(s.fab (clusterOf c)).room then none
  else
    match s.bankSpan c asid 2 va 128 with
    | .error (.page p _) => if q.failed.contains (p / 8192) then fail PAGE_UNRESOLVED 0 p else ask p 1 3
    | .error (.bad code p) => fail code 0 p
    | .error _ => some s
    | .ok bs =>
      let card := ofLE bs
      match s.cardBufs c asid card with
      | .error (.page p _) => if q.failed.contains (p / 8192) then post card else ask p 1 3
      | bufs =>
        match (if fcRingv card && s.cardReason c asid q.info.prog q.info.launch false card bufs.toOption == 4 then
            s.ringMiss q.info.launch (fcRingk card) (q.failed.map (fun u => (u, 0))) else none) with
        | some p => ask p 8 1
        | none => post card

/-- R427: one request of class FAB at boundary step 3; none when it stays as it is for a later boundary. -/
def State.fabAsk (s0 : State) (c : Nat) (q : FReq) : Option State :=
  let r := q.info.launch
  let s := s0.swapAsk c q none
  match q.ask with
  | .can w => some (s.cancelFor c r w q.opId)
  | .push cl slot e toks =>
    match (s.fab cl).card? slot with
    | some k =>
      match s.jobCtx cl k with
      | some _ =>
        let p := s.injectToks cl k.ctx e toks 0
        if toks.length ≤ p.2 then some (p.1.endOp c q.opId)
        else if p.2 = 0 then none
        else some (((s0.injectToks cl k.ctx e toks 0).1).swapAsk c q (some { q with ask := .push cl slot e (toks.drop p.2) }))
      | none => some (s.endOp c q.opId)
    | none => some (s.endOp c q.opId)
  | .pull cl slot e seats a regs =>
    match ((s.fab cl).card? slot).bind (fun k => (s.jobCtx cl k).map (fun _ => k)) with
    | some k =>
      match s.takePort cl k.ctx e with
      | some (t, s1) =>
        some (seats.foldl (fun st x =>
          let d := st.draw
          let v := pullWord t (x.1 % 16) (Config.freeWord d.1)
          let l : Late := ⟨s.cyc.toNat, q.train, x.1, x.2.1, [(a, v)], regs, v, 0, x.2.2, .far⟩
          d.2.updCore c (fun m => { m with late := m.late ++ [l] })) s1)
      | none => none
    | none => some (s0.pullGone c e q)
  | .wait nf a =>
    match (s.core c).train? q.train with
    | none => some s
    | some t =>
      if (s.launch? q.info.launch).any (fun l => l.state == .faulted) then some s
      else if s.fwaitHolds c t then none
      else
        let r := s.actSeats c t (t.seats.map (fun x => (x, ()))) (fun st tr x _ => st.fwaitSeat c tr nf a x)
        some ((r.1.putTrain c r.2).retireUid c t.uid)
  | .job va a regs idOp =>
    s0.jobAsk s c q va a regs idOp

end Sys2Proof.Machine
end

