-- ==== Sys2Proof/Machine/Check.lean ====
section
/-!
DEFINITION. The static checks of program images, blocks and recipes (R23, R42 to R57, R66, R70, R167, R170, R197 to R199, R280, R367).
-/
namespace Sys2Proof.Machine

/-! ## What the checks ask of one instruction -/

/-- R68: the two target bytes of a word by class and opcode: format A has A and B, format S none, the others A. -/
def wordTargets (cls n : Nat) : List Nat :=
  let op := n / 2 ^ 24 % 128
  let a := natBits n 23 16
  let b := natBits n 15 8
  let fmtA :=
    match cls with
    | 0 => decide (op ≤ 0x1B)
    | 1 | 2 | 3 => true
    | 4 => op == 6 || op == 7 || op == 0xA || op == 0xC || op == 0xD
    | 5 => op != 5
    | 14 => op == 2 || op == 3
    | _ => false
  if fmtA then [a, b] else if cls = 4 ∧ (op ≤ 5 ∨ op = 0xB) then [] else [a]

/-- Instructions that write the slot behind target A as well (R211, R307, R451). -/
def writesPair : Instr → Bool
  | .ld _ z _ _ _ _ => z == 4#3
  | .lds _ z _ _ _ => z == 4#3
  | .tld _ _ _ z => z == 4#3
  | .qdeq _ _ _ => true
  | _ => false

/-- The slots a producer writes (R51): its nonzero target bytes. -/
def producerTargets (cls n : Nat) (i : Instr) : List Nat :=
  let ts := (wordTargets cls n).filter (· != 0)
  if writesPair i then ts.flatMap (fun g => [g, g + 1]) else ts

/-- Whether an instruction yields a value: its word is accepted with a target (R58). -/
def yieldsValue (cls n : Nat) (i : Instr) : Bool :=
  !writesPair i && !(wordTargets cls n).isEmpty &&
  (match decodeWord cls (BitVec.ofNat 32 (n - natBits n 23 16 * 2 ^ 16 + 4 * 2 ^ 16)) with
   | .ok _ => true
   | .error _ => false)

/-- Type codes of the floating modifier, by instruction (R61). -/
def floatType : Instr → Nat
  | .fadd _ _ _ t | .fsub _ _ _ t | .fmul _ _ _ t | .ffma _ _ _ t | .fmin _ _ _ t | .fmax _ _ _ t | .fabs _ _ _ t | .fneg _ _ _ t
  | .fclass _ _ _ t | .faddPred _ _ _ t | .fsubPred _ _ _ t | .fmulPred _ _ _ t | .ffmaPred _ _ _ t | .fminPred _ _ _ t
  | .fmaxPred _ _ _ t | .fabsPred _ _ _ t | .fnegPred _ _ _ t | .fclassPred _ _ _ t | .frint _ _ _ t | .frintPred _ _ _ t => t.toNat
  | .fcmp _ _ _ t _ | .fcmpPred _ _ _ t _ => t.toNat
  | .fsqrt _ _ _ t | .fdiv _ _ _ t | .fsqrtPred _ _ _ t | .fdivPred _ _ _ t => t.toNat
  | _ => 0

/-- R70: the features an instruction needs statically. -/
def staticFeatures (cls : Nat) (i : Instr) : List Nat :=
  (if cls = 10 then [2] else if cls = 11 then [3] else []) ++
  (match i with
   | .rcpset .. | .rcpdrop .. | .rcpclr .. => [0]
   | .futld .. | .futst .. => [4]
   | .ldmx .. | .stmx .. => [6]
   | .frmput .. | .frmclose .. => [9]
   | _ => []) ++
  (if floatType i = 1 then [10] else [])

/-- The destinations an instruction names (R23, R170): index, payload words it must declare, and whether the entry must exist. -/
def destUses : Instr → List (Nat × Nat × Bool)
  | .send d _ _ w _ => [(d.toNat, w.toNat, true)]
  | .sendsel d _ _ w _ => [(d.toNat, w.toNat, true), (d.toNat + 1, w.toNat, false)]
  | .spawn d _ _ w _ => [(d.toNat, w.toNat, true), (d.toNat + 1, w.toNat, false)]
  | .switch d _ _ w l => (List.range (l.toNat + 1)).map (fun k => (d.toNat + k, w.toNat, true))
  | .trapset d c => if c = 1#1 then [] else [(d.toNat, 2, true)]
  | _ => []

/-- R274, R280: register numbers `sregr` may name, and `sregw`. -/
def sregReadable (n : Nat) : Bool := decide (n ≤ 9) || decide (0x8001 ≤ n ∧ n ≤ 0x800E) || decide (0x8010 ≤ n ∧ n ≤ 0x8019)
def sregWritable (n : Nat) : Bool := decide (5 ≤ n ∧ n ≤ 9) || decide (0x8001 ≤ n ∧ n ≤ 0x800E) || decide (0x8010 ≤ n ∧ n ≤ 0x8019)

/-- R280: the register number an instruction may not name. -/
def sregBad : Instr → Bool
  | .sregr _ n => !sregReadable n.toNat
  | .sregw n => !sregWritable n.toNat
  | _ => false

/-- The code of a decoding error (R44). -/
def DecodeError.code : DecodeError → Nat
  | .illegalOpcode => 0x01
  | .illegalFormat => 0x02
  | .illegalRounding => 0x03

/-! ## Blocks (R47 to R57) -/

/-- What a block's check needs of its image: the payload words of a destination, the features named and effective, the recipes. -/
structure CheckEnv where
  dest : Nat → Option Nat
  feats : Word
  recipes : Nat

/-- An instruction with its class, word, number, place in the block, and whether it is the first of its clause. -/
structure CInstr where
  cls : Nat
  word : Nat
  num : Nat
  place : Nat
  first : Bool
  instr : Instr

/-- A violation inside a block or recipe: the place of the offending word and the code. -/
abbrev Viol := Nat × Nat

/-- What a block's clauses come to: the instructions that decode, by number; the numbers of the words that decode to none; what the clause headers
and those words violate; and where the block ends, as far as its headers tell. -/
structure Clauses where
  instrs : List CInstr
  lost : List Nat
  viols : List Viol
  stop : Nat

/-- The words of one clause from number n on. A word that decodes to no instruction names no slot and yields no value (log 8). -/
def checkWords (cls n place : Nat) (first : Bool) : List IWord → Clauses
  | [] => ⟨[], [], [], place⟩
  | w :: ws =>
    let r := checkWords cls (n + 1) (place + 1) false ws
    match decodeWord cls w with
    | .error e => { r with lost := n :: r.lost, viols := (place, DecodeError.code e) :: r.viols }
    | .ok i => { r with instrs := ⟨cls, w.toNat, n, place, first, i⟩ :: r.instrs }

/-- R55, R56: the clauses of a block from instruction n on, of which `left` are still to come. A header with a bad length ends them. -/
def checkClauses : Nat → Nat → Nat → Nat → List IWord → Clauses
  | 0, n, place, _, _ => ⟨[], [n], [(place, ILLEGAL_FORMAT)], place⟩
  | fuel + 1, n, place, left, ws =>
    if left = 0 then ⟨[], [], [], place⟩
    else
      match ws with
      | [] => ⟨[], [n], [(place, ILLEGAL_FORMAT)], place⟩
      | h :: rest =>
        let k := natBits h.toNat 31 28
        let cls := natBits h.toNat 27 24
        if k = 0 ∨ left < k then ⟨[], [], [(place, ILLEGAL_FORMAT)], place⟩
        else
          let head := if cls = 15 ∨ natBits h.toNat 15 0 ≠ 0 then [(place, ILLEGAL_FORMAT)] else []
          let c := if cls = 15 then ⟨[], (List.range k).map (n + ·), [], place⟩ else checkWords cls n (place + 1) true (rest.take k)
          let r : Clauses := if rest.length < k then ⟨[], [n + rest.length], [(place + 1 + rest.length, ILLEGAL_FORMAT)], place⟩
            else checkClauses fuel (n + k) (place + 1 + k) (left - k) (rest.drop k)
          ⟨c.instrs ++ r.instrs, c.lost ++ r.lost, head ++ c.viols ++ r.viols, r.stop⟩

/-- R51: a target byte names a slot of an instruction of the block behind `own`. -/
def targetIn (icount own g : Nat) : Bool := g == 0 || (decide (4 ≤ g) && decide (g / 4 ≤ icount) && decide (own < g / 4))

/-- R48, R49, R167: what the two header words violate. -/
def headViols (words : List IWord) : List Viol :=
  let h0 := (words.getD 0 0).toNat
  let h1 := (words.getD 1 0).toNat
  let ni := h0Inputs h0
  let bad0 := natBits h0 31 28 != 0xB || natBits h0 27 22 == 0 || decide (8 < ni) || natBits h0 3 0 != 0 || h0Timer h0 == 7 ||
    (h0Reduce h0 && (decide (ni < 2) || (List.range ni).any (fun k => h1PWords h1 k != h1PWords h1 0)))
  let bad1 := natBits h1 7 0 != 0 || (List.range 8).any (fun k => h1PWords h1 k == 3 || (decide (ni ≤ k) && h1PWords h1 k != 0))
  if words.length < 2 then [(words.length, ILLEGAL_FORMAT)]
  else (if bad0 then [(0, ILLEGAL_FORMAT)] else []) ++ (if bad1 then [(1, ILLEGAL_FORMAT)] else [])

/-- The targets of a block's input and read entries, each with the place of its word. -/
def entryTargets (words : List IWord) : List (Nat × Nat) :=
  let h0 := (words.getD 0 0).toNat
  let ni := h0Inputs h0
  ((List.range ni).flatMap (fun k => let e := blockEntry words k; [(2 + k / 2, natBits e 15 8), (2 + k / 2, natBits e 7 0)])) ++
  (List.range (h0Reads h0)).map (fun k => (2 + (ni + k) / 2, natBits (blockEntry words (ni + k)) 7 0))

/-- R50, R51: what the entries violate, apart from what they say of instructions. -/
def entryViols (words : List IWord) : List Viol :=
  let h0 := (words.getD 0 0).toNat
  let h1 := (words.getD 1 0).toNat
  let ic := natBits h0 27 22
  let ni := h0Inputs h0
  let n := entryCount h0
  let first := ni + h0Reads h0
  let wrs := (List.range (h0Writes h0)).map (fun k => (first + k, blockEntry words (first + k)))
  ((entryTargets words).filter (fun e => !targetIn ic 0 e.2)).map (fun e => (e.1, ILLEGAL_FORMAT)) ++
  ((List.range ni).filter (fun k => h1PWords h1 k == 0 && blockEntry words k != 0)).map (fun k => (2 + k / 2, ILLEGAL_FORMAT)) ++
  (wrs.filter (fun e => !e.2.testBit 15 || natBits e.2 1 0 != 0 || natBits e.2 7 2 == 0 || decide (ic < natBits e.2 7 2) ||
    wrs.any (fun w => decide (w.1 < e.1) && natBits w.2 14 8 == natBits e.2 14 8))).map (fun e => (2 + e.1 / 2, ILLEGAL_FORMAT)) ++
  (if n % 2 = 1 ∧ blockEntry words n ≠ 0 then [(2 + n / 2, ILLEGAL_FORMAT)] else [])

/-- R367: `mmax` and the `mma` behind it, `prev` being the instruction before in the same clause. -/
def mtxRule (prev : Option Instr) (next : Option CInstr) : Instr → Bool
  | .mmax x y _ _ =>
    match next with
    | some n =>
      !n.first && (match n.instr with
        | .mma t _ _ _ _ _ e => e == 1#1 && (t.toNat == 7 || (x == 0#3 && y == 0#3))
        | _ => false)
    | none => false
  | .mma t _ _ _ _ _ e =>
    let ext := match prev with | some (.mmax ..) => true | _ => false
    if e = 1#1 then ext else t.toNat != 6 && t.toNat != 7
  | _ => true

/-- The checks of one instruction that need its place: targets, registers, recipes, destinations, and last its features (log 8). -/
def checkInstr (env : CheckEnv) (ic : Nat) (prev : Option Instr) (next : Option CInstr) (x : CInstr) : Option Nat :=
  if (wordTargets x.cls x.word).any (fun g => !targetIn ic x.num g) || sregBad x.instr || !mtxRule prev next x.instr ||
    (match x.instr with | .rcpset _ r _ => decide (env.recipes ≤ r.toNat) | _ => false) ||
    (destUses x.instr).any (fun u =>
      match env.dest u.1 with
      | some pw => pw != u.2.1
      | none => u.2.2) then some ILLEGAL_FORMAT
  else if (staticFeatures x.cls x.instr).any (fun k => !bit env.feats k) then some FEATURE_OFF
  else none

/-- What the instructions of a block violate; `lost` are the numbers that have none, before which an `mmax` is not judged. -/
def instrViols (env : CheckEnv) (ic : Nat) (lost : List Nat) : Option CInstr → List CInstr → List Viol
  | _, [] => []
  | prev, x :: xs =>
    let near := fun (y : CInstr) => y.num + 1 == x.num && !x.first
    let open' := lost.contains (x.num + 1) && (match x.instr with | .mmax .. => true | _ => false)
    (if open' then [] else
      match checkInstr env ic ((prev.filter near).map (·.instr)) (xs.head?.filter (fun y => y.num == x.num + 1)) x with
      | some code => [(x.place, code)]
      | none => []) ++ instrViols env ic lost (some x) xs

/-- R51: places where a slot is named that something before has named. -/
def twiceNamed : List Nat → List (Nat × Nat) → List Viol
  | _, [] => []
  | seen, e :: es => (if seen.contains e.2 then [(e.1, ILLEGAL_FORMAT)] else []) ++ twiceNamed (e.2 :: seen) es

/-- The clauses of a block that has all its entries. -/
def blockClauses (words : List IWord) : Clauses :=
  let h0 := (words.getD 0 0).toNat
  let skip := 2 + (entryCount h0 + 1) / 2
  checkClauses 64 1 skip (natBits h0 27 22) (words.drop skip)

/-- R51: the slots that a block's entries and producers name, each with the place of the naming word. -/
def slotTargets (words : List IWord) : List (Nat × Nat) :=
  (entryTargets words).filter (·.2 != 0) ++
    (blockClauses words).instrs.flatMap (fun x => (producerTargets x.cls x.word x.instr).map (fun g => (x.place, g)))

/-- R54: the written slots of a block in the order of their cells. -/
def writtenSlots (words : List IWord) : List Nat := sortBy (fun a b => decide (a ≤ b)) (dedup ((slotTargets words).map (·.2)))

/-- R47 to R57: all that a block violates, and the number of its words; nothing lies behind the words given. -/
def parseBlock (env : CheckEnv) (words : List IWord) : List Viol × Nat :=
  let h0 := (words.getD 0 0).toNat
  let head := headViols words
  let skip := 2 + (entryCount h0 + 1) / 2
  if !head.isEmpty then (head, 2)
  else if words.length < skip then (entryViols words ++ [(words.length, ILLEGAL_FORMAT)], skip)
  else
    let p := blockClauses words
    let first := h0Inputs h0 + h0Reads h0
    let ws := writeEntries words
    let unproduced := ((List.range ws.length).zip ws).filter (fun w =>
      match p.instrs.find? (fun x => x.num == w.2.2) with
      | some x => !yieldsValue x.cls x.word x.instr
      | none => false)
    let short := decide (h1Demand (words.getD 1 0).toNat < (writtenSlots words).length)
    (entryViols words ++ unproduced.map (fun w => (2 + (first + w.1) / 2, ILLEGAL_FORMAT)) ++ (if short then [(1, ILLEGAL_FORMAT)] else []) ++
      instrViols env (natBits h0 27 22) p.lost none p.instrs ++ twiceNamed [] (slotTargets words) ++ p.viols, p.stop)

/-- The violation at the lowest place. -/
def firstViol (l : List Viol) : Option Viol := l.foldl (fun b v => match b with | none => some v | some x => if v.1 < x.1 then some v else b) none

/-- R44, R45: the static checks of a block: the first offending word, if any. -/
def checkBlock (env : CheckEnv) (words : List IWord) : Option Viol := firstViol (parseBlock env words).1

/-! ## Recipes (R197 to R199) -/

/-- R198: what an operation word violates, `k` being its number; `unused` says which descriptors have kind 0. -/
def checkRcpOp (env : CheckEnv) (unused : Nat → Bool) (k n : Nat) : Option Nat :=
  let cls := natBits n 31 28
  let op := natBits n 27 20
  let srcs := [natBits n 19 16, natBits n 15 12, natBits n 11 8]
  if 2 < cls then some ILLEGAL_FORMAT
  else if op ≥ 128 ∨ (cls = 0 ∧ op ≥ 0x19 ∧ op ≠ 0x1A ∧ op ≠ 0x1B) then some ILLEGAL_OPCODE
  else
    match decodeWord cls (BitVec.ofNat 32 (op * 2 ^ 24 + natBits n 7 0)) with
    | .error e => some (DecodeError.code e)
    | .ok i =>
      if srcs.any (fun c => c == 7 || decide (10 < c) || (decide (8 ≤ c) && decide (k + 8 ≤ c)) ||
          (decide (1 ≤ c) && decide (c ≤ 6) && unused (c - 1))) then some ILLEGAL_FORMAT
      else if (staticFeatures cls i).any (fun f => !bit env.feats f) then some FEATURE_OFF
      else none

/-- R199: a descriptor. -/
def rcpDescOk (d : Nat) : Bool :=
  match natBits d 15 13 with
  | 0 => d == 0
  | 1 => natBits d 12 7 == 0
  | 2 => true
  | 3 => natBits d 12 3 == 0 && decide (natBits d 2 0 ≤ 4)
  | 4 => true
  | _ => false

/-- R197: what a recipe body violates. -/
def recipeViols (env : CheckEnv) (body : List IWord) : List Viol :=
  let w0 := (body.getD 0 0).toNat
  let nops := natBits w0 27 26 + 1
  (if natBits w0 31 28 ≠ 0xC ∨ natBits w0 25 0 ≠ 0 then [(0, ILLEGAL_FORMAT)] else []) ++
  ((List.range 4).flatMap (fun k =>
    let n := (body.getD (1 + k) 0).toNat
    if k < nops then ((checkRcpOp env (fun d => natBits (rcpDesc body d) 15 13 == 0) k n).map (fun code => (1 + k, code))).toList
    else if n = 0 then [] else [(1 + k, ILLEGAL_FORMAT)])) ++
  ((List.range 6).filter (fun k => !rcpDescOk (rcpDesc body k))).map (fun k => (5 + k / 2, ILLEGAL_FORMAT))

/-! ## Images (R42 to R44) -/

/-- What an image check comes to: passed, a page still missing with its level, or a fault with code, DETAIL's block and offset, ADDR. -/
inductive ImgCheck where
  | ok
  | page (va level : Nat)
  | bad (code block off addr : Nat)
deriving DecidableEq, Repr

/-- Whether n bytes at va can be read for the launch engine, 8 KiB piece by piece (R46, R238). -/
def State.readable (s : State) (asid : Nat) (need : Need) (failed : List Nat) : Nat → Nat → Nat → ImgCheck
  | 0, _, _ => .ok
  | fuel + 1, va, n =>
    if n = 0 then .ok
    else
      let k := Nat.min n (8192 - va % 8192)
      match s.engAcc asid va k need with
      | .bad code => .bad code 0 0 va
      | .noLeaf l => if failed.contains (va / 8192) then .bad PAGE_UNRESOLVED 0 0 va else .page va l
      | .ok pa leaf _ _ =>
        if leafRemote leaf then .bad ACCESS_VIOLATION 0 0 va
        else if granuleBad s.bad pa k then .bad DATA_UNCORRECTABLE 0 0 va
        else State.readable s asid need failed fuel (va + k) (n - k)

/-- R42: a section's offset and length. -/
def sectionOk (size off n : Nat) : Bool := off % 4 == 0 && decide (off + n ≤ size) && (n != 0 || off == 0)

/-- R42, R44, R70: what the header violates, by the byte offset of the offending word; n is its 512 bits. -/
def headerViols (n : Nat) (eff : Word) : List Viol :=
  let h := ImgHeader.of n
  let f := BitVec.ofNat 64 h.features
  let bad := fun (c : Bool) (at' : Nat) => if c then [(at', ILLEGAL_FORMAT)] else []
  bad (h.magic != 0x4E564E34) 0 ++ bad (h.version != 1 || natBits n 63 48 != 0) 4 ++
  (if f &&& ~~~eff != 0 then [(8, FEATURE_OFF)] else []) ++ bad (decide (h.size < 64)) 16 ++
  bad (!sectionOk h.size h.blockOff (4 * h.blockCount)) 20 ++ bad (natBits n 223 209 != 0 || h.blockCount == 0 || decide (65536 < h.blockCount)) 24 ++
  bad (!sectionOk h.size h.destOff (4 * h.destCount)) 28 ++ bad (natBits n 287 269 != 0 || decide (4096 < h.destCount)) 32 ++
  bad (!sectionOk h.size h.rcpOff (32 * h.rcpCount)) 36 ++
  bad (natBits n 335 320 != 0 || natBits n 351 345 != 0 || decide (256 < h.rcpCount)) 40 ++
  (if h.rcpCount != 0 && !bit (f &&& eff) 0 then [(40, FEATURE_OFF)] else []) ++
  bad (!sectionOk h.size h.dataOff h.dataSize) 44 ++ bad (natBits n 447 416 != 0) 52 ++ bad (natBits n 479 448 != 0) 56 ++
  bad (natBits n 511 480 != 0) 60

/-- The payload words that a destination's block declares for its slot (R23). -/
def State.destWords (s : State) (asid prog d : Nat) : Option Nat :=
  match s.imgDest asid prog d with
  | none => none
  | some (b, k) => (s.blockHead asid prog b).map (fun h => if k < h0Inputs h.1 then h1PWords h.2 k else 3)

/-- What block and recipe checks of an image need, for the effective features of a partition. -/
def State.checkEnv (s : State) (asid prog : Nat) (h : ImgHeader) (eff : Word) : CheckEnv :=
  { dest := s.destWords asid prog, feats := eff &&& BitVec.ofNat 64 h.features, recipes := h.rcpCount }

/-- R22, R23: an entry of the destination table. -/
def State.destOk (s : State) (asid prog : Nat) (h : ImgHeader) (d : Nat) : Bool :=
  match s.imgWord asid prog (h.destOff + 4 * d) with
  | none => false
  | some w =>
    let b := natBits w.toNat 18 3
    natBits w.toNat 31 19 == 0 && decide (b < h.blockCount) &&
      (match s.blockHead asid prog b with
       | some (h0, _) => decide (natBits w.toNat 2 0 < h0Inputs h0)
       | none => false)

/-- The words of an image from an offset, as many as a block can have, none beyond IMAGE_SIZE (R43). -/
def State.imgWords (s : State) (asid prog size off : Nat) : List IWord :=
  (List.range (Nat.min 160 ((size - off) / 4))).map (fun k => (s.imgWord asid prog (off + 4 * k)).getD 0)

/-- A violation of an image: the byte offset of the offending word, the block it lies in, and the code. -/
structure ImgViol where
  off : Nat
  block : Nat
  code : Nat
deriving DecidableEq, Repr

/-- R43: the blocks of an image from block b on, with `spans` those before that have no violation. The word that offends in a block beyond
IMAGE_SIZE is its first word that does, and of two blocks that overlap the first word of the one that begins later (DESIGN CHOICE, log 29). -/
def State.blockViols (s : State) (asid prog : Nat) (h : ImgHeader) (env : CheckEnv) : Nat → Nat → List (Nat × Nat × Nat) → List ImgViol
  | 0, _, _ => []
  | n + 1, b, spans =>
    let off := (s.blockOffset asid prog b).getD 0
    if off % 4 ≠ 0 then ⟨h.blockOff + 4 * b, b, ILLEGAL_FORMAT⟩ :: State.blockViols s asid prog h env n (b + 1) spans
    else
      let r := parseBlock env (s.imgWords asid prog h.size off)
      if r.1.isEmpty then
        let stop := off + 4 * r.2
        let hits := spans.filter (fun p => decide (p.1 < stop) && decide (off < p.2.1))
        hits.map (fun p => if p.1 ≤ off then ⟨off, b, ILLEGAL_FORMAT⟩ else ⟨p.1, p.2.2, ILLEGAL_FORMAT⟩) ++
          State.blockViols s asid prog h env n (b + 1) ((off, stop, b) :: spans)
      else r.1.map (fun v => ⟨off + 4 * v.1, b, v.2⟩) ++ State.blockViols s asid prog h env n (b + 1) spans

/-- One recipe body of an image (R197). -/
def State.imgRecipe (s : State) (asid prog : Nat) (h : ImgHeader) (k : Nat) : List IWord :=
  (List.range 8).map (fun j => (s.imgWord asid prog (h.rcpOff + 32 * k + 4 * j)).getD 0)

/-- The violation at the lowest offset. -/
def firstImgViol (l : List ImgViol) : Option ImgViol :=
  l.foldl (fun b v => match b with | none => some v | some x => if v.off < x.off then some v else b) none

/-- R44: the whole image, for the effective features of a partition: the first offending word decides. -/
def State.checkImage (s : State) (asid prog : Nat) (eff : Word) (failed : List Nat) : ImgCheck :=
  match s.readable asid .fetch failed 2 prog 64 with
  | .ok =>
    match s.imgNat asid prog 0 64 with
    | none => .bad ILLEGAL_FORMAT 0 0 prog
    | some n =>
      match firstViol (headerViols n eff) with
      | some v => .bad v.2 0 v.1 0
      | none =>
        let h := ImgHeader.of n
        match s.readable asid .fetch failed (h.size / 8192 + 2) prog h.size with
        | .ok =>
          let env := s.checkEnv asid prog h eff
          let dests := ((List.range h.destCount).filter (fun d => !s.destOk asid prog h d)).map (fun d =>
            (⟨h.destOff + 4 * d, 0, ILLEGAL_FORMAT⟩ : ImgViol))
          let rcps := (List.range h.rcpCount).flatMap (fun k =>
            (recipeViols env (s.imgRecipe asid prog h k)).map (fun v => (⟨h.rcpOff + 32 * k + 4 * v.1, 0, v.2⟩ : ImgViol)))
          match firstImgViol (rcps ++ s.blockViols asid prog h env h.blockCount 0 [] ++ dests) with
          | some v => .bad v.code v.block v.off 0
          | none => .ok
        | r => r
  | r => r

end Sys2Proof.Machine
end

