-- ==== Sys2Proof/Machine/NetOps.lean ====
section
/-!
DEFINITION. The link engine's stores: siding slots (R434 to R438), queues (R439 to R443, R451 to R453), and frame builders (R445 to R448).
-/
namespace Sys2Proof.Machine

/-! ## The fields of a row frame (R445) and of its descriptor (R446) -/

def rfTag (h : Nat) : Word := BitVec.ofNat 64 (natBits h 511 448)
def rfDest (h : Nat) : Nat := natBits h 447 436
def rfScope (h : Nat) : Nat := natBits h 435 433
def rfTimer (h : Nat) : Nat := natBits h 432 430
def rfTsize (h : Nat) : Nat := natBits h 429 427
def rfPart (h : Nat) : Nat := natBits h 426 424
def rfReads (h : Nat) : Nat := natBits h 423 416
def rfRowBytes (h : Nat) : Nat := natBits h 415 400
def rfRows (h : Nat) : Nat := natBits h 399 384

def rfSeq (h : Nat) : Nat := natBits h 351 320
def rfSrc (h : Nat) : Word := BitVec.ofNat 64 (natBits h 319 256)
def RowFrame.head (f : RowFrame) : Nat := ofLE (f.bytes.take 64)

/-! ## Siding slots (R435 to R438) -/

/-- R436: entries of a slot's ring. -/
def Partition.slotEntries (p : Partition) : Nat := 2 ^ (p.sidCtl - 6) - 1

/-- R435: the physical base of a slot. -/
def Partition.slotBase (p : Partition) (die num : Nat) : Nat := p.sidBase + (64 * die + num) * 2 ^ p.sidCtl

/-- R163: a token's 48 bytes. Payload words that PWORDS does not declare read zero. -/
def Token.image (t : Token) : Nat :=
  t.tag.toNat + t.src.toNat * 2 ^ 64 + t.dest % 4096 * 2 ^ 128 + b2n t.sided * 2 ^ 160 + t.scope % 8 * 2 ^ 161 + t.pwords % 4 * 2 ^ 164 +
  t.kind % 4 * 2 ^ 166 + (if 1 ≤ t.pwords then t.pay0.toNat * 2 ^ 192 else 0) + (if 2 ≤ t.pwords then t.pay1.toNat * 2 ^ 256 else 0)

/-- The entries of 64 bytes a diverted packet takes (R436). -/
def Diverted.entries (d : Diverted) : Nat :=
  match d with
  | .tok .. => 1
  | .qrec .. | .yard .. => 4
  | .frame _ f => 1 + (f.bytes.length + 63) / 64

/-- R437: SIDED, or what is its equivalent in a record (log 22), set as a packet is put aside. A yard record in a slot has none of its own. -/
def Diverted.mark (d : Diverted) : Diverted :=
  match d with
  | .tok c dev t => .tok c dev { t with sided := true }
  | .qrec k q n => .qrec k { q with sided := true } n
  | .yard .. => d
  | .frame c f => .frame c { f with sided := true }

/-- The source of a diverted packet, to which its credit returns: device, the tag of the seat that sent it, and the tag it went to. -/
def Diverted.source (d : Diverted) (own : Nat) : Nat × Word × Word :=
  match d with
  | .tok _ dev t => (dev, t.src, t.tag)
  | .frame _ f => (f.dev, rfSrc f.head, rfTag f.head)
  | _ => (own, 0, 0)

/-- The bytes of a diverted packet as they stand in its slot: a token in the form of R163; a frame behind its head flit, which has SIDED where a token's has
it (R430, log 22). -/
def Diverted.image (d : Diverted) : List Byte :=
  match d with
  | .tok _ _ t => leBytes 64 t.image
  | .qrec _ q _ => leBytes 256 q.record.toNat
  | .yard _ b _ _ _ => leBytes 256 b
  | .frame _ f => leBytes 64 (4 + b2n f.sided * 2 ^ 216) ++ f.bytes

/-- Entries that hold diverted packets: USED (R436). -/
def SidSlot.used (q : SidSlot) : Nat := (q.items.map (fun d => d.ents.length)).foldl (· + ·) 0

/-- R436: HEAD, the first entry of the packet that was diverted first; TAIL when none stands there. -/
def SidSlot.oldest (q : SidSlot) : Nat :=
  match q.items with
  | d :: _ => d.ents.headD q.tail
  | [] => q.tail

/-- R436: entries for a packet: the next ones from TAIL on, in ring order, that hold no packet; packets leave out of order (R438). -/
def SidSlot.place (q : SidSlot) (n k : Nat) : List Nat :=
  let taken := q.items.flatMap (·.ents)
  (((List.range n).map (fun i => (q.tail + i) % n)).filter (fun i => !taken.contains i)).take k

/-- R436: the first 64 bytes of a slot. Every entry is granted when the slot is taken, so that FREE is zero and STOP is one (log 22). -/
def SidSlot.header (q : SidSlot) (id : Nat) : Nat :=
  1 + 2 + q.used % 2 ^ 24 * 2 ^ 16 + q.tail % 2 ^ 24 * 2 ^ 64 + q.head % 2 ^ 24 * 2 ^ 88 + id % 2 ^ 16 * 2 ^ 112

/-- The slot's state written to memory. -/
def State.putSlotHeader (s : State) (r : LaunchRef) (die : Nat) : State :=
  match (s.launch? r).bind (fun l => l.slot? die) with
  | some q => s.physPut r ((s.part r.part).slotBase die q.num) 64 (q.header r.id) 2
  | none => s

/-- Entries of the ring of a slot at a base written with the bytes of a packet. -/
def putEntries (m : Memory) (base : Nat) : List Byte → List Nat → Memory
  | _, [] => m
  | bs, i :: is => putEntries (m.write (base + 64 * (1 + i)) (bs.take 64)) base (bs.drop 64) is

/-- R437: a packet put aside; its entries were paid for in credit. Event code 9 counts a token at the receiving core (R438). -/
def State.divert (s : State) (r : LaunchRef) (die : Nat) (d : Diverted) : State :=
  match (s.launch? r).bind (fun l => l.slot? die) with
  | none => s
  | some q =>
    let p := s.part r.part
    let n := Nat.max 1 p.slotEntries
    let e := d.mark
    let at' := q.place n d.entries
    let base := p.slotBase die q.num
    let s1 := if physOk base (64 * (1 + n)) then { s with mem := putEntries s.mem base e.image at' } else s.physFault r base 2
    let tail := ((at'.getLast?).map (fun i => (i + 1) % n)).getD q.tail
    let s2 := (s1.updSlot r die (fun q =>
      let q1 := { q with tail := tail, items := q.items ++ [({ pkt := e, ents := at' } : Sided)] }
      { q1 with head := q1.oldest })).putSlotHeader r die
    match d with
    | .tok c _ _ => s2.countEvt c 9 1
    | _ => s2

/-- The place in the order of diversions of the oldest launch or yard record that a test of its packet accepts. -/
def oldestSided (f : Diverted → Option Nat) (ds : List Diverted) : Option Nat := (ds.filterMap f).min?

/-- R233, R254: the packets in the sidings of a launch, on every die. -/
def Launch.sidings (l : Launch) : List Diverted := l.slots.flatMap (fun q => q.items.map (·.pkt))

/-- R233, R254, R438: a record put aside, with its place in the order of its partition's diversions. -/
def State.divertRec (s : State) (r : LaunchRef) (die : Nat) (mk : Nat → Diverted) : State :=
  (s.divert r die (mk (s.part r.part).divSeq)).updPart r.part (fun k => { k with divSeq := k.divSeq + 1 })

/-- A list without its first entry that satisfies a test. -/
def dropFirst {α : Type} (f : α → Bool) : List α → List α
  | [] => []
  | a :: as => if f a then as else a :: dropFirst f as

/-- R438: a packet has replayed or is discarded: it leaves the slot and its credit returns to its source. -/
def State.unDivert (s : State) (r : LaunchRef) (die : Nat) (d : Diverted) : State :=
  let s1 := (s.updSlot r die (fun q =>
    let q1 := { q with items := dropFirst (·.pkt == d) q.items }
    { q1 with head := q1.oldest })).putSlotHeader r die
  let x := d.source s.link.device
  s1.giveCredit (some r) die d.entries x.1 x.2.1 x.2.2

/-- R434: a free slot number of a partition on a die. -/
def State.freeSidSlot (s : State) (p die : Nat) : Option Nat :=
  let used := (s.part p).launches.flatMap (fun l => l.2.slots.filterMap (fun q => if q.die == die then some q.num else none))
  (List.range 64).find? (fun i => !used.contains i)

/-! ## Queue handles (R439) -/

def qhAsid (h : Word) : Nat := bits h 63 55
def qhDev (h : Word) : Nat := bits h 54 47
def qhCore (h : Word) : Nat := bits h 46 36
def qhNum (h : Word) : Nat := bits h 35 30
def qhGen (h : Word) : Nat := bits h 15 0
/-- The queue a handle names: device, core and number. -/
def qhQueue (h : Word) : Nat := bits h 54 30

def mkQHandle (asid dev core num gen : Nat) : Word :=
  BitVec.ofNat 64 (gen % 2 ^ 16 + 2 ^ 29 + num % 64 * 2 ^ 30 + core % 2 ^ 11 * 2 ^ 36 + dev % 2 ^ 8 * 2 ^ 47 + asid % 2 ^ 9 * 2 ^ 55)

/-- A queue number never used. -/
def Queue.unused : Queue :=
  { live := false, gen := 0, qseq := 0, oasid := 0, owner := 0, launch := ⟨0, 0⟩, spillFail := false, held := false, slog := 0, caplog := 0,
    open' := 0, sbase := 0, resident := [], shead := 0, scount := 0, buffer := [], pageWait := none, readWait := none, readFail := false,
    failed := [], retryAt := 0 }

def Core.queue (k : Core) (n : Nat) : Queue := NMap.getD k.queues n Queue.unused
def State.setQueue (s : State) (c n : Nat) (q : Queue) : State := s.updCore c (fun k => { k with queues := NMap.set k.queues n q })

/-- R439: the queue of a handle on its core, when the handle is current. -/
def Core.current (k : Core) (h : Word) : Option Queue :=
  let q := k.queue (qhNum h)
  if q.live ∧ q.gen = qhGen h then some q else none

/-- The current handle of a queue of core c. -/
def State.queueHandle (s : State) (c n : Nat) (q : Queue) : Word := mkQHandle q.oasid s.link.device c n q.gen

/-- R442: META. -/
def QEntry.metaWord (e : QEntry) : Word :=
  BitVec.ofNat 64 (e.qseq % 2 ^ 16 + e.sender % 2 ^ 31 * 2 ^ 21 + e.sasid % 2 ^ 9 * 2 ^ 52 + b2n e.spilled * 2 ^ 62 + 2 ^ 63)

/-- An entry read back from the queue's siding. -/
def QEntry.ofBytes (bs : List Byte) : QEntry :=
  let m : Word := BitVec.ofNat 64 (ofLE (bs.take 8))
  { data := BitVec.ofNat 64 (ofLE (bs.drop 8)), sasid := bits m 60 52, sender := bits m 51 21, qseq := bits m 15 0, spilled := true,
    dev := 0, core := 0, ser := 0, resv := none }

/-- The 16 bytes of an entry in the siding. -/
def QEntry.bytes (e : QEntry) : List Byte := leBytes 8 ({ e with spilled := true } : QEntry).metaWord.toNat ++ leBytes 8 e.data.toNat

def Queue.cap (q : Queue) : Nat := 2 ^ q.caplog
def Queue.sidingSize (q : Queue) : Nat := 2 ^ (q.slog + 8)
/-- The address of a siding index (R442). -/
def Queue.sidingAt (q : Queue) (i : Nat) : Nat := q.sbase + 16 * (i % q.sidingSize)
/-- Unreserved resident entries. -/
def Queue.ready (q : Queue) : List QEntry := q.resident.filter (fun e => e.resv.isNone)

/-! ## Acceptance (R442, R443, R451) -/

/-- An acknowledgement (code 0) or refusal sent to the source core of an entry (R441, R451). -/
def State.queueReply (s : State) (c : Nat) (e : QEntry) (code : Nat) : State :=
  if e.dev = s.link.device then
    let d := s.draw
    let r : QReply := ⟨s.cyc.toNat + tokenDelay c e.core (Config.latency d.1), e.ser, code⟩
    d.2.updCore e.core (fun k => { k with qback := k.qback ++ [r] })
  else s.emit (.reply e.dev e.core e.ser code)

/-- R443: one record at the start of an episode of HELD. -/
def State.queueHold (s : State) (c n : Nat) (q : Queue) (addr : Nat) : State × Queue :=
  if q.held then (s, q)
  else
    let info := FaultInfo.plain QSPILL_FULL (s.queueHandle c n q).toNat addr q.launch q.oasid 2
    (s.faultRecord { info with core := c }, { q with held := true })

/-- An access of a queue's siding (R443). -/
inductive SidAcc where
  | ok (pa : Nat)
  | bad
  | page (level : Nat)

/-- R442, R443: a siding entry translated: no REMOTE page, and for a write no IMM page. -/
def State.sidingAcc (s : State) (q : Queue) (va : Nat) (write : Bool) : SidAcc :=
  match s.engAcc q.oasid va 16 (if write then .write else .read) with
  | .bad _ => .bad
  | .noLeaf l => if q.failed.contains (va / 8192) then .bad else .page l
  | .ok pa leaf _ _ => if leafRemote leaf || (write && leafIMM leaf) then .bad else .ok pa

/-- R443: the time of the retry of a siding access that has failed, by TCLK in timetable mode (R458). -/
def State.sidingLater (s : State) (c : Nat) (q : Queue) : Nat := s.clock c (s.inTT q.launch) + 65536

/-- R442: resident room is refilled from the head of the siding. A page without a leaf is asked for with PATH 5 (R227), and a read that fails is made again
when a failed write is (R443, log 89). -/
def State.queueRefill (s : State) (c : Nat) (q : Queue) : Nat → State × Queue
  | 0 => (s, q)
  | n + 1 =>
    if q.scount = 0 ∨ q.cap ≤ q.resident.length ∨ q.readWait.isSome = true ∨ s.swappedCore c = true then (s, q)
    else
      let va := q.sidingAt q.shead
      match s.sidingAcc q va false with
      | .ok pa =>
        let e := QEntry.ofBytes (s.mem.read pa 16)
        s.queueRefill c
          { q with resident := q.resident ++ [e], shead := (q.shead + 1) % q.sidingSize, scount := q.scount - 1, readFail := false } n
      | .bad => (s, { q with readFail := true, retryAt := s.sidingLater c q, failed := [] })
      | .page l => (s.raisePage c q.launch.part q.launch.id q.oasid va 1 5 l, { q with readWait := some (va / 8192) })

/-- R442, R443: buffered entries move in order to the resident ring or the siding, each acknowledged once it is stored; the first that
cannot be stored holds the queue. After a write that failed the siding is written again only with `retry`. While its partition is swapped out, entries go to
the siding alone (R457). -/
def State.queueStore (s : State) (c n : Nat) (q : Queue) (retry : Bool) : Nat → State × Queue
  | 0 => (s, q)
  | fuel + 1 =>
    match q.buffer with
    | [] => (s, { q with held := false })
    | e :: rest =>
      if q.scount = 0 ∧ q.resident.length < q.cap ∧ s.swappedCore c = false then
        (s.queueReply c e 0).queueStore c n { q with resident := q.resident ++ [e], buffer := rest, held := false } retry fuel
      else if q.pageWait.isSome || (q.spillFail && !retry) then (s, q)
      else if q.sidingSize ≤ q.scount then s.queueHold c n q 0
      else
        let va := q.sidingAt (q.shead + q.scount)
        match s.sidingAcc q va true with
        | .ok pa =>
          (({ s with mem := s.mem.write pa e.bytes } : State).queueReply c e 0).queueStore c n
            { q with scount := q.scount + 1, buffer := rest, held := false, spillFail := false } retry fuel
        | .bad =>
          let r := s.queueHold c n q va
          (r.1, { r.2 with spillFail := true, retryAt := s.sidingLater c q, failed := [] })
        | .page l =>
          let r := s.queueHold c n q va
          (r.1.raisePage c q.launch.part q.launch.id q.oasid va 2 5 l, { r.2 with pageWait := some (va / 8192) })

/-- The queue settled after a change: refilled, then its buffer stored. -/
def State.queueSettle (s : State) (c n : Nat) (retry : Bool) : State :=
  let a := s.queueRefill c ((s.core c).queue n) 256
  let b := a.1.queueStore c n a.2 retry (a.2.buffer.length + 1)
  let d := b.1.queueRefill c b.2 256
  d.1.setQueue c n d.2

/-- A queue whose siding may be tried again: it is settled now, or in timetable mode at the next boundary (R458). -/
def State.queueStir (s : State) (c n : Nat) : State :=
  if s.inTT ((s.core c).queue n).launch && !s.swappedCore c then s.setQueue c n { (s.core c).queue n with retryAt := 0 }
  else s.queueSettle c n true

/-- R458: the queues of a core at a boundary, with what its superstep and the answers to its requests have left to do. -/
def State.queueBoundary (s : State) (c : Nat) : State :=
  (s.core c).queues.foldl (fun st q =>
    if q.2.live then st.queueSettle c q.1 (decide (((st.core c).queue q.1).retryAt ≤ st.clock c true)) else st) s

/-- R451: an entry reaches its queue: accepted or refused. -/
def State.queueArrive (s : State) (c : Nat) (h : Word) (e : QEntry) : State :=
  match (s.core c).current h with
  | none => s.queueReply c e QSTALE
  | some q =>
    if q.open' = 0 ∧ e.sasid ≠ q.oasid then s.queueReply c e ACCESS_VIOLATION
    else
      let q1 := { q with qseq := (q.qseq + 1) % 65536, buffer := q.buffer ++ [{ e with qseq := q.qseq }] }
      (s.setQueue c (qhNum h) q1).queueSettle c (qhNum h) false

/-- R452: a train has reached its block end: the entries it reserved leave their queues, a commit that tries a failed siding write again (R443). -/
def State.queueRelease (s : State) (c uid : Nat) : State :=
  let mine := fun (e : QEntry) => match e.resv with | some (u, _, _) => u == uid | none => false
  ((s.core c).queues.filter (fun q => q.2.resident.any mine)).foldl (fun st q =>
    (st.setQueue c q.1 { q.2 with resident := q.2.resident.filter (fun e => !mine e) }).queueStir c q.1) s

/-- R453: a queue stops being live: entries it had accepted are discarded, buffered ones refused. -/
def State.queueKill (s : State) (c n : Nat) : State :=
  let q := (s.core c).queue n
  let s1 := q.buffer.foldl (fun st e => st.queueReply c e QSTALE) s
  s1.setQueue c n { q with live := false, resident := [], scount := 0, shead := 0, buffer := [], held := false, spillFail := false,
                           pageWait := none, readWait := none, readFail := false, failed := [] }

/-- R455: the record of a refused entry. -/
def QSent.ringRecord (q : QSent) (code : Nat) : Nat :=
  4 + code % 256 * 2 ^ 8 + q.src.toNat * 2 ^ 64 + q.handle.toNat * 2 ^ 128 + q.data.toNat * 2 ^ 192

/-- R441, R347, R451: a reply to a sender; none while a ring record waits for space or a page. -/
def State.queueAnswer (s : State) (c ser code : Nat) : Option State :=
  match (s.core c).qsent.find? (fun q => q.ser == ser) with
  | none => some s
  | some q =>
    let done := fun (st : State) =>
      (st.updCore c (fun k => { k with qsent := k.qsent.filter (fun x => x.ser != ser) })).endOp c q.opId
    let plain := fun (st : State) => st.faultRecord { q.info with code := code, detail := q.handle.toNat, source := 2 }
    if code = 0 then some (done s)
    else
      match q.ring with
      | none => some (done (plain s))
      | some k =>
        let bad :=
          if q.pageFail || s.ringExists q.info.launch k then some (done (s.faultRecord { q.info with code := COPY_RECORD, detail := 6, source := 2 }))
          else some (done (plain s))
        if q.pageFail then bad
        else if q.page.isSome then none
        else
          match s.ringWrite q.info.launch k (q.ringRecord code) [] with
          | .ok s1 => some (done s1)
          | .full | .page .. => none
          | .bad => bad

/-- R227, R347: the page request of a refusal record whose ring has a page without a leaf; none when there is none to raise. -/
def State.queuePage (s : State) (c : Nat) (q : QSent) (code : Nat) : Option State :=
  match q.ring with
  | none => none
  | some k =>
    if code = 0 ∨ q.page.isSome = true then none
    else
      match s.ringWrite q.info.launch k 0 [] with
      | .page asid va kind lv =>
        some ((s.ringPage c q.info.launch asid va kind lv).updCore c (fun e => { e with qsent := e.qsent.map (fun x =>
          if x.ser == q.ser then { x with page := some (va / 8192) } else x) }))
      | _ => none

/-! ## Row frames and builders (R445 to R448) -/

/-- R446: bytes a frame of n rows takes. -/
def frameFits (fs rb n : Nat) : Bool := decide (64 + roundUp (4 * n) 16 + n * rb ≤ fs)
/-- R446: CAP. -/
def frameCap (tsize rb : Nat) : Nat :=
  let fs := Nat.min 16384 (1024 * 2 ^ tsize)
  let n := (fs - 64) / (rb + 4)
  if frameFits fs rb n then n else n - 1
def frameRowOff (cap : Nat) : Nat := 64 + roundUp (4 * cap) 16

/-- R454: a frame descriptor is well-formed. -/
def frameDescOk (d : Nat) : Bool :=
  let rb := rfRowBytes d
  natBits d 15 0 == 0x4652 && natBits d 399 16 == 0 && rfTimer d != 7 && rfTsize d != 7 && rfReads d != 0 && rb % 16 == 0 &&
  decide (16 ≤ rb ∧ rb ≤ 4096) && frameFits (Nat.min 16384 (1024 * 2 ^ rfTsize d)) rb 1

/-- R28: cycles of a timer class; none never expires. -/
def timerCycles (code : Nat) : Option Nat :=
  match code with
  | 0 => some 0 | 1 => some 32 | 2 => some 128 | 3 => some 512 | 4 => some 2048 | 5 => some 8192 | _ => none

/-- An empty builder. -/
def Builder.empty : Builder :=
  { launch := ⟨0, 0⟩, desc := 0, filling := false, rows := [], src := 0, firstAt := 0, closed := none, flying := false, flyOp := 0, seq := 0, ops := [] }

def Core.builder (k : Core) (b : Nat) : Builder := NMap.getD k.builders b Builder.empty
def State.setBuilder (s : State) (c b : Nat) (x : Builder) : State := s.updCore c (fun k => { k with builders := NMap.set k.builders b x })
/-- R447: no row is filling and no closed frame waits. -/
def Builder.idle (x : Builder) : Bool := !x.filling && x.closed.isNone

/-- R445: the bytes of the frame a builder holds. -/
def Builder.bytes (x : Builder) : List Byte :=
  let d := x.desc
  let n := x.rows.length
  let off := frameRowOff (frameCap (rfTsize d) (rfRowBytes d))
  let len := off + n * rfRowBytes d
  let head := 0x4652 + x.src.toNat * 2 ^ 256 + x.seq % 2 ^ 32 * 2 ^ 320 + len * 2 ^ 352 + off * 2 ^ 368 + n * 2 ^ 384 +
    natBits d 429 400 * 2 ^ 400 + natBits d 511 433 * 2 ^ 433
  let ids := x.rows.flatMap (fun r => leBytes 4 r.1)
  leBytes 64 head ++ ids ++ List.replicate (off - 64 - ids.length) 0 ++ x.rows.flatMap (fun r => r.2)

/-- R447: the filling frame closed, when the builder has place for it. -/
def Builder.close (x : Builder) (c b dev : Nat) : Option Builder :=
  if x.filling && x.closed.isNone then
    some { x with filling := false, rows := [], seq := (x.seq + 1) % 2 ^ 32,
                  closed := some { bytes := x.bytes, sender := x.launch, core := c, builder := b, dev := dev, sided := false } }
  else none

/-- R21, R448: a frame or token discarded for a sender: a record with SOURCE 3 to the launch that sent it, or to its partition's queue when that
launch is no longer live, or a notice to its device.
The record holds the tag in TAG, and in DETAIL a token's destination or a frame's NTAG (log 53). -/
def State.discardFor (s : State) (dev : Nat) (r : LaunchRef) (asid code : Nat) (tag : Word) (dest : Nat) (src : Word) (frame : Bool) : State :=
  if dev = s.link.device then
    let info := { FaultInfo.plain code (if frame then tag.toNat else dest) 0 r asid 3 with tag := tag, core := tagCore tag }
    if s.refStopped r then s.partFaultRecord info else s.faultRecord info
  else s.emit (.discard dev tag dest src (r.id % 65536) r.part code frame)

/-- The frame in flight of a builder has been delivered (R447). -/
def State.frameLanded (s : State) (f : RowFrame) : State :=
  if f.dev = s.link.device then s.setBuilder f.core f.builder { (s.core f.core).builder f.builder with flying := false }
  else s.emit (.tokAck f.dev (rfSrc f.head))

/-- R322: whether a `talloc` waits for a tile of the partition that a frame at core c goes to. -/
def State.frameBehind (s : State) (c : Nat) (f : RowFrame) : Bool :=
  let fr := s.frame c (tagFrame (rfTag f.head))
  fr.alloc && ((poolFind (s.core c).eng.pool fr.launch (rfPart f.head)).map (fun p => !p.queue.isEmpty)).getD false

/-- What the delivery of a frame comes to. -/
inductive FrameDel where
  | gone (s : State)        -- delivered or discarded
  | noTile                  -- no FREE tile
deriving DecidableEq

/-- R448: a frame at the core its NTAG names. A frame whose NTAG is of another address space than the frame of its number is discarded like
one whose frame is not allocated: no token crosses address spaces (R17, log 17). -/
def State.frameDeliver (s : State) (c : Nat) (f : RowFrame) : FrameDel :=
  let h := f.head
  let tag := rfTag h
  let fr := s.frame c (tagFrame tag)
  let r := fr.launch
  if !fr.alloc || tagAsid tag != fr.asid then .gone ((s.discardFor f.dev f.sender (tagAsid tag) DEST_RANGE tag (rfDest h) (rfSrc h) true).frameLanded f)
  else
    match poolFind (s.core c).eng.pool r (rfPart h) with
    | none => .gone ((s.discardFor f.dev f.sender (tagAsid tag) ACCESS_VIOLATION tag (rfDest h) (rfSrc h) true).frameLanded f)
    | some p =>
      if p.tsize ≠ rfTsize h then
        .gone ((s.discardFor f.dev f.sender (tagAsid tag) ACCESS_VIOLATION tag (rfDest h) (rfSrc h) true).frameLanded f)
      else
        match p.which (fun t => t.state == .free) with
        | [] => .noTile
        | i :: _ =>
          let key : TileKey := ⟨r, rfPart h, i⟩
          let gen := (((poolTile (s.core c).eng.pool key).map (·.gen)).getD 0 + 1) % 65536
          let s1 := s.updEng c (fun e => { e with pool := poolUpd e.pool key (fun t =>
            { t with gen := gen, state := .sealed, run := false, hkind := false, count := rfReads h, hframe := 0, hindex := 0,
                     dropping := false, mem := t.mem.write 0 f.bytes }) })
          let tok : Token :=
            { tag := tag, src := rfSrc h, dest := rfDest h, scope := rfScope h, pwords := 2, pay0 := mkHandle gen c (rfPart h) i 0,
              pay1 := BitVec.ofNat 64 (rfRows h + rfSeq h * 2 ^ 32), kind := 0, sided := false, sender := f.sender }
          .gone ((s1.engToken c (s.inTT r) tok).frameLanded f)

end Sys2Proof.Machine
end

