-- ==== Sys2Proof/Machine/LaunchOps.lean ====
section
/-!
DEFINITION. The launch engine's shared operations: launch identifiers, device queues, dependence counters and their firing, records on
their way to yards (R233, R234, R249, R250, R252, R259, R260).
-/
namespace Sys2Proof.Machine

/-! ## Launches -/

/-- R234: the next identifier that no live launch of the partition holds, among n candidates after `last`. -/
def idScan (live : List Nat) (last : Nat) : Nat → Nat
  | 0 => (last + 1) % 65536
  | n + 1 => if live.contains ((last + 1) % 65536) then idScan live ((last + 1) % 65536) n else (last + 1) % 65536

def Partition.nextId (p : Partition) : Nat :=
  idScan ((p.launches.filter (fun e => e.2.state.live)).map (fun e => e.1 % 65536)) p.lastId p.launches.length

/-- The name under which a new launch is listed: its LAUNCH_ID, or one with the same low 16 bits while a FAULTED launch still holds that. -/
def Partition.nextKey (p : Partition) : Nat :=
  ((List.range (p.launches.length + 1)).map (fun i => p.nextId + 65536 * i)).find? (fun n => (NMap.get? p.launches n).isNone) |>.getD p.nextId

/-- A launch as it leaves its queue. -/
def Launch.fresh (id asid queue : Nat) (record : BitVec 2048) (created : Bool) (now : Nat) : Launch :=
  { id := id, state := .check, asid := asid, queue := queue, record := record, nodes := [], groups := [], code := 0, leaks := 0,
    since := now, created := created, step := 0, slots := [], recSlots := [], placeSeq := 0, used := [], pageWait := none, failed := [] }

/-- A launch entered under the next identifier of its partition (R234). -/
def State.enterLaunch (s : State) (p asid queue : Nat) (record : BitVec 2048) (created : Bool) : Nat × State :=
  let id := (s.part p).nextKey
  (id, s.updPart p (fun k => { k with
    lastId := id % 65536, launches := NMap.set k.launches id (Launch.fresh id asid queue record created s.cyc.toNat) }))

/-- A fault of the launch engine for a launch (R248), SOURCE 1, with its program and a block of it (log 54); the launch enters FAULTED. -/
def State.launchFaultIn (s : State) (r : LaunchRef) (code block detail addr : Nat) : State :=
  let l := s.launch? r
  s.faultNow { FaultInfo.plain code detail addr r ((l.map (·.asid)).getD 0) 1 with
    prog := (l.map (fun x => recProg x.record)).getD 0, block := block }

def State.launchFault (s : State) (r : LaunchRef) (code detail addr : Nat) : State := s.launchFaultIn r code 0 detail addr

/-! ## Device queues (R233) -/

def Partition.dqueue (p : Partition) (q : Nat) : List QRec := NMap.getD p.dq q []

/-- R233: a record written into a device queue that has place for it. -/
def State.queueRec (s : State) (p q : Nat) (r : QRec) : Option State :=
  let k := s.part p
  let l := k.dqueue q
  if 256 ≤ l.length then none
  else
    let n := NMap.getD k.dqHead q 0 + l.length
    let s1 := s.physPut ⟨p, 0⟩ (k.lArea + 65536 * (q - 8) + 256 * (n % 256)) 256 r.record.toNat 4
    some (s1.updPart p (fun k => { k with dq := NMap.set k.dq q (l ++ [r]) }))

/-- R233: the place of a diverted record for device queue q. -/
def Diverted.queueSeq (q : Nat) (d : Diverted) : Option Nat :=
  match d with
  | .qrec k _ n => if k = q then some n else none
  | _ => none

/-- R233: the oldest record for device queue q in a siding of the partition. -/
def Partition.oldestRec (p : Partition) (q : Nat) : Option Nat :=
  oldestSided (Diverted.queueSeq q) (p.launches.flatMap (fun e => e.2.sidings))

/-- Whether an earlier record for a device queue waits outside it. -/
def Partition.recWaiting (p : Partition) (q : Nat) : Bool :=
  (p.oldestRec q).isSome || p.firings.any (fun f => f.got.isSome && f.queue == q)

/-- R233: a record that has been read goes to its device queue; behind waiting ones, or when the queue is full, it goes to the siding of the
launch that issued it, against credit (R437). -/
def State.arriveRec (s : State) (f : Firing) (r : BitVec 2048) : State :=
  let p := f.issuer.part
  let q : QRec := { record := r, asid := f.asid, created := f.created, sided := false }
  let side :=
    match s.takeCredit f.issuer f.die 4 with
    | some (s1, true) => s1.divertRec f.issuer f.die (.qrec f.queue q)
    | _ => s.updPart p (fun k => { k with firings := k.firings ++ [{ f with got := some r, unit := none }] })
  if (s.part p).recWaiting f.queue then side
  else
    match s.queueRec p f.queue q with
    | some s1 => s1
    | none => side

/-! ## Dependence counters (R249, R250, R260) -/

/-- R250: the new launch of a firing whose record cannot be read is FAULTED; its record goes to the partition's fault queue. -/
def State.fireFault (s : State) (f : Firing) (code : Nat) : State :=
  let n := s.enterLaunch f.issuer.part f.asid f.queue 0 f.created
  n.2.launchFault ⟨f.issuer.part, n.1⟩ code 0 f.va

/-- R250: the record of a firing read and queued, or its page asked for. -/
def State.fireTry (s : State) (f : Firing) : State :=
  match f.got with
  | some r => s.arriveRec f r
  | none =>
    match s.engAcc f.asid f.va 256 .read with
    | .ok pa leaf _ _ =>
      if leafRemote leaf then s.fireFault f ACCESS_VIOLATION else s.arriveRec f (BitVec.ofNat 2048 (s.mem.readNat pa 256))
    | .bad code => s.fireFault f code
    | .noLeaf l =>
      if f.failed then s.fireFault f PAGE_UNRESOLVED
      else (s.raisePage 0 f.issuer.part f.issuer.id f.asid f.va 1 7 l).updPart f.issuer.part (fun k =>
        { k with firings := k.firings ++ [{ f with unit := some (f.va / 8192) }] })

/-- Firings of a partition that can go on, tried again in order. -/
def State.retryFirings (s : State) (p : Nat) : State :=
  let fs := (s.part p).firings
  let go := fs.filter (fun f => f.unit.isNone)
  if go.isEmpty then s
  else go.foldl (fun st f => st.fireTry f) (s.updPart p (fun k => { k with firings := fs.filter (fun f => f.unit.isSome) }))

/-- R260: what an update makes of a counter. -/
def CtrOp.apply (c : Nat) : CtrOp → Nat
  | .sig a => c - c % 2 ^ 32 + (c + 2 ^ 32 - a % 2 ^ 32) % 2 ^ 32
  | .pub a q r =>
    if c.testBit 32 then c
    else
      c - natBits c 120 64 * 2 ^ 64 - natBits c 39 36 * 2 ^ 36 - c % 2 ^ 32 + (c + a) % 2 ^ 32 + 2 ^ 32 + q % 16 * 2 ^ 36 +
        r % 2 ^ 57 * 2 ^ 64

/-- R250: PUB = 1, FIRED = 0 and COUNT ≤ 0. -/
def ctrFires (c : Nat) : Bool := c.testBit 32 && !c.testBit 33 && decide (toSigned 32 c ≤ 0)

/-- R250, R260: one atomic update of the counter at a physical address, and the firing it causes. -/
def State.ctrUpdate (s : State) (pa : Nat) (op : CtrOp) (issuer : LaunchRef) (die asid : Nat) (created : Bool) : State × Option Firing :=
  let v := op.apply (s.mem.readNat pa 16)
  if ctrFires v then
    ({ s with mem := s.mem.writeNat pa 16 (v + 2 ^ 33) },
     some { issuer := issuer, die := die, queue := natBits v 39 36, asid := asid, va := natBits v 120 64, created := created,
            failed := false, unit := none, got := none })
  else ({ s with mem := s.mem.writeNat pa 16 v }, none)

/-- A counter updated, its record queued at once when it fires. -/
def State.ctrNow (s : State) (pa : Nat) (op : CtrOp) (issuer : LaunchRef) (die asid : Nat) (created : Bool) : State :=
  match s.ctrUpdate pa op issuer die asid created with
  | (s1, some f) => s1.fireTry f
  | (s1, none) => s1

/-! ## Yards (R251, R252) -/

/-- The yard of a node of a launch on a die. -/
def State.yard? (s : State) (die : Nat) (r : LaunchRef) (node : Nat) : Option Yard :=
  (s.die die).yards.find? (fun y => y.launch == r && y.node == node)

def State.updYard (s : State) (die num : Nat) (f : Yard → Yard) : State :=
  s.updDie die (fun d => { d with yards := d.yards.map (fun y => if y.num == num then f y else y) })

/-- The record of a node of a launch (R251). -/
def State.nodeRec (s : State) (r : LaunchRef) (node : Nat) : BitVec 2048 :=
  match s.launch? r with
  | some l => l.nodes.getD node 0
  | none => 0

/-- The records of one `nrec` sent to their yard (R259). -/
def State.sendPack (s : State) (die : Nat) (p : YPack) : State :=
  match s.yard? die p.launch p.node with
  | some y => s.updYard die y.num (fun y => { y with inq := y.inq ++ [p] })
  | none => s

end Sys2Proof.Machine
end

