-- ==== Sys2Proof/Machine/Placing.lean ====
section
/-!
DEFINITION. CHECK, grid words and placement of launches (R232 to R244, R251).
-/
namespace Sys2Proof.Machine

/-! ## Admission (R233, R234) -/

/-- Launches of a partition that are live under a timetable launch or created by one (R292). -/
def Partition.ttLive (p : Partition) : Bool :=
  p.launches.any (fun e => e.2.state.live && (recTimetable e.2.record || e.2.created))

/-- R233: a launch in CHECK, GRIDWAIT or PLACING holds back the rest of its queue. -/
def Partition.queueBlocked (p : Partition) (q : Nat) : Bool :=
  p.launches.any (fun e => e.2.queue == q && (e.2.state == .check || e.2.state == .gridwait || e.2.state == .placing))

/-- Records a host queue holds: HEAD and TAIL (R463). -/
def State.hostQueue (s : State) (p q : Nat) : Nat × Nat := NMap.getD s.host.db (16 * p + q) (0, 0)

/-- R292: the place in a device queue of the record that may leave it: its head, or under a timetable launch its first created one. -/
def Partition.headOf (p : Partition) (q : Nat) : Option Nat :=
  let l := p.dqueue q
  if p.ttLive then findPos (fun r => r.created) l else if l.isEmpty then none else some 0

/-- Whether a queue's head can enter CHECK. -/
def State.canAdmit (s : State) (p q : Nat) : Bool :=
  let k := s.part p
  !k.queueBlocked q &&
  (if q < 8 then
    let h := s.hostQueue p q
    h.1 != h.2 && !k.ttLive
  else (k.headOf q).isSome)

/-- R233: the queue served next: round robin in ascending number after the one served last. -/
def State.nextQueue (s : State) (p : Nat) : Option Nat :=
  let last := (s.part p).rrLast
  ((List.range 16).map (fun i => (last + 1 + i) % 16)).find? (fun q => s.canAdmit p q)

/-- R233, R271: the head of a queue enters CHECK; a host record that lies beyond the HBM sends its launch to FAULTED (R470, log 90). -/
def State.admitFrom (s : State) (p q : Nat) : State :=
  let s0 := s.updPart p (fun k => { k with rrLast := q })
  if q < 8 then
    let h := s.hostQueue p q
    let pa := (s.part p).lArea + 0x80000 + 0x10000 * q + 256 * (h.1 % 256)
    let rec256 := BitVec.ofNat 2048 (if physOk pa 256 then s.mem.readNat pa 256 else 0)
    let asid := NMap.getD (s.part p).hqAsid q 0
    let s1 := { s0 with host := { s0.host with db := NMap.set s0.host.db (16 * p + q) ((h.1 + 1) % 65536, h.2) } }
    let n := s1.enterLaunch p asid q rec256 false
    if physOk pa 256 then n.2 else n.2.launchFault ⟨p, n.1⟩ ACCESS_VIOLATION 0 pa
  else
    let k := s.part p
    match (k.headOf q).bind (fun i => (k.dqueue q)[i]?) with
    | none => s0
    | some r =>
      let i := (k.headOf q).getD 0
      let s1 := s0.updPart p (fun k => { k with
        dq := NMap.put k.dq q ((k.dqueue q).eraseIdx i) [], dqHead := NMap.set k.dqHead q (NMap.getD k.dqHead q 0 + 1) })
      (s1.enterLaunch p r.asid q r.record r.created).2

/-! ## CHECK (R235 to R238) -/

/-- Fields of a record that are zero: the given bit ranges. -/
def recZero (r : BitVec 2048) (fs : List (Nat × Nat)) : Bool := fs.all (fun f => recBits r f.1 f.2 == 0)

/-- R235: reserved fields of every record. -/
def recReserved : List (Nat × Nat) :=
  [(1023, 1017), (959, 928), (896, 839), (831, 825), (767, 761), (703, 697), (239, 232), (227, 224), (127, 112), (95, 80), (71, 64), (63, 57)]
def recNodeOnly : List (Nat × Nat) := [(1016, 960), (927, 916), (915, 912), (911, 911), (910, 908), (907, 897)]
def recRootOnly : List (Nat × Nat) :=
  [(838, 832), (824, 768), (760, 704), (696, 640), (639, 512), (511, 448), (447, 384), (383, 320), (319, 256), (255, 240), (231, 228),
   (223, 192), (191, 128), (79, 73), (56, 0)]

/-- R236: an entry of PARTS. -/
def partEntryOk (e : Nat) : Bool :=
  natBits e 11 9 == 0 && natBits e 14 12 != 7 &&
  (if e.testBit 15 then decide (1 ≤ natBits e 8 0 ∧ natBits e 8 0 ≤ 384) else natBits e 8 0 == 0)

/-- R101, R238: an address field: within the virtual space and aligned. -/
def addrField (a align : Nat) : Bool := vaOk a && a % align == 0

/-- R238: the first row of its table, and the bounds of R237 that need no image. -/
def recFormatOk (r : BitVec 2048) (node : Bool) : Bool :=
  recBits r 111 96 == 0x4C52 && recZero r recReserved && (recBits r 72 72 == b2n node) &&
  recZero r (if node then recRootOnly else recNodeOnly) &&
  addrField (recRecBuf r) 256 && addrField (recNodeTab r) 256 && addrField (recProg r) 256 && addrField (recRingTab r) 64 &&
  addrField (recFaultQ r) 16 && addrField (recSucc r) 16 && addrField (recResult r) 8 && addrField (recCaddr r) 8 &&
  addrField (recGridAddr r) 8 && decide (recSpOrder r ≤ 9) && (List.range 8).all (fun p => partEntryOk (recPart r p)) &&
  (List.range 8).all (fun k =>
    if k < recRoles r then
      roleBits r k 127 112 == 0 && roleBits r k 55 16 == 0 && decide (roleCarry r k ≤ 128) && decide (1 ≤ roleSlots r k ∧ roleSlots r k ≤ 252) &&
        (!node || (roleInst r k == 0 && roleGroups r k == 0))
    else roleBits r k 127 0 == 0) &&
  (recIndirect r || recGridAddr r == 0)

/-- R238: a node's own bounds. -/
def nodeFormatOk (r : BitVec 2048) : Bool :=
  decide (1 ≤ recCoal r ∧ recCoal r ≤ 1024) && recNTimer r != 7 && (!recRagged r || recCoal r % 32 == 0) && recRecSlots r != 0

/-- R85, R238: MODE. -/
def modeCode (m : Word) : Option Nat :=
  if m &&& ~~~(0x007F00F7#64) != 0 then some ILLEGAL_FORMAT
  else if !modeRMOk m then some ILLEGAL_ROUNDING
  else if !modeSATPOk m then some ILLEGAL_FORMAT
  else none

/-- R112: reserved bits zero, and bound levels' codes do not decrease. -/
def scopeMapOk (m : Nat) : Bool :=
  let codes := ((List.range 7).map (fun k => scopeCode m k)).filter (· != 7)
  natBits m 31 21 == 0 && (List.range codes.length).all (fun i => decide (codes.getD i 0 ≤ codes.getD (i + 1) 7))

/-- R238: the entry block of a role against the image: root or node rules, and DEMAND against SLOTS. -/
def State.entryOk (s : State) (asid prog : Nat) (r : BitVec 2048) (k : Nat) (node : Bool) : Bool :=
  match s.blockHead asid prog (roleEntry r k) with
  | none => false
  | some (h0, h1) =>
    decide (h1Demand h1 ≤ roleSlots r k) &&
    (if node then h0Inputs h0 == 1 && h1PWords h1 0 == 2 else h0Inputs h0 == 0) &&
    (!node || decide (256 * h1Demand h1 * ((recCoal r + 31) / 32) ≤ 196608))

/-- R28: seats of a departure count code. -/
def departCount (code : Nat) : Nat :=
  match code with
  | 0 => 32 | 1 => 16 | 2 => 8 | _ => 1

/-- R240: groups and instances per role. -/
def State.roleGrid (s : State) (asid : Nat) (r : BitVec 2048) : List (Nat × Nat) :=
  (List.range (recRoles r)).map (fun k =>
    let n := roleInst r k
    (roleGroups r k, if n = 0 then departCount (((s.blockHead asid (recProg r) (roleEntry r k)).map (fun h => h0DCount h.1)).getD 0) else n))

/-- R244: no role holds an instance. -/
def emptyGrid (g : List (Nat × Nat)) : Bool := g.all (fun e => e.1 == 0 || e.2 == 0)

/-- What CHECK finds: it passes with its node records, waits for a page, or fails with code, BLOCK, DETAIL and ADDR. -/
inductive CheckRes where
  | pass (nodes : List (BitVec 2048))
  | page (va kind path level : Nat)
  | bad (code block detail addr : Nat)

/-- R234, R238: node records read in order. -/
def State.readNodes (s : State) (asid tab : Nat) (failed : List Nat) : Nat → Nat → CheckRes
  | 0, _ => .pass []
  | n + 1, k =>
    match s.readable asid .read failed 1 (tab + 256 * k) 256 with
    | .ok =>
      match s.engAcc asid (tab + 256 * k) 256 .read, State.readNodes s asid tab failed n (k + 1) with
      | .ok pa _ _ _, .pass ns => .pass (BitVec.ofNat 2048 (s.mem.readNat pa 256) :: ns)
      | _, r => r
    | .page va l => .page va 1 7 l
    | .bad code _ _ addr => .bad code 0 0 addr

/-- R44, R238: the image, checked in full the first time. The device knows an image that has passed by its ASID and PROG_BASE (DESIGN CHOICE,
log 30). -/
def State.imagePass (s : State) (l : Launch) (eff : Word) : CheckRes :=
  let prog := recProg l.record
  if s.images.contains (l.asid, prog) then
    match s.readable l.asid .fetch l.failed 2 prog 64 with
    | .ok =>
      let f := ((s.imgHeader l.asid prog).map (·.features)).getD 0
      if (List.range 64).any (fun k => f.testBit k && !bit eff k) then .bad FEATURE_OFF 0 8 0 else .pass []
    | .page va lv => .page va 4 6 lv
    | .bad code _ _ addr => .bad code 0 0 addr
  else
    match s.checkImage l.asid prog eff l.failed with
    | .ok => .pass []
    | .page va lv => .page va 4 6 lv
    | .bad code b off addr => .bad code b off addr

/-- The checks of a launch's records against its image, in the order of R238. -/
def State.recordCode (s : State) (p : Nat) (l : Launch) (nodes : List (BitVec 2048)) : Option Nat :=
  let r := l.record
  let prog := recProg r
  let roles := List.range (recRoles r)
  if !nodes.all (fun n => recFormatOk n true) then some ILLEGAL_FORMAT
  else if !roles.all (fun k => s.entryOk l.asid prog r k false) then some ILLEGAL_FORMAT
  else if !nodes.all (fun n => nodeFormatOk n && s.entryOk l.asid prog n 0 true) then some ILLEGAL_FORMAT
  else
    match modeCode (recMode r) with
    | some code => some code
    | none =>
      if !scopeMapOk (recScopeMap r) then some SCOPE_BINDING
      else if recTimetable r && !bit (s.features p) 1 then some FEATURE_OFF
      else none

/-- R238, R271: CHECK of a launch: its address space, its image, then its records. An image that PROG_BASE does not place on 256 bytes is none
that could be read: the record fails for that field (log 6). -/
def State.checkLaunch (s : State) (p : Nat) (l : Launch) : CheckRes :=
  let e := s.asidEntry l.asid
  let r := l.record
  if !asidValid e || asidPart e != p then .bad ACCESS_VIOLATION 0 0 0
  else if !addrField (recProg r) 256 then .bad ILLEGAL_FORMAT 0 0 0
  else
    match s.imagePass l (s.features p) with
    | .pass _ =>
      if !recFormatOk r false || (recIndirect r && decide (1 < recRoles r)) || decide (64 < recNodes r) then .bad ILLEGAL_FORMAT 0 0 0
      else
        match s.readNodes l.asid (recNodeTab r) l.failed (recNodes r) 0 with
        | .pass ns =>
          match s.recordCode p l ns with
          | some code => .bad code 0 0 0
          | none => .pass ns
        | x => x
    | x => x

/-- Supersteps completed in timetable mode, cycles otherwise: what STALL counts from (R36, R263). -/
def State.stallClock (s : State) (p : Nat) : Nat := if (s.part p).tt.isSome then (s.part p).ssCount.toNat else s.cyc.toNat

/-- A launch in CHECK advanced (R232). -/
def State.runCheck (s : State) (p id : Nat) : State :=
  let r : LaunchRef := ⟨p, id⟩
  match s.launch? r with
  | none => s
  | some l =>
    match s.checkLaunch p l with
    | .bad code block detail addr => s.launchFaultIn r code block detail addr
    | .page va kind path level =>
      (s.raisePage 0 p id l.asid va kind path level).updLaunch r (fun l => { l with pageWait := some (va / 8192) })
    | .pass nodes =>
      let prog := recProg l.record
      let s1 := if s.images.contains (l.asid, prog) then s else { s with images := s.images ++ [(l.asid, prog)] }
      let grid := s.roleGrid l.asid l.record
      let k := s.part p
      let next : LState := if recIndirect l.record then .gridwait else if emptyGrid grid then .completing else .placing
      let s2 := s1.updPart p (fun k => { k with placeNext := k.placeNext + 1 })
      s2.updLaunch r (fun l => { l with
        state := next, nodes := nodes, groups := grid, since := s.stallClock p, placeSeq := k.placeNext + 1, failed := [] })

/-- R233, R238: one step of admission: a launch in CHECK that no page holds goes on, else the head of the next queue enters CHECK. -/
def State.launchAdmit (s : State) (p : Nat) : Option State :=
  match (s.part p).launches.find? (fun e => e.2.state == .check && e.2.pageWait.isNone) with
  | some e => some (s.runCheck p e.1)
  | none =>
    match s.nextQueue p with
    | some q => some (s.admitFrom p q)
    | none => none

/-! ## Grid words (R243) -/

/-- What stands in the way of the grid word. -/
inductive GridRes where
  | wait
  | page (level : Nat)
  | bad (code : Nat)
  | word (w : Nat)

/-- R243: the grid word as the engine finds it. -/
def State.gridLook (s : State) (l : Launch) : GridRes :=
  let va := recGridAddr l.record
  match s.engAcc l.asid va 8 .read with
  | .bad code => .bad code
  | .noLeaf lv => if l.failed.contains (va / 8192) then .bad PAGE_UNRESOLVED else .page lv
  | .ok pa leaf _ _ =>
    if leafRemote leaf || !leafFUT leaf then .bad ACCESS_VIOLATION
    else if s.futFull pa then .word (s.mem.readNat pa 8) else .wait

/-- R243: one step of a launch in GRIDWAIT; none while the word is empty. -/
def State.gridRead (s : State) (p id : Nat) : Option State :=
  let r : LaunchRef := ⟨p, id⟩
  match s.launch? r with
  | none => none
  | some l =>
    if l.state ≠ .gridwait ∨ l.pageWait.isSome then none
    else
      match s.gridLook l with
      | .wait => none
      | .bad code => some (s.launchFault r code 0 (recGridAddr l.record))
      | .page lv =>
        some ((s.raisePage 0 p id l.asid (recGridAddr l.record) 1 7 lv).updLaunch r (fun l =>
          { l with pageWait := some (recGridAddr l.record / 8192) }))
      | .word w =>
        if natBits w 47 24 ≠ 0 then some (s.launchFault r ILLEGAL_FORMAT 0 0)
        else
          let g := [(natBits w 63 48, natBits w 23 0)]
          let k := s.part p
          some ((s.updPart p (fun k => { k with placeNext := k.placeNext + 1 })).updLaunch r (fun l => { l with
            groups := g, state := if emptyGrid g then .completing else .placing, since := s.stallClock p, placeSeq := k.placeNext + 1 }))

/-! ## Placement (R240 to R242, R251) -/

/-- R30, R241: operand RAM that trains of a launch use on a core, and that is reserved for it. -/
def Core.ramUsed (k : Core) (r : LaunchRef) : Nat := ((k.trains.filter (fun t => t.launch == r)).map (·.ram)).foldl (· + ·) 0
def Core.ramReserved (k : Core) (r : LaunchRef) : Nat := ((k.reserved.filter (fun e => e.1 == r)).map (·.2.2)).foldl (· + ·) 0

/-- R241: operand RAM of a core neither reserved nor used beyond a launch's reservation. -/
def Core.ramFree (k : Core) : Nat :=
  let reserved := (k.reserved.map (·.2.2)).foldl (· + ·) 0
  let beyond := ((dedup (k.trains.map (·.launch))).map (fun r => k.ramUsed r - k.ramReserved r)).foldl (· + ·) 0
  196608 - reserved - beyond

/-- R30, R241: whether a train of a launch that needs n bytes fits: its launch's reserved RAM, then unreserved RAM. -/
def Core.ramFits (k : Core) (r : LaunchRef) (n : Nat) : Bool :=
  decide (n ≤ (k.ramReserved r - k.ramUsed r) + k.ramFree)

/-- n blocks of an order taken from core SRAM: their places. -/
def sramTake (k : Nat) : Nat → List (Nat × Nat) → Option (List Nat × List (Nat × Nat))
  | 0, bs => some ([], bs)
  | n + 1, bs =>
    match sramFind bs k with
    | none => none
    | some u => (sramTake k n (bs ++ [(u, k)])).map (fun r => (u :: r.1, r.2))

/-- R241: the tile partitions of a launch taken on a core. -/
def placeParts (r : LaunchRef) (rec256 : BitVec 2048) : List Nat → List (Nat × Nat) → Option (List TilePart × List (Nat × Nat))
  | [], bs => some ([], bs)
  | p :: ps, bs =>
    let e := recPart rec256 p
    if e.testBit 15 then
      let ts := natBits e 14 12
      match sramTake (orderFor (tileBytes ts)) (natBits e 8 0) bs with
      | none => none
      | some (us, bs1) =>
        (placeParts r rec256 ps bs1).map (fun q =>
          ({ launch := r, part := p, tsize := ts, tiles := us.map Tile.fresh, queue := [], bound := none } :: q.1, q.2))
    else placeParts r rec256 ps bs

/-- R196: the recipe entries of an image loaded on a core, when they are there or have room. -/
def State.loadRecipes (s : State) (k : Core) (asid prog : Nat) : Option Core :=
  match s.imgHeader asid prog with
  | none => some k
  | some h =>
    if h.rcpCount = 0 || k.recipes.any (fun r => r.asid == asid && r.prog == prog) then some k
    else if 256 < k.recipes.length + h.rcpCount then none
    else some { k with recipes := k.recipes ++ (List.range h.rcpCount).map (fun i => ⟨asid, prog, i, s.imgRecipe asid prog h i⟩) }

/-- R241: what a launch needs once on a core: its window, tile partitions and recipe entries. -/
def State.placeOnce (s : State) (r : LaunchRef) (l : Launch) (k : Core) : Option Core :=
  let o := recSpOrder l.record
  if k.reserved.any (fun e => e.1 == r) then some k
  else
    let win : Option Core :=
      if o = 0 then some k
      else (sramFind k.sram (o - 1)).map (fun u => { k with
        sram := k.sram ++ [(u, o - 1)], windows := k.windows ++ [{ launch := r, unit := u, size := 2 ^ (o + 7), mem := [], bars := [], spoilt := [] }] })
    match win with
    | none => none
    | some k1 =>
      match placeParts r l.record (List.range 8) k1.sram with
      | none => none
      | some (ps, bs) =>
        s.loadRecipes { k1 with sram := bs, eng := { k1.eng with pool := k1.eng.pool ++ ps } } l.asid (recProg l.record)

/-- R18, R19, R240: the frame of a group of role k. -/
def launchFrame (r : LaunchRef) (l : Launch) (k order reserve unit gen : Nat) : Frame :=
  { Frame.free with
    alloc := true, gen := gen, launch := r, asid := l.asid, prog := recProg l.record, mode := recMode l.record &&& 0xF7#64, stage := k,
    carryCount := roleCarry l.record k, order := order, reserve := reserve, unit := unit }

/-- R160: places within a root block for frames of given orders, largest first, around the blocks that stay. -/
def repack (root : Nat) : List (Nat × Nat) → List (Nat × Nat) → Option (List (Nat × Nat))
  | _, [] => some []
  | fixed, (h, o) :: rest =>
    match sramScan fixed o (256 / 2 ^ o) (256 * root) with
    | none => none
    | some u => (repack root (fixed ++ [(u, o)]) rest).map (fun r => (h, u) :: r)

/-- R160: the frames of one root block moved so that a block of an order becomes free in it, when a move can produce one. -/
def Core.compactRoot (k : Core) (order root : Nat) : Option Core :=
  let live := k.frames.filter (fun e => e.2.alloc && e.2.unit / 256 == root)
  let fixed := k.sram.filter (fun b => !live.any (fun e => e.2.unit == b.1 && e.2.order == b.2))
  let frames := sortBy (fun (a b : Nat × Nat) => decide (b.2 ≤ a.2)) ((4096, order) :: live.map (fun e => (e.1, e.2.order)))
  (repack root fixed frames).map (fun moves =>
    let unitOf := fun (h old : Nat) => ((moves.find? (fun m => m.1 == h)).map (·.2)).getD old
    let moved := live.map (fun e => e.1)
    { k with
      frames := k.frames.map (fun e => if moved.contains e.1 then (e.1, { e.2 with unit := unitOf e.1 e.2.unit }) else e)
      sram := fixed ++ live.map (fun e => (unitOf e.1 e.2.unit, e.2.order)) })

/-- R160: the compactor's run for an allocation of an order that fails while enough 256-byte units are free. -/
def Core.compact (k : Core) (order : Nat) : Option Core :=
  if (sramFind k.sram order).isSome || sramFree k.sram < 2 ^ order then none
  else (List.range 6).findSome? (fun root => k.compactRoot order root)

/-- R241: one group of role k placed on a core, when everything it needs is there; `order` and `reserve` are its frame's (R20). -/
def State.placeGroup (s : State) (r : LaunchRef) (l : Launch) (k order reserve inst c : Nat) : Option State :=
  match s.placeOnce r l (s.core c) with
  | none => none
  | some q0 =>
    let q := (q0.compact order).getD q0
    match freeHandle q.frames, sramFind q.sram order with
    | some h, some u =>
      if 8 < order ∨ q.ramFree < 256 * roleSlots l.record k then none
      else
        let f := launchFrame r l k order reserve u (((NMap.getD q.frames h Frame.free).gen + 1) % 65536)
        some (s.setCore c { q with
          frames := NMap.set q.frames h f, sram := q.sram ++ [(u, order)], reserved := q.reserved ++ [(r, h, 256 * roleSlots l.record k)],
          starts := q.starts ++ [{ launch := r, handle := h, block := roleEntry l.record k, next := 0, total := inst }] })
    | _, _ => none

/-- The groups of a launch in order of role, then of group: role and instances. A role with no instance has none (R244). -/
def groupList : Nat → List (Nat × Nat) → List (Nat × Nat)
  | _, [] => []
  | k, (n, inst) :: rest => (if inst = 0 then [] else List.replicate n (k, inst)) ++ groupList (k + 1) rest

/-- The tails of a list of cores. -/
def coreTails : List Nat → List (List Nat)
  | [] => []
  | c :: cs => (c :: cs) :: coreTails cs

/-- R20: the order of each role's frames, and the reserve of each. -/
def State.roleSizes (s : State) (l : Launch) : List Nat × Nat :=
  ((List.range l.groups.length).map (fun k => s.frameOrder l.asid (recProg l.record) (roleCarry l.record k)),
    s.reserveBytes l.asid (recProg l.record))

/-- R241: a group on the first of some cores; `z` holds the sizes of the roles' frames. -/
def State.placeHead (s : State) (r : LaunchRef) (l : Launch) (z : List Nat × Nat) (k inst : Nat) : List Nat → Option State
  | [] => none
  | c :: _ => s.placeGroup r l k (z.1.getD k 0) z.2 inst c

/-- The tails of which no earlier one begins with a core in the same state: what fails on one core fails on its like. -/
def State.unlike (s : State) : List Core → List (List Nat) → List (List Nat)
  | _, [] => []
  | seen, [] :: rest => s.unlike seen rest
  | seen, (c :: cs) :: rest => if seen.contains (s.core c) then s.unlike seen rest else (c :: cs) :: s.unlike (s.core c :: seen) rest

/-- R36, R241: groups placed together: the first assignment of cores, each group's as low as the groups after it allow, that gives all of them what
they need. Groups of one role are alike, so that each looks no lower than the one before it, and those of the last role take the lowest cores that
have room: no other choice leaves more (log 9). -/
def State.placeAll (s : State) (r : LaunchRef) (l : Launch) (z : List Nat × Nat) (all : List Nat) :
    List (Nat × Nat) → Nat → List Nat → Option State
  | [], _, _ => some s
  | (k, inst) :: rest, role, low =>
    let tails := coreTails (if k = role then low else all)
    if rest.all (fun g => g.1 == k) then
      (tails.findSome? (fun cs => (s.placeHead r l z k inst cs).map (fun s1 => (s1, cs)))).bind
        (fun x => State.placeAll x.1 r l z all rest k x.2)
    else (s.unlike [] tails).findSome? (fun cs => (s.placeHead r l z k inst cs).bind (fun s1 => State.placeAll s1 r l z all rest k cs))

/-- The lowest yard number of a die that is not in use. -/
def Die.freeYard (d : Die) : Option Nat := (List.range 256).find? (fun i => !d.yards.any (fun y => y.num == i))

def Team.empty : Team := { seats := [], fill := 0, first := 0, stood := 0, formedAt := 0, order := 0 }

/-- R251: yards for n nodes from node k on taken on a die. -/
def State.takeYards (s : State) (die : Nat) (r : LaunchRef) : Nat → Nat → Option State
  | 0, _ => some s
  | n + 1, k =>
    match (s.die die).freeYard with
    | none => none
    | some i =>
      let y : Yard := { num := i, launch := r, node := k, inq := [], forming := Team.empty, formed := [], pageWait := none }
      State.takeYards (s.updDie die (fun d => { d with yards := insertBy (fun a b => decide (a.num ≤ b.num)) y d.yards })) die r n (k + 1)

def State.takeAllYards (s : State) (r : LaunchRef) (n : Nat) : List Nat → Option State
  | [] => some s
  | d :: ds =>
    match s.takeYards d r n 0 with
    | none => none
    | some s1 => State.takeAllYards s1 r n ds

/-- R434: a siding slot on each die where the launch holds a core. -/
def State.takeSlots (s : State) (r : LaunchRef) : List Nat → Option State
  | [] => some s
  | d :: ds =>
    match s.freeSidSlot r.part d with
    | none => none
    | some n =>
      let q : SidSlot := { die := d, num := n, head := 0, tail := 0, credit := (s.part r.part).slotEntries, lent := [], items := [] }
      State.takeSlots ((s.updLaunch r (fun l => { l with slots := l.slots ++ [q] })).putSlotHeader r d) r ds

/-- R241, R251, R434: with every group placed, the yards and siding slots of a launch, and it runs. -/
def State.placeRest (s1 : State) (r : LaunchRef) (l : Launch) (cores : List Nat) : Option State :=
  let used := cores.filter (fun c => (s1.core c).reserved.any (fun e => e.1 == r))
  ((s1.takeAllYards r l.nodes.length (if l.nodes.isEmpty then [] else dedup (cores.map dieOf))).bind
    (fun s2 => s2.takeSlots r (dedup (used.map dieOf)))).map
    (fun s3 => s3.updLaunch r (fun x => { x with state := .running, used := used }))

/-- R36, R241: a launch placed whole, or not at all, on cores of dies that have a siding slot left for it (R434). -/
def State.placeLaunch (s : State) (r : LaunchRef) (l : Launch) : Option State :=
  let cores := (s.part r.part).cores
  let open' := cores.filter (fun c => (s.freeSidSlot r.part (dieOf c)).isSome)
  (s.placeAll r l (s.roleSizes l) open' (groupList 0 l.groups) 8 open').bind (fun s1 => s1.placeRest r l cores)

/-- R36: the machine with nothing else in a launch's partition. -/
def State.alone (s : State) (r : LaunchRef) : State :=
  let cores := (s.part r.part).cores
  let s1 := s.updPart r.part (fun k => { k with launches := k.launches.filter (fun e => e.1 == r.id) })
  { s1 with
    cores := s1.cores.map (fun e => if cores.contains e.1 then (e.1, Core.reset) else e)
    dies := s1.dies.map (fun d => (d.1, { d.2 with yards := d.2.yards.filter (fun y => y.launch.part != r.part) })) }

/-- R240: up to n of a core's waiting instances made ready, in their order. -/
def Core.startSome (k : Core) : Nat → Core
  | 0 => k
  | n + 1 =>
    match k.starts with
    | [] => k
    | x :: rest =>
      if x.total ≤ x.next then Core.startSome { k with starts := rest } n
      else
        let f := NMap.getD k.frames x.handle Frame.free
        let i : Inst := { asid := f.asid, handle := x.handle, prog := f.prog, block := x.block, idx := x.next, toks := [],
                          yielded := false, after := 0, num := 0 }
        let more := if x.next + 1 < x.total then [{ x with next := x.next + 1 }] else []
        Core.startSome (({ k with starts := more ++ rest } : Core).makeReady i false) n

/-- R240: the instances a core makes ready in one cycle of its clock. -/
def Core.startBatch (k : Core) (clock : Nat) : Core :=
  if k.starts.isEmpty ∨ clock < k.startAt then k else { k.startSome 32 with startAt := clock + 1 }

/-- R292: the timetable begins: SSCOUNT 0, and TCLK, RPTR 0 on every core of the partition. -/
def State.beginTT (s : State) (p id : Nat) : State :=
  let s1 := s.updPart p (fun k => { k with tt := some id, ssCount := 0, ssEnd := k.ssLen })
  (s1.part p).cores.foldl (fun st c => st.updCore c (fun k => { k with
    tclk := 0, rptr := 0, ssDone := false, turn := none, startAt := 0, entered := none, eng := { k.eng with poolSnap := k.eng.pool } })) s1

/-- R240, R241, R292: the placement of a launch in PLACING; none while it cannot be placed. -/
def State.tryPlace (s : State) (p id : Nat) : Option State :=
  let r : LaunchRef := ⟨p, id⟩
  match s.launch? r with
  | none => none
  | some l =>
    if l.state ≠ .placing then none
    else if recTimetable l.record && !l.created && (s.part p).launches.any (fun e => e.1 != id && e.2.state.live) then none
    else
      match s.placeLaunch r l with
      | none => none
      | some s1 => if recTimetable l.record && !l.created then some (s1.beginTT p id) else some s1

/-- Launches of a partition in PLACING, in the order they entered it (R263). -/
def Partition.placingOrder (p : Partition) : List Nat :=
  (sortBy (fun a b => decide (a.2.placeSeq ≤ b.2.placeSeq)) (p.launches.filter (fun e => e.2.state == .placing))).map (·.1)

/-- R36, R243: whether a launch's stall limit has expired: of one that waits for its grid word, or that would not fit even alone. -/
def State.stalled (s : State) (p : Nat) (l : Launch) : Bool :=
  let n := recStall l.record
  n != 0 &&
  (if (s.part p).tt.isSome then decide (l.since + n ≤ (s.part p).ssCount.toNat) else decide (l.since + 1050 * n ≤ s.cyc.toNat)) &&
  (l.state == .gridwait || (l.state == .placing && ((s.alone ⟨p, l.id⟩).placeLaunch ⟨p, l.id⟩ l).isNone))

end Sys2Proof.Machine
end

