-- ==== Sys2Proof/Machine/FireRun.lean ====
section
/-!
DEFINITION. The firing engine between instructions: arrival of tokens, matching, seating, departure and the end of trains (R25 to R31,
R160, R161, R164 to R169, R191).
-/
namespace Sys2Proof.Machine

/-! ## The matching store (R25, R26, R161, R167) -/

/-- Whether an instance has a key. -/
def Inst.hasKey (i : Inst) (asid handle block idx : Nat) : Bool :=
  i.asid == asid && i.handle == handle && i.block == block && i.idx == idx

/-- R20: bytes of reserve that a partial entry of a block with n inputs takes. -/
def entryBytes (n : Nat) : Nat := roundUp (16 + 24 * n) 16

/-- R20, R161: the place that an entry would take in its frame's payload reserve, first-fit. -/
def State.spillPlace (s : State) (c : Nat) (e : MEntry) : Option (Nat × Nat) :=
  let n := entryBytes e.inputs
  (firstFit (s.frame c e.inst.handle).room n ((s.core c).reserved? e.inst.handle)).map (fun o => (o, n))

/-- A partial entry of the store itself. -/
def MEntry.partial' (e : MEntry) : Bool := e.state == .filling && e.reserve.isNone

/-- R161: one partial entry, the oldest that its frame's reserve can hold, moves there. -/
def State.spillEntry (s : State) (c : Nat) : Option State :=
  let k := s.core c
  match minBy (fun a b => decide (a.since ≤ b.since)) (k.entries.filter (fun e => e.partial' && (s.spillPlace c e).isSome)) with
  | none => none
  | some e =>
    let p := s.spillPlace c e
    some (s.setCore c { k with entries := k.entries.map (fun x => if x.since == e.since then { x with reserve := p } else x) })

/-- R203: recipe-tagged values of a frame that are present. -/
def Frame.droppable (f : Frame) : List Binding := f.binds.filter (fun b => !b.dropped && f.full b.reg)

/-- R203: the least number of values of its frame whose bytes, lent, let an entry fit. -/
def State.dropCount (s : State) (c : Nat) (e : MEntry) : Option Nat :=
  let f := s.frame c e.inst.handle
  (List.range (f.droppable.length + 1)).find? (fun n =>
    (firstFit (f.room + 8 * n) (entryBytes e.inputs) ((s.core c).reserved? e.inst.handle)).isSome)

/-- R203: where no reserve has room, the carry unit may drop values to lend their bytes: those of one frame, in the order of its list, until
its oldest partial entry fits. Whether it does so is not architectural (log 12); in timetable mode it never does. -/
def State.dropForRoom (s : State) (c : Nat) : Option State :=
  let k := s.core c
  match minBy (fun a b => decide (a.since ≤ b.since)) (k.entries.filter (fun e => e.partial' && (s.dropCount c e).isSome)) with
  | none => none
  | some e =>
    let f := s.frame c e.inst.handle
    let gone := (f.droppable.take ((s.dropCount c e).getD 0)).map (·.reg)
    let d := s.draw
    if s.inTT f.launch || !Config.dropNow d.1 then none
    else
      (d.2.setFrame c e.inst.handle { f with binds := f.binds.map (fun b => if gone.contains b.reg then { b with dropped := true } else b) }).spillEntry c

/-- Entries of the store itself (R161). -/
def Core.stored (k : Core) : Nat := (k.entries.filter (fun e => e.reserve.isNone)).length

/-- R161: entries in reserves move back to the store as it has room, oldest first. -/
def Core.unspill (k : Core) : Core :=
  if 8192 ≤ k.stored then k
  else
    match minBy (fun a b => decide (a.since ≤ b.since)) (k.entries.filter (fun e => e.reserve.isSome)) with
    | none => k
    | some e => { k with entries := k.entries.map (fun x => if x.since == e.since then { x with reserve := none } else x) }

/-- A token placed in its key's partial entry, or in a new one (R25, R26, R167). -/
inductive FillRes where
  | done (k : Core)
  | behind                  -- it waits behind a filled slot
  | noRoom                  -- it needs a new entry

/-- The tokens of a full entry as its input entries see them: a reduction block's sorted by SRC (R167). -/
def presentToks (reduce : Bool) (ts : List (Nat × Token)) : List (Nat × Token) :=
  if reduce then (sortBy (fun a b => tagWordLe a.2.src b.2.src) ts).mapIdx (fun i e => (i, e.2)) else ts

/-- A token meets its key's partial entry; `inputs` and `reduce` are the block's, `room` says that the store takes one more entry. -/
def Core.fillToken (k : Core) (asid prog block slot inputs : Nat) (reduce room : Bool) (t : Token) : FillRes :=
  let h := tagFrame t.tag
  let idx := tagIdx t.tag
  match k.entries.find? (fun e => e.state == .filling && e.inst.hasKey asid h block idx) with
  | some e =>
    let at' := if reduce then e.inst.toks.length else slot
    if e.inst.toks.any (fun x => x.1 == at') then .behind
    else
      let ts := e.inst.toks ++ [(at', t)]
      let full := ts.length == inputs
      let i := { e.inst with toks := if full then presentToks reduce ts else ts }
      .done { k with entries := k.entries.map (fun x =>
        if x.since == e.since then { x with inst := i, state := if full then .ready else .filling } else x) }
  | none =>
    if room then
      let i : Inst := { asid := asid, handle := h, prog := prog, block := block, idx := idx, toks := [(if reduce then 0 else slot, t)],
                        yielded := false, after := 0, num := 0 }
      .done (k.addEntry i (if inputs = 1 then .ready else .filling) inputs)
    else .noRoom

/-- Where a token goes in the program of its target frame (R164, R23). -/
inductive TokDest where
  | to (block slot inputs : Nat) (reduce : Bool)
  | none                    -- DEST or PWORDS do not fit
  | page (va level : Nat)   -- a page of the image is still to come (R46)
deriving DecidableEq, Repr

/-- R46: what a read of an image comes to, page by page, up to H0 and H1 of a block. -/
def State.imgHead (s : State) (asid prog block : Nat) (failed : List Nat) : ImgCheck :=
  let look := fun (va n : Nat) => s.readable asid .fetch failed 2 va n
  match look prog 64 with
  | .ok =>
    match s.imgHeader asid prog with
    | none => .bad ILLEGAL_FORMAT 0 0 prog
    | some h =>
      match look (prog + h.blockOff + 4 * block) 4 with
      | .ok => look (prog + (s.blockOffset asid prog block).getD 0) 8
      | r => r
  | r => r

/-- R164, R23: where a token goes in the program of its target frame: block, slot, inputs, REDUCE. -/
def State.resolveToken (s : State) (f : Frame) (t : Token) : TokDest :=
  let wait := fun (r : ImgCheck) => match r with | .page va lv => TokDest.page va lv | _ => TokDest.none
  match s.readable f.asid .fetch [] 2 f.prog 64, s.imgHeader f.asid f.prog with
  | .ok, some h =>
    if h.destCount ≤ t.dest then .none
    else
      match s.readable f.asid .fetch [] 2 (f.prog + h.destOff + 4 * t.dest) 4, s.imgDest f.asid f.prog t.dest with
      | .ok, some (b, k) =>
        match s.imgHead f.asid f.prog b [], s.blockHead f.asid f.prog b with
        | .ok, some (h0, h1) => if k < h0Inputs h0 ∧ h1PWords h1 k = t.pwords then .to b k (h0Inputs h0) (h0Reduce h0) else .none
        | r, _ => wait r
      | r, _ => wait r
  | r, _ => wait r

/-- What becomes of a token at its core: taken or discarded, no room for it, or a page of the image still to come. -/
inductive Accept where
  | taken (s : State)
  | discarded (s : State)
  | noRoom
  | page (va level : Nat)

/-- R26: whether tokens already wait for the slot of a key that a token names, so that it waits behind them. -/
def State.waitsAhead (s : State) (c : Nat) (f : Frame) (b k : Nat) (reduce : Bool) (t : Token) : Bool :=
  (s.core c).waiting.any (fun w => tagFrame w.tok.tag == tagFrame t.tag && tagIdx w.tok.tag == tagIdx t.tag &&
    (match s.resolveToken f w.tok with | .to b1 k1 _ _ => b1 == b && (reduce || k1 == k) | _ => false))

/-- R17, R21, R23, R25: a token meets the matching store of core c; `dev` is the device it came from. A token whose tag names another address
space than its frame's is discarded like one whose frame is free (log 17). -/
def State.acceptToken (s : State) (c dev : Nat) (t : Token) : Accept :=
  let f := s.frame c (tagFrame t.tag)
  let drop := s.discardFor dev t.sender (tagAsid t.tag) DEST_RANGE t.tag t.dest t.src false
  if !f.alloc || tagAsid t.tag != f.asid then .discarded drop
  else
    match s.resolveToken f t with
    | .none => .discarded drop
    | .page va lv => .page va lv
    | .to b k inputs reduce =>
      let took := fun (st : State) => Accept.taken (st.countEvt c 8 1)
      let wait := s.updCore c (fun q => { q with waiting := q.waiting ++ [⟨dev, t⟩] })
      let go := fun (st : State) (room : Bool) => (st.core c).fillToken f.asid f.prog b k inputs reduce room t
      if s.waitsAhead c f b k reduce t then took wait
      else
        match go s (decide ((s.core c).stored < 8192)) with
        | .done k1 => took (s.setCore c k1)
        | .behind => took wait
        | .noRoom =>
          match (s.spillEntry c).or (s.dropForRoom c) with
          | none => .noRoom
          | some s1 =>
            match go s1 true with
            | .done k1 => took (s1.setCore c k1)
            | _ => .noRoom

/-- A command `depart.t` at the core its tag names (R185). -/
def State.departCommand (s : State) (c idx : Nat) (tag : Word) : State :=
  let f := s.frame c (tagFrame tag)
  if !f.alloc || tagAsid tag != f.asid then s
  else
    match s.imgDest f.asid f.prog idx with
    | some (b, _) => s.updCore c (fun k => k.forcePlat f.asid f.prog b)
    | none => s

/-- What follows when a flight has been taken, put aside or discarded: its sender's operation ends, here or by an acknowledgement to its
device (R166). -/
def State.flightDone (s : State) (f : Flight) (src : Word) : State :=
  if f.acked then s
  else
    match f.dev with
    | some d => if d = s.link.device then (if f.opId = 0 then s else s.endOp f.opCore f.opId) else s.emit (.tokAck d src)
    | none => if f.opId = 0 then s else s.endOp f.opCore f.opId

/-- A flight that cannot be taken now is tried again 64 cycles later (log 43). -/
def State.flightAgain (s : State) (c : Nat) (f : Flight) : State :=
  s.updCore c (fun k => { k with flights := k.flights ++ [{ f with due := s.cyc.toNat + 64, dev := some (f.dev.getD s.link.device) }] })

/-- One flight delivered to core c (R165, R166, R290, R437). A page of the image that is missing is asked for, and the token comes again. -/
def State.deliverFlight (s : State) (c : Nat) (f : Flight) : State :=
  match f.cargo with
  | .depart idx tag src _ => (s.departCommand c idx tag).flightDone f src
  | .departLocal asid prog block => (s.updCore c (fun k => k.forcePlat asid prog block)).flightDone f 0
  | .wake _ => s
  | .tok t =>
    let fr := s.frame c (tagFrame t.tag)
    let dev := f.dev.getD s.link.device
    let side := fun (st : State) =>
      match f.ctx with
      | some r => (st.divert r (dieOf c) (.tok c dev t)).flightDone f t.src
      | none =>
        match st.takeCredit fr.launch (dieOf c) 1 with
        | some (st1, true) => (st1.divert fr.launch (dieOf c) (.tok c dev t)).flightDone f t.src
        | _ => st.flightAgain c f
    if s.swappedCore c && fr.alloc then side s
    else
      match s.acceptToken c dev t with
      | .taken s1 | .discarded s1 => (s1.giveCredit f.ctx (dieOf c) 1 dev t.src t.tag).flightDone f t.src
      | .noRoom => side s
      | .page va lv => (s.raisePage c fr.launch.part fr.launch.id fr.asid va 4 6 lv).flightAgain c f

/-- R26, R167: tokens that arrive in one cycle are taken in tag order of their senders. -/
def flightLe (a b : Flight) : Bool :=
  match a.cargo, b.cargo with
  | .tok x, .tok y => tagWordLe x.src y.src
  | _, _ => true

/-- Cargo that is a token. -/
def Cargo.isTok : Cargo → Bool
  | .tok _ => true
  | _ => false

/-- Flights of a core that a test picks are delivered. -/
def State.arriveSome (s : State) (c : Nat) (mine : Flight → Bool) : State :=
  let k := s.core c
  (sortBy flightLe (k.flights.filter mine)).foldl (fun st f => st.deliverFlight c f)
    (s.setCore c { k with flights := k.flights.filter (fun f => !mine f) })

/-- R165, R185: the tokens, or the commands, that are due at core c by its clock arrive. What reaches a timetable core from outside its
partition waits for the boundary (R297). -/
def State.arriveDue (s : State) (c : Nat) (tt toks : Bool) : State :=
  let now := s.clock c tt
  s.arriveSome c (fun f => decide (f.due ≤ now) && f.cargo.isTok == toks && !(tt && f.dev.isSome))

/-- R438: a token diverted to the siding of a launch handled again as though it had just arrived, from the device it came from. -/
def State.replayToken (s : State) (r : LaunchRef) (die c dev : Nat) (t : Token) : Option State :=
  match s.acceptToken c dev t with
  | .taken s1 | .discarded s1 => some (s1.unDivert r die (.tok c dev t))
  | .noRoom => none
  | .page va lv =>
    let f := s.frame c (tagFrame t.tag)
    if s.requested f.asid (va / 8192) then none else some (s.raisePage c f.launch.part f.launch.id f.asid va 4 6 lv)

/-! ## Seats (R27, R28, R169) -/

/-- Whether an instance's launch is stopped (R268). -/
def State.instStopped (s : State) (c : Nat) (i : Inst) : Bool := s.refStopped (s.frame c i.handle).launch

/-- R169: ready instances that have no number take the next ones, in tag order. -/
def State.numberReady (s : State) (c : Nat) : State :=
  let k := s.core c
  let fresh := sortBy (fun (a b : MEntry) => tagWordLe (s.tagOf c a.inst) (s.tagOf c b.inst))
    (k.entries.filter (fun e => e.state == .ready && e.inst.num == 0))
  if fresh.isEmpty then s
  else
    let nums := fresh.mapIdx (fun i e => (e.since, k.ready + 1 + i))
    s.setCore c { k with
      ready := k.ready + fresh.length
      entries := k.entries.map (fun e =>
        match nums.find? (fun n => n.1 == e.since) with
        | some n => { e with inst := { e.inst with num := n.2 } }
        | none => e) }

/-- R169: a yield-marked instance takes a seat once every instance numbered up to its mark has departed, those on class-6 platforms
apart. -/
def Core.yieldClear (k : Core) (i : Inst) : Bool :=
  !i.yielded ||
  (k.entries.all (fun e => e.inst.num == 0 || decide (i.after < e.inst.num) || e.inst.num == i.num) &&
   k.plats.all (fun p => p.2.timer == 6 || p.2.fills.all (fun f => f.seats.all (fun x => decide (i.after < x.num)))))

/-- R28: a fill that a further instance joins: it is not full and has not become eligible in an earlier cycle. -/
def Fill.takes (f : Fill) (dcount clock : Nat) : Bool := decide (f.seats.length < departCount dcount) && (!f.elig || f.since == clock)

/-- A fill with one more seat, eligible when that completes it (R28). -/
def Fill.join (f : Fill) (dcount timer clock : Nat) (i : Inst) : Fill :=
  let f1 := { f with seats := f.seats ++ [i] }
  if (decide (departCount dcount ≤ f1.seats.length) || timer == 0) && !f1.elig then { f1 with elig := true, since := clock } else f1

/-- A fill whose first seat is being filled. -/
def Fill.fresh (clock : Nat) : Fill :=
  { first := clock, stood := 0, elig := false, since := clock, forced := false, passed := none, latched := false, seats := [] }

/-- R28: an instance joins the last fill of its platform, or starts a new one. -/
def Platform.join (p : Platform) (clock : Nat) (i : Inst) : Platform :=
  match p.fills.getLast? with
  | some f =>
    if f.takes p.dcount clock then { p with fills := p.fills.dropLast ++ [f.join p.dcount p.timer clock i] }
    else { p with fills := p.fills ++ [(Fill.fresh clock).join p.dcount p.timer clock i] }
  | none => { p with fills := [(Fill.fresh clock).join p.dcount p.timer clock i] }

/-- R27: the platform of a key, with its number. -/
def Core.platOf (k : Core) (asid prog block : Nat) : Option (Nat × Platform) :=
  k.plats.find? (fun p => p.2.asid == asid && p.2.prog == prog && p.2.block == block)

/-- R27: the lowest of the 64 platforms that is not in use. -/
def Core.freePlat (k : Core) : Option Nat := (List.range 64).find? (fun i => (NMap.get? k.plats i).isNone)

/-- R46: an instance whose block cannot be fetched faults before any instruction of it. -/
def State.imgFault (s : State) (c : Nat) (i : Inst) (code va : Nat) : State :=
  let f := s.frame c i.handle
  s.faultNow { code := code, sub := 0, detail := 0, addr := va, tag := s.tagOf c i, prog := i.prog, block := i.block, gen := f.gen, instr := 0,
               seat := 0, launch := f.launch, core := c, asid := i.asid, source := 0 }

/-- R46: H0 and H1 of a block for its instances, or what the state comes to while a page of the image is missing or has failed. -/
inductive HeadRes where
  | ok (h0 h1 : Nat)
  | wait (asked : Option State) -- with the state in which a page has been asked for
  | bad (code va : Nat)

/-- R46: a page that is missing is asked for once, and waited for. -/
def State.headFor (s : State) (c : Nat) (r : LaunchRef) (asid prog block : Nat) : HeadRes :=
  let k := s.core c
  match s.imgHead asid prog block ((k.imgFail.filter (fun e => e.1 == asid)).map (·.2)) with
  | .ok => match s.blockHead asid prog block with | some (h0, h1) => .ok h0 h1 | none => .wait none
  | .page va lv =>
    if k.imgWait.contains (asid, va / 8192) then .wait none
    else .wait (some ((s.updCore c (fun q => { q with imgWait := q.imgWait ++ [(asid, va / 8192)] })).raisePage c r.part r.id asid va 4 6 lv))
  | .bad code _ _ va => .bad code va

/-- A ready instance takes a seat of its block's platform, when there is one for it (R27, R28). -/
def State.seatOne (s : State) (c clock : Nat) (e : MEntry) : State :=
  let k := s.core c
  let i := e.inst
  if s.instStopped c i || !k.yieldClear i then s
  else
    let gone := fun (q : Core) => { q with entries := q.entries.filter (fun x => x.since != e.since) }
    match k.platOf i.asid i.prog i.block with
    | some (n, p) => s.setCore c { gone k with plats := NMap.set k.plats n (p.join clock i) }
    | none =>
      match k.freePlat with
      | none => s
      | some n =>
        match s.headFor c (s.frame c i.handle).launch i.asid i.prog i.block with
        | .wait s1 => s1.getD s
        | .bad code va => (s.updCore c (fun q => { gone q with imgFail := q.imgFail.filter (fun x => x != (i.asid, va / 8192)) })).imgFault c i code va
        | .ok h0 _ =>
          let p : Platform := { asid := i.asid, prog := i.prog, block := i.block, dcount := h0DCount h0, timer := h0Timer h0, fills := [] }
          s.setCore c { gone k with plats := NMap.set k.plats n (p.join clock i) }

/-- The fills of a core's platforms changed. -/
def Core.mapFills (k : Core) (f : Platform → Fill → Fill) : Core :=
  { k with plats := k.plats.map (fun p => (p.1, { p.2 with fills := p.2.fills.map (f p.2) })) }

/-- R28: whether a fill's timer has expired. -/
def Fill.expired (f : Fill) (timer clock : Nat) : Bool :=
  !f.elig && (match timerCycles timer with | some n => decide (f.first + f.stood + n ≤ clock) | none => false)

/-- R28: fills whose timer has expired become eligible. -/
def Core.expire (k : Core) (clock : Nat) : Core :=
  k.mapFills (fun p f => if f.expired p.timer clock then { f with elig := true, since := clock } else f)

/-- A fill all of whose seats are yield-marked (R37). -/
def Fill.yielders (f : Fill) : Bool := f.seats.all (fun i => i.yielded)

/-- R37: the departures of the core are noted when a fill of marked seats alone becomes eligible. -/
def Core.notePassed (k : Core) : Core :=
  k.mapFills (fun _ f => if f.elig && f.passed.isNone && f.yielders then { f with passed := some k.departs } else f)

/-- The core's instances numbered and seated, once in a cycle of its clock (R27, R28, R169). -/
def State.settle (s : State) (c : Nat) (tt : Bool) : State :=
  let clock := s.clock c tt
  let s1 := s.numberReady c
  let ready := sortBy (fun (a b : MEntry) => decide (a.inst.num ≤ b.inst.num)) ((s1.core c).entries.filter (fun e => e.state == .ready))
  let s2 := ready.foldl (fun st e => st.seatOne c clock e) s1
  s2.updCore c (fun k => k.notePassed.unspill)

/-- R28: the platforms of a core whose timers have expired become eligible; none when no timer has. -/
def State.expireTimers (s : State) (c : Nat) (tt : Bool) : Option State :=
  let clock := s.clock c tt
  if (s.core c).plats.any (fun p => p.2.fills.any (fun f => f.expired p.2.timer clock)) then
    some (s.updCore c (fun k => (k.expire clock).notePassed))
  else none

/-! ## Departure (R29 to R31, R37, R50, R191) -/

/-- An eligible fill with its platform: the platform's number, and the fill's place in it. -/
structure DepCand where
  num : Nat
  pos : Nat
  plat : Platform
  fill : Fill

/-- Eligible fills with a seat whose launch runs (R29, R268). -/
def State.eligFills (s : State) (c : Nat) : List DepCand :=
  (s.core c).plats.flatMap (fun p => (p.2.fills.mapIdx (fun i f => (⟨p.1, i, p.2, f⟩ : DepCand))).filter (fun d =>
    d.fill.elig && d.fill.seats.any (fun i => !s.instStopped c i)))

/-- R37: a fill that departs under R29 and R30 alone. -/
def Fill.ordinary (f : Fill) : Bool := !f.yielders || f.forced || f.latched

/-- R37: whether an eligible fill of marked seats becomes an ordinary one: no other platform is eligible, or 64 others have departed since. -/
def DepCand.released (d : DepCand) (es : List DepCand) (departs : Nat) : Bool :=
  d.fill.ordinary || !es.any (fun x => x.num != d.num && x.fill.ordinary) ||
  (match d.fill.passed with | some n => decide (n + 64 ≤ departs) | none => false)

/-- The key R29 orders platforms by. -/
def depLe (a b : DepCand) : Bool :=
  let ka := [a.fill.first, a.plat.block, a.plat.asid, a.plat.prog]
  let kb := [b.fill.first, b.plat.block, b.plat.asid, b.plat.prog]
  !(List.lex kb ka (fun x y => decide (x < y)))

/-- R29, R37: the fill next in departure order. -/
def State.nextPlat (s : State) (c : Nat) : Option DepCand :=
  let es := s.eligFills c
  minBy depLe (es.filter (fun d => d.released es (s.core c).departs))

/-- R37: fills that have become ordinary stay so. -/
def State.latchYields (s : State) (c : Nat) : State :=
  let es := s.eligFills c
  let go := es.filter (fun d => !d.fill.ordinary && d.released es (s.core c).departs)
  if go.isEmpty then s
  else s.updCore c (fun k => { k with plats := k.plats.map (fun p => (p.1, { p.2 with fills := p.2.fills.mapIdx (fun i f =>
    if go.any (fun d => d.num == p.1 && d.pos == i) then { f with latched := true } else f) })) })

/-- R30, R293: the lowest free train number. -/
def Core.freeNumber (k : Core) : Option Nat := (List.range 48).find? (fun n => !k.trains.any (fun t => t.number == n))

/-- R30: the pipe of a departing train. -/
def Core.pickPipe (k : Core) : Nat :=
  let n := fun (p : Nat) => (k.trains.filter (fun t => t.pipe == p)).length
  if n 1 < n 0 then 1 else 0

/-- R50: the values an instance's tokens bring to its input entries. -/
def inputVals (words : List IWord) (i : Inst) : List (Nat × Word) :=
  let h0 := (words.getD 0 0).toNat
  let h1 := (words.getD 1 0).toNat
  (List.range (h0Inputs h0)).flatMap (fun k =>
    let e := blockEntry words k
    match i.toks.find? (fun x => x.1 == k) with
    | none => []
    | some (_, t) =>
      let n := h1PWords h1 k
      if n = 0 then [] else [(natBits e 15 8, t.pay0), (natBits e 7 0, if n = 2 then t.pay1 else t.pay0)])

/-- R191: one read entry of a seat: the value is delivered, the slot becomes pending, or the seat leaves the train. The spec gives the
CARRY_RANGE of a read entry no DETAIL: the register number (log 18). -/
def State.readEntry (s : State) (c : Nat) (t : Train) (x : Seat) (e : Bool × Nat × Nat) : State × Train :=
  let h := x.inst.handle
  let f := s.frame c h
  let g := e.2.1
  let pend := fun (st : State) (y : Option Replay) =>
    let n := st.newOp c
    let w : RegWait := { handle := h, reg := g, train := t.uid, seat := x.n, instr := 0, replay := y, targets := [e.2.2], regs := [],
                         opId := n.1 }
    ((n.2.startOp c t.uid 0 6 n.1).updCore c (fun k => { k with regWaits := k.regWaits ++ [w] }), t.pendOn x.n e.2.2 n.1)
  if f.carryCount ≤ g then s.takeFault c t x CARRY_RANGE 0 g 0 0
  else if !f.full g then (if e.1 then s.takeFault c t x TRAP 2 g 0 0 else pend s none)
  else
    match (f.binding? g).filter (fun b => b.dropped) with
    | some b => pend s (some (s.replayOf c f b))
    | none => if (s.core c).regErr f g then s.takeFault c t x DATA_UNCORRECTABLE 0 0 0 0 else (s, t.deliver x.n e.2.2 (f.reg g))

/-- The read entries of every seat, once the block is there; a seat that leaves does no further one. -/
def State.readEntriesOf (s : State) (c : Nat) (t : Train) : State × Train :=
  let es := readEntries (t.words.getD [])
  t.seats.foldl (fun p x => es.foldl (fun q e => if (q.2.seat? x.n).isSome then q.1.readEntry c q.2 x e else q) p) (s, t)

/-- What a block's fetch comes to (R45, R46). -/
inductive Fetch where
  | ok (words : List IWord)
  | page (va level : Nat)
  | bad (code off addr : Nat)

/-- What a look at memory that did not succeed makes of a fetch. -/
def ImgCheck.fetch : ImgCheck → Fetch
  | .ok => .ok []
  | .page va l => .page va l
  | .bad code _ _ addr => .bad code 0 addr

/-- R43 to R46: the block at an offset of an image checked again: its words lie within IMAGE_SIZE, and only pages that hold some of them need
be there. A gated word needs its feature in the image's FEATURES and in the effective ones of the partition (R70; log 55). -/
def State.fetchAt (s : State) (env : CheckEnv) (asid prog size off : Nat) (failed : List Nat) : Fetch :=
  let look := fun (n : Nat) => s.readable asid .fetch failed 8 (prog + off) n
  let ws := s.imgWords asid prog size off
  let here := ws.take ((8192 - (prog + off) % 8192) / 4)
  let judge := fun (l : List IWord) (more : Option Fetch) =>
    let r := parseBlock env l
    match firstViol r.1, more with
    | none, _ => .ok (l.take r.2)
    | some v, some m => if v.1 < l.length then .bad v.2 (off + 4 * v.1) 0 else m
    | some v, none => .bad v.2 (off + 4 * v.1) 0
  match look (4 * here.length), look (4 * ws.length) with
  | .ok, .ok => judge ws none
  | .ok, r => judge here (some r.fetch)
  | r, _ => r.fetch

/-- R45, R46: the block of a train fetched from memory and checked again. -/
def State.fetch (s : State) (part asid prog block : Nat) (failed : List Nat) : Fetch :=
  let look := fun (va n : Nat) => s.readable asid .fetch failed 8 va n
  match look prog 64 with
  | .ok =>
    match s.imgHeader asid prog with
    | none => .bad ILLEGAL_FORMAT 0 0
    | some h =>
      let entry := h.blockOff + 4 * block
      match look (prog + entry) 4 with
      | .ok =>
        match s.blockOffset asid prog block with
        | none => .bad ILLEGAL_FORMAT entry 0
        | some off =>
          if off % 4 ≠ 0 then .bad ILLEGAL_FORMAT entry 0
          else s.fetchAt (s.checkEnv asid prog h (s.features part)) asid prog h.size off failed
      | r => r.fetch
  | r => r.fetch

/-- R45, R46: the fetch of a departed train's block: its inputs and read entries are then delivered, it waits for a page, or it faults for
every active seat. -/
def State.fetchTrain (s : State) (c : Nat) (t : Train) : State :=
  match s.fetch t.launch.part t.asid t.prog t.block (t.failed.map (·.1)) with
  | .page va l =>
    let s1 := s.raisePage c t.launch.part t.launch.id t.asid va 4 6 l
    s1.updCore c (fun k => k.setTrain { t with hold := some .fetch, waits := [(va, 4, 6)] })
  | .bad code off addr =>
    let t1 := { t with words := some [], pc := 1, hold := none }
    let r := s.takeFaults c t1 code 0 (t.seats.map (fun x => (x, off, addr)))
    r.1.updCore c (fun k => k.setTrain r.2)
  | .ok ws =>
    let t1 := t.seats.foldl (fun u x => (inputVals ws x.inst).foldl (fun v e => v.deliver x.n e.1 e.2) u)
      { t with words := some ws, hold := none, waits := [], failed := [] }
    let r := s.readEntriesOf c t1
    r.1.updCore c (fun k => k.setTrain r.2)

/-- R26: tokens that waited behind departed instances fill the next instance of their key. -/
def State.refillWaiting (s : State) (c : Nat) (is : List Inst) : State :=
  let k := s.core c
  if k.waiting.isEmpty then s
  else
    let mine := fun (w : WTok) => is.any (fun i => i.handle == tagFrame w.tok.tag && i.idx == tagIdx w.tok.tag &&
      (match s.resolveToken (s.frame c i.handle) w.tok with | .to b _ _ _ => b == i.block | _ => true))
    (k.waiting.filter mine).foldl (fun st w => st.deliverFlight c ⟨st.cyc.toNat, some w.dev, .tok w.tok, 0, c, none, true⟩)
      (s.setCore c { k with waiting := k.waiting.filter (fun w => !mine w) })

/-- A train put on a core with its seats (R30, R31, R32) and its block fetched. -/
def State.startTrain (s : State) (c number ram : Nat) (team : Bool) (seats : List Seat) (asid prog block : Nat) (r : LaunchRef) : State :=
  let k := s.core c
  let t : Train :=
    { uid := k.uids + 1, number := number, launch := r, asid := asid, prog := prog, block := block, team := team, departed := s.cyc.toNat,
      pipe := k.pickPipe, ram := ram, words := none, pc := 1, seats := seats, slots := [], pend := [], hold := none, heldAt := none,
      failed := [], waits := [], ext := none, moved := 0, resumed := false, pass := 0, aside := [] }
  let s1 := s.setCore c { k with trains := k.trains ++ [t], uids := k.uids + 1 }
  ((s1.fetchTrain c t).countEvt c 4 1).countEvt c 5 seats.length

/-- A fill leaves its platform, but for seats that stay; a platform without seats is released (R27). Its later fills do not count it as
another platform's departure (R37). -/
def Core.takeFill (k : Core) (d : DepCand) (stay : List Inst) : Core :=
  let p := (NMap.get? k.plats d.num).getD d.plat
  let fills := (p.fills.mapIdx (fun i f =>
    if i = d.pos then { f with seats := stay, elig := false, forced := false, latched := false, passed := none }
    else { f with passed := f.passed.map (· + 1) })).filter (fun f => !f.seats.isEmpty)
  { k with departs := k.departs + 1,
           plats := if fills.isEmpty then NMap.erase k.plats d.num else NMap.set k.plats d.num { p with fills := fills } }

/-- R29, R30: the departure of the next platform, when it fits; seats of FAULTED launches stay (R268). -/
def State.departNext (s : State) (c : Nat) : Option State :=
  match s.nextPlat c with
  | none => none
  | some d =>
    let p := d.plat
    let go := d.fill.seats.filter (fun i => !s.instStopped c i)
    let stay := d.fill.seats.filter (fun i => s.instStopped c i)
    match go with
    | [] => none
    | i0 :: _ =>
      let r := (s.frame c i0.handle).launch
      match s.headFor c r p.asid p.prog p.block, (s.core c).freeNumber with
      | .wait s1, _ => s1
      | .bad code va, _ =>
        let s1 := s.updCore c (fun k => { k.takeFill d stay with imgFail := k.imgFail.filter (fun x => x != (p.asid, va / 8192)) })
        some (go.foldl (fun st i => st.imgFault c i code va) s1)
      | .ok _ h1, some num =>
        let ram := 256 * h1Demand h1
        let used := (s.core c).ramUsed r
        let reserved := (s.core c).ramReserved r
        if !(decide (ram ≤ reserved - used) || (s.core c).ramFits r ram) then none
        else
          let s1 := (s.latchYields c).updCore c (fun k => { k.takeFill d stay with departCyc := some s.cyc.toNat })
          let s2 := s1.startTrain c num ram false (go.mapIdx (fun j i => ⟨j, i⟩)) p.asid p.prog p.block r
          some (s2.refillWaiting c go)
      | .ok _ _, none => none

/-- R160: the compactor runs for a spawn's allocation that failed, when moves can make its block; a frame's handle and contents stay. -/
def State.compactTry (s : State) (c order : Nat) : Option State :=
  let k := s.core c
  if !k.compactFor.contains order then none
  else some (s.setCore c { (if (sramFind k.sram order).isSome then k else (k.compact order).getD k) with compactFor := k.compactFor.filter (· != order) })

/-! ## The end of a train (R31, R312, R452) -/

/-- A finished train leaves its core. -/
def State.endTrain (s : State) (c uid : Nat) : State :=
  match (s.core c).train? uid with
  | none => s
  | some t =>
    let s1 := s.updEng c (fun e => e.clearRun (t.seats.map (fun x => (x.inst.handle, x.inst.idx))))
    (s1.queueRelease c uid).updCore c (fun k => { k with
      trains := k.trains.filter (fun u => u.uid != uid), ramBad := k.ramBad.filter (fun b => b.1 != uid) })

/-! ## Late results and replays (R53, R193, R203) -/

/-- One late result lands: slots of its seat, registers through write entries, flags. -/
def State.landLate (s : State) (c : Nat) (l : Late) : State :=
  let s1 := s.updCore c (fun k => { k with late := dropFirst (· == l) k.late })
  let s2 :=
    match (s1.core c).train? l.train with
    | some t =>
      if (t.seat? l.seat).isSome then
        let t1 := l.vals.foldl (fun (u : Train) v => u.deliver l.seat v.1 v.2) { t with pend := t.pend.filter (fun e => e.2 != l.opId) }
        s1.updCore c (fun k => k.setTrain t1)
      else s1
    | none => s1
  let s3 := if l.fl = 0 then s2 else s2.orFlags c l.handle l.fl
  (l.regs.foldl (fun (st : State) g => st.landReg c l.handle g l.opId l.regVal) s3).endOp c l.opId

/-- R203, R205: a waiting read whose replay fails: its seat faults at the reading instruction. -/
def State.replayFault (s : State) (c : Nat) (w : RegWait) (detail : Nat) : State :=
  let s1 := (s.updCore c (fun k => { k with regWaits := dropFirst (· == w) k.regWaits })).failOp c w.opId
  match s1.seatAt c w.train w.seat with
  | some (t, x) => let r := s1.takeFault c t x RECIPE_FAULT 0 detail 0 w.instr; r.1.updCore c (fun k => k.setTrain r.2)
  | none => s1

/-- R203: the value of a replay reaches every read that waits for it, and its register once the slot is free. -/
def State.replayDone (s : State) (c : Nat) (w : RegWait) (x : Replay) (v : Word) : State :=
  let mine := fun (y : RegWait) => y.handle == w.handle && y.reg == w.reg && y.replay == some x
  let lates := ((s.core c).regWaits.filter mine).map (fun y =>
    (⟨s.cyc.toNat + 1, y.train, y.seat, y.handle, y.targets.map (fun t => (t, v)), y.regs, v, 0, y.opId, .own⟩ : Late))
  let s1 := s.updCore c (fun k => { k with regWaits := k.regWaits.filter (fun y => !mine y), late := k.late ++ lates })
  let f := s1.frame c w.handle
  let same := match f.binding? w.reg with
    | some b => b.dropped && s1.replayOf c f b == x
    | none => false
  (if same then s1.setFrame c w.handle ((s1.core c).storeReplay w.handle f w.reg v) else s1).countEvt c 11 1

/-- R203: one read that waits for a replay: it ends, fails, or asks for a translation; none while it waits for one. -/
def State.replayOne (s : State) (c : Nat) (w : RegWait) : Option State :=
  match w.replay with
  | none => none
  | some x =>
    let f := s.frame c w.handle
    match s.rebuild c w.handle [] f x with
    | .ok v _ => some (s.replayDone c w x v)
    | .miss va =>
      if s.missJoins c f.asid va then none else some (s.engMiss c f.asid va 1 0 f.launch.id true)
    | .fail _ va _ => some (s.replayFault c w (recipeDetail w.reg va))

/-- R203: the first replay of a core that can go on. -/
def State.replayWait (s : State) (c : Nat) : Option State := (s.core c).regWaits.findSome? (fun w => s.replayOne c w)

end Sys2Proof.Machine
end

