-- ==== Sys2Proof/Machine/Yards.lean ====
section
/-!
DEFINITION. Yards and their teams (R251 to R255), and the replay of sidings (R438).
-/
namespace Sys2Proof.Machine

/-! ## Records (R252 to R254) -/

/-- What writing bytes piece by piece over 8 KiB units comes to. -/
inductive PieceRes where
  | ok (s : State)
  | page (va level : Nat)
  | bad (code va : Nat)

/-- R254: bytes of a record written to RECBUF: a writable page, neither IMM nor REMOTE. -/
def State.recWrite (s : State) (asid : Nat) (failed : List Nat) : Nat → Nat → List Byte → PieceRes
  | 0, _, _ => .ok s
  | fuel + 1, va, bs =>
    if bs.isEmpty then .ok s
    else
      let k := Nat.min bs.length (8192 - va % 8192)
      match s.engAcc asid va k .write with
      | .bad code => .bad code va
      | .noLeaf l => if failed.contains (va / 8192) then .bad PAGE_UNRESOLVED va else .page va l
      | .ok pa leaf _ _ =>
        if leafRemote leaf || leafIMM leaf then .bad ACCESS_VIOLATION va
        else State.recWrite { s with mem := s.mem.write pa (bs.take k) } asid failed fuel (va + k) (bs.drop k)

/-- R254: the lowest free slot of a node. -/
def Launch.freeRecSlot (l : Launch) (node : Nat) : Option Nat :=
  (List.range (recRecSlots (l.nodes.getD node 0))).find? (fun j => !l.recSlots.contains (node, j))

/-- R254: the place of a diverted record of a node. -/
def Diverted.nodeSeq (node : Nat) (d : Diverted) : Option Nat :=
  match d with
  | .yard n _ _ _ k => if n = node then some k else none
  | _ => none

/-- R254: the oldest record of a node in a siding of the launch, on any die. -/
def Launch.oldestRec (l : Launch) (node : Nat) : Option Nat := oldestSided (Diverted.nodeSeq node) l.sidings

/-- Whether a record of a node waits in the launch's siding. -/
def Launch.yardSided (l : Launch) (node : Nat) : Bool := (l.oldestRec node).isSome

/-- R252, R255: what the yard clock counts: supersteps in timetable mode, cycles otherwise. -/
def State.yardClock (s : State) (p : Nat) : Nat := s.stallClock p

/-- The forming team joins the formed ones. -/
def Yard.form (y : Yard) (clock : Nat) : Yard :=
  { y with formed := y.formed ++ [{ y.forming with formedAt := clock }], forming := Team.empty }

/-- Seats added to the forming team, which is formed when it reaches COAL (R252, R253). -/
def Yard.seat (y : Yard) (coal clock used : Nat) (xs : List TSeat) : Yard :=
  let t := y.forming
  let t1 : Team := { t with seats := t.seats ++ xs, fill := t.fill + used, first := if t.fill = 0 then clock else t.first }
  let y1 := { y with forming := t1 }
  if coal ≤ t1.fill then y1.form clock else y1

/-- R253: the tiles of a ragged record from tile t on, each on one whole mask word. -/
def Yard.seatTiles (y : Yard) (coal clock slot rows : Nat) (src : Word) : Nat → Nat → Yard
  | 0, _ => y
  | n + 1, t =>
    let base := y.forming.fill
    let live := Nat.min 32 (rows - 32 * t)
    let xs := (List.range live).map (fun i => ({ n := base + i, slot := slot, row := 32 * t + i, src := src } : TSeat))
    (y.seat coal clock 32 xs).seatTiles coal clock slot rows src n (t + 1)

/-- A record seated on its yard (R252, R253). -/
def Yard.seatRecord (y : Yard) (node : BitVec 2048) (clock slot : Nat) (bs : List Byte) (src : Word) : Yard :=
  if recRagged node then
    let rows := ofLE (bs.take 4)
    y.seatTiles (recCoal node) clock slot rows src ((rows + 31) / 32) 0
  else y.seat (recCoal node) clock 1 [{ n := y.forming.fill, slot := slot, row := 0, src := src }]

/-- What becomes of one record at its yard. -/
inductive YardRes where
  | seated (s : State)
  | noSlot
  | page (va level : Nat)
  | fault (code va : Nat)

/-- R254: a record copied to a slot and seated. -/
def State.takeRecord (s : State) (die num : Nat) (l : Launch) (r : LaunchRef) (node : Nat) (bs : List Byte) (src : Word) : YardRes :=
  let nr := l.nodes.getD node 0
  match l.freeRecSlot node with
  | none => .noSlot
  | some j =>
    match s.recWrite l.asid l.failed 3 (recRecBuf nr + j * recRSize nr) (bs.take (recRSize nr)) with
    | .page va lv => .page va lv
    | .bad code va => .fault code va
    | .ok s1 =>
      let s2 := s1.updLaunch r (fun l => { l with recSlots := l.recSlots ++ [(node, j)] })
      .seated (s2.updYard die num (fun y => y.seatRecord nr (s.yardClock r.part) j bs src))

/-- Records of a pack handled in order; the rest that must wait. -/
def State.takeRecords (s : State) (die num : Nat) (r : LaunchRef) (node : Nat) : List (List Byte × Word) → State × List (List Byte × Word)
  | [] => (s, [])
  | (bs, src) :: rest =>
    match s.launch? r with
    | none => (s, [])
    | some l =>
      let side := fun (st : State) =>
        match st.takeCredit r die 4 with
        | some (st1, true) => some (st1.divertRec r die (.yard node (ofLE bs) bs.length src))
        | _ => none
      if l.yardSided node then
        match side s with
        | some s1 => State.takeRecords s1 die num r node rest
        | none => (s, (bs, src) :: rest)
      else
        match s.takeRecord die num l r node bs src with
        | .seated s1 => State.takeRecords s1 die num r node rest
        | .fault code va => (s.launchFault r code 0 va, [])
        | .page va lv =>
          ((s.raisePage 0 r.part r.id l.asid va 2 7 lv).updYard die num (fun y => { y with pageWait := some va }), (bs, src) :: rest)
        | .noSlot =>
          match side s with
          | some s1 => State.takeRecords s1 die num r node rest
          | none => (s, (bs, src) :: rest)

/-- Packs handled in order; once one must wait, those behind it wait too. -/
def State.takePacks (s : State) (die num : Nat) : List YPack → State × List YPack
  | [] => (s, [])
  | p :: ps =>
    match s.takeRecords die num p.launch p.node p.recs with
    | (s1, []) => State.takePacks s1 die num ps
    | (s1, rest) => (s1, { p with recs := rest } :: ps)

/-- Whether a launch is stopped. -/
def State.launchStopped (s : State) (r : LaunchRef) : Bool :=
  match s.launch? r with
  | some l => l.state != .running
  | none => true

/-- R252: packs in the order of the cycles in which they reached their yard, and within a cycle in tag order; what an earlier cycle has left
waiting comes first. -/
def packLe (a b : YPack) : Bool := decide (a.due < b.due) || (a.due == b.due && tagWordLe a.key b.key)

/-- R252: the packs that have reached a yard are seated, then a class 0 timer forms the team; none when nothing can be done. -/
def State.yardArrive (s : State) (die num : Nat) (boundary : Bool) : Option State :=
  match (s.die die).yards.find? (fun y => y.num == num) with
  | none => none
  | some y =>
    if y.pageWait.isSome || s.launchStopped y.launch || (!boundary && (s.part y.launch.part).state != .run) then none
    else
      let now := fun (p : YPack) => boundary || decide (p.due ≤ s.cyc.toNat)
      let due := sortBy packLe (y.inq.filter now)
      let due := if boundary then y.inq.filter now else due
      if due.isEmpty then none
      else
        let r := (s.updYard die num (fun y => { y with inq := y.inq.filter (fun p => !now p) })).takePacks die num due
        if r.2 == due && (r.1.die die).yards.find? (fun y => y.num == num) == some y then none
        else
          let s1 := r.1.updYard die num (fun y => { y with inq := r.2 ++ y.inq })
          some (if recNTimer (s.nodeRec y.launch y.node) = 0 && !boundary then
            s1.updYard die num (fun y => if y.forming.fill = 0 then y else y.form (s.yardClock y.launch.part))
          else s1)

/-- R252, R263: whether a yard's timer forms its team now. -/
def State.yardExpired (s : State) (y : Yard) : Bool :=
  y.forming.fill != 0 &&
  (let k := recNTimer (s.nodeRec y.launch y.node)
   let now := s.yardClock y.launch.part
   match timerCycles k with
   | none => false
   | some n => if (s.part y.launch.part).tt.isSome then k == 0 || decide (y.forming.first < now) else decide (y.forming.first + y.forming.stood + n ≤ now))

/-- R252: a yard's timer has expired: its forming team is formed. -/
def State.yardTimer (s : State) (die num : Nat) : Option State :=
  match (s.die die).yards.find? (fun y => y.num == num) with
  | none => none
  | some y =>
    if s.launchStopped y.launch || (s.part y.launch.part).state != .run || !s.yardExpired y then none
    else some (s.updYard die num (fun y => y.form (s.yardClock y.launch.part)))

/-! ## Teams (R32, R252, R254) -/

/-- Mask words of a team that are not empty. -/
def Team.words (t : Team) : Nat := (dedup (t.seats.map (fun x => x.n / 32))).length

/-- R254: the seats of a placed team in frame h of core c. -/
def State.teamSeats (s : State) (l : Launch) (r : LaunchRef) (nr : BitVec 2048) (c h : Nat) (t : Team) : List Seat :=
  t.seats.map (fun x =>
    let tag := mkTag l.asid s.link.device c h x.n
    let tok : Token := { tag := tag, src := x.src, dest := 0, scope := 0, pwords := 2,
                         pay0 := BitVec.ofNat 64 (recRecBuf nr + x.slot * recRSize nr), pay1 := BitVec.ofNat 64 x.row, kind := 0,
                         sided := false, sender := r }
    ⟨x.n, { asid := l.asid, handle := h, prog := recProg l.record, block := roleEntry nr 0, idx := x.n, toks := [(0, tok)],
            yielded := false, after := 0, num := 0 }⟩)

/-- R252: a team placed on a core that can take it. -/
def State.placeTeam (s : State) (l : Launch) (r : LaunchRef) (node : Nat) (t : Team) (c : Nat) : Option State :=
  let nr := l.nodes.getD node 0
  let prog := recProg l.record
  let order := s.frameOrder l.asid prog (roleCarry nr 0)
  let d := ((s.blockHead l.asid prog (roleEntry nr 0)).map (fun h => h1Demand h.2)).getD 0
  let ram := 256 * d * t.words
  match s.loadRecipes (s.core c) l.asid prog with
  | none => none
  | some q0 =>
    let q := (q0.compact order).getD q0
    match freeHandle q.frames, sramFind q.sram order, q.freeNumber with
    | some h, some u, some num =>
      if 8 < order ∨ q.ramFits r ram = false then none
      else
        let f : Frame := { Frame.free with
          alloc := true, gen := ((NMap.getD q.frames h Frame.free).gen + 1) % 65536, launch := r, asid := l.asid, prog := prog,
          mode := recMode l.record &&& 0xF7#64, carryCount := roleCarry nr 0, order := order, reserve := s.reserveBytes l.asid prog, unit := u,
          recSlots := dedup (t.seats.map (·.slot)), node := some node }
        let s1 := s.setCore c { q with frames := NMap.set q.frames h f, sram := q.sram ++ [(u, order)] }
        let s2 := s1.updLaunch r (fun l => { l with used := if l.used.contains c then l.used else l.used ++ [c] })
        some (s2.startTrain c num ram true (s.teamSeats l r nr c h t) l.asid prog (roleEntry nr 0) r)
    | _, _, _ => none

/-- R252: the first formed team of a yard placed on the lowest core of its die and partition that can take it. -/
def State.teamPlace (s : State) (die num : Nat) : Option State :=
  match (s.die die).yards.find? (fun y => y.num == num) with
  | none => none
  | some y =>
    match y.formed, s.launch? y.launch with
    | t :: rest, some l =>
      if l.state ≠ .running ∨ (s.part y.launch.part).state ≠ .run then none
      else
        let s0 := s.updYard die num (fun y => { y with formed := rest })
        (((s.part y.launch.part).cores.filter (fun c => dieOf c == die)).findSome? (fun c => s0.placeTeam l y.launch y.node t c))
    | _, _ => none

/-- R252: a formed team that has waited for its launch's stall limit. -/
def State.teamStalled (s : State) (y : Yard) : Bool :=
  match y.formed.head?, s.launch? y.launch with
  | some t, some l =>
    let n := recStall l.record
    n != 0 && l.state == .running &&
    (if (s.part y.launch.part).tt.isSome then decide (t.formedAt + n ≤ s.yardClock y.launch.part)
     else decide (t.formedAt + 1050 * n ≤ s.cyc.toNat))
  | _, _ => false

/-! ## Sidings (R438) -/

/-- R254, R438: a yard record replayed: copied to a slot of RECBUF and seated. -/
def State.yardReplay (s : State) (l : Launch) (r : LaunchRef) (die node : Nat) (d : Diverted) (bs : List Byte) (src : Word) : Option State :=
  match s.yard? die r node with
  | none => none
  | some y =>
    if y.pageWait.isSome || l.state != .running then none
    else
      match s.takeRecord die y.num l r node bs src with
      | .seated st => some (st.unDivert r die d)
      | .fault code va => some (s.launchFault r code 0 va)
      | .page va lv => some ((s.raisePage 0 r.part r.id l.asid va 2 7 lv).updYard die y.num (fun y => { y with pageWait := some va }))
      | .noSlot => none

/-- R438: one packet of a slot replayed: of each kind the one diverted first, which for a launch record or a yard record is the first of its
queue or node over every siding (R233, R254). -/
def State.sidingReplay (s : State) (p id die : Nat) : Option State :=
  let r : LaunchRef := ⟨p, id⟩
  match s.launch? r with
  | none => none
  | some l =>
    match l.slot? die with
    | none => none
    | some q =>
      let tok := q.items.findSome? (fun d => match d.pkt with | .tok c v t => some (c, v, t) | _ => none)
      let frame := q.items.findSome? (fun d => match d.pkt with | .frame c f => some (c, f) | _ => none)
      let byQueue := q.items.findSome? (fun d =>
        match d.pkt with
        | .qrec k x n => if (s.part p).oldestRec k = some n then (s.queueRec p k x).map (fun st => st.unDivert r die d.pkt) else none
        | _ => none)
      let byTok := tok.bind (fun (x : Nat × Nat × Token) => if s.swappedCore x.1 then none else s.replayToken r die x.1 x.2.1 x.2.2)
      let byYard := q.items.findSome? (fun d =>
        match d.pkt with
        | .yard node b len src n => if l.oldestRec node = some n then s.yardReplay l r die node d.pkt (leBytes len b) src else none
        | _ => none)
      let byFrame := frame.bind (fun (x : Nat × RowFrame) =>
        if s.swappedCore x.1 || s.frameBehind x.1 x.2 then none
        else
          match s.frameDeliver x.1 x.2 with
          | .gone st => some (st.unDivert r die (.frame x.1 x.2))
          | .noTile => none)
      byQueue.orElse (fun _ => byTok.orElse (fun _ => byYard.orElse (fun _ => byFrame)))

end Sys2Proof.Machine
end

