-- ==== Sys2Proof/Machine/LaunchEnd.lean ====
section
/-!
DEFINITION. Completion, stalls and the end of FAULTED launches (R245, R246, R268, R326, R464).
-/
namespace Sys2Proof.Machine

/-! ## Work that a launch still has (R245) -/

/-- Frames allocated for a launch on a core. -/
def Core.framesOf (k : Core) (r : LaunchRef) : List Nat := (k.frames.filter (fun e => e.2.alloc && e.2.launch == r)).map (·.1)

/-- Whether a token of a launch is a packet's cargo. -/
def Cargo.sentBy (r : LaunchRef) : Cargo → Bool
  | .tok t => t.sender == r && t.kind == 0
  | _ => false

/-- Engine work of a launch on a core (R41). A completed bank operation whose frame has gone is still to be collected (R388). -/
def Core.engineWork (k : Core) (r : LaunchRef) : Bool :=
  k.eng.copies.any (fun q => q.info.launch == r) || k.eng.banks.any (fun b => b.info.launch == r && (!b.done || b.orphan)) ||
  k.eng.mq.any (fun m => m.info.launch == r) || k.eng.fq.any (fun q => q.info.launch == r) ||
  k.eng.seals.any (fun w => w.key.launch == r) || k.eng.barq.any (fun b => b.launch == r) ||
  k.qsent.any (fun q => q.info.launch == r) || k.builders.any (fun b => b.2.launch == r && (b.2.filling || b.2.closed.isSome || b.2.flying)) ||
  k.sends.any (fun f => f.2.cargo.sentBy r) || k.csends.any (fun x => x.2.2.sender == r) || k.held.any (fun p => p.cargo.sentBy r) || k.flights.any (fun f => f.cargo.sentBy r) ||
  !(k.lhold.filter (fun e => match e with
    | .fire f => f.issuer == r
    | .ctr _ _ i _ => i == r
    | .pack p => p.launch == r
    | .sslen _ => false)).isEmpty

/-- Engine work of a launch anywhere (R41): with its jobs still to be collected (R402), and its contexts still to be released (R359). -/
def State.engineBusy (s : State) (r : LaunchRef) : Bool :=
  s.cores.any (fun e => e.2.engineWork r) ||
  s.pairs.any (fun p => p.2.ctxs.any (fun x => x.2.queue.any (fun m => m.info.launch == r) || (x.2.launch == r && x.2.owner.isSome && x.2.releasing))) ||
  s.clusters.any (fun k => k.2.fab.cards.any (fun j => j.info.launch == r && (j.stage != .done || j.orphan))) ||
  s.link.reqs.any (fun q => q.launch == r)

/-- Stores of a launch still queued. -/
def State.storesLeft (s : State) (r : LaunchRef) : Bool := s.cores.any (fun e => e.2.sq.any (fun q => q.launch == r))

/-- R245: whether a launch has a frame. -/
def State.hasFrame (s : State) (r : LaunchRef) : Bool := s.cores.any (fun e => !(e.2.framesOf r).isEmpty)

/-- R245: records of the launch's nodes, or launch records its trains issued, that wait; a firing of its counters that waits for its page or for
siding credit counts as one (log 48). -/
def State.recordsWait (s : State) (r : LaunchRef) (l : Launch) : Bool :=
  s.dies.any (fun d => d.2.yards.any (fun y => y.launch == r && (!y.inq.isEmpty || y.forming.fill != 0 || !y.formed.isEmpty))) ||
  !l.recSlots.isEmpty || (s.part r.part).firings.any (fun f => f.issuer == r) ||
  l.slots.any (fun q => q.items.any (fun d =>
    match d.pkt with
    | .qrec .. | .yard .. => true
    | _ => false))

/-- Every store that the partition's cores hold while one of a launch's waits there is performed (R124, R313). -/
def State.performStores (s : State) (r : LaunchRef) : State :=
  (s.part r.part).cores.foldl (fun (st : State) c =>
    if (st.core c).sq.any (fun q => q.launch == r) then st.drainN c (st.core c).sq.length else st) s

/-- R245: a running launch may complete. -/
def State.canComplete (s : State) (r : LaunchRef) (l : Launch) : Bool :=
  l.state == .running && !s.hasFrame r && !s.recordsWait r l && !s.engineBusy r

/-! ## Completion's steps (R245) -/

/-- R326: SEALED tiles of a partition with reads outstanding: how many, and their reads. -/
def leakOf (q : TilePart) : Nat × Nat :=
  let ts := q.tiles.filter (fun t => t.state == .sealed && decide (0 < t.count))
  (ts.length, (ts.map (·.count)).foldl (· + ·) 0)

/-- The first partition of a launch that has a leak: core, partition, tiles, reads. -/
def State.firstLeak (s : State) (r : LaunchRef) : Option (Nat × Nat × Nat × Nat) :=
  s.cores.findSome? (fun e => e.2.eng.pool.findSome? (fun q =>
    let k := leakOf q
    if q.launch == r && k.1 != 0 then some (e.1, q.part, k.1, k.2) else none))

/-- R326: the completion-ring record of a leak. -/
def leakRecord (r : LaunchRef) (c p tiles reads : Nat) : Nat :=
  2 + TILE_LEAK * 2 ^ 8 + p % 8 * 2 ^ 112 + c % 2 ^ 11 * 2 ^ 117 + r.id % 2 ^ 16 * 2 ^ 128 + tiles % 2 ^ 16 * 2 ^ 144 + reads % 2 ^ 32 * 2 ^ 192

/-- R326: the fault record of a leak, its other fields zero. -/
def leakFault (r : LaunchRef) (c p tiles reads : Nat) : Nat :=
  4 * 2 ^ 80 + c % 2 ^ 11 * 2 ^ 101 + r.id % 2 ^ 16 * 2 ^ 112 + TILE_LEAK * 2 ^ 192 +
    (tiles % 2 ^ 16 + p % 8 * 2 ^ 16 + reads % 2 ^ 32 * 2 ^ 32) * 2 ^ 448

/-- The tiles of a leak reclaimed and counted. -/
def State.reclaim (s : State) (r : LaunchRef) (c p tiles : Nat) : State :=
  (s.updEng c (fun e => { e with pool := poolUpdPart e.pool r p (fun q => { q with tiles := q.tiles.map (fun t =>
    if t.state == .sealed then { t with state := .free } else t) }) })).updLaunch r (fun l => { l with leaks := l.leaks + tiles })

/-- R245 step 1, R326, R347: one leak reported, or a page of ring 0 asked for; none while ring 0 is full. A ring 0 whose descriptor is bad gets no record. -/
def State.reportLeak (s : State) (r : LaunchRef) (l : Launch) (c p tiles reads : Nat) : Option State :=
  if recRingTab l.record = 0 then some ((s.launchQueue r (fun _ => leakFault r c p tiles reads)).reclaim r c p tiles)
  else
    match s.ringWrite r 0 (leakRecord r c p tiles reads) l.failed with
    | .page asid va kind lv => some ((s.ringPage c r asid va kind lv).updLaunch r (fun l => { l with pageWait := some (va / 8192) }))
    | .ok s1 => some (s1.reclaim r c p tiles)
    | .full => none
    | .bad => some ((s.faultRecord { FaultInfo.plain COPY_RECORD 6 0 r l.asid 2 with core := c }).reclaim r c p tiles)

/-- R196: whether another launch of the same image uses a core, and has not returned what it held there. -/
def State.imageUsed (s : State) (r : LaunchRef) (l : Launch) (c : Nat) : Bool :=
  (s.part r.part).launches.any (fun e => e.1 != r.id && e.2.asid == l.asid && recProg e.2.record == recProg l.record &&
    e.2.used.contains c && decide (e.2.step < 2))

/-- R245 step 2: what a launch holds on one core returned; its queues are killed. -/
def State.returnCore (s : State) (r : LaunchRef) (l : Launch) (c : Nat) : State :=
  let s0 := ((s.core c).queues.filter (fun q => q.2.live && q.2.launch == r)).foldl (fun (st : State) q => st.queueKill c q.1) s
  let keep := s0.imageUsed r l c
  s0.updCore c (fun k =>
    let wins := k.windows.filter (fun w => w.launch == r)
    let parts := k.eng.pool.filter (fun q => q.launch == r)
    let units := wins.map (·.unit) ++ parts.flatMap (fun q => q.tiles.map (·.unit))
    { k with
      windows := k.windows.filter (fun w => w.launch != r), sram := k.sram.filter (fun b => !units.contains b.1),
      reserved := k.reserved.filter (fun e => e.1 != r),
      recipes := if keep then k.recipes else k.recipes.filter (fun x => !(x.asid == l.asid && x.prog == recProg l.record)),
      eng := { k.eng with pool := k.eng.pool.filter (fun q => q.launch != r) } })

/-- R245 step 2: windows, partitions, reservations, recipe entries and yards returned. -/
def State.returnAll (s : State) (r : LaunchRef) (l : Launch) : State :=
  let s1 := ((s.part r.part).cores).foldl (fun (st : State) c => st.returnCore r l c) s
  { s1 with dies := s1.dies.map (fun d => (d.1, { d.2 with yards := d.2.yards.filter (fun y => y.launch != r) })) }

/-- R246: the completion word. -/
def Launch.cword (l : Launch) : Word :=
  BitVec.ofNat 64 ((if l.code = 0 then 1 else 2) + l.code % 256 * 2 ^ 8 + l.id % 65536 * 2 ^ 16 + l.leaks % 2 ^ 32 * 2 ^ 32)

/-- The access of a completion step (R245): performable, a missing page, or a fault.  A counter on a REMOTE page faults; a fill may go
to a peer, as a `futst` fill does (R179; log 56). -/
def State.stepAcc (s : State) (l : Launch) (va n : Nat) (need : Need) (fut : Bool) : EAcc :=
  match s.engAcc l.asid va n need with
  | .ok pa leaf b z => if (leafRemote leaf && !fut) || leafIMM leaf || (fut && !leafFUT leaf) then .bad ACCESS_VIOLATION else .ok pa leaf b z
  | .noLeaf lv => if l.failed.contains (va / 8192) then .bad PAGE_UNRESOLVED else .noLeaf lv
  | a => a

/-- R245: a CADDR or SUCC access that faults writes a record to the partition's fault queue. -/
def State.stepFault (s : State) (r : LaunchRef) (l : Launch) (code va : Nat) : State :=
  s.partFaultRecord (FaultInfo.plain code 0 va r l.asid 4)

/-- A completion step waits for a page. -/
def State.stepPage (s : State) (r : LaunchRef) (l : Launch) (va kind lv : Nat) : State :=
  (s.raisePage 0 r.part r.id l.asid va kind 7 lv).updLaunch r (fun l => { l with pageWait := some (va / 8192) })

/-- The request that carries a completion word to a peer: no seat waits for its response, so its seat number is 1024 (log 56). -/
def completionFill (r : LaunchRef) (l : Launch) (peer pa : Nat) : RemoteReq :=
  { id := 0, peer := peer, pa := pa, va := recCaddr l.record, size := 8, kind := .futWrite (some l.cword), core := 0, train := 0, launch := r,
    seat := 1024, handle := 0, targets := [], regs := [], instr := 0, opId := 0 }

/-- R179, R245 step 5: CADDR filled. -/
def State.fillCaddr (s : State) (r : LaunchRef) (l : Launch) : State :=
  let va := recCaddr l.record
  let next := fun (st : State) => st.updLaunch r (fun l => { l with step := 5 })
  if va = 0 then next s
  else if va % 8 ≠ 0 then next (s.stepFault r l MISALIGNED va)
  else
    match s.stepAcc l va 8 .write true with
    | .ok pa leaf _ _ =>
      match leafHome leaf with
      | some peer => next (s.remote (completionFill r l peer pa))
      | none => next (s.futFill pa l.cword)
    | .bad code => next (s.stepFault r l code va)
    | .noLeaf lv => s.stepPage r l va 2 lv

/-- R245 step 6: SUCC signalled with amount 1. -/
def State.signalSucc (s : State) (r : LaunchRef) (l : Launch) : State :=
  let va := recSucc l.record
  let next := fun (st : State) => st.updLaunch r (fun l => { l with step := 6 })
  if va = 0 then next s
  else if va % 16 ≠ 0 then next (s.stepFault r l MISALIGNED va)
  else
    match s.stepAcc l va 16 .rmw false with
    | .ok pa _ _ _ =>
      let die := ((l.slots.head?).map (·.die)).getD 0
      next (s.ctrNow pa (.sig 1) r die l.asid (s.inTT r && (recTimetable l.record || l.created)))
    | .bad code => next (s.stepFault r l code va)
    | .noLeaf lv => s.stepPage r l va 3 lv

/-- R245 step 7, R464: the host notice; none while the ring is full. -/
def State.postNotice (s : State) (r : LaunchRef) (l : Launch) : Option State :=
  let next := fun (st : State) => st.updLaunch r (fun l => { l with step := 7 })
  if !recNotify l.record then some (next s)
  else
    let p := s.part r.part
    if (p.noteTail + 65536 - p.noteHead) % 65536 = 256 then none
    else
      let s1 := s.physPut r (p.lArea + 0x100000 + 16 * (p.noteTail % 256)) 16 (l.cword.toNat + l.queue % 16 * 2 ^ 64) 4
      some (next ((s1.updPart r.part (fun k => { k with noteTail := (k.noteTail + 1) % 65536 })).notify (4 * r.part)))

/-- R438, R245 step 8: what stands in the siding slots is discarded and its credit returned, the slots return, and the launch is COMPLETED. -/
def State.dropLaunch (s : State) (r : LaunchRef) (l : Launch) : State :=
  let s1 := l.slots.foldl (fun (st : State) q => q.items.foldl (fun (st' : State) d =>
    (match d.pkt with
    | .tok _ v t => st'.discardFor v t.sender (tagAsid t.tag) DEST_RANGE t.tag t.dest t.src false
    | .frame _ f =>
      (st'.discardFor f.dev f.sender (tagAsid (rfTag f.head)) DEST_RANGE (rfTag f.head) (rfDest f.head) (rfSrc f.head) true).frameLanded f
    | _ => st').unDivert r q.die d.pkt) st) s
  let p := s1.part r.part
  let s2 := l.slots.foldl (fun (st : State) q => st.physPut r (p.slotBase q.die q.num) 64 0 2) s1
  s2.updPart r.part (fun k => { k with launches := NMap.erase k.launches r.id })

/-- R454: the builders of a launch that still fill are closed, those with place behind the frame that waits; none when there is none to close. -/
def State.closeBuilders (s : State) (r : LaunchRef) : Option State :=
  let open' := s.cores.flatMap (fun e => (e.2.builders.filter (fun b => b.2.launch == r)).filterMap (fun b =>
    (b.2.close e.1 b.1 s.link.device).map (fun z => (e.1, b.1, z))))
  if open'.isEmpty then none else some (open'.foldl (fun (st : State) x => st.setBuilder x.1 x.2.1 x.2.2) s)

/-- R245: the next step of a launch's completion; none while it must wait. A launch that ended in FAULTED has a code (R268). -/
def State.complete (s : State) (p id : Nat) : Option State :=
  let r : LaunchRef := ⟨p, id⟩
  match s.launch? r with
  | none => none
  | some l =>
    if l.pageWait.isSome then none
    else if l.state == .running then
      if s.canComplete r l then some (s.updLaunch r (fun l => { l with state := .completing }))
      else if s.hasFrame r then none
      else s.closeBuilders r
    else if l.state ≠ .completing then none
    else
      match l.step with
      | 0 =>
        if s.engineBusy r then s.closeBuilders r
        else if s.storesLeft r then some (s.performStores r)
        else
          match s.firstLeak r with
          | some (c, q, tiles, reads) => s.reportLeak r l c q tiles reads
          | none => some (s.updLaunch r (fun l => { l with step := 1 }))
      | 1 => some ((s.returnAll r l).updLaunch r (fun l => { l with step := 2 }))
      | 2 =>
        let s1 := s.performStores r
        if l.code = 0 ∧ recLeakFault l.record = true ∧ l.leaks ≠ 0 then some (s1.faultLaunch r TILE_LEAK)
        else some (s1.updLaunch r (fun l => { l with step := 4 }))
      | 4 => some (s.fillCaddr r l)
      | 5 => if l.code = 0 then some (s.signalSucc r l) else some (s.updLaunch r (fun l => { l with step := 7 }))
      | 6 => if s.recordsWait r { l with recSlots := [] } then none else s.postNotice r l
      | _ => if s.recordsWait r { l with recSlots := [] } then none else some (s.dropLaunch r l)

/-! ## FAULTED launches (R268) -/

/-- R268: seats of a launch's frames leave a train; the queue entries that they reserved return (R452). -/
def Core.dropLaunchSeats (k : Core) (r : LaunchRef) : Core :=
  let mine := fun (h : Nat) => (NMap.getD k.frames h Frame.free).launch == r
  let ts := k.trains.map (fun t => (t.seats.filter (fun x => mine x.inst.handle)).foldl (fun (u : Train) x => u.dropSeat x.n) t)
  let back := fun (e : QEntry) => match e.resv with | some (_, h, _) => if mine h then { e with resv := none } else e | none => e
  { k with
    queues := k.queues.map (fun q => (q.1, { q.2 with resident := q.2.resident.map back }))
    trains := ts.filter (fun t => !t.seats.isEmpty)
    entries := k.entries.filter (fun e => !mine e.inst.handle)
    waiters := k.waiters.filter (fun w => !mine w.inst.handle)
    waiting := k.waiting.filter (fun w => !mine (tagFrame w.tok.tag))
    regWaits := k.regWaits.filter (fun w => !mine w.handle)
    starts := k.starts.filter (fun x => x.launch != r)
    plats := (k.plats.map (fun p => (p.1, { p.2 with fills :=
      (p.2.fills.map (fun f => { f with seats := f.seats.filter (fun i => !mine i.handle) })).filter (fun f => !f.seats.isEmpty) }))).filter
        (fun p => !p.2.fills.isEmpty) }

/-- R268: every frame of a launch on a core freed at once. -/
def State.freeLaunchCore (s : State) (r : LaunchRef) (c : Nat) : State :=
  let hs := (s.core c).framesOf r
  let s1 := s.updCore c (fun k => k.dropLaunchSeats r)
  hs.foldl (fun (st : State) h => st.completeFree c h) s1

/-- R268: a FAULTED launch is ended: its frames and instances go, its builders close, and its completion begins with STATE 2. -/
def State.endLaunch (s : State) (r : LaunchRef) : State :=
  let s1 := (s.part r.part).cores.foldl (fun (st : State) c => st.freeLaunchCore r c) s
  let s2 : State := { s1 with dies := s1.dies.map (fun d => (d.1, { d.2 with yards := d.2.yards.filter (fun y => y.launch != r) })) }
  let s3 := s2.updLaunch r (fun l => { l with
    state := .completing, step := 0, recSlots := [], pageWait := none,
    slots := l.slots.map (fun q => { q with items := q.items.filter (fun d => match d.pkt with | .yard .. => false | _ => true) }) })
  (s3.closeBuilders r).getD s3

/-- R268: DBGCTL.AUTOEND ends a FAULTED launch once its engine work has completed. -/
def State.autoEnd (s : State) (p id : Nat) : Option State :=
  let r : LaunchRef := ⟨p, id⟩
  match s.launch? r with
  | some l => if l.state == .faulted && (s.part p).autoEnd && !s.engineBusy r then some (s.endLaunch r) else none
  | none => none

/-- R36, R243, R252: a launch, or a team of it, has waited for its stall limit. -/
def State.stallOut (s : State) (p id : Nat) : Option State :=
  let r : LaunchRef := ⟨p, id⟩
  match s.launch? r with
  | none => none
  | some l =>
    if (s.part p).state ≠ .run then none
    else if s.stalled p l || s.dies.any (fun d => d.2.yards.any (fun y => y.launch == r && s.teamStalled y)) then
      some (s.launchFault r LAUNCH_STALL 0 0)
    else none

end Sys2Proof.Machine
end

