-- ==== Sys2Proof/Machine/Pages.lean ====
section
/-!
DEFINITION. Walks, page responses and TLB invalidation (R224 to R229, R279).
-/
namespace Sys2Proof.Machine

/-! ## Walks (R224, R225, R227) -/

/-- A page of n bytes at a base holds an 8 KiB unit. -/
def unitIn (base size unit : Nat) : Bool := decide (base ≤ unit * 8192 ∧ unit * 8192 < base + size)

/-- Units that a train waited on are settled; with a code they have failed. -/
def Train.settleUnits (t : Train) (hit : Nat → Bool) (code : Option Nat) : Train :=
  let mine := fun (m : Nat × Nat × Nat) => hit (m.1 / 8192)
  let done := t.waits.filter mine
  if done.isEmpty then t
  else
    { t with waits := t.waits.filter (fun m => !mine m), heldAt := none,
             failed := match code with | some k => t.failed ++ done.map (fun m => (m.1 / 8192, k)) | none => t.failed }

/-- The trains of one address space on a core that waited on units. -/
def Core.settleUnits (k : Core) (asid : Nat) (hit : Nat → Bool) (code : Option Nat) : Core :=
  { k with trains := k.trains.map (fun t => if t.asid == asid then t.settleUnits hit code else t) }

/-- R203, R205: reads of a core that wait for replays whose load meets a failed unit: their seats fault. -/
def State.failReplays (s : State) (c asid : Nat) (units : List Nat) : State :=
  ((s.core c).regWaits).foldl (fun (st : State) w =>
    match w.replay with
    | none => st
    | some x =>
      let f := st.frame c w.handle
      if f.asid ≠ asid then st
      else
        match st.rebuild c w.handle (units.map (fun u => (u, PAGE_UNRESOLVED))) f x with
        | .fail _ va _ => st.replayFault c w (recipeDetail w.reg va)
        | _ => st) s

/-- R224: the core whose walk ends, when it came through its own TLB, and the other cores of its die that wait on units which the walk covers. -/
def State.walkers (s : State) (c asid : Nat) (own : Bool) (hit : Nat → Bool) : List Nat :=
  (if own || s.waitsOn c asid hit then [c] else []) ++
    (s.cores.filter (fun e => e.1 != c && dieOf e.1 == dieOf c && s.waitsOn e.1 asid hit)).map (·.1)

/-- A leaf fills a cluster's TLB (R224). -/
def State.clusterFill (s : State) (cl : Nat) (x : TlbEntry) : State := s.updCluster cl (fun k => { k with tlb := tlbAdd k.tlb 2048 x })

/-- R224: a leaf reaches a core that waits for it: it fills the core's TLB and its cluster's, and the core's trains go on. -/
def State.walkHit (s : State) (c asid : Nat) (x : TlbEntry) : State :=
  (s.updCore c (fun k => { k.settleUnits asid (unitIn x.base x.size) none with tlb := tlbAdd k.tlb 64 x })).clusterFill (clusterOf c) x

/-- R224: whether the fabric or the bank operations of a cluster wait on one of the units that satisfy a test. -/
def State.clusterWaits (s : State) (cl asid : Nat) (hit : Nat → Bool) : Bool :=
  let f := (s.cluster cl).fab
  f.cards.any (fun k => k.info.asid == asid && k.pages.any hit) ||
  f.ctxs.any (fun x => x.2.pages.any hit && f.cards.any (fun k => k.stage == .running && k.ctx == x.1 && k.info.asid == asid)) ||
  (List.range 8).any (fun i => (s.core (8 * cl + i)).eng.banks.any (fun b =>
    b.info.asid == asid && (match b.pageWait with | some va => hit (va / 8192) | none => false)))

/-! ## Page responses (R228, R229) -/

/-- What an address-space unit's answer does to an engine operation that waits at an address: it goes on, or it has failed there. -/
def answerOp (hit : Nat → Bool) (fail : Bool) (wait : Option Nat) (fault : Option (Nat × Nat)) : Option Nat × Option (Nat × Nat) :=
  match wait with
  | some va =>
    if hit (va / 8192) then (none, if fail then some (fault.getD (PAGE_UNRESOLVED, va)) else fault) else (wait, fault)
  | none => (wait, fault)

/-- Units that failed, from those waited on. -/
def failUnits (hit : Nat → Bool) (fail : Bool) (waits failed : List Nat) : List Nat × List Nat :=
  (waits.filter (fun u => !hit u), if fail then failed ++ waits.filter hit else failed)

def MCmd.answer (m : MCmd) (asid : Nat) (hit : Nat → Bool) (fail : Bool) : MCmd :=
  if m.info.asid = asid then
    let r := answerOp hit fail m.pageWait m.fault
    { m with pageWait := r.1, fault := r.2 }
  else m

/-- The operations of a core's engines. -/
def CoreEngines.answer (e : CoreEngines) (asid : Nat) (hit : Nat → Bool) (fail : Bool) : CoreEngines :=
  { e with
    copies := e.copies.map (fun q =>
      if q.info.asid = asid then
        let r := answerOp hit fail q.pageWait q.fault
        if q.reporting = 0 then { q with pageWait := r.1, fault := r.2 }
        else { q with pageWait := r.1, reporting := if fail && q.pageWait.isSome && r.1.isNone then 2 else q.reporting }
      else q)
    banks := e.banks.map (fun b =>
      if b.info.asid = asid then
        let r := answerOp hit fail b.pageWait b.fault
        { b with pageWait := r.1, fault := r.2 }
      else b)
    mq := e.mq.map (fun m => m.answer asid hit fail)
    fq := e.fq.map (fun q =>
      if q.info.asid = asid then
        let r := failUnits hit fail q.pages q.failed
        { q with pages := r.1, failed := r.2 }
      else q) }

/-- The jobs and contexts of a cluster's fabric. -/
def Fabric.answer (f : Fabric) (asid : Nat) (hit : Nat → Bool) (fail : Bool) : Fabric :=
  let mine := fun (slot : Nat) => f.cards.any (fun k => k.stage == .running && k.ctx == slot && k.info.asid == asid)
  { f with
    cards := f.cards.map (fun k =>
      if k.info.asid = asid then
        let r := failUnits hit fail k.pages k.failed
        { k with pages := r.1, failed := r.2 }
      else k)
    ctxs := f.ctxs.map (fun x =>
      if mine x.1 then
        let r := failUnits hit fail x.2.pages x.2.failed
        (x.1, { x.2 with pages := r.1, failed := r.2 })
      else x) }

/-- The launch engine's waits of a partition. -/
def Partition.answer (p : Partition) (asid : Nat) (hit : Nat → Bool) (fail : Bool) : Partition :=
  { p with
    launches := p.launches.map (fun e =>
      match e.2.pageWait with
      | some u =>
        if e.2.asid = asid ∧ hit u = true then
          (e.1, { e.2 with pageWait := none, failed := if fail then e.2.failed ++ [u] else e.2.failed })
        else e
      | none => e)
    firings := p.firings.map (fun f =>
      match f.unit with
      | some u => if f.asid = asid ∧ hit u = true then { f with unit := none, failed := f.failed || fail } else f
      | none => f) }

/-- The yards of a die that wait for a page of RECBUF (R254); a failure is their launch's. -/
def State.answerYards (s : State) (asid : Nat) (hit : Nat → Bool) (fail : Bool) : State :=
  s.dies.foldl (fun (st : State) d => d.2.yards.foldl (fun (st' : State) y =>
    match y.pageWait, st'.launch? y.launch with
    | some va, some l =>
      if l.asid = asid ∧ hit (va / 8192) = true then
        let s1 := st'.updYard d.1 y.num (fun y => { y with pageWait := none })
        if fail then s1.updLaunch y.launch (fun l => { l with failed := l.failed ++ [va / 8192] }) else s1
      else st'
    | _, _ => st') st) s

/-- The queues of a core that wait for a page of their siding (R442, R443) go on or find it failed; in timetable mode at the next boundary (R458). -/
def State.answerQueues (s : State) (c asid : Nat) (hit : Nat → Bool) (fail : Bool) : State :=
  let met := fun (w : Option Nat) => match w with | some u => hit u | none => false
  ((s.core c).queues.filter (fun q => q.2.oasid == asid && (met q.2.pageWait || met q.2.readWait))).foldl
    (fun (st : State) q =>
      let us := (q.2.pageWait.toList ++ q.2.readWait.toList).filter hit
      (st.setQueue c q.1 { q.2 with pageWait := if met q.2.pageWait then none else q.2.pageWait,
                                    readWait := if met q.2.readWait then none else q.2.readWait,
                                    failed := if fail then q.2.failed ++ us else q.2.failed }).queueStir c q.1) s

/-- R228: on a retry the accesses of a core's trains that wait on units walk again, the misses of a unit as one walk, begun by the first. -/
def Core.walkAgain (k : Core) (asid : Nat) (units : List Nat) : Core :=
  { k with walks := k.walks ++ units.filterMap (fun u => k.trains.findSome? (fun t =>
      if t.asid = asid then (t.waits.find? (fun m => m.1 / 8192 == u)).map (fun m => ⟨asid, m.1, m.2.1, m.2.2, t.launch.id, true⟩) else none)) }

/-- Refusals of a core's queue entries that wait for a page of their ring (R347). -/
def Core.answerSent (k : Core) (asid : Nat) (hit : Nat → Bool) (fail : Bool) : Core :=
  { k with qsent := k.qsent.map (fun q =>
      match q.page with
      | some u => if q.info.asid = asid ∧ hit u = true then { q with page := none, pageFail := fail } else q
      | none => q) }

/-- R46: pages of images that tokens and seats of a core wait for. -/
def Core.answerImage (k : Core) (asid : Nat) (hit : Nat → Bool) (fail : Bool) : Core :=
  let mine := fun (e : Nat × Nat) => e.1 == asid && hit e.2
  { k with imgWait := k.imgWait.filter (fun e => !mine e),
           imgFail := if fail then k.imgFail ++ k.imgWait.filter mine else k.imgFail.filter (fun e => !mine e) }

/-- Engine operations and jobs on the dies that satisfy a test, answered for units of an address space. -/
def State.answerEngines (s : State) (on : Nat → Bool) (asid : Nat) (hit : Nat → Bool) (fail : Bool) : State :=
  { s with
    cores := s.cores.map (fun e => if on (dieOf e.1) then (e.1, { e.2 with eng := e.2.eng.answer asid hit fail }) else e)
    pairs := s.pairs.map (fun p => if on (dieOf (2 * p.1)) then (p.1, { p.2 with ctxs := p.2.ctxs.map (fun x =>
      (x.1, { x.2 with queue := x.2.queue.map (fun m => m.answer asid hit fail) })) }) else p)
    clusters := s.clusters.map (fun k => if on (dieOf (8 * k.1)) then (k.1, { k.2 with fab := k.2.fab.answer asid hit fail }) else k) }

/-- An answer reaches everything that waits on requests of an address space. -/
def State.answerAll (s : State) (asid : Nat) (reqs : List PageReq) (fail : Bool) : State :=
  let units := reqs.map (·.vunit)
  let hit := fun (u : Nat) => units.contains u
  let trains := fun (k : Core) =>
    ((if fail then k.settleUnits asid hit (some PAGE_UNRESOLVED) else k.walkAgain asid units).answerImage asid hit fail).answerSent asid hit fail
  let s0 : State := { s with
    cores := s.cores.map (fun e => (e.1, trains e.2))
    parts := s.parts.map (fun p => (p.1, p.2.answer asid hit fail)) }
  let s1 := s0.answerEngines (fun _ => true) asid hit fail
  let s2 := s1.answerYards asid hit fail
  let s3 := s2.cores.foldl (fun (st : State) e =>
    let st1 := if e.2.queues.isEmpty then st else st.answerQueues e.1 asid hit fail
    if fail && !e.2.regWaits.isEmpty then st1.failReplays e.1 asid units else st1) s2
  s3.parts.foldl (fun (st : State) p => if p.2.firings.isEmpty then st else st.retryFirings p.1) s3

/-- Outstanding requests of a partition answered: they are gone, and what waited on them goes on or fails. -/
def State.answerReqs (s : State) (p asid : Nat) (sel : PageReq → Bool) (fail : Bool) : State :=
  let mine := fun (r : PageReq) => r.asid == asid && sel r
  let reqs := (s.part p).preqs.filter mine
  if reqs.isEmpty then s
  else (s.updPart p (fun k => { k with preqs := k.preqs.filter (fun r => !mine r) })).answerAll asid reqs fail

/-- R228: answers that came while a walk was under way reach the request that it has raised (log 19). -/
def State.applyEarly (s : State) (p asid unit : Nat) : State :=
  let mine := (s.part p).early.filter (fun e => e.1 == asid && e.2.1 == unit)
  mine.foldl (fun st e => st.answerReqs p asid (fun r => r.vunit == unit) e.2.2)
    (s.updPart p (fun k => { k with early := k.early.filter (fun e => !(e.1 == asid && e.2.1 == unit)) }))

/-- R224: a leaf that a walk of core c has found: it fills the TLBs through which accesses of the die wait for it, and these go on. -/
def State.walkLeaf (s : State) (c asid : Nat) (own : Bool) (x : TlbEntry) : State :=
  let hit := unitIn x.base x.size
  let s1 := (s.walkers c asid own hit).foldl (fun st d => st.walkHit d asid x) (s.clusterFill (clusterOf c) x)
  let cls := (s1.clusters.filter (fun k => k.1 != clusterOf c && dieOf (8 * k.1) == dieOf c && s1.clusterWaits k.1 asid hit)).map (·.1)
  (cls.foldl (fun st cl => st.clusterFill cl x) s1).answerEngines (· == dieOf c) asid hit false

/-- R224, R225, R227: the oldest walk of a core ends: its leaf reaches what waits for it, a page request is raised for the access that began the
walk, or the seats that wait fault with `DATA_UNCORRECTABLE`; engines meet that code at the access itself. -/
def State.walkOne (s : State) (c : Nat) : Option State :=
  match (s.core c).walks with
  | [] => none
  | ⟨asid, va, kind, path, launch, own⟩ :: rest =>
    let s1 := s.updCore c (fun k => { k with walks := rest })
    let others : State → (Nat → Bool) → State := fun st hit =>
      { st with parts := st.parts.map (fun p => (p.1, { p.2 with early := p.2.early.filter (fun e => !(e.1 == asid && hit e.2.1)) })) }
    match s.walk asid va with
    | .leaf base size e =>
      some ((others s1 (unitIn base size)).walkLeaf c asid own ⟨asid, base, size, e⟩)
    | .badData _ =>
      some (((s1.walkers c asid own (· == va / 8192)).foldl (fun st d =>
        (st.updCore d (fun k => k.settleUnits asid (· == va / 8192) (some DATA_UNCORRECTABLE))).failReplays d asid [va / 8192])
        (others s1 (· == va / 8192))).answerEngines (· == dieOf c) asid (· == va / 8192) false)
    | .invalid l =>
      match s.partOfCluster (clusterOf c) with
      | none => some s1
      | some p => some ((s1.raisePage c p launch asid va kind path l).applyEarly p asid (va / 8192))

/-- R6, R228: a word written to PRESP; its reserved bits are ignored. It also stands for the requests that walks now under way may raise. -/
def State.pageResponse (s : State) (p : Nat) (w : Word) : State :=
  if 2 ≤ bits w 12 11 then s
  else
    let asid := bits w 8 0
    let unit := bits w 56 13
    let hit : Nat → Bool :=
      match s.walk asid (unit * 8192) with
      | .leaf base size _ => unitIn base size
      | _ => (· == unit)
    let fail := bits w 12 11 == 1
    let walks := (s.part p).cores.flatMap (fun c => (s.core c).walks)
    let under := dedup ((walks.filter (fun x => x.asid == asid && hit (x.va / 8192))).map (fun x => x.va / 8192))
    (s.updPart p (fun k => { k with early := k.early ++ under.map (fun u => (asid, u, fail)) })).answerReqs p asid (fun r => hit r.vunit) fail

/-- R228: the first request of a partition that has passed PRQLIM fails. -/
def State.pageTimeout (s : State) (p : Nat) : Option State :=
  let k := s.part p
  if k.prqLim = 0 then none
  else
    (k.preqs.find? (fun r => decide (r.since + 1050 * k.prqLim ≤ s.cyc.toNat))).map (fun r =>
      s.answerReqs p r.asid (fun x => x.vunit == r.vunit) true)

/-! ## TLB invalidation (R226, R279) -/

/-- Whether an invalidation word reaches a TLB entry. -/
def State.tlbHitBy (s : State) (p : Nat) (w : Word) (e : TlbEntry) : Bool :=
  match bits w 12 11 with
  | 0 => e.asid == bits w 8 0 && unitIn e.base e.size (bits w 56 13)
  | 1 => e.asid == bits w 8 0
  | _ => asidPart (s.asidEntry e.asid) == p

/-- R6, R279: a word written to TLBINV, its reserved bits ignored: the invalidation waits, or the write is refused. -/
def State.tlbInvWrite (s : State) (p : Nat) (w : Word) : State :=
  if bits w 12 11 = 3 ∨ 17 ≤ (s.part p).tlbInv.length then
    s.updPart p (fun k => { k with cmderr := true })
  else s.updPart p (fun k => { k with tlbInv := k.tlbInv ++ [w] })

/-- R226: the invalidation in progress completes: no TLB of the device holds the old translation. -/
def State.tlbInvDone (s : State) (p : Nat) : Option State :=
  match (s.part p).tlbInv with
  | [] => none
  | w :: rest =>
    let keep := fun (l : List TlbEntry) => l.filter (fun e => !s.tlbHitBy p w e)
    let s1 : State := { s with
      cores := s.cores.map (fun e => (e.1, { e.2 with tlb := keep e.2.tlb }))
      clusters := s.clusters.map (fun k => (k.1, { k.2 with tlb := keep k.2.tlb })) }
    some (s1.updPart p (fun k => { k with tlbInv := rest }))

end Sys2Proof.Machine
end

