-- ==== Sys2Proof/Machine/SysOps.lean ====
section
/-!
DEFINITION. The partition registers (R269 to R279, R435).
-/
namespace Sys2Proof.Machine

/-! ## Partition state (R277) -/

/-- R399: the graph contexts of a partition are stopped by a pre-emption or a halt, or go on. -/
def State.stopFabric (s : State) (p : Nat) (stop : Bool) : State :=
  let mine := (s.part p).clusters
  { s with clusters := s.clusters.map (fun e =>
      if mine.contains e.1 && !e.2.fab.ctxs.isEmpty then
        (e.1, { e.2 with fab := { e.2.fab with ctxs := e.2.fab.ctxs.map (fun x => (x.1, { x.2 with stopped := stop })) } })
      else e) }

/-- R466: a change of PSTATE.STATE, which raises the partition's vector. -/
def State.setPState (s : State) (p : Nat) (st : PState) : State :=
  if (s.part p).state = st then s else ((s.updPart p (fun k => { k with state := st })).stopFabric p (st != .run)).notify (4 * p + 3)

def State.cmdErr (s : State) (p : Nat) : State := s.updPart p (fun k => { k with cmderr := true })

/-- PSTATE.STATE's code. -/
def PState.code : PState → Nat
  | .off => 0 | .run => 1 | .drain => 2 | .save => 3 | .swapped => 4 | .load => 5 | .halting => 6 | .halted => 7

/-- R290: the partition is being swapped out, is out, or is being loaded. -/
def PState.away : PState → Bool
  | .save | .swapped | .load => true
  | _ => false

/-- R276: the partition holds a live or a swapped launch. -/
def Partition.busy (p : Partition) : Bool := p.launches.any (fun e => e.2.state.live) || (p.state.away && !p.launches.isEmpty)

def b2w (b : Bool) (i : Nat) : Nat := if b then 2 ^ i else 0

/-- R277: PSTATE. -/
def Partition.pstate (k : Partition) (p : Nat) : Nat :=
  k.state.code + b2w k.cmderr 8 + b2w k.quiesced 9 + b2w k.ttLive 10 + b2w k.priv 11 +
  Nat.min 255 (k.launches.filter (fun e => e.2.state == .faulted)).length * 2 ^ 16 + p % 16 * 2 ^ 24

/-- The least number of a list; 0 of none. -/
def leastOf : List Nat → Nat
  | [] => 0
  | x :: xs => xs.foldl Nat.min x

/-- R274: PARTID. -/
def Partition.partId (k : Partition) (p : Nat) : Nat := p % 16 + k.clusters.length % 256 * 2 ^ 8 + leastOf k.clusters % 256 * 2 ^ 16

/-- R274, R275: what a read of a partition register gives; per-core registers are those of core c. Numbers without a register read zero. -/
def State.sregValue (s : State) (p c n : Nat) : Word :=
  let k := s.part p
  match n with
  | 0x0000 => BitVec.ofNat 64 (k.partId p)
  | 0x0001 => s.features p
  | 0x0002 => s.cyc
  | 0x0003 => if k.tt.isSome then BitVec.ofNat 64 (s.core c).tclk else 0
  | 0x0004 => k.ssCount
  | 0x0005 => BitVec.ofNat 64 k.ssLen
  | 0x0006 => NMap.getD (s.core c).evt 0 0
  | 0x0007 => NMap.getD (s.core c).evt 1 0
  | 0x0008 => NMap.getD (s.core c).evt 2 0
  | 0x0009 => NMap.getD (s.core c).evt 3 0
  | 0x8001 => BitVec.ofNat 64 (k.pstate p)
  | 0x8002 => k.featMask
  | 0x8003 => BitVec.ofNat 64 k.drainLim
  | 0x8004 => BitVec.ofNat 64 k.ctxBase
  | 0x8005 => BitVec.ofNat 64 k.lArea
  | 0x8006 => BitVec.ofNat 64 k.fqAddr
  | 0x8007 => BitVec.ofNat 64 k.prqBase
  | 0x8008 => BitVec.ofNat 64 (k.prqHead + k.prqTail * 2 ^ 16 + k.prqLog2n * 2 ^ 32)
  | 0x800A => BitVec.ofNat 64 k.prqLim
  | 0x800C => BitVec.ofNat 64 (b2n (!k.tlbInv.isEmpty) + (k.tlbInv.length - 1) % 32 * 2)
  | 0x800D => k.evtSel
  | 0x800E => BitVec.ofNat 64 (b2n k.brkEn + 2 * b2n k.autoEnd)
  | 0x8010 => BitVec.ofNat 64 (NMap.getD k.hqAsid 0 0)
  | 0x8011 => BitVec.ofNat 64 (NMap.getD k.hqAsid 1 0)
  | 0x8012 => BitVec.ofNat 64 (NMap.getD k.hqAsid 2 0)
  | 0x8013 => BitVec.ofNat 64 (NMap.getD k.hqAsid 3 0)
  | 0x8014 => BitVec.ofNat 64 (NMap.getD k.hqAsid 4 0)
  | 0x8015 => BitVec.ofNat 64 (NMap.getD k.hqAsid 5 0)
  | 0x8016 => BitVec.ofNat 64 (NMap.getD k.hqAsid 6 0)
  | 0x8017 => BitVec.ofNat 64 (NMap.getD k.hqAsid 7 0)
  | 0x8018 => BitVec.ofNat 64 k.sidBase
  | 0x8019 => BitVec.ofNat 64 k.sidCtl
  | _ => 0

/-! ## Writes (R274 to R276) -/

/-- An address register keeps a multiple of its alignment: the bits below it are reserved (log 31). -/
def alignDown (v n : Nat) : Nat := v - v % n

/-- R276: a write that takes effect only while the partition is idle. -/
def State.idleWrite (s : State) (p : Nat) (f : Partition → Partition) : State :=
  if (s.part p).busy then s.cmdErr p else s.updPart p f

/-- R276: a ring of 2^LOG2N records from a base lies in physical memory. -/
def prqFits (base log2n : Nat) : Bool :=
  (log2n == 0 && decide (base < physSize)) || (decide (4 ≤ log2n ∧ log2n ≤ 12) && physOk base (32 * 2 ^ log2n))

/-- R274, R276: PRQCTL written. HEAD's move frees records of the ring. -/
def State.prqCtlWrite (s : State) (p : Nat) (w : Word) : State :=
  let k := s.part p
  let log2n := bits w 35 32
  let go := fun (st : State) => st.flushPreqs p (st.part p).preqs []
  if k.busy then go (s.updPart p (fun k => { k with prqHead := bits w 15 0 }))
  else if !prqFits k.prqBase log2n then s.cmdErr p
  else go (s.updPart p (fun k => { k with prqLog2n := log2n, prqHead := bits w 15 0 }))

/-- R276: PRQBASE written. -/
def State.prqBaseWrite (s : State) (p : Nat) (w : Word) : State :=
  let base := alignDown w.toNat 4096
  if (s.part p).busy || !prqFits base (s.part p).prqLog2n then s.cmdErr p else s.updPart p (fun k => { k with prqBase := base })

/-- R274, R280, R295: SSLEN written: at once, or at the next boundary while a timetable launch is live. Other values are ignored. -/
def State.ssLenWrite (s : State) (p c : Nat) (w : Word) : State :=
  if w.toNat < 16 ∨ 65536 < w.toNat then s
  else if (s.part p).tt.isSome then s.updCore c (fun k => { k with lhold := k.lhold ++ [.sslen w.toNat] })
  else s.updPart p (fun k => { k with ssLen := w.toNat })

/-- R435: SIDCTL written. -/
def State.sidCtlWrite (s : State) (p : Nat) (w : Word) : State :=
  let slog := bits w 4 0
  if (s.part p).busy then s.cmdErr p
  else if slog < 16 ∨ 24 < slog then s
  else s.updPart p (fun k => { k with sidCtl := slog })

/-- R274 to R276, R279, R435: a write to a partition register other than PCTL; per-core registers are those of core c. Read-only
numbers, and numbers without a register, ignore it. -/
def State.writeSreg (s : State) (p c n : Nat) (w : Word) : State :=
  match n with
  | 0x0005 => s.ssLenWrite p c w
  | 0x0006 => s.updCore c (fun k => { k with evt := NMap.put k.evt 0 w 0 })
  | 0x0007 => s.updCore c (fun k => { k with evt := NMap.put k.evt 1 w 0 })
  | 0x0008 => s.updCore c (fun k => { k with evt := NMap.put k.evt 2 w 0 })
  | 0x0009 => s.updCore c (fun k => { k with evt := NMap.put k.evt 3 w 0 })
  | 0x8001 => if bit w 8 then s.updPart p (fun k => { k with cmderr := false }) else s
  | 0x8002 => s.updPart p (fun k => { k with featMask := w })
  | 0x8003 => s.updPart p (fun k => { k with drainLim := w.toNat })
  | 0x8004 => s.idleWrite p (fun k => { k with ctxBase := alignDown w.toNat (2 ^ 20) })
  | 0x8005 => s.idleWrite p (fun k => { k with lArea := alignDown w.toNat (2 ^ 19) })
  | 0x8006 => s.idleWrite p (fun k => { k with fqAddr := alignDown w.toNat 16 })
  | 0x8007 => s.prqBaseWrite p w
  | 0x8008 => s.prqCtlWrite p w
  | 0x8009 => s.pageResponse p w
  | 0x800A => s.updPart p (fun k => { k with prqLim := w.toNat })
  | 0x800B => s.tlbInvWrite p w
  | 0x800D => s.updPart p (fun k => { k with evtSel := w &&& 0xFFFFFFFF#64 })
  | 0x800E => s.updPart p (fun k => { k with brkEn := bit w 0, autoEnd := bit w 1 })
  | 0x8010 => s.updPart p (fun k => { k with hqAsid := NMap.put k.hqAsid 0 (bits w 8 0) 0 })
  | 0x8011 => s.updPart p (fun k => { k with hqAsid := NMap.put k.hqAsid 1 (bits w 8 0) 0 })
  | 0x8012 => s.updPart p (fun k => { k with hqAsid := NMap.put k.hqAsid 2 (bits w 8 0) 0 })
  | 0x8013 => s.updPart p (fun k => { k with hqAsid := NMap.put k.hqAsid 3 (bits w 8 0) 0 })
  | 0x8014 => s.updPart p (fun k => { k with hqAsid := NMap.put k.hqAsid 4 (bits w 8 0) 0 })
  | 0x8015 => s.updPart p (fun k => { k with hqAsid := NMap.put k.hqAsid 5 (bits w 8 0) 0 })
  | 0x8016 => s.updPart p (fun k => { k with hqAsid := NMap.put k.hqAsid 6 (bits w 8 0) 0 })
  | 0x8017 => s.updPart p (fun k => { k with hqAsid := NMap.put k.hqAsid 7 (bits w 8 0) 0 })
  | 0x8018 => s.idleWrite p (fun k => { k with sidBase := alignDown w.toNat (2 ^ 20) })
  | 0x8019 => s.sidCtlWrite p w
  | _ => s

/-! ## Halts (R285, R299, R301) -/

/-- R299, R301: HALT as a command: the partition begins to halt, or in timetable mode does so after the next boundary. From another state, or
while a command waits for the boundary (log 32), it changes nothing and sets CMDERR. -/
def State.haltCmd (s : State) (p : Nat) : State :=
  let k := s.part p
  if k.state ≠ .run ∨ k.ttPend ≠ 0 then s.cmdErr p
  else if k.tt.isSome then s.updPart p (fun k => { k with ttPend := 3 })
  else (s.updPart p (fun k => { k with drainAt := s.cyc.toNat })).setPState p .halting

end Sys2Proof.Machine
end

