-- ==== Sys2Proof/Machine/Sys.lean ====
section
/-!
DEFINITION. Class SYS: `trap`, `mode`, `clk`, `evt`, `brk`, `sregr` and `sregw` (R280 to R285).
-/
namespace Sys2Proof.Machine

/-- R281 `trap`: every active seat's instance leaves its train through a trap. -/
def execTrap (i : BitVec 16) (s : State) : Host.Outcome State Fault Refusal :=
  withPlacement s (fun c t =>
    let r := s.takeFaults c t TRAP t.pc (t.seats.map (fun x => (x, bits (t.slot x.n t.pc .l) 47 0 * 2 ^ 16 + i.toNat, 0)))
    .next (r.1.retire c r.2))

/-- R282: the new MODE word of an action on an old one. -/
def modeAct (m : Nat) (old l r : Word) : Word :=
  match m with
  | 0 => old
  | 1 => modeFields ((old &&& ~~~r) ||| (l &&& r))
  | _ => old &&& ~~~(0x007F0000#64)

/-- R85, R282: the code with which a `mode` that would write a word faults. -/
def modeFault (new : Word) : Option Nat :=
  if !modeRMOk new then some ILLEGAL_ROUNDING else if !modeSATPOk new then some ILLEGAL_FORMAT else none

/-- R282: one seat of `mode`: its frame's MODE changes and the seat receives the word before its action, or it has a fault code. What issues in
the same cycle still reads the old fields, and flags of the cycle come behind the write (R88). -/
def State.modeSeat (s : State) (c : Nat) (t : Train) (m : Nat) (x : Seat) : State × Except Nat LaneOut :=
  let f := s.frame c x.inst.handle
  let old := f.modeNext.getD f.mode
  let new := modeAct m old (t.slot x.n t.pc .l) (t.slot x.n t.pc .r)
  match modeFault new with
  | some code => (s, .error code)
  | none => (s.updFrame c x.inst.handle (fun f => { f with modeNext := some new }), .ok ⟨old, 0⟩)

/-- R282 `mode`: reads and writes the MODE word of each active seat's frame, in tag order; the seats that fault do so in seat order (R265). -/
def execMode (a b : BitVec 8) (m : BitVec 2) (s : State) : Host.Outcome State Fault Refusal :=
  withTrain s (fun c t0 =>
    match s.prepare c t0 with
    | .hold s' => .next s'
    | .go s0 t =>
      let r := (seatsByTag s0 c t.seats).foldl (fun (p : State × List (Seat × Except Nat LaneOut)) x =>
        let q := p.1.modeSeat c t m.toNat x
        (q.1, p.2 ++ [(x, q.2)])) (s0, [])
      let bad := t.seats.filterMap (fun x => (r.2.find? (fun o => o.1.n == x.n)).bind (fun o =>
        match o.2 with | .error code => some (x, code) | .ok _ => none))
      let f := bad.foldl (fun (p : State × Train) x => p.1.takeFault c p.2 x.1 x.2 0 0 0 t.pc) (r.1, t)
      .next (f.1.finishLanes c f.2 [a.toNat, b.toNat]
        (r.2.filterMap (fun o => match o.2 with | .ok v => some (o.1, v) | .error _ => none))))

/-- R283: the value `clk` delivers to a train on core c. -/
def State.clkValue (s : State) (m c : Nat) (t : Train) : Word :=
  let p := s.part t.launch.part
  match m with
  | 0 => if p.tt.isSome then BitVec.ofNat 64 (s.core c).tclk else s.cyc
  | 1 => if p.tt.isSome then p.ssCount else 0
  | _ => s.cyc

/-- R283 `clk`. -/
def execClk (a b : BitVec 8) (m : BitVec 2) (s : State) : Host.Outcome State Fault Refusal :=
  laneNow s [a.toNat, b.toNat] (fun t c _ => ⟨s.clkValue m.toNat c t, 0⟩)

/-- R284: counter k of a core counts one `evt` when EVTSEL selects code 1 for it. -/
def State.evtCount (s : State) (c p k : Nat) : State :=
  if bits (s.part p).evtSel (8 * k + 7) (8 * k) = 1 then
    s.updCore c (fun q => { q with evt := NMap.put q.evt k (NMap.getD q.evt k 0 + 1) 0 })
  else s

/-- R284 `evt`: once for the train. -/
def execEvt (k : BitVec 2) (s : State) : Host.Outcome State Fault Refusal :=
  withTrain s (fun c t => .next ((s.evtCount c t.launch.part k.toNat).retire c t))

/-- R285: the record of a breakpoint, for the train's lowest active seat. -/
def State.brkRecord (s : State) (c : Nat) (t : Train) (i : Nat) : State :=
  match t.seats with
  | [] => s
  | x :: _ => (s.faultRecord (s.seatInfo c t x BREAKPOINT 0 i 0 t.pc)).notify (4 * t.launch.part + 3)

/-- R285 `brk`: nothing while BRKEN is 0, and once the train has been resumed at it; otherwise the train holds, a record is written, and the
partition begins to halt. -/
def execBrk (i : BitVec 16) (s : State) : Host.Outcome State Fault Refusal :=
  withTrain s (fun c t =>
    if !(s.part t.launch.part).brkEn || t.resumed then .next (s.retire c t)
    else if t.hold = some .brk then .next (s.holdTrain c t .brk)
    else .next (((s.brkRecord c t i.toNat).haltCmd t.launch.part).holdTrain c t .brk))

/-- R280: whether a train may use a register: those numbered 0x8000 or above, and every write, need a privileged partition. -/
def State.sregDenied (s : State) (t : Train) (n : Nat) (write : Bool) : Bool :=
  (write || decide (0x8000 ≤ n)) && !(s.part t.launch.part).priv

/-- R280 `sregr`: a register of the train's partition is delivered to every active seat. -/
def execSregr (a : BitVec 8) (n : BitVec 16) (s : State) : Host.Outcome State Fault Refusal :=
  withTrain s (fun c t =>
    if !sregReadable n.toNat then .next (s.faultAll c t ILLEGAL_FORMAT 0)
    else if s.sregDenied t n.toNat false then .next (s.faultAll c t PRIVILEGED 0)
    else laneNow s [a.toNat] (fun t' c' _ => ⟨s.sregValue t'.launch.part c' n.toNat, 0⟩))

/-- R280 `sregw`: L of the lowest active seat is written to a register of the train's partition. -/
def execSregw (n : BitVec 16) (s : State) : Host.Outcome State Fault Refusal :=
  withTrain s (fun c t =>
    if !sregWritable n.toNat then .next (s.faultAll c t ILLEGAL_FORMAT 0)
    else if s.sregDenied t n.toNat true then .next (s.faultAll c t PRIVILEGED 0)
    else
      match t.seats with
      | [] => .next (s.retire c t)
      | x :: _ => .next ((s.writeSreg t.launch.part c n.toNat (t.slot x.n t.pc .l)).retireUid c t.uid))

end Sys2Proof.Machine
end

