-- ==== Sys2Proof/Machine/Control.lean ====
section
/-!
DEFINITION. Commands to a partition: pre-emption, swaps, halts and the end of FAULTED launches (R278, R286 to R291, R298 to R301).
-/
namespace Sys2Proof.Machine

/-! ## What a train waits for (R57, R286, R294) -/

/-- R57: operations the clause's WAIT field waits for; an instruction that has begun, or a later pass of a team, does
not wait again. -/
def Core.clauseOps (k : Core) (t : Train) : List OutOp :=
  match t.next? with
  | none => []
  | some b =>
    if b.wait = 0 ∨ t.moved ≠ 0 ∨ t.pass ≠ 0 then []
    else k.outst.filter (fun o => o.train == t.uid && decide (16 ≤ o.wbit) && b.wait.testBit (o.wbit - 16))

/-- Operations of a train on paths that a fence, send or SCHED instruction may wait for. -/
def Core.pathOps (k : Core) (t : Train) : List Nat := (k.outst.filter (fun o => o.train == t.uid && decide (o.path < 6))).map (·.id)

/-- R294: whether a pending result holds the rotation: of a lane unit, of a local load, or a recipe's replay. -/
def Core.opHolds (k : Core) (op : Nat) : Bool :=
  k.late.any (fun l => l.opId == op && l.kind != .far) || k.regWaits.any (fun w => w.opId == op && w.replay.isSome)

/-- Whether an operation is a load from a REMOTE page (R294, R295). -/
def State.opRemote (s : State) (c op : Nat) : Bool :=
  (s.core c).sq.any (fun e => e.opId == op && (match e.op with | .remoteRead .. | .remoteMx .. => true | _ => false)) ||
  s.link.reqs.any (fun r => r.core == c && r.opId == op && (match r.kind with | .read .. | .mxRead .. => true | _ => false))

/-- R177, R187: a `futld` of the train is still to find its word full or empty: it is under way at a peer, or waits for the boundary (R295). -/
def State.undecided (s : State) (c uid : Nat) : Bool :=
  s.link.reqs.any (fun r => r.core == c && r.train == uid && (match r.kind with | .futRead .. => true | _ => false)) ||
  (s.core c).sq.any (fun e => e.train == uid && (match e.op with | .futTake .. | .remoteFut .. => true | _ => false))

/-- Whether a train waits for its own earlier accesses before its next instruction, or its end. Outside timetable mode one that accesses path L
waits for accesses under way at a peer, since every train of the core sees its accesses in program order (R114, R116, log 28); in timetable
mode, for the acquires that the boundary performs (R116, R295). An outward instruction, and the block's end, wait until every `futld` has found
its word, so that a seat that parks or traps repeats no outward effect (R187). -/
def State.orderWait (s : State) (c : Nat) (t : Train) : Bool :=
  let onL := match t.nextInstr with | some i => onPathL i | none => false
  (onL && (if s.inTT t.launch then (s.core c).sq.any (fun e => e.train == t.uid && e.acq)
    else s.link.reqs.any (fun r => r.core == c && r.train == t.uid && r.opId != 0))) ||
  ((t.finished || t.nextOutward) && s.undecided c t.uid)

/-- R286: whether a result comes from a lane or from the core's own SRAM, so that pre-emption waits for it. -/
def Core.opAwaited (k : Core) (op : Nat) : Bool := k.late.any (fun l => l.opId == op && l.kind == .own)

/-- R286: whether a resident train stands at a wait that pre-emption does not wait out: for anything but a lane result or a local SRAM read. -/
def State.takable (s : State) (c : Nat) (t : Train) : Bool :=
  let k := s.core c
  if t.finished then false
  else
    !t.waits.isEmpty || s.orderWait c t || !(k.pendOps t).all k.opAwaited || (k.clauseOps t).any (fun o => decide (18 ≤ o.wbit) || !k.opAwaited o.id) ||
    (t.heldAt == some s.cyc.toNat && (match t.hold with
      | none | some .pending | some .clause => false
      | some .paths => !(k.pathOps t).all k.opAwaited || k.sq.any (fun e => e.train == t.uid)
      | some _ => true)) ||
    t.hold == some .fetch

/-! ## Taking a train inside its block (R286, R328, R376) -/

/-- What is left of a tile access of a train taken inside its block: reads that feed write entries, whose values still land (R192, R207). -/
def TileWait.taken (w : TileWait) : TileWait :=
  { w with counted := false, seats := (w.seats.filter (fun x => !x.regs.isEmpty)).map (fun x => { x with targets := [] }) }

/-- A train leaves the engines' queues it waits in. -/
def State.leaveQueues (s : State) (c uid : Nat) : State :=
  let s1 := s.updEng c (fun e => { e with pool := e.pool.map (fun p => { p with queue := p.queue.filter (fun q => q.train != uid) }) })
  let p := s1.pair (pairOf c)
  let s2 := if p.ctxs.isEmpty then s1 else
    s1.setPair (pairOf c) { p with ctxs := p.ctxs.map (fun x => (x.1, { x.2 with
      claims := x.2.claims.filter (fun q => !(q.core == c && q.train == uid))
      waits := x.2.waits.filter (fun q => !(q.1 == c && q.2.1 == uid)) })) }
  { s2 with cores := s2.cores.map (fun e =>
      if e.2.eng.tileWaits.isEmpty then e
      else (e.1, { e.2 with eng := { e.2.eng with tileWaits := (e.2.eng.tileWaits.map (fun w =>
        if w.core == c && w.train == uid then w.taken else w)).filter (fun w => !(w.core == c && w.train == uid && w.seats.isEmpty)) } })) }

/-- R286: a train is taken inside its block: it issues nothing further, and its instances restart. Late carried writes still land (R207). -/
def State.takeTrain (s : State) (c : Nat) (t : Train) : State :=
  let s1 := t.seats.foldl (fun (st : State) x => (st.leaveBlock c x.inst).updCore c (fun k => k.makeReady x.inst false)) s
  (s1.leaveQueues c t.uid).updCore c (fun k => { k with
    trains := k.trains.filter (fun u => u.uid != t.uid), taken := k.taken ++ [t],
    outst := k.outst.filter (fun o => o.train != t.uid || o.wbit == 23),
    regWaits := k.regWaits.filter (fun w => w.train != t.uid || !w.regs.isEmpty),
    late := k.late.filter (fun l => l.train != t.uid || !l.regs.isEmpty) })

/-- Trains of a partition taken, those that `sel` picks. -/
def State.takeTrains (s : State) (p : Nat) (sel : State → Nat → Train → Bool) : State :=
  (s.part p).cores.foldl (fun (st : State) c =>
    ((st.core c).trains.filter (fun t => sel st c t)).foldl (fun (st' : State) t => st'.takeTrain c t) st) s

/-- Whether some train of a partition satisfies a test. -/
def State.anyTrain (s : State) (p : Nat) (sel : Nat → Train → Bool) : Bool :=
  (s.part p).cores.any (fun c => (s.core c).trains.any (fun t => sel c t))

/-! ## Timers that stand still (R262, R286, R291, R299) -/

/-- A clock value after a stop from a to b. -/
def shiftClock (a b v : Nat) : Nat := v + (b - Nat.max v a)

/-- R291: departure, fill, yard and stall timers of a partition resume with the time they had left. What FIRST shows stays (R168, R255). -/
def State.resumeTimers (s : State) (p : Nat) : State :=
  let k := s.part p
  if k.tt.isSome then s
  else
    let f := shiftClock k.drainAt s.cyc.toNat
    let late := fun (v : Nat) => f v - v
    let mine := fun (c : Nat) => k.clusters.contains (clusterOf c)
    { s with
      cores := s.cores.map (fun e =>
        if mine e.1 then
          (e.1, { e.2 with
            plats := e.2.plats.map (fun q => (q.1, { q.2 with fills := q.2.fills.map (fun x => { x with stood := x.stood + late (x.first + x.stood) }) }))
            builders := e.2.builders.map (fun b => (b.1, { b.2 with firstAt := f b.2.firstAt })) })
        else e)
      dies := s.dies.map (fun d => (d.1, { d.2 with yards := d.2.yards.map (fun y =>
        if y.launch.part = p then
          { y with forming := { y.forming with stood := y.forming.stood + late (y.forming.first + y.forming.stood) }
                   formed := y.formed.map (fun t => { t with formedAt := f t.formedAt }) }
        else y) }))
      parts := s.parts.map (fun q =>
        if q.1 = p then (q.1, { q.2 with launches := q.2.launches.map (fun l => (l.1, { l.2 with since := f l.2.since })) }) else q) }

/-! ## Commands (R278) -/

/-- A time at which a swap may end: the spec gives only its bound (R289). -/
def State.swapTime (s : State) (p : Nat) : State :=
  let d := s.draw
  d.2.updPart p (fun k => { k with cmdCycle := s.cyc.toNat + 1 + Config.latency d.1 })

/-- PREEMPT: DRAIN, or in timetable mode a freeze after the next boundary (R286, R298). A HALTED partition's trains are taken at once; in
timetable mode it stands behind a boundary already (R301), and none is taken. -/
def State.preemptCmd (s : State) (p : Nat) : State :=
  let k := s.part p
  match k.state with
  | .run =>
    if k.ttPend ≠ 0 then s.cmdErr p
    else if k.tt.isSome then s.updPart p (fun k => { k with ttPend := 1 })
    else (s.updPart p (fun k => { k with drainAt := s.cyc.toNat })).setPState p .drain
  | .halted =>
    let s1 := s.updPart p (fun k => { k with quiesced := false })
    if k.tt.isSome then (s1.swapTime p).setPState p .save else (s1.setPState p .drain).takeTrains p (fun _ _ _ => true)
  | _ => s.cmdErr p

/-- RESTORE: LOAD (R291). -/
def State.restoreCmd (s : State) (p : Nat) : State :=
  if (s.part p).state = .swapped then (s.swapTime p).setPState p .load else s.cmdErr p

/-- R285, R298: trains held at a `brk` go on there, at RESUME and at a restore in timetable mode. -/
def Core.resumeBrk (k : Core) : Core :=
  { k with trains := k.trains.map (fun t => if t.hold = some .brk then { t with resumed := true } else t) }

/-- RESUME: every train continues where it stopped, and one that stands at a `brk` passes it (R285, R300). -/
def State.resumeCmd (s : State) (p : Nat) : State :=
  if (s.part p).state ≠ .halted then s.cmdErr p
  else
    let s1 := (s.updPart p (fun k => { k with quiesced := false })).resumeTimers p
    let s2 : State := { s1 with cores := s1.cores.map (fun e =>
      if (s1.part p).clusters.contains (clusterOf e.1) then
        (e.1, e.2.resumeBrk)
      else e) }
    s2.setPState p .run

/-- END: the named FAULTED launch is ended (R268). -/
def State.endCmd (s : State) (p id : Nat) : State :=
  let k := s.part p
  match k.launches.find? (fun e => e.1 % 65536 == id && e.2.state == .faulted) with
  | some e => if k.state = .run ∨ k.state = .halted then s.endLaunch ⟨p, e.1⟩ else s.cmdErr p
  | none => s.cmdErr p

/-- R278: a word written to PCTL. -/
def State.pctlWrite (s : State) (p : Nat) (w : Word) : State :=
  let cmd := bits w 3 0
  if bits w 15 4 ≠ 0 ∨ bits w 63 32 ≠ 0 ∨ (cmd ≠ 5 ∧ bits w 31 16 ≠ 0) then s.cmdErr p
  else
    match cmd with
    | 1 => s.preemptCmd p
    | 2 => s.restoreCmd p
    | 3 => s.haltCmd p
    | 4 => s.resumeCmd p
    | 5 => s.endCmd p (bits w 31 16)
    | _ => s.cmdErr p

/-- A write to any partition register from the host (R274, R278). -/
def State.hostReg (s : State) (p c n : Nat) (w : Word) : State := if n = 0x8000 then s.pctlWrite p w else s.writeSreg p c n w

/-! ## The drain (R286, R287) -/

/-- Copy requests that complete before SAVE and before QUIESCED (R287, R299): ordinary ones, and streams but between their chunks (R355). -/
def CoreEngines.mustEnd (e : CoreEngines) (q : CopyReq) : Bool :=
  if q.stream && crElems q.recd != 0 then e.midChunk q || q.reporting != 0 else true

/-- A packet that a launch of a partition sent. -/
def Cargo.sentFrom (p : Nat) : Cargo → Bool
  | .tok t => t.sender.part == p
  | _ => false

/-- Whether a waiting read's value will land without a train of its own: a replay, or a register whose writer is under way. One of a register
or tile that nothing is writing stays as it is (log 44). -/
def Core.lands (k : Core) (w : RegWait) : Bool :=
  !w.regs.isEmpty && (w.replay.isSome || (NMap.get? (NMap.getD k.frames w.handle Frame.free).writer w.reg).isSome)

/-- Work of a partition at a core that completes before SAVE and before QUIESCED: queued stores, copies, bank operations, sends and late
carried writes (R207, R287, R299, R355, R390). -/
def Core.workLeft (k : Core) (p : Nat) : Bool :=
  !k.sq.isEmpty || k.eng.copies.any k.eng.mustEnd || k.regWaits.any k.lands || k.eng.banks.any (fun b => !b.done) || !k.eng.barq.isEmpty ||
  k.outst.any (fun o => o.wbit == 23) || !k.qsent.isEmpty || k.held.any (fun h => h.cargo.sentFrom p) ||
  k.builders.any (fun b => b.2.closed.isSome || b.2.flying) || !k.flushes.isEmpty || k.late.any (fun l => !l.regs.isEmpty)

/-- Packets of a partition's launches in flight anywhere. -/
def State.packetsFly (s : State) (p : Nat) : Bool :=
  s.cores.any (fun e => e.2.flights.any (fun f => f.cargo.sentFrom p) || e.2.frin.any (fun f => f.frame.sender.part == p)) ||
  s.link.reqs.any (fun r => r.launch.part == p)

/-- Running fabric jobs of a partition: cluster, card, context. -/
def State.fabJobs (s : State) (p : Nat) : List (Nat × FCard × FCtx) :=
  (s.part p).clusters.flatMap (fun cl => (s.cluster cl).fab.cards.filterMap (fun k =>
    if k.stage = .running then (NMap.get? (s.cluster cl).fab.ctxs k.ctx).map (fun x => (cl, k, x)) else none))

/-- R425: tokens of a job are still on their way to its sinks. -/
def State.fabMoves (s : State) (j : Nat × FCard × FCtx) : Bool :=
  (List.range j.2.2.units.length).any (fun i => (j.2.2.unitFire i).isSome) ||
  j.2.2.engs.any (fun e => (s.sinkCommit j.1 j.2.1 j.2.2 e.1 e.2).isSome)

/-- R425: tokens of a running phase in flight: at the ports of units, and at listeners among the engines. -/
def FCtx.inFlight (x : FCtx) : Bool :=
  x.engs.any (fun e => e.2.running) &&
  (x.units.any (fun u => u.ports.any (fun q => !q.isEmpty)) || x.engs.any (fun e => !e.2.queue.isEmpty))

/-- R425: whether a context may be left with tokens in flight once the drain limit has passed. -/
def FCtx.abandonable (x : FCtx) : Bool := !x.engs.any (fun e => fdKind e.2.desc == 7)

/-- R425: whether SAVE still waits for a job: its tokens move, or are in flight until the drain limit abandons them. In a context that binds KIND 7,
whose drain is not abandoned, those that cannot move then stay where they stand (log 87). -/
def State.fabBusy (s : State) (p : Nat) (j : Nat × FCard × FCtx) : Bool :=
  let k := s.part p
  s.fabMoves j || (j.2.2.inFlight && (j.2.2.abandonable || decide (s.cyc.toNat < k.drainAt + k.drainLim)))

/-- R207: a matrix pair has an `accrd` queued whose values go to carried registers, and its contexts still move. -/
def State.accrdLeft (s : State) (i : Nat) : Bool :=
  let p := s.pair i
  p.ctxs.any (fun x => x.2.queue.any (fun m => match m.kind with | .accrd _ seats => seats.any (fun y => !y.1.regs.isEmpty) | _ => false)) &&
  ((s.tileStep i).isSome || p.ctxs.any (fun x => x.2.queue.any (fun m => m.pageWait.isSome)))

/-- R207: a read that waits at a core's tiles feeds a carried register, and the seal that it waits for is under way. -/
def CoreEngines.sealLands (e : CoreEngines) : Bool :=
  e.tileWaits.any (fun w => w.seats.any (fun x => !x.regs.isEmpty) && e.seals.any (fun x => x.key == w.key && !x.free))

/-- R207: late writes to frames of a partition that are still to land. -/
def State.lateWrites (s : State) (p : Nat) : Bool :=
  (s.part p).cores.any (fun c =>
    let k := s.core c
    k.late.any (fun l => !l.regs.isEmpty) || k.regWaits.any k.lands || k.eng.sealLands)

/-- R287: nothing that SAVE waits for is left. -/
def State.drained (s : State) (p : Nat) : Bool :=
  let k := s.part p
  !s.anyTrain p (fun _ _ => true) && k.cores.all (fun c => !(s.core c).workLeft p && !(s.core c).eng.sealLands && !(s.core c).builders.any (fun b => b.2.filling)) &&
  !s.packetsFly p && (s.fabJobs p).all (fun j => !s.fabBusy p j) && k.cores.all (fun c => c % 2 == 1 || !s.accrdLeft (pairOf c))

/-- R457: an open builder of a draining partition whose trains have ended is closed. -/
def State.closeOne (s : State) (p : Nat) : Option State :=
  if s.anyTrain p (fun _ _ => true) then none
  else
    (s.part p).cores.findSome? (fun c => (s.core c).builders.findSome? (fun b =>
      if b.2.filling then (b.2.close c b.1 s.link.device).map (fun z => s.setBuilder c b.1 z) else none))

/-- R286: trains that wait are taken; none when there is none to take. -/
def State.drainTake (s : State) (p : Nat) : Option State :=
  if (s.part p).state = .drain ∧ s.anyTrain p (fun c t => s.takable c t) = true then some (s.takeTrains p (fun st c t => st.takable c t))
  else s.closeOne p

/-- R399: REPLAY of a context. -/
def Fabric.markReplay (f : Fabric) (ctx : Nat) (v : Bool) : Fabric :=
  { f with ctxs := f.ctxs.map (fun x => if x.1 = ctx then (x.1, { x.2 with replay := v }) else x) }

/-- R286, R425: the drain limit has passed: every train is taken, and fabric contexts that still move are left to replay. -/
def State.drainLimit (s : State) (p : Nat) : Option State :=
  let k := s.part p
  let late := (s.fabJobs p).filter (fun j => j.2.2.abandonable && s.fabBusy p j)
  if k.state ≠ .drain ∨ s.cyc.toNat < k.drainAt + k.drainLim ∨ (s.anyTrain p (fun _ _ => true) = false ∧ late.isEmpty = true) then none
  else
    let s1 := s.takeTrains p (fun _ _ _ => true)
    some (late.foldl (fun (st : State) j =>
      match st.fabReplay j.1 j.2.1 j.2.2 with
      | some u => u.updCluster j.1 (fun k => { k with fab := k.fab.markReplay j.2.1.ctx true })
      | none => st) s1)

/-- R287: SAVE begins. -/
def State.saveStart (s : State) (p : Nat) : Option State :=
  if (s.part p).state = .drain ∧ s.drained p = true then some ((s.swapTime p).setPState p .save) else none

/-- R288: bytes of a cluster's context image: the fixed part, the operand RAM of trains that stand inside their blocks, and both tiles of each
owned matrix context. -/
def State.imageSize (s : State) (p cl : Nat) : Nat :=
  let trains := (List.range 8).flatMap (fun j =>
    let k := s.core (8 * cl + j)
    k.taken ++ (if (s.part p).tt.isSome then k.trains else []))
  let owned := (List.range 4).flatMap (fun j => (s.pair (4 * cl + j)).ctxs.filter (fun x => x.2.owner.isSome))
  4200 * 1024 + trains.foldl (fun n t => n + t.ram) 0 + 131072 * owned.length

/-- R1: bytes of shadow storage of a die. -/
def shadowSize : Nat := 32 * 2 ^ 20

/-- Bytes of a die's shadow storage that images take. -/
def shadowUsed (die : Nat) (xs : List CtxImage) : Nat :=
  (xs.filter (fun x => x.cluster / 40 == die && x.beyond.isNone)).foldl (fun n x => n + x.size) 0

/-- R289: the images of a partition placed, in ascending cluster order: each whole in the shadow storage of its die while that has room, else
behind the others that overflow from CTXBASE on (log 34). The launch engine's part of the lowest cluster's image is free up to its bound. -/
def State.placeImages (s : State) (p free : Nat) : List CtxImage :=
  let cls := sortBy (fun a b => decide (a ≤ b)) (s.part p).clusters
  let away := s.parts.flatMap (fun q => if q.1 = p then [] else q.2.images)
  cls.foldl (fun (xs : List CtxImage) cl =>
    let size := s.imageSize p cl + (if cls.head? = some cl then Config.launchBytes free % (256 * 1024 + 1) else 0)
    let next := xs.foldl (fun n x => if x.beyond.isSome then n + x.size else n) (s.part p).ctxBase
    xs ++ [⟨cl, size, if shadowUsed (cl / 40) (away ++ xs) + size ≤ shadowSize then none else some next, false⟩]) []

/-- R289: the images written; what would lie beyond the HBM is not, and faults (R470, log 90). What those in the overflow area hold there is a free value (log 34). -/
def State.saveImages (s : State) (p : Nat) : State :=
  let d := s.draw
  let xs := s.placeImages p d.1
  let mem := xs.foldl (fun (m : Memory) x =>
    match x.beyond with
    | some a => m.write a ((List.range (Nat.min x.size (physSize - a))).map (fun i => Config.ctxImage d.1 (a + i)))
    | none => m) d.2.mem
  let past := (xs.filterMap (fun x => x.beyond.map (fun a => a + x.size))).filter (fun e => decide (physSize < e))
  let s1 := { d.2 with mem := mem }.updPart p (fun k => { k with images := xs })
  if past.isEmpty then s1 else s1.physFault ⟨p, 0⟩ physSize 2

/-- R288 to R290: the images are written. The model keeps in place what they hold (log 34). -/
def State.saveDone (s : State) (p : Nat) : Option State :=
  if (s.part p).state = .save ∧ (s.part p).cmdCycle ≤ s.cyc.toNat then some ((s.saveImages p).setPState p .swapped) else none

/-- Launches that hold a group or a team on a core. -/
def State.coreLaunches (s : State) (c : Nat) : List LaunchRef :=
  s.parts.flatMap (fun p => (p.2.launches.filter (fun l => l.2.used.contains c)).map (fun l => (⟨p.1, l.1⟩ : LaunchRef)))

/-- R129, R477: an image that cannot be read back from shadow storage: every live launch with a group on the cluster takes a record and is FAULTED (log 91). -/
def State.imageLost (s : State) (cl : Nat) : State :=
  let rs := dedup ((List.range 8).flatMap (fun j => s.coreLaunches (8 * cl + j)))
  (rs.filter (fun r => match s.launch? r with | some l => l.state.live | none => false)).foldl (fun (st : State) r =>
    st.faultNow { FaultInfo.plain DATA_UNCORRECTABLE 0 0 r (s.launchAsid r) 2 with core := 8 * cl }) s

/-- R291, R457: the images are loaded: TLBs start empty, timers resume, and resident rings fill from their sidings. -/
def State.loadDone (s : State) (p : Nat) : Option State :=
  let k := s.part p
  if k.state ≠ .load ∨ s.cyc.toNat < k.cmdCycle then none
  else
    let mine := fun (cl : Nat) => k.clusters.contains cl
    let s1 : State := { s with
      cores := s.cores.map (fun e => if mine (clusterOf e.1) then (e.1, { (if k.tt.isSome then e.2.resumeBrk else e.2.wakeAll) with tlb := [], walks := [], taken := [] }) else e)
      clusters := s.clusters.map (fun e => if mine e.1 then (e.1, { e.2 with tlb := [], fab := { e.2.fab with ctxs := e.2.fab.ctxs.map (fun x => (x.1, { x.2 with replay := false })) } }) else e) }
    let s1 := (k.images.filter (·.bad)).foldl (fun (st : State) i => st.imageLost i.cluster) s1
    let s2 := ((s1.resumeTimers p).updPart p (fun k => { k with images := [] })).setPState p .run
    some (k.cores.foldl (fun (st : State) c => (st.core c).queues.foldl (fun (st' : State) q => st'.queueSettle c q.1 true) st) s2)

/-! ## The halt (R299, R301) -/

/-- R299: the halt's work has completed: QUIESCED and HALTED. -/
def State.haltDone (s : State) (p : Nat) : Option State :=
  let k := s.part p
  if k.state = .halting ∧ k.cores.all (fun c => !(s.core c).workLeft p) = true ∧ s.packetsFly p = false then
    some ((s.updPart p (fun k => { k with quiesced := true })).setPState p .halted)
  else none

/-- R457: the builders of a partition that still fill are closed, those with place behind the frame that waits; none when there is none to close. -/
def State.closeAll (s : State) (p : Nat) : Option State :=
  let open' := (s.part p).cores.flatMap (fun c => (s.core c).builders.filterMap (fun b =>
    (b.2.close c b.1 s.link.device).map (fun z => (c, b.1, z))))
  if open'.isEmpty then none else some (open'.foldl (fun (st : State) x => st.setBuilder x.1 x.2.1 x.2.2) s)

/-- R301: the halt of a timetable partition after a boundary. -/
def State.ttHalt (s : State) (p : Nat) : Option State :=
  if (s.part p).ttPend = 4 then
    some ((s.updPart p (fun k => { k with ttPend := 0, drainAt := s.cyc.toNat })).setPState p .halting)
  else none

end Sys2Proof.Machine
end

