-- ==== Sys2Proof/Machine/NetRun.lean ====
section
/-!
DEFINITION. The link engine between instructions (R428 to R458): frames, credits, queue packets, memory requests of peers, routes and the
wait graph.
-/
namespace Sys2Proof.Machine

/-! ## Row frames (R445 to R448, R454) -/

/-- Entries of 64 bytes a frame takes (R436). -/
def RowFrame.entries (f : RowFrame) : Nat := 1 + (f.bytes.length + 63) / 64

/-- Whether frames of a launch already wait in its siding on a die (R322, R438). -/
def State.frameSided (s : State) (r : LaunchRef) (die : Nat) : Bool :=
  match (s.launch? r).bind (fun l => l.slot? die) with
  | some q => q.items.any (fun d => match d.pkt with | .frame .. => true | _ => false)
  | none => false

/-- R437, R448, R457: a frame reaches the core its NTAG names: delivered, discarded, or put aside. -/
def State.frameArrive (s : State) (c : Nat) (f : RowFrame) (ctx : Option LaunchRef) : State :=
  let fr := s.frame c (tagFrame (rfTag f.head))
  let die := dieOf c
  let side := fun (_ : Unit) =>
    match ctx with
    | some r => s.divert r die (.frame c f)
    | none =>
      match s.takeCredit fr.launch die f.entries with
      | some (s1, true) => s1.divert fr.launch die (.frame c f)
      | _ => s.updCore c (fun k => { k with frin := k.frin ++ [⟨s.cyc.toNat + 64, c, f, none⟩] })   -- its launch held no slot when it was sent
  if fr.alloc && (s.swappedCore c || s.frameSided fr.launch die) then side ()
  else
    match s.frameDeliver c f with
    | .gone s1 => s1.giveCredit ctx die f.entries f.dev (rfSrc f.head) (rfTag f.head)
    | .noTile => side ()

/-- R432, R436: a packet of n entries of a peer for a frame of core c, against the credit granted to its source: the state with it taken and the context
charged; none while this device has granted too little. -/
def State.chargePeer (s : State) (c n dev : Nat) (src tag : Word) : Option (State × Option LaunchRef) :=
  let f := s.frame c (tagFrame tag)
  if !f.alloc then some (s, none)
  else (s.takeLent f.launch (dieOf c) n dev (tagCore src)).map (fun x => (x.1, if x.2 then some f.launch else none))

/-- R445, R448: the frames due at a core arrive; from another device its bytes are given. -/
def State.framesDue (s : State) (c : Nat) : Option State :=
  let k := s.core c
  let due := k.frin.filter (fun f => decide (f.due ≤ s.cyc.toNat))
  if due.isEmpty then none
  else
    some (due.foldl (fun st f => st.frameArrive c f.frame f.ctx)
      (s.setCore c { k with frin := k.frin.filter (fun f => decide (s.cyc.toNat < f.due)) }))

/-- R436, R447: a closed frame handed to its channel: against its context's credit here, or a peer's; none while it must wait. In timetable
mode it is delivered within the boundary (R458). -/
def State.frameGo (s : State) (c b : Nat) (tt : Bool) (f : RowFrame) : Option State :=
  let tag := rfTag f.head
  let dev := tagDevice tag
  if dev ≠ s.link.device then
    if !s.routed dev then none
    else
      let n := s.newOp c
      (n.2.spendCredit c f.entries tag).map (fun s1 =>
        (s1.emit (.frame dev c n.1 f)).setBuilder c b { (s1.core c).builder b with flyOp := n.1 })
  else
    let k := tagCore tag
    let fr := s.frame k (tagFrame tag)
    let fly := fun (st : State) (ctx : Option LaunchRef) =>
      if tt then st.frameArrive k f ctx
      else
        let d := st.draw
        let due := st.cyc.toNat + tokenDelay c k (Config.latency d.1)
        d.2.updCore k (fun q => { q with frin := q.frin ++ [⟨due, k, f, ctx⟩] })
    if !fr.alloc then some (fly s none)
    else
      match s.takeCredit fr.launch (dieOf k) f.entries with
      | some (s1, charged) => some (fly s1 (if charged then some fr.launch else none))
      | none => none

/-- R447: the closed frame of a builder is sent once the one ahead has been delivered; the operations that waited for it end (R454). -/
def State.frameSend (s : State) (c b : Nat) : Option State :=
  let x := (s.core c).builder b
  match x.closed with
  | none => none
  | some f =>
    if x.flying then none
    else
      let s1 := s.setBuilder c b { x with closed := none, flying := true, ops := [] }
      (s1.frameGo c b (s.inTT x.launch) f).map (fun s2 => x.ops.foldl (fun (st : State) o => st.endOp c o) s2)

/-- R447: the fill timer of a builder has expired: its frame closes, when there is place behind the one that waits. -/
def State.fillTimer (s : State) (c b : Nat) : Option State :=
  let x := (s.core c).builder b
  match timerCycles (rfTimer x.desc) with
  | none => none
  | some n =>
    if x.filling && decide (x.firstAt + n ≤ s.clock c (s.inTT x.launch)) then
      (x.close c b s.link.device).map (fun z => s.setBuilder c b z)
    else none

/-! ## Credits (R432, R436, R437) -/

/-- Packets that a core holds, sent in order as their contexts have credit and their devices a route; one that must wait holds back those behind it for the
same context. -/
def State.releaseHeld (s : State) (c dev : Nat) : List Parcel → List (Nat × Option LaunchRef × Nat) → State
  | [], _ => s
  | p :: ps, stuck =>
    let key := s.ctxKey p.dev p.cargo.tag
    let keep := fun (st : State) => st.updCore c (fun k => { k with held := k.held ++ [p] })
    if p.dev ≠ dev ∨ stuck.contains key = true then (keep s).releaseHeld c dev ps stuck
    else if dev ≠ s.link.device then
      match s.sendRemote c dev p.cargo p.opId with
      | some s1 => s1.releaseHeld c dev ps stuck
      | none => (keep s).releaseHeld c dev ps (key :: stuck)
    else
      match s.cargoCtx p.core p.cargo with
      | none => ((s.fly c p.core p.cargo p.opId none).draw.2).releaseHeld c dev ps stuck
      | some r =>
        match s.takeCredit r (dieOf p.core) 1 with
        | some (s1, charged) =>
          ((s1.fly c p.core p.cargo p.opId (if charged then some r else none)).draw.2).releaseHeld c dev ps stuck
        | none => (keep s).releaseHeld c dev ps (key :: stuck)

/-- R436: what a credit packet says, with the packing of log 22: the entries granted, and the context by a frame of it. -/
structure Grant where
  entries : Nat
  ctx : LaunchRef           -- of a grant that arrives: the context at the peer
  core : Nat                -- core of the frame
  frame : Nat
deriving DecidableEq, Repr

/-- A grant that has arrived from a peer. -/
def grantOf (n : Nat) : Grant :=
  { entries := natBits n 23 0, ctx := ⟨natBits n 43 40, natBits n 39 24⟩, core := natBits n 54 44, frame := natBits n 66 55 }

/-- R436: entries that a peer has granted to a core of this device, for the context that owns a frame there. -/
def State.creditCome (s : State) (c dev : Nat) (g : Grant) : State :=
  let h := tagHandle (mkTag 0 dev g.core g.frame 0)
  let k := creditKey c dev g.ctx
  { s with link := { s.link with owners := NMap.set s.link.owners h g.ctx,
                                 credits := NMap.put s.link.credits k (NMap.getD s.link.credits k 0 + g.entries) 0 } }

/-- R436: entries that this device grants, out of those that none holds, to a core of a peer for the context that owns a frame of core c: `n` packs the entries,
the frame, and the core and device of the source. None when the slot has too few. -/
def State.creditLend (s : State) (c n : Nat) : Option State :=
  let k := natBits n 23 0
  let f := s.frame c (natBits n 35 24)
  let core := natBits n 46 36
  let dev := natBits n 54 47
  if k = 0 ∨ f.alloc = false ∨ dev = s.link.device ∨ s.link.members.contains dev = false then none
  else
    match s.takeCredit f.launch (dieOf c) k with
    | some (s1, true) => some (s1.giveCredit (some f.launch) (dieOf c) k dev (mkTag 0 dev core 0 0) (mkTag 0 s.link.device c (natBits n 35 24) 0))
    | _ => none

/-- R437: the packets of a core that wait for a device and can go now; none when none can. In timetable mode those within this device go at the boundary, until a freeze
stops the boundaries (R457). -/
def State.heldGo (s : State) (c dev : Nat) : Option State :=
  let tt := match s.partOfCluster (clusterOf c) with | some p => (s.part p).tt.isSome && (s.part p).ttPend != 2 | none => false
  if tt && dev == s.link.device then none
  else
    let held := (s.core c).held
    let s1 := (s.updCore c (fun k => { k with held := [] })).releaseHeld c dev held []
    if (s1.core c).held.length = held.length then none else some s1

/-- R436, R437: a grant of a peer; or, for this device, the packets that wait at a core when n is 0, and otherwise a grant of its own. -/
def State.creditGrant (s : State) (c dev n : Nat) : Option State :=
  if dev = s.link.device then (if n = 0 then s.heldGo c dev else s.creditLend c n)
  else if s.link.members.contains dev = false then none
  else if n = 0 then s.heldGo c dev
  else
    let s1 := s.creditCome c dev (grantOf n)
    some ((s1.heldGo c dev).getD s1)

/-! ## Queue packets (R441, R451, R458) -/

/-- The entries due at a core reach their queues; none when none is due. -/
def State.queueDue (s : State) (c : Nat) : Option State :=
  let k := s.core c
  let due := k.qin.filter (fun f => decide (f.due ≤ s.cyc.toNat))
  if due.isEmpty then none
  else
    some (due.foldl (fun st f => st.queueArrive c f.handle f.entry)
      (s.setCore c { k with qin := k.qin.filter (fun f => decide (s.cyc.toNat < f.due)) }))

/-- R451: an entry that arrives from another device: handle, data, tag of the sending seat, ASID, device, and the number its acknowledgement
names. -/
def entryOf (pkt : List Word) : QFlight :=
  let w := fun (i : Nat) => pkt.getD i 0
  { due := 0, handle := w 0,
    entry := { data := w 1, sasid := bits (w 3) 8 0, sender := tagHandle (w 2), qseq := 0, spilled := false, dev := (w 4).toNat,
               core := tagCore (w 2), ser := (w 5).toNat, resv := none } }

/-- An acknowledgement (code 0) or refusal that has reached its sender; none when no entry of that number waits for one, or its ring record
waits for space (R347). -/
def State.queueReplied (s : State) (c ser code : Nat) : Option State :=
  let mine := fun (r : QReply) => r.ser == ser && r.code == code && decide (r.due ≤ s.cyc.toNat)
  let known := (s.core c).qback.any mine
  match (s.core c).qsent.find? (fun q => q.ser == ser) with
  | none => if known then some (s.updCore c (fun k => { k with qback := dropFirst mine k.qback })) else none
  | some q =>
    if !known && qhDev q.handle == s.link.device then none
    else
      let s1 := s.updCore c (fun k => { k with qback := dropFirst mine k.qback })
      match s1.queueAnswer c ser code with
      | some s2 => some s2
      | none =>
        let asked := s.queuePage c q code
        if known then asked else some ((asked.getD s).updCore c (fun k => { k with qback := k.qback ++ [⟨s.cyc.toNat, ser, code⟩] }))

/-- R443: the retry of a siding access that failed; none before its time. In timetable mode the boundary makes it (R458). -/
def State.sidingRetry (s : State) (c n : Nat) : Option State :=
  let q := (s.core c).queue n
  if q.live && ((q.spillFail && !q.buffer.isEmpty && q.pageWait.isNone) || (q.readFail && q.readWait.isNone)) && decide (q.retryAt ≤ s.cyc.toNat) &&
      (!s.inTT q.launch || s.swappedCore c) then
    some (s.queueSettle c n true)
  else none

/-! ## The wait graph (R444) -/

/-- Whether the queue of a handle is HELD: a queue of another device when that device has said so with its edges (log 40). -/
def State.queueHeldAt (s : State) (h : Word) : Bool :=
  if qhDev h = s.link.device then
    match (s.core (qhCore h)).current h with
    | some q => q.held
    | none => false
  else (NMap.getD s.link.peerHeld (qhDev h) []).contains (qhQueue h)

/-- R444: edges of one core: from each queue whose owning frame has a train that holds at a `qenq` to a HELD queue. -/
def State.edgesOf (s : State) (c : Nat) : List (Nat × Nat) :=
  (s.core c).queues.flatMap (fun q =>
    if !q.2.live then []
    else
      let node := qhQueue (s.queueHandle c q.1 q.2)
      (s.core c).trains.flatMap (fun t =>
        if t.hold ≠ some .queue then []
        else
          match t.next? with
          | some i =>
            match decodeWord i.cls i.word with
            | .ok (.qenq ..) =>
              (t.seats.filter (fun x => tagHandle (s.tagOf c x.inst) == q.2.owner)).filterMap (fun x =>
                let h := t.slot x.n t.pc .l
                if s.queueHeldAt h then some (node, qhQueue h) else none)
            | _ => []
          | none => []))

/-- Cycles through a node all of whose other nodes are greater, in n steps or fewer from the end of a path that began at it: each as the list of its nodes
from the least on. -/
def cyclesFrom (es : List (Nat × Nat)) (start : Nat) : List Nat → Nat → Nat → List (List Nat)
  | _, _, 0 => []
  | path, at', n + 1 =>
    (dedup ((es.filter (fun e => e.1 == at')).map (·.2))).flatMap (fun x =>
      if x = start then [path]
      else if x < start ∨ path.contains x = true then []
      else cyclesFrom es start (path ++ [x]) x n)

/-- The cycles of a graph. -/
def graphCycles (es : List (Nat × Nat)) : List (List Nat) :=
  let nodes := dedup (es.map (·.1))
  nodes.flatMap (fun x => cyclesFrom es x [x] x nodes.length)

/-- The edges of this device. -/
def State.waitEdges (s : State) : List (Nat × Nat) := s.cores.flatMap (fun e => if e.2.queues.isEmpty then [] else s.edgesOf e.1)

/-- Live queues of this device that satisfy a test: launch, ASID and handle. -/
def State.queuesWhere (s : State) (f : Queue → Word → Bool) : List (LaunchRef × Nat × Word) :=
  s.cores.flatMap (fun e => e.2.queues.filterMap (fun q =>
    let h := s.queueHandle e.1 q.1 q.2
    if q.2.live && f q.2 h then some (q.2.launch, q.2.oasid, h) else none))

/-- R444: one record to each owning launch on a cycle. -/
def State.cycleRecords (s : State) (ns : List Nat) : State :=
  let qs := s.queuesWhere (fun _ h => ns.contains (qhQueue h))
  (dedup (qs.map (·.1))).foldl (fun (st : State) r =>
    match qs.find? (fun q => q.1 == r) with
    | some q => st.faultRecord { FaultInfo.plain QUEUE_CYCLE q.2.2.toNat 0 r q.2.1 2 with core := qhCore q.2.2 }
    | none => st) s

/-- R444: what this device sends of the wait graph: its number with the count of its HELD queues, those queues, and its edges (log 40). -/
def State.edgesOut (s : State) : List (Nat × Nat) :=
  let held := (s.queuesWhere (fun q _ => q.held)).map (fun q => (qhQueue q.2.2, 0))
  (s.link.device, held.length) :: held ++ s.waitEdges

/-- R444: one scan: a cycle found by two scans running is reported once for as long as it lasts. The device's edges go to the other devices of its
domain. -/
def State.cycleScan (s : State) : State :=
  let now := graphCycles (s.waitEdges ++ s.link.edges.flatMap (·.2))
  let fresh := now.filter (fun n => s.link.onCycle.contains n && !s.link.reported.contains n)
  let s1 := fresh.foldl (fun (st : State) n => st.cycleRecords n) s
  let s2 := { s1 with link := { s1.link with onCycle := now, reported := s.link.reported.filter (fun n => now.contains n) ++ fresh } }
  let out := s.edgesOut
  (s.link.members.filter (fun d => d != s.link.device)).foldl (fun (st : State) d => st.emit (.edges d out)) s2

/-- R444: the scan of each millisecond; none before its time. -/
def State.cycleScanDue (s : State) : Option State :=
  if s.cyc.toNat < s.link.scanAt then none
  else
    let s1 := s.cycleScan
    some { s1 with link := { s1.link with scanAt := s.link.scanAt + 1050000 } }

/-- R444: what another device has sent of the wait graph, in place of what it sent before; none from a device that is not of the domain. -/
def State.edgesArrive (s : State) (es : List (Nat × Nat)) : Option State :=
  match es with
  | [] => none
  | (dev, n) :: rest =>
    if dev = s.link.device ∨ s.link.members.contains dev = false then none
    else some { s with link := { s.link with peerHeld := NMap.set s.link.peerHeld dev ((rest.take n).map (·.1)),
                                             edges := NMap.set s.link.edges dev (rest.drop n) } }

/-! ## Memory requests of peers (R433) -/

/-- Bytes a request touches. -/
def reqSize : PeerReq → Nat
  | .read n => n
  | .write bs _ => bs.length
  | .mxRead n _ => n
  | .mxWrite bs _ _ _ => bs.length
  | .rmw _ n _ _ _ => n
  | .futRead .. | .futWrite _ => 8

/-- The scale byte that a request for an MX block touches too (R127). -/
def reqScale : PeerReq → Option Nat
  | .mxRead _ sp | .mxWrite _ sp _ _ => some sp
  | _ => none

/-- Whether a request reads memory. -/
def reqReads : PeerReq → Bool
  | .write .. | .mxWrite .. | .futWrite _ => false
  | _ => true

/-- Response codes besides fault codes: an empty future word, and the wake-up of a parked instance. -/
def rspEmpty : Nat := 1
def rspWake : Nat := 2

/-- R433: a memory request from a device of the domain, performed here, with its response. -/
def State.peerRequest (s : State) (dev id pa : Nat) (q : PeerReq) : Option State :=
  if dev = s.link.device ∨ s.link.members.contains dev = false then none
  else
    let answer := fun (st : State) (code : Nat) (data : List Byte) => some (st.emit (.response dev id code data))
    let n := reqSize q
    let sp := reqScale q
    if !physOk pa n || sp.any (fun a => !physOk a 1) then answer s ACCESS_VIOLATION []
    else if reqReads q && (granuleBad s.bad pa n || sp.any (fun a => granuleBad s.bad a 1)) then answer s DATA_UNCORRECTABLE []
    else
      match q with
      | .read k => answer s 0 (s.mem.read pa k)
      | .write bs lane => answer (if lane then { s with mem := s.mem.write pa bs } else s.pathWrite pa bs) 0 []
      | .mxRead k a => answer s 0 (s.mem.read pa k ++ s.mem.read a 1)
      | .mxWrite bs a x lane =>
        answer (if lane then { s with mem := (s.mem.write pa bs).write a [x] } else (s.pathWrite pa bs).pathWrite a [x]) 0 []
      | .rmw op k sgn r t =>
        let old := s.mem.readNat pa k
        answer { s with mem := s.mem.writeNat pa k (rmwNew op (8 * k) sgn old r.toNat t.toNat) } 0 (leBytes k old)
      | .futRead take trap tag =>
        if s.futFull pa then answer (if take then s.futClear pa else s) 0 (s.mem.read pa 8)
        else if trap then answer s rspEmpty []
        else answer { s with link := { s.link with parked := s.link.parked ++ [(dev, pa, tag)] } } rspEmpty []
      | .futWrite (some v) => answer (s.futFill pa v) 0 []
      | .futWrite none => answer (s.futClear pa) 0 []

/-- The physical address that stands for a word of a peer in the waiter table. -/
def peerWord (peer pa : Nat) : Nat := 2 ^ 64 * (peer + 1) + pa

/-- The values a response delivers: to one target, or 128 bits to two (R214). -/
def rspVals (targets : List Nat) (v : Nat) : List (Nat × Word) := targets.mapIdx (fun i g => (g, BitVec.ofNat 64 (v / 2 ^ (64 * i))))

/-- The value a response brings to a seat. -/
def RemoteReq.value (q : RemoteReq) (data : List Byte) : Nat :=
  match q.kind with
  | .read sgn => if q.size = 16 then ofLE data else (extend sgn q.size (ofLE data)).toNat
  | .rmw _ sgn _ _ => (extend sgn q.size (ofLE data)).toNat
  | _ => ofLE (data.take 8)

/-- The fault of an access at a peer: the seat faults at its instruction when it is still there, else the launch takes the record.
The fill of a completion word writes its record to the partition's fault queue (R245). -/
def State.peerFault (s : State) (q : RemoteReq) (code : Nat) : State :=
  if q.seat = 1024 then s.partFaultRecord (FaultInfo.plain code 0 q.va q.launch (s.launchAsid q.launch) 4)
  else match s.seatAt q.core q.train q.seat with
  | some (t, x) =>
    let r := s.takeFault q.core t x code 0 0 q.va q.instr
    (r.1.putTrain q.core r.2).failOp q.core q.opId
  | none =>
    (s.faultNow { FaultInfo.plain code 0 q.va q.launch (s.launchAsid q.launch) 0 with core := q.core, instr := q.instr }).failOp q.core q.opId

/-- The fault of an engine operation's access at a peer, or of the descriptor that a `qmake` waits for. -/
def State.unitFault (s : State) (q : RemoteReq) (code : Nat) : State :=
  let f := fun (o : Option (Nat × Nat)) => some (o.getD (code, q.va))
  let u := q.seat
  if u < 8192 then s.updEng q.core (fun e => { e with copies := e.copies.map (fun x => if x.slot + 4096 == u then { x with fault := f x.fault } else x) })
  else if u < 12288 then
    let p := s.pair (pairOf q.core)
    s.setPair (pairOf q.core) { p with ctxs := p.ctxs.map (fun x =>
      if x.1 + 8192 == u then
        (x.1, { x.2 with queue := match x.2.queue with | [] => [] | m :: ms => { m with fault := f m.fault } :: ms })
      else x) }
  else
    s.updCore q.core (fun k => { k with trains := k.trains.map (fun t =>
      if t.number + 20480 == u then { t with failed := t.failed ++ [(q.va / 8192, code)] } else t) })

/-- Whether a request is an engine's. -/
def RemoteReq.ofEngine (q : RemoteReq) : Bool :=
  match q.kind with
  | .engRead | .engMx .. | .engWrite _ | .engMxWrite .. | .engPart .. => true
  | _ => false

/-- What an answered request for a block leaves to be done (R127, log 15): the whole block has come, its part here has an uncorrectable error, or the
other part is asked for at another peer. -/
inductive BlockEnd where
  | whole (data scale : List Byte)
  | bad
  | next (q : RemoteReq) (data : List Byte)

/-- R127, R222: a peer has answered a request for a block of n data bytes: what lies here is read now, what lies at another peer is asked for. -/
def State.blockGot (s : State) (q : RemoteReq) (n : Nat) (rest : MxRest) (data : List Byte) : BlockEnd :=
  match rest with
  | .both _ => .whole (data.take n) (data.drop n)
  | .scaleHere sp => if granuleBad s.bad sp 1 then .bad else .whole data (s.mem.read sp 1)
  | .scaleAt p sp => .next { q with peer := p, pa := sp, size := 1 } data
  | .dataHere pa k => if granuleBad s.bad pa k then .bad else .whole (s.mem.read pa k) data
  | .after bs => .whole bs data

/-- R127, R433: a peer has answered the write of one part of a block: the part here is written, or the other is asked for at its peer. -/
def State.partGot (s : State) (q : RemoteReq) (rest : MxPart) (last : List Byte → RKind) : State × Bool :=
  match rest with
  | .here pa d => (if q.ofEngine then s.pathWrite pa d else { s with mem := s.mem.write pa d }, true)
  | .there p pa d => (s.follow { q with peer := p, pa := pa, size := d.length, kind := last d }, false)
  | .last => (s, true)

/-- R433: a peer has answered a request of an engine operation. -/
def State.unitAnswer (s : State) (q : RemoteReq) (code : Nat) (data : List Byte) : State :=
  let s1 := s.updEng q.core (fun e => { e with rpend := e.rpend.filter (fun x => x.2 != q.id) })
  let got := fun (bs : List Byte) => s1.updEng q.core (fun e => { e with rdata := e.rdata ++ [⟨q.seat, q.peer, q.pa, bs⟩] })
  let put := fun (st : State) =>
    if 4096 ≤ q.seat ∧ q.seat < 8192 then st.copyAnswered q.core (q.seat - 4096) q.id code q.va
    else if code ≠ 0 then st.unitFault q code
    else st
  match q.kind with
  | .engRead => if code ≠ 0 then s1.unitFault q code else got data
  | .engMx n rest =>
    if code ≠ 0 then s1.unitFault q code
    else
      match s.blockGot q n rest data with
      | .whole d x => got (d ++ x)
      | .bad => s1.unitFault q DATA_UNCORRECTABLE
      | .next q' d => s.follow { q' with kind := .engMx n (.after d) }
  | .engPart _ rest =>
    if code ≠ 0 then put s1
    else
      match s.partGot q rest (fun d => .engPart d .last) with
      | (st, false) => st
      | (st, true) => put (st.updEng q.core (fun e => { e with rpend := e.rpend.filter (fun x => x.2 != q.id) }))
  | _ => put s1

/-- R222: the seats of a group receive their words of a block, late. -/
def State.landBlock (s : State) (q : RemoteReq) (f : Nat) (ms : List MxSeat) (data scale : List Byte) : State :=
  let ls := ms.map (fun m =>
    let v := mxSeatWord f (ofLE data) (ofLE scale) m.i
    (⟨s.cyc.toNat, q.train, m.n, m.handle, rspVals q.targets v.toNat, q.regs, v, 0, m.opId, .far⟩ : Late))
  s.updCore q.core (fun k => { k with late := k.late ++ ls })

/-- A block that could not be read at a peer: its first seat faults and the others receive zero (log 46). -/
def State.blockFault (s : State) (q : RemoteReq) (ms : List MxSeat) (code : Nat) : State :=
  let ls := (ms.drop 1).map (fun m => (⟨s.cyc.toNat, q.train, m.n, m.handle, rspVals q.targets 0, q.regs, 0, 0, m.opId, .far⟩ : Late))
  (s.peerFault q code).updCore q.core (fun k => { k with late := k.late ++ ls })

/-- R127, R222: a peer has answered a request of `ldmx`. -/
def State.blockAnswer (s : State) (q : RemoteReq) (f : Nat) (ms : List MxSeat) (rest : MxRest) (data : List Byte) : State :=
  match s.blockGot q (mxBytes f) rest data with
  | .whole d x => s.landBlock q f ms d x
  | .bad => s.blockFault q ms DATA_UNCORRECTABLE
  | .next q' d => s.follow { q' with kind := .mxRead f ms (.after d) }

/-- R433: the response to a request of this device; none when no such request has been sent. The access that sent it leaves its store queue
(R114) once the whole of it is done. -/
def State.peerResponse (s : State) (id code : Nat) (data : List Byte) : Option State :=
  match s.link.reqs.find? (fun q => q.id == id) with
  | none => none
  | some q =>
    let s0 := { s with link := { s.link with reqs := s.link.reqs.filter (fun q => q.id != id) } }
    if s.unsent q then none
    else if q.ofEngine then some (s.sendFreed (s0.unitAnswer q code data))
    else
      let s1 := if code = 0 ∨ code = rspEmpty then s0.answered q.core id else s0.notDone q.core id
      let land := fun (st : State) =>
        let v := q.value data
        let l : Late := ⟨s.cyc.toNat, q.train, q.seat, q.handle, rspVals q.targets v, q.regs, BitVec.ofNat 64 v, 0, q.opId, .far⟩
        st.updCore q.core (fun k => { k with late := k.late ++ [l] })
      some (s.sendFreed (match q.kind with
        | .write _ | .mxWrite .. | .futWrite _ => if code = 0 then s1.endOp q.core q.opId else s1.peerFault q code
        | .mxRead f ms rest =>
          if code ≠ 0 then s1.blockFault q ms code
          else (match rest with | .scaleAt .. => s0 | _ => s1).blockAnswer q f ms rest data
        | .mxPart _ rest =>
          if code ≠ 0 then s1.peerFault q code
          else
            match s0.partGot q rest (fun d => .mxPart d .last) with
            | (st, false) => st
            | (st, true) => (st.answered q.core id).endOp q.core q.opId
        | .futRead _ trap va _ =>
          if code = 0 then land s1
          else if code = rspEmpty then s1.futMiss q.core q.train q.seat (peerWord q.peer q.pa) va trap q.instr q.opId
          else s1.peerFault q code
        | _ => if code = 0 then land s1 else s1.peerFault q code))

/-- R433: the wake-up of an instance that parked on a word of a peer: the waiters of its tag on that word (R178). -/
def State.peerWake (s : State) (dev pa : Nat) (tag : Word) : Option State :=
  let c := tagCore tag
  let mine := fun (w : Waiter) =>
    w.pa == peerWord dev pa && w.inst.handle == tagFrame tag && w.inst.idx == tagIdx tag && w.inst.asid == tagAsid tag
  if !(s.core c).waiters.any mine then none
  else
    let tt := match s.partOfCluster (clusterOf c) with | some p => (s.part p).tt.isSome | none => false
    some (s.updCore c (fun k =>
      let k1 := { k with waiters := k.waiters.map (fun w => if mine w then { w with woken := true } else w) }
      if tt || s.swappedCore c then k1 else k1.wakeAll))

/-! ## Routes and notices (R21, R428) -/

/-- R428: the route to a device changes; packets that waited for it go. -/
def State.routeChange (s : State) (dev : Nat) (up : Bool) (ports hops : Nat) : State :=
  { s with link := { s.link with routes := NMap.set s.link.routes dev ⟨portMask ports, hops, up⟩ }.flush }

/-- R21, R448: a discard notice from another device: the record goes to the sender's fault queue. 256 added to the code marks the notice of a frame
(log 22). -/
def State.discardNotice (s : State) (p id code : Nat) (tag src : Word) (dest : Nat) : State :=
  s.discardFor s.link.device ⟨p, (s.part p).keyOf id⟩ (tagAsid tag) (code % 256) tag dest src (code / 256 == 1)

/-- R166, R447: the acknowledgement of a token sent to another device, or of a frame that has been delivered there; none when no such operation is
outstanding. -/
def State.sendAck (s : State) (c op : Nat) : Option State :=
  match (s.core c).builders.find? (fun b => b.2.flying && b.2.flyOp == op && op != 0) with
  | some b => some (s.setBuilder c b.1 { b.2 with flying := false, flyOp := 0 })
  | none => if (s.core c).outst.any (fun o => o.id == op && o.wbit == 23) then some (s.endOp c op) else none

end Sys2Proof.Machine
end

