-- ==== Sys2Proof/Machine/EvOps.lean ====
section
/-!
DEFINITION. When an engine may take its next step: in the states of its partition (R286, R287, R299, R355, R376, R390, R425, R426), and in
timetable mode at the boundary (R295).
-/
namespace Sys2Proof.Machine

/-- How far the engines of a partition work. -/
inductive EngMode where
  | run        -- everything goes on
  | drain      -- a pre-emption: work in flight comes to its end (R287)
  | halting    -- a halt (R299)
  | stop
deriving DecidableEq, Repr

/-- R295, R286, R299: the mode of a partition. In timetable mode engines work in boundary step 3. -/
def Partition.engMode (p : Partition) : EngMode :=
  match p.state with
  | .run => if p.tt.isSome && p.bphase != 3 then .stop else .run
  | .drain => if p.tt.isSome then .stop else .drain
  | .halting => .halting
  | _ => .stop

/-- The mode of the partition that holds a cluster. -/
def State.modeAt (s : State) (cl : Nat) : EngMode :=
  match s.partOfCluster cl with
  | some p => (s.part p).engMode
  | none => .stop

/-- Whether the partition that holds a core is in timetable mode. -/
def State.ttCore (s : State) (c : Nat) : Bool :=
  match s.partOfCluster (clusterOf c) with
  | some p => (s.part p).tt.isSome
  | none => false

/-- R297, R457: whether what reaches a core from outside its partition waits for a boundary: in timetable mode, until a freeze stops the boundaries. -/
def State.ttHolds (s : State) (c : Nat) : Bool :=
  match s.partOfCluster (clusterOf c) with
  | some p => (s.part p).tt.isSome && (s.part p).ttPend != 2 && !s.swappedCore c
  | none => false

/-- Whether the partition that holds a core is in state RUN. -/
def State.runCore (s : State) (c : Nat) : Bool :=
  match s.partOfCluster (clusterOf c) with
  | some p => (s.part p).state == .run
  | none => false

/-! ## Copies (R342, R347, R353, R355) -/

/-- An ordinary request, an empty stream or a request with a fabric transform. -/
def State.copyTry (s : State) (c slot : Nat) : Option State :=
  match (s.core c).eng.copy? slot with
  | none => none
  | some q =>
    let m := s.modeAt (clusterOf c)
    if m == .stop || (m != .run && q.stream && crElems q.recd != 0 && !(s.core c).eng.midChunk q) || (!s.ttCore c && decide (s.cyc.toNat < q.due)) then none
    else if crFabv q.recd && crElems q.recd != 0 then s.copyFab c slot else s.copyComplete c slot

/-- A stream's oldest notice; at a pre-emption or halt the tile it is filling is finished first. -/
def State.noticeTry (s : State) (c slot : Nat) : Option State :=
  match (s.core c).eng.copy? slot with
  | none => none
  | some q =>
    let m := s.modeAt (clusterOf c)
    if m == .stop || (m != .run && !(s.core c).eng.midChunk q) || (!s.ttCore c && decide (s.cyc.toNat < q.due)) then none else s.streamNotice c slot

/-- R347: a writer that waits for ring space, by kind: 0 a copy request of a core, 1 a job of a cluster, 2 a queue's refusal at a core. -/
def State.ringTry (s : State) (kind unit slot : Nat) : Option State :=
  match kind with
  | 0 => if s.modeAt (clusterOf unit) == .stop then none else s.ringRetry unit slot
  | 1 =>
    if s.modeAt unit == .stop then none
    else
      match (s.fab unit).card? slot with
      | some k => if k.stage = .ring then s.jobRing unit k else none
      | none => none
  | _ =>
    match (s.core unit).qback.find? (fun r => r.ser == slot && r.code != 0 && decide (r.due ≤ s.cyc.toNat)) with
    | some r => s.queueReplied unit slot r.code
    | none => none

/-! ## Matrix pairs and bank operations (R358, R359, R372, R376, R390) -/

def State.bankTry (s : State) (c slot : Nat) : Option State :=
  match (s.core c).eng.bank? slot with
  | none => none
  | some b =>
    if s.modeAt (clusterOf c) == .stop || (!s.ttCore c && decide (s.cyc.toNat < b.due)) then none else s.bankComplete c slot

/-- R358: at most one tile step of a pair in a cycle. At a pre-emption a pair goes on while an `accrd` whose values go to carried registers is
queued (R207). -/
def State.tileTry (s : State) (p : Nat) : Option State :=
  let m := s.modeAt (clusterOf (2 * p))
  if (m != .run && !(m == .drain && s.accrdLeft p)) || (!s.ttCore (2 * p) && (s.pair p).stepCyc == some s.cyc.toNat) then none else s.tileStep p

def State.claimTry (s : State) (p i : Nat) : Option State :=
  if s.modeAt (clusterOf (2 * p)) != .run then none else s.serveClaim p i

def State.releaseTry (s : State) (p i : Nat) : Option State :=
  if s.modeAt (clusterOf (2 * p)) != .run then none else s.serveRelease p i

/-! ## The fabric (R399, R405, R410, R414, R418, R423, R425, R426) -/

/-- A card that an ordinary copy request posted: its work completes before a swap or a halt (R287). That of a stream goes on until the tile which
the stream is filling is sealed (R355). -/
def State.copyCard (s : State) (k : FCard) : Bool :=
  match s.postedBy k with
  | some q => !q.stream || (s.core k.info.core).eng.midChunk q
  | none => false

/-- The running job of a context. -/
def State.fabJobAt (s : State) (cl ctx : Nat) : Option (FCard × FCtx) :=
  ((s.fab cl).cards.find? (fun k => k.stage == .running && k.ctx == ctx)).bind (fun k => (s.jobCtx cl k).map (fun x => (k, x)))

/-- Whether sources, the arbiter and the sequencer go on for a card. -/
def State.fabStarts (s : State) (cl : Nat) (k : FCard) : Bool :=
  match s.modeAt cl with
  | .run => true
  | .stop => false
  | _ => s.copyCard k

/-- Whether units and sinks go on for a card: at a pre-emption the tokens in flight reach their sinks. -/
def State.fabFlows (s : State) (cl : Nat) (k : FCard) : Bool :=
  match s.modeAt cl with
  | .run | .drain => true
  | .halting => s.copyCard k
  | .stop => false

def State.bindTry (s : State) (cl : Nat) : Option State :=
  match (s.fab cl).waiting with
  | k :: _ =>
    if !s.fabStarts cl k || (!s.ttCore (8 * cl) && decide (s.cyc.toNat < k.due)) then none else s.cardBind cl
  | [] => none

def State.unitTry (s : State) (cl ctx u : Nat) : Option State :=
  match s.fabJobAt cl ctx with
  | some (k, x) => if s.fabFlows cl k then (x.unitFire u).map (fun y => s.setFCtx cl k.ctx y) else none
  | none => none

/-- R406: a source of a running phase. A gather goes on with the tokens in flight to it (R425). -/
def State.sourceTry (s : State) (cl ctx e : Nat) : Option State :=
  match s.fabJobAt cl ctx with
  | some (k, x) =>
    match NMap.get? x.engs e with
    | some g =>
      if g.running && (if fdKind g.desc = 9 then s.fabFlows cl k else s.fabStarts cl k) then s.sourceToken cl k x e g else none
    | none => none
  | none => none

def State.sinkTry (s : State) (cl ctx e : Nat) : Option State :=
  match s.fabJobAt cl ctx with
  | some (k, x) =>
    match NMap.get? x.engs e with
    | some g => if s.fabFlows cl k then s.sinkCommit cl k x e g else none
    | none => none
  | none => none

def State.jobTry (s : State) (cl slot : Nat) : Option State :=
  if s.modeAt cl == .stop then none
  else
    match (s.fab cl).card? slot with
    | some k => if k.stage = .ring then none else s.jobComplete cl slot
    | none => none

/-- R405: the command a context stands at. -/
def FCtx.command (x : FCtx) : Option Instr :=
  match decodeWord 15 (BitVec.ofNat 32 (x.words.getD x.pc 0)) with
  | .ok i => some i
  | .error _ => none

/-- R406: what the command at the head of a context's list does now; none while it waits. -/
def State.listGo (s : State) (cl : Nat) (k : FCard) (x : FCtx) : Option State :=
  match x.command with
  | some .scfg => s.doScfg cl k x
  | some (.sbind e) => s.doSbind cl k x e.toNat
  | some (.sgo m) => s.doSgo cl k x m.toNat
  | some (.sbar m) => s.doSbar cl k x m.toNat
  | some .sdone => s.doSdone cl k x
  | some (.sloop c t) => some (s.doSloop cl k x c.toNat t.toNat)
  | _ => none

/-- The command a context runs now, when there is one that does not wait. -/
def State.listTry (s : State) (cl ctx : Nat) : Option Instr :=
  match s.fabJobAt cl ctx with
  | some (k, x) => if s.fabStarts cl k && (s.listGo cl k x).isSome then x.command else none
  | none => none

/-! ## Frames (R447, R457, R458) -/

def State.frameTry (s : State) (c b : Nat) : Option State :=
  if s.modeAt (clusterOf c) == .stop then none else s.frameSend c b

/-- Fill timers run in state RUN, in timetable mode by TCLK. -/
def State.fillTry (s : State) (c b : Nat) : Option State := if s.runCore c then s.fillTimer c b else none

/-- R457: the first closed frame of a timetable partition behind the boundary that can be sent. -/
def State.freezeSend (s : State) (p : Nat) : Option State :=
  (s.part p).cores.findSome? (fun c => (s.core c).builders.findSome? (fun b => s.frameSend c b.1))

/-- R457: sends, entries and frames of a partition's cores that are not yet delivered, refused or diverted. -/
def State.linkLeft (s : State) (p : Nat) : Bool :=
  (s.part p).cores.any (fun c =>
    let k := s.core c
    k.builders.any (fun b => b.2.filling || b.2.closed.isSome || b.2.flying) || k.outst.any (fun o => o.wbit == 23) || !k.qsent.isEmpty ||
    k.held.any (fun h => h.cargo.sentFrom p))

/-- R298: the freeze of a timetable partition after a boundary: its open builders are closed and what it has sent is delivered (R457), and every late write
to a frame lands (R207). -/
def State.ttFreeze (s : State) (p : Nat) : Option State :=
  if (s.part p).ttPend ≠ 2 then none
  else
    (s.closeAll p).or <| (s.freezeSend p).or <|
    if s.lateWrites p || s.linkLeft p then none
    else some (((s.updPart p (fun k => { k with ttPend := 0, drainAt := s.cyc.toNat })).swapTime p).setPState p .save)

/-! ## Homes (R310, R315, R316, R350) -/

/-- R350: the updates that have reached the first barrier of a core that has any, applied. -/
def State.barTry (s : State) (c : Nat) : Option State :=
  match (s.core c).eng.barq with
  | [] => none
  | u :: _ => some (s.barUpdate c u.launch u.off)

/-- R310, R284: the first partition of a core whose queue's head can be granted its tiles; the `talloc` retires. In timetable mode a `talloc` is served when the
rotation tries its train (R294). -/
def State.grantTry (s : State) (c : Nat) : Option State :=
  if s.ttCore c || (!s.runCore c && s.modeAt (clusterOf c) != .drain) then none
  else ((s.core c).eng.pool.findSome? (fun p => if p.queue.isEmpty then none else s.tallocGrant c p.launch p.part)).map (fun st => st.countEvt c 3 1)

/-- R315, R316: whether a seal's or a free's wait is over: for the writes registered before the seal, for every write registered on a tile that is
to be freed. -/
def CoreEngines.sealGoes (e : CoreEngines) (w : SealWait) : Bool :=
  if w.free then
    match poolTile e.pool w.key with
    | some t => t.gen != w.gen || t.state != TState.unsealed || t.pend.isEmpty
    | none => true
  else w.waitFor.isEmpty

/-- R315, R316: the first seal, or free, of a core whose registered writes have been performed. -/
def State.sealTry (s : State) (c : Nat) (free : Bool) : Option State :=
  let go := fun (w : SealWait) => w.free == free && (s.core c).eng.sealGoes w
  match (s.core c).eng.seals.find? go with
  | none => none
  | some w =>
    let s1 := s.updEng c (fun e => { e with seals := dropFirst go e.seals })
    let s2 :=
      match poolTile (s1.core c).eng.pool w.key with
      | some t =>
        if t.gen == w.gen && t.state == TState.unsealed then
          if free then s1.updEng c (fun e => e.returnTile c w.key) else s1.updEng c (fun e => e.seal w.key)
        else s1
      | none => s1
    some ((s2.tileWake c).endOp w.core w.opId)

/-- R309: whether an access that waits at a core's tiles can be judged again: its tile has left UNSEALED or has another generation. -/
def Core.tileStirs (k : Core) : Bool :=
  k.eng.tileWaits.any (fun w =>
    match poolTile k.eng.pool w.key with
    | some t => t.judge w.gen .take false != .wait
    | none => true)

/-! ## Cores (R34, R53, R114, R203, R221) -/

/-- R53: the first late result of a core whose time has come lands. -/
def State.lateTry (s : State) (c : Nat) : Option State :=
  ((s.core c).late.find? (fun l => decide (l.due ≤ s.cyc.toNat))).map (fun l => s.landLate c l)

/-- R31: a train that has reached its block's end, no `futld` of it still to find its word (R187). -/
def State.endTry (s : State) (c uid : Nat) : Option State :=
  match (s.core c).train? uid with
  | some t => if t.words.isSome && t.finished && !s.undecided c uid then some (s.endTrain c uid) else none
  | none => none

/-- R34: a pending free whose frame's last instance has left. -/
def State.freeTry (s : State) (c h : Nat) : Option State :=
  if (s.core c).freeable.contains h then some (s.completeFree c h) else none

/-- R221: a write-back has been performed. -/
def State.flushTry (s : State) (c op : Nat) : Option State :=
  if (s.core c).flushes.any (fun f => f.2 == op && decide (f.1 ≤ s.cyc.toNat)) then
    some ((s.updCore c (fun k => { k with flushes := k.flushes.filter (fun f => f.2 != op) })).endOp c op)
  else none

/-- R114: the oldest store of a core drains; in timetable mode stores stay until the boundary (R296). -/
def State.drainTry (s : State) (c : Nat) : Option State :=
  if (s.core c).sq.isEmpty || s.ttCore c then none else some (s.drainOne c)

end Sys2Proof.Machine
end

