-- ==== Sys2Proof/Machine/Boundary.lean ====
section
/-!
DEFINITION. Timetable mode: the steps of a core and the superstep boundary (R263, R292 to R297, R329, R356, R377, R390, R427, R458).
-/
namespace Sys2Proof.Machine

/-! ## Steps (R293, R294) -/

/-- What the rotation makes of a resident train. -/
inductive Rot where
  | go | pass | hold
deriving DecidableEq, Repr

/-- R294, R329: whether an operation under wait bit 16 or 17 is one that the rotation does not wait for: a load from a REMOTE page, or a tile
access that waits for a seal. -/
def State.opPasses (s : State) (c op : Nat) : Bool :=
  s.opRemote c op || s.cores.any (fun e => e.2.eng.tileWaits.any (fun w => w.core == c && w.seats.any (fun x => x.opId == op)))

/-- R294: whether a train can be tried, is passed over, or holds the rotation. A train that was tried in this step and may be passed over is
passed over, and so is one of a FAULTED launch, which issues nothing (R268). -/
def State.rotation (s : State) (c : Nat) (t : Train) : Rot :=
  let k := s.core c
  let ops := k.clauseOps t
  if s.refStopped t.launch then .pass
  else if t.words.isNone || !t.waits.isEmpty then .hold
  else if !(k.pendOps t).isEmpty then (if (k.pendOps t).any k.opHolds then .hold else .pass)
  else if !ops.isEmpty then (if ops.any (fun o => decide (o.wbit ≤ 17) && !s.opPasses c o.id) then .hold else .pass)
  else if s.orderWait c t || t.heldAt = some s.cyc.toNat then .pass
  else .go

/-- The train the rotation settles on: none when every train is passed over. -/
def State.rotate (s : State) (c : Nat) : List Train → Rot × Option Train
  | [] => (.pass, none)
  | t :: ts =>
    match s.rotation c t with
    | .go => (.go, some t)
    | .hold => (.hold, some t)
    | .pass => State.rotate s c ts

/-- The resident trains from RPTR on, in ascending number, wrapping round; from the train on that holds the rotation, while one does: those ahead of
it have been passed over in this step (R230, R294). -/
def Core.inRotation (k : Core) : List Train :=
  let l := sortBy (fun (a b : Train) => decide ((a.number + 48 - k.rptr) % 48 ≤ (b.number + 48 - k.rptr) % 48)) (k.trains.filter (fun t => !t.finished))
  match k.rotHeld with
  | some u => if l.any (fun t => t.uid == u) then l.dropWhile (fun t => t.uid != u) else l
  | none => l

/-- A step has ended; with `num` an instruction of that train has retired, and `idle` marks an idle step. -/
def State.endStep (s : State) (c p : Nat) (num : Option Nat) (idle : Bool) : State :=
  s.updCore c (fun k =>
    let tclk := if num.isSome || idle then k.tclk + 1 else k.tclk
    { k with tclk := tclk, rotHeld := none, rptr := match num with | some n => (n + 1) % 48 | none => k.rptr, stepped := s.cyc.toNat + 1, turn := none,
             ssDone := decide ((s.part p).ssEnd ≤ tclk) })

/-- A train holds the rotation: the step ends for this cycle, and goes on with that train (R230, R294). -/
def State.holdStep (s : State) (c p uid : Nat) : State := (s.endStep c p none false).updCore c (fun k => { k with rotHeld := some uid })

/-- R293 steps 1 and 2, taken once for each TCLK: the tokens of the clock, and one departure. -/
def State.ttEnter (s : State) (c : Nat) : State :=
  if (s.core c).entered = some (s.core c).tclk then s
  else
    let s0 := s.updCore c (fun k => { k with entered := some k.tclk })
    let s1 := (s0.arriveDue c true true).arriveDue c true false
    let s2 := (s1.updCore c (fun k => k.startBatch k.tclk)).settle c true
    let s3 := (s2.expireTimers c true).getD s2
    (s3.departNext c).getD s3

/-- R293: a step of a timetable core up to the instruction it issues, which is then granted its turn; none when the core has none to take. -/
def State.ttStep (s : State) (c : Nat) : Option State :=
  match s.partOfCluster (clusterOf c) with
  | none => none
  | some p =>
    let k := s.part p
    let q := s.core c
    if k.tt.isNone || k.state != .run || k.bphase != 0 || k.ttPend == 2 || k.ttPend == 4 || q.ssDone || q.turn.isSome || q.stepped == s.cyc.toNat + 1 then none
    else
      let s4 := s.ttEnter c
      match s4.rotate c (s4.core c).inRotation with
      | (.go, some t) => some (s4.updCore c (fun k => { k with turn := some t.uid }))
      | (.hold, some t) => some (s4.holdStep c p t.uid)
      | _ => some (s4.endStep c p none true)

/-- R293, R294: what the turn of a train comes to: its instruction has retired, or it waits and holds the rotation or is passed over. -/
def State.ttAfter (s : State) (c uid pc number : Nat) : State :=
  match s.partOfCluster (clusterOf c) with
  | none => s
  | some p =>
    let done := s.endStep c p (some number) false
    match (s.core c).train? uid with
    | none => done
    | some t =>
      if t.finished || t.pc != pc || t.heldAt != some s.cyc.toNat then done
      else
        let holds :=
          match t.hold with
          | some .walk | some .page | some .fetch | some .pending | some .lent => true
          | some .paths => ((s.core c).pathOps t).any (fun o => (s.core c).opHolds o || (s.core c).flushes.any (fun f => f.2 == o))
          | some .carryEmpty | some .source => ((s.core c).pendOps t).any (s.core c).opHolds
          | _ => false
        if holds then s.holdStep c p uid else s.updCore c (fun k => { k with turn := none })

/-! ## The boundary: memory and tokens (R295 steps 1 and 2, R297, R458) -/

/-- Every barrier update that has reached a core, applied. -/
def State.applyBars (s : State) (c : Nat) : Nat → State
  | 0 => s
  | n + 1 =>
    match s.barTry c with
    | some s1 => State.applyBars s1 c n
    | none => s

def State.applyAllBars (s : State) (cs : List Nat) : State := cs.foldl (fun st c => st.applyBars c (st.core c).eng.barq.length) s

/-- R296: accesses that the cores of the partition made to their own windows were performed at issue, ahead of what other cores do to them in
step 1. -/
def State.ownWindows (s : State) (cs : List Nat) : State :=
  cs.foldl (fun st c =>
    let own := fun (e : SQEntry) => match e.op with | .win k .. | .barSet k .. => k == c | _ => false
    ((st.core c).sq.filter own).foldl (fun u e => u.perform c e) (st.updCore c (fun k => { k with sq := k.sq.filter (fun e => !own e) }))) s

/-- Step 1: what the cores of the partition have buffered, in ascending core and issue order, as far as no peer is awaited; none when one is. -/
def State.boundaryMem (s : State) (cs : List Nat) : Option State :=
  match cs.find? (fun c => !(s.core c).sq.isEmpty) with
  | none => none
  | some c => if (s.core c).sq.any (fun e => e.sent.isSome) then none else some (s.drainN c (s.core c).sq.length)

/-- R295 step 2: the wake-ups of one `futst`. -/
def State.wakeWord (s : State) (cs : List Nat) (pa : Nat) : State :=
  let mine := fun (w : Waiter) => w.woken && w.pa == pa
  cs.foldl (fun st c => st.updCore c (fun k =>
    (k.waiters.filter mine).foldl (fun kk w => kk.makeReady w.inst false) { k with waiters := k.waiters.filter (fun w => !mine w) })) s

/-- One packet of a core at the boundary: within the partition it is delivered, against credit of its context (R437); elsewhere it goes by the ordinary path.
A command finds the instances seated that tokens ahead of it have made ready. -/
def State.deliverOne (s : State) (cs : List Nat) (c b : Nat) (cargo : Cargo) (opId : Nat) : State :=
  if cs.contains b then
    s.charge c b cargo opId (fun st ctx => (if cargo.isTok then st else st.settle b true).deliverFlight b ⟨0, none, cargo, opId, c, ctx, false⟩)
  else (s.post c b false cargo opId).draw.2

/-- What one core sent in the superstep, behind what has waited there for credit, delivered in issue order. -/
def State.deliverSends (s : State) (cs : List Nat) (c : Nat) : State :=
  let k := s.core c
  let own := k.held.filter (fun p => p.dev == s.link.device)
  let s1 := own.foldl (fun st p => st.deliverOne cs c p.core p.cargo p.opId)
    (s.updCore c (fun k => { k with sends := [], held := k.held.filter (fun p => p.dev != s.link.device) }))
  k.sends.foldl (fun st x =>
    match x.2.cargo with
    | .wake pa => st.wakeWord cs pa
    | cargo =>
      let far := tagDevice cargo.tag
      if far != st.link.device && cargo.far then st.postRemote c far cargo x.2.opId else st.deliverOne cs c x.1 cargo x.2.opId) s1

/-- R356: the tokens that copy requests of one core have sent in step 3, by ascending slot and then k. -/
def State.deliverCopies (s : State) (cs : List Nat) (c : Nat) : State :=
  let le := fun (a b : Nat × Nat × Token) => decide (a.1 < b.1 ∨ (a.1 = b.1 ∧ a.2.1 ≤ b.2.1))
  (sortBy le (s.core c).csends).foldl (fun st x =>
    let home := tagCore x.2.2.tag
    if tagDevice x.2.2.tag == st.link.device && cs.contains home then st.deliverFlight home ⟨0, none, .tok x.2.2, 0, c, none, false⟩
    else (st.sendCargo c false x.2.2.tag (.tok x.2.2) 0).draw.2) (s.updCore c (fun k => { k with csends := [] }))

/-- R458: the entries one core sent in the superstep. -/
def State.deliverEntries (s : State) (cs : List Nat) (c : Nat) : State :=
  let l := (s.core c).qhold
  l.foldl (fun st x =>
    if cs.contains x.1 then st.queueArrive x.1 x.2.handle x.2.entry
    else st.updCore x.1 (fun k => { k with qin := k.qin ++ [{ x.2 with due := st.cyc.toNat }] }))
    (s.updCore c (fun k => { k with qhold := [] }))

/-- R297: what has come from outside the partition, and the replies to its own entries. -/
def State.boundaryOutside (s : State) (c : Nat) : State :=
  let s1 := s.arriveSome c (fun f => f.dev.isSome)
  let s2 := (s1.queueDue c).getD s1
  let s3 := (s2.framesDue c).getD s2
  ((s3.core c).qback).foldl (fun st r => (st.queueReplied c r.ser r.code).getD st)
    (s3.updCore c (fun k => { k with qback := k.qback.map (fun r => { r with due := 0 }) }))

/-- Step 2, and what R297 lets in after it; woken instances that no `futst` of the superstep has woken come from outside. -/
def State.boundaryTokens (s : State) (cs : List Nat) : State :=
  let s1 := cs.foldl (fun st c => st.deliverSends cs c) s
  let s2 := cs.foldl (fun st c => st.deliverEntries cs c) (cs.foldl (fun st c => st.queueBoundary c) s1)
  let s3 := cs.foldl (fun st c => st.updCore c (fun k => k.wakeAll)) s2
  cs.foldl (fun st c => st.boundaryOutside c) s3

/-- R356: the notices that stand as step 3 begins. -/
def State.ripenNotices (s : State) (cs : List Nat) : State :=
  cs.foldl (fun st c => st.updEng c (fun e => { e with copies := e.copies.map (fun q => { q with ripe := q.notices.length }) })) s

/-! ## The boundary: engines (R295 step 3) -/

/-- The pairs of a partition's cores. -/
def Partition.pairs (p : Partition) : List Nat := (p.cores.filter (fun c => c % 2 == 0)).map pairOf

/-- Steps of the copy engines of a core that may be possible, in ascending slot (R356). -/
def State.copyEvents (s : State) (c : Nat) : List Act :=
  (sortBy (fun (a b : CopyReq) => decide (a.slot ≤ b.slot)) (s.core c).eng.copies).flatMap (fun q =>
    if q.reporting ≠ 0 then [.ringSpaceRetry 0 c q.slot]
    else if q.stream && !crFabv q.recd && crElems q.recd != 0 then [.freedSlotNotice c q.slot]
    else [.copyCompletion c q.slot])

/-- A list up to and with its first element that satisfies a test. -/
def upTo {α : Type} (p : α → Bool) : List α → List α
  | [] => []
  | x :: xs => if p x then [x] else x :: upTo p xs

/-- R356: steps of the copy engines of some cores at a boundary, in ascending core and slot; behind a request that a page or a peer holds none is
taken. -/
def State.copyOrder (s : State) (cs : List Nat) : List Act :=
  let held := fun (i : Act) =>
    match i with
    | .copyCompletion c n | .freedSlotNotice c n =>
      (match (s.core c).eng.copy? n with | some q => !q.free (s.core c).eng | none => false)
    | _ => false
  upTo held (cs.flatMap s.copyEvents)

/-- Steps of a matrix pair. -/
def mtxEvents (p : Nat) : List Act := [.mctxRelease p 0, .mctxRelease p 1, .mctxClaim p 0, .mctxClaim p 1, .mtxTileStep p]

/-- Steps of the bank engine of a core, in ascending slot. -/
def State.bankEvents (s : State) (c : Nat) : List Act :=
  (sortBy (fun (a b : BankOp) => decide (a.slot ≤ b.slot)) (s.core c).eng.banks).map (fun b => .bankOperationComplete c b.slot)

/-- R390: steps of the bank engines of some cores at a boundary, in ascending core and slot; behind an operation that a page holds none is taken. -/
def State.bankOrder (s : State) (cs : List Nat) : List Act :=
  let held := fun (i : Act) =>
    match i with
    | .bankOperationComplete c n => (match (s.core c).eng.bank? n with | some b => b.pageWait.isSome | none => false)
    | _ => false
  upTo held (cs.flatMap s.bankEvents)

/-- Steps of a cluster's fabric for some of its cards. -/
def State.fabEvents (s : State) (cl : Nat) (mine : FCard → Bool) : List Act :=
  let f := (s.cluster cl).fab
  if f.cards.isEmpty then []
  else
    (f.cards.filter mine).flatMap (fun k =>
      match k.stage with
      | .ended | .done => [.fabJobComplete cl k.slot]
      | .ring => [.ringSpaceRetry 1 cl k.slot]
      | .running =>
        match f.ctx? k.ctx with
        | some x =>
          x.engs.map (fun e => .fabSinkCommit cl k.ctx e.1) ++
          (List.range x.units.length).map (fun u => .fabUnitFire cl k.ctx u) ++
          x.engs.map (fun e => .fabSourceToken cl k.ctx e.1)
        | none => []
      | .waiting => []) ++ (if f.waiting.head?.any mine then [.fabCardBind cl] else [])

/-- Closed frames of a core, by builder. -/
def State.frameEvents (s : State) (c : Nat) : List Act :=
  (sortBy (fun (a b : Nat × Builder) => decide (a.1 ≤ b.1)) ((s.core c).builders.filter (fun b => b.2.closed.isSome))).map (fun b =>
    .frameSend c b.1)

/-- A step of an engine; none when it cannot be taken now. -/
def State.engineTry (s : State) (i : Act) : Option State :=
  match i with
  | .copyCompletion c n => s.copyTry c n
  | .freedSlotNotice c n => s.noticeTry c n
  | .ringSpaceRetry k u n => s.ringTry k u n
  | .mctxRelease p x => s.releaseTry p x
  | .mctxClaim p x => s.claimTry p x
  | .mtxTileStep p => s.tileTry p
  | .bankOperationComplete c n => s.bankTry c n
  | .fabCardBind cl => s.bindTry cl
  | .fabSinkCommit cl x e => s.sinkTry cl x e
  | .fabUnitFire cl x u => s.unitTry cl x u
  | .fabSourceToken cl x e => s.sourceTry cl x e
  | .fabJobComplete cl n => s.jobTry cl n
  | .frameSend c b => s.frameTry c b
  | _ => none

/-- The first of some steps that can be taken. -/
def State.firstOf (s : State) (l : List Act) : Option Act := l.find? (fun i => (s.engineTry i).isSome)

/-- The first context of some clusters, running one of some cards, whose next command satisfies a test and does not wait, with the command. -/
def State.listWhere (s : State) (f : Instr → Bool) (cls : List Nat) (mine : FCard → Bool) : Option (Nat × Nat × Instr) :=
  cls.findSome? (fun cl => (s.cluster cl).fab.ctxs.findSome? (fun x =>
    if (s.fabJobAt cl x.1).any (fun j => mine j.1) then ((s.listTry cl x.1).filter f).map (fun i => (cl, x.1, i)) else none))

def State.listNext (s : State) (cls : List Nat) (mine : FCard → Bool) : Option (Nat × Nat × Instr) := s.listWhere (fun _ => true) cls mine

/-- An `sbind`. -/
def isSbind (i : Instr) : Bool := match i with | .sbind _ => true | _ => false

/-- R377: the first matrix command of the superstep, in ascending core and issue order. Each runs to completion: while one waits for a page or a peer
no other is taken, and while one waits for the seal of an operand's tile none of its context (log 88). -/
def State.boundaryMtx (s : State) (cs : List Nat) : Option State :=
  let ctxs := cs.flatMap (fun c => (s.pair (pairOf c)).ctxs.map (·.2))
  let sealed := fun (x : MCtx) => match x.queue with | m :: _ => !s.cmdSeals x m | [] => false
  if ctxs.any sealed then none
  else
    cs.findSome? (fun c =>
      match (s.core c).eng.mq.find? (fun m => (s.mctx c m.ctx).queue.isEmpty) with
      | some m => some ((s.updEng c (fun e => { e with mq := dropFirst (· == m) e.mq })).boundaryCmd c m)
      | none => none)

/-- R427: the first fabric request of the superstep that can be performed. -/
def State.boundaryFab (s : State) (cs : List Nat) : Option State :=
  cs.findSome? (fun c => (s.core c).eng.fq.findSome? (fun q => s.fabAsk c q))

/-- The boundary waits for pages and peers that engine work holds at (R295: engine operations run to completion). -/
def State.boundaryHeld (s : State) (p : Nat) : Bool :=
  let k := s.part p
  k.cores.any (fun c =>
    let e := (s.core c).eng
    e.copies.any (fun q => q.pageWait.isSome) || e.banks.any (fun b => b.pageWait.isSome) || !e.rpend.isEmpty ||
    e.fq.any (fun q => !q.pages.isEmpty)) ||
  k.pairs.any (fun i => (s.pair i).ctxs.any (fun x => x.2.queue.any (fun m => m.pageWait.isSome))) ||
  k.clusters.any (fun cl => (s.cluster cl).fab.cards.any (fun j => !j.pages.isEmpty) ||
    (s.cluster cl).fab.ctxs.any (fun x => !x.2.pages.isEmpty))

/-! ## The boundary: the launch engine (R263, R295 steps 4 and 5) -/

/-- A step repeated while it can be taken, at most n times. -/
def State.repeatTry (f : State → Option State) : Nat → State → State
  | 0, s => s
  | n + 1, s =>
    match f s with
    | some s1 => State.repeatTry f n s1
    | none => s

/-- What the held effects of the superstep leave for steps 1 and 3 of R263: counters that fire, and records for the yards of dies. -/
structure Held where
  s : State
  fires : List Firing
  packs : List (Nat × YPack)

/-- One held effect of the superstep, of core c: a `launch` queues its record, a counter is updated. -/
def Held.effect (h : Held) (p c : Nat) (e : LEff) : Held :=
  match e with
  | .fire f => { h with s := h.s.fireTry f }
  | .ctr pa op r asid =>
    let x := h.s.ctrUpdate pa op r (dieOf c) asid true
    { h with s := x.1, fires := h.fires ++ x.2.toList }
  | .pack q => { h with packs := h.packs ++ [(dieOf c, q)] }
  | .sslen v => { h with s := h.s.updPart p (fun k => { k with ssLen := v }) }

/-- The SCHED effects of the superstep, in ascending core and issue order. -/
def State.launchEffects (s : State) (p : Nat) (cs : List Nat) : Held :=
  cs.foldl (fun (h : Held) c =>
    ((h.s.core c).lhold).foldl (fun (x : Held) e => x.effect p c e) { h with s := h.s.updCore c (fun k => { k with lhold := [] }) }) ⟨s, [], []⟩

/-- Teams of a yard that have just been formed take their places in the order of formation. -/
def State.orderTeams (s : State) (p die num : Nat) : State :=
  match (s.die die).yards.find? (fun y => y.num == num) with
  | none => s
  | some y =>
    let n := (s.part p).teamSeq
    let new := (y.formed.filter (fun t => t.order == 0)).length
    let old := y.formed.length - new
    let formed := ((List.range y.formed.length).zip y.formed).map (fun t => if t.1 < old then t.2 else { t.2 with order := n + 1 + t.1 - old })
    (s.updYard die num (fun y => { y with formed := formed })).updPart p (fun k => { k with teamSeq := n + new })

/-- What has arrived at a yard is seated (R263 step 3). -/
def State.seatYard (s : State) (p die num : Nat) : State := ((s.yardArrive die num true).getD s).orderTeams p die num

/-- The records of one `nrec` reach their yard and are seated. -/
def State.seatPack (s : State) (p die : Nat) (q : YPack) : State :=
  match s.yard? die q.launch q.node with
  | none => s
  | some y => (s.sendPack die q).seatYard p die y.num

/-- Yards of a partition's launches: die and number. -/
def State.yardsOf (s : State) (p : Nat) : List (Nat × Nat) :=
  s.dies.flatMap (fun d => (d.2.yards.filter (fun y => y.launch.part == p)).map (fun y => (d.1, y.num)))

/-- R263 step 5: the formed team that was formed first. -/
def State.firstTeam (s : State) (p : Nat) (skip : List (Nat × Nat)) : Option (Nat × Nat) :=
  let ts := s.dies.flatMap (fun d => d.2.yards.filterMap (fun y =>
    if y.launch.part == p && !skip.contains (d.1, y.num) then y.formed.head?.map (fun t => (t.order, d.1, y.num)) else none))
  (minBy (fun (a b : Nat × Nat × Nat) => decide (a.1 ≤ b.1)) ts).map (·.2)

/-- Teams placed in order of formation; a yard whose first team cannot be placed waits. -/
def State.placeTeams (s : State) (p : Nat) (skip : List (Nat × Nat)) : Nat → State
  | 0 => s
  | n + 1 =>
    match s.firstTeam p skip with
    | none => s
    | some (d, y) =>
      match s.teamPlace d y with
      | some s1 => State.placeTeams s1 p skip n
      | none => State.placeTeams s p ((d, y) :: skip) n

/-- R315, R316, R329: the seals and frees of some cores whose registered writes have been performed. -/
def State.sealAll (s : State) (cs : List Nat) : State :=
  cs.foldl (fun st c =>
    let n := (st.core c).eng.seals.length
    State.repeatTry (fun u => (u.sealTry c false).or (u.sealTry c true)) n st) s

/-- R263: the launch engine at the boundary. Queue heads are admitted, 64 at most, and the grid words of the admitted are read before yard arrivals
are seated (log 47). -/
def State.boundaryLaunch (s : State) (p : Nat) (cs : List Nat) : State :=
  let ids := (s.part p).launches.map (·.1)
  let s0 := ids.foldl (fun st id => (st.autoEnd p id).getD st) s
  let s1 := ids.foldl (fun st id => State.repeatTry (fun u => u.complete p id) 16384 st) s0
  let e := (s1.retryFirings p).launchEffects p cs
  let s2 := e.fires.foldl (fun st f => st.fireTry f) e.s
  let s3 := State.repeatTry (fun u => u.launchAdmit p) 64 s2
  let s4 := ((s3.part p).launches.map (·.1)).foldl (fun st id => (st.gridRead p id).getD st) s3
  let waiting := (s4.yardsOf p).foldl (fun st y => st.seatYard p y.1 y.2) s4
  let s5 := e.packs.foldl (fun st q => st.seatPack p q.1 q.2) waiting
  let s6 := (s5.yardsOf p).foldl (fun st y => ((st.yardTimer y.1 y.2).getD st).orderTeams p y.1 y.2) s5
  let s7 := ((s6.part p).placingOrder).foldl (fun st id => (st.tryPlace p id).getD st) s6
  s7.placeTeams p [] 65536

/-- R295 step 5, R280, R292, R329: the next superstep begins, or timetable mode ends with its last launch. -/
def State.boundaryNext (s : State) (p : Nat) (cs : List Nat) : State :=
  let s1 := s.updPart p (fun k =>
    { k with ssCount := k.ssCount + 1, ssEnd := k.ssEnd + k.ssLen, bphase := 0,
             tt := if k.ttLive then k.tt else none, ttPend := if k.ttPend = 0 then 0 else k.ttPend + 1 })
  (cs.foldl (fun st c => st.updCore c (fun k => { k with ssDone := false, eng := { k.eng with poolSnap := k.eng.pool } })) s1).cycleScan

/-- R295: one part of the boundary of a partition: steps 1 and 2, one request of step 3, or steps 4 and 5; none while it must wait. -/
def State.boundary (s : State) (p : Nat) : Option State :=
  let k := s.part p
  let cs := k.cores
  if k.tt.isNone || k.state != .run then none
  else
    match k.bphase with
    | 0 => if cs.all (fun c => (s.core c).ssDone) then some ((s.ownWindows cs).updPart p (fun k => { k with bphase := 1 })) else none
    | 1 =>
      if cs.any (fun c => !(s.core c).sq.isEmpty) then s.boundaryMem cs
      else if s.link.reqs.any (fun r => r.launch.part == p) then none
      else some ((((s.applyAllBars cs).boundaryTokens cs).ripenNotices cs).updPart p (fun k => { k with bphase := 3 }))
    | _ =>
      match s.boundaryMtx cs with
      | some s1 => some s1
      | none =>
        match s.boundaryFab cs with
        | some s1 => some s1
        | none =>
          let evs := s.copyOrder cs ++ k.pairs.flatMap mtxEvents ++ s.bankOrder cs ++ k.clusters.flatMap (fun cl => s.fabEvents cl (fun _ => true)) ++
            cs.flatMap s.frameEvents
          if (s.firstOf evs).isSome || (s.listNext k.clusters (fun _ => true)).isSome || s.boundaryHeld p then none
          else
            let s0 := cs.foldl (fun st c => (st.deliverCopies cs c).deliverSends cs c) s
            let s1 := (s0.applyAllBars cs).sealAll cs
            some ((s1.boundaryLaunch p cs).boundaryNext p cs)

end Sys2Proof.Machine
end

