-- ==== Sys2Proof/Machine/EvFire.lean ====
section
/-!
DEFINITION. The events of the firing engine and the carry unit: arrivals, departures, ends of trains, late results, replays (R21 to R34, R160 to
R203).
-/
namespace Sys2Proof.Machine

/-- The outcome of an event: it happens, or its cause is not there. -/
def eventStep (r : Option State) : Host.Outcome State Fault Refusal :=
  match r with
  | some s => .next s
  | none => .fault .notEnabled

/-- A device of the link domain other than this one. -/
def State.isPeer (s : State) (dev : Nat) : Bool := dev != s.link.device && s.link.members.contains dev

/-- Tokens or commands sent within the device are due at a core that is not in timetable mode (R165); in timetable mode its steps and the
boundary take them (R293, R295), but from a freeze to the restore they are taken, or go to their sidings, as they come (R290, R457). -/
def State.dueTry (s : State) (c : Nat) (toks : Bool) : Option State :=
  let mine := fun (f : Flight) => decide (f.due ≤ s.cyc.toNat) && f.cargo.isTok == toks && (!s.ttCore c || f.dev.isSome)
  if s.ttHolds c then none
  else if (s.core c).flights.any mine then some (s.arriveSome c mine)
  else none

/-- A flight from a peer is due at its core in this cycle, with the others of the cycle (R26, R167); in timetable mode it waits for the boundary
(R297). A token travels only against credit that this device has granted (R432). -/
def State.peerFlight (s : State) (c dev : Nat) (cargo : Cargo) (opId : Nat) : Option State :=
  if !s.isPeer dev || decide (1280 ≤ c) then none
  else
    let paid : Option (State × Option LaunchRef) :=
      match cargo with
      | .tok t => s.chargePeer c 1 dev t.src t.tag
      | _ => some (s, none)
    paid.map (fun x => x.1.updCore c (fun k => { k with flights := k.flights ++ [⟨s.cyc.toNat, some dev, cargo, opId, c, x.2, false⟩] }))

/-- R25, R165, R430: TOKEN_ARRIVAL: the tokens of this device due at a core, or what a flit of a peer carries, a token or a `depart.t`. -/
def execTokenArrival (core dev flit : Nat) (s : State) : Host.Outcome State Fault Refusal :=
  eventStep (if dev = s.link.device ∧ flit = 0 then s.dueTry core true
    else
      match flitCargo flit with
      | some cargo => if tagCore cargo.tag = core then s.peerFlight core dev cargo 0 else none
      | none => none)

/-- R185: DEPART_COMMAND_ARRIVAL: the commands of this device due at a core, or one from a peer, with the tag of its sending seat. -/
def execDepartCommandArrival (core dev idx : Nat) (tag src : Word) (s : State) : Host.Outcome State Fault Refusal :=
  eventStep (if dev = s.link.device then s.dueTry core false
    else if tagCore tag = core then s.peerFlight core dev (.depart idx tag src ⟨0, 0⟩) 0
    else none)

/-- R21: DISCARD_NOTICE: a peer has discarded a packet of a launch here. -/
def execDiscardNotice (part id code dest : Nat) (tag src : Word) (s : State) : Host.Outcome State Fault Refusal :=
  eventStep (if part < 16 then some (s.discardNotice part id code tag src dest) else none)

/-- R166: SEND_ACK: a peer has accepted, put aside or discarded a token. -/
def execSendAck (core op : Nat) (s : State) : Host.Outcome State Fault Refusal := eventStep (s.sendAck core op)

/-- R28: DEPARTURE_TIMER_EXPIRY: platforms whose timers have expired become eligible; timers stop outside RUN (R286, R299). -/
def execDepartureTimerExpiry (core : Nat) (s : State) : Host.Outcome State Fault Refusal :=
  eventStep (if s.runCore core && !s.ttCore core then s.expireTimers core false else none)

/-- R29: a departure, at most one in a cycle of a core; none outside RUN (R286, R299). In timetable mode a step makes it (R293). -/
def State.departTry (s : State) (c : Nat) : Option State :=
  if !s.runCore c || s.ttCore c || (s.core c).departCyc == some s.cyc.toNat then none else s.departNext c

/-- R29: TRAIN_DEPARTURE. -/
def execTrainDeparture (core : Nat) (s : State) : Host.Outcome State Fault Refusal := eventStep (s.departTry core)

/-- R31: TRAIN_END. -/
def execTrainEnd (core uid : Nat) (s : State) : Host.Outcome State Fault Refusal := eventStep (s.endTry core uid)

/-- R53: LATE_VALUE_LANDS. -/
def execLateValueLands (core : Nat) (s : State) : Host.Outcome State Fault Refusal := eventStep (s.lateTry core)

/-- R203: RECIPE_REPLAY. -/
def execRecipeReplay (core : Nat) (s : State) : Host.Outcome State Fault Refusal := eventStep (s.replayWait core)

/-- R34: FREE_COMPLETION. -/
def execFreeCompletion (core handle : Nat) (s : State) : Host.Outcome State Fault Refusal := eventStep (s.freeTry core handle)

/-- R160: COMPACTION. -/
def execCompaction (core order : Nat) (s : State) : Host.Outcome State Fault Refusal := eventStep (s.compactTry core order)

end Sys2Proof.Machine
end

