-- ==== Sys2Proof/Machine/Objects.lean ====
section
/-!
DEFINITION. The objects that the management window shows of a SWAPPED or HALTED partition (R302, R472). Each is a list of bytes: the records
that a rule lays out stand as it gives them; where a row holds several things, or the spec lays a thing out nowhere, the order is the
model's (log 50).
-/
namespace Sys2Proof.Machine

/-- n zero bytes. -/
def zeros (n : Nat) : List Byte := List.replicate n 0#8

/-- A list of bytes made n long. -/
def padTo (n : Nat) (l : List Byte) : List Byte := l.take n ++ zeros (n - l.length)

/-! ## Layouts that a rule gives -/

/-- R18: the 64-byte frame header. -/
def Frame.header (f : Frame) : Nat :=
  f.parentTag.toNat + f.order % 16 * 2 ^ 64 + f.trapDest % 4096 * 2 ^ 68 + b2n f.trapValid * 2 ^ 80 + f.binds.length % 32 * 2 ^ 83 +
  f.carryCount % 256 * 2 ^ 88 + f.gen % 65536 * 2 ^ 96 + f.stage % 8 * 2 ^ 112 + b2n f.parentValid * 2 ^ 115 +
  f.parentDest % 4096 * 2 ^ 116 + f.modeNow.toNat * 2 ^ 128 + f.prog % 2 ^ 57 * 2 ^ 192 + f.launch.id % 65536 * 2 ^ 256

/-- R201: a binding's entry. -/
def Binding.entry (b : Binding) : Nat :=
  b.rcp % 256 * 2 ^ 32 + b.reg % 128 * 2 ^ 18 + b2n b.dropped * 2 ^ 16 + b.mode.toNat % 256

/-- R168: a platform's 32-byte record. It has one however many fills of its key wait, and shows the oldest of them (log 7). -/
def Platform.record (p : Platform) : Nat :=
  match p.fills with
  | [] => 0
  | x :: _ =>
    2 ^ 96 + b2n x.forced * 2 ^ 97 + b2n x.elig * 2 ^ 98 + p.timer % 8 * 2 ^ 99 + p.dcount % 4 * 2 ^ 102 + x.seats.length % 64 * 2 ^ 104 +
    p.block % 65536 * 2 ^ 110 + p.asid % 512 * 2 ^ 126 + p.prog % 2 ^ 57 * 2 ^ 135 + x.first % 2 ^ 32 * 2 ^ 192 +
    packAt 1 (fun i => match x.seats[i]? with | some y => b2n y.yielded | none => 0) 32 * 2 ^ 224

/-- R168: an entry of a seat list: handle and index at their places of a tag. -/
def State.seatWord (s : State) (c : Nat) (i : Inst) : Nat := (s.tagOf c i).toNat % 2 ^ 55

/-- R361: a matrix context's 24-byte record. -/
def State.mctxRecord (s : State) (x : MCtx) : Nat :=
  b2n x.nan * 2 ^ 47 + b2n x.inf * 2 ^ 48 + b2n x.sat * 2 ^ 49 + b2n x.disc * 2 ^ 50 +
  b2n (s.parked x) * 2 ^ 51 + x.queue.length % 8 * 2 ^ 57 +
  x.chunkp % 16 * 2 ^ 60 + x.rowp % 256 * 2 ^ 64 + x.code % 256 * 2 ^ 72 + x.ops % 65536 * 2 ^ 80 +
  (match x.owner with
   | some (c, h) => 2 ^ 96 + tagHandle (mkTag 0 s.link.device c h 0) * 2 ^ 97
   | none => 0) + x.faddr % 2 ^ 57 * 2 ^ 128

/-- R399: a graph context's 32-byte record, of the card it runs. -/
def FCtx.record (x : FCtx) (k : FCard) : Nat :=
  1 + x.slot % 128 * 2 ^ 64 + x.orow % 16 * 2 ^ 80 + x.ocol % 16 * 2 ^ 84 + x.fh % 16 * 2 ^ 88 + x.fw % 16 * 2 ^ 92 + b2n x.replay * 2 ^ 99 +
  (if k.stage != .running then 3 else if x.stopped then 2 else if x.engs.any (fun e => e.2.running) then 1 else 0) * 2 ^ 100 +
  x.pc % 1024 * 2 ^ 102 + x.iter % 256 * 2 ^ 112 + (match x.left with | some l => l.2 % 256 | none => 255) * 2 ^ 120 +
  k.element % 2 ^ 32 * 2 ^ 128 + k.reason % 256 * 2 ^ 160 + k.code % 256 * 2 ^ 168 +
  packAt 1 (fun i => b2n (x.phys.contains i)) 16 * 2 ^ 176 + k.faddr % 2 ^ 57 * 2 ^ 199

/-- R255: a yard's 16-byte record. -/
def State.yardRecord (s : State) (y : Yard) : Nat :=
  let nodeRec := ((s.launch? y.launch).bind (fun l => l.nodes[y.node]?)).getD 0
  1 + recCoal nodeRec % 2048 * 2 ^ 20 + recNTimer nodeRec % 8 * 2 ^ 31 + y.forming.words % 64 * 2 ^ 34 +
  y.forming.fill % 2048 * 2 ^ 40 + y.forming.first % 2 ^ 32 * 2 ^ 64 + y.formed.length % 256 * 2 ^ 96 + y.node % 64 * 2 ^ 106 +
  y.launch.id % 65536 * 2 ^ 112

/-- R441: a queue's 16-byte state. -/
def Queue.record (q : Queue) : Nat :=
  (q.resident.filter (fun e => e.resv.isSome)).length % 512 + q.open' % 4 * 2 ^ 10 + q.caplog % 16 * 2 ^ 12 + q.slog % 16 * 2 ^ 16 +
  b2n q.held * 2 ^ 20 + b2n q.spillFail * 2 ^ 21 + b2n q.live * 2 ^ 22 + q.owner % 2 ^ 31 * 2 ^ 23 + q.oasid % 512 * 2 ^ 54 +
  q.resident.length % 512 * 2 ^ 63 + q.scount % 2 ^ 24 * 2 ^ 72 + q.qseq % 65536 * 2 ^ 96 + q.gen % 65536 * 2 ^ 112

/-- R232: the number of a launch state in the order of its table; QUEUED is 0 and COMPLETED 6. -/
def LState.code : LState → Nat
  | .check => 1 | .gridwait => 2 | .placing => 3 | .running => 4 | .completing => 5 | .faulted => 7

/-! ## The rows of R302 -/

/-- The header, the carried file, the FULL bits and the bindings of a frame. -/
def Frame.image (f : Frame) : List Byte :=
  leBytes 64 f.header ++ (List.range f.carryCount).flatMap (fun g => leBytes 8 (f.reg g).toNat) ++
  leBytes 16 (packAt 1 (fun g => b2n (decide (g < f.carryCount) && f.full g)) 128) ++ f.binds.flatMap (fun b => leBytes 8 b.entry)

/-- R161: an entry of the matching store: its key as a tag, program, block and state, then its tokens in slot order. -/
def State.entryImage (s : State) (c : Nat) (e : MEntry) : List Byte :=
  let st := match e.state with | .filling => 1 | .ready => 2 | .held => 3
  leBytes 8 (s.tagOf c e.inst).toNat ++ leBytes 8 e.inst.prog ++ leBytes 8 e.inst.block ++
  leBytes 8 (st + e.inst.num * 2 ^ 8) ++ e.inst.toks.flatMap (fun t => leBytes 8 t.1 ++ leBytes 48 t.2.image)

/-- A platform's record and its seat list of 32 entries, of the same fill. -/
def State.platImage (s : State) (c : Nat) (p : Platform) : List Byte :=
  let seats := match p.fills with | [] => [] | x :: _ => x.seats
  leBytes 32 p.record ++ (List.range 32).flatMap (fun i => leBytes 8 (match seats[i]? with | some x => s.seatWord c x | none => 0))

/-- R54: the written slots of a train's block, by cell number: target bytes in ascending order of instruction and slot. -/
def Train.cells (t : Train) : List Nat := writtenSlots (t.words.getD [])

/-- Where a train's cells stand in its image: from byte 1024 on, or behind a longer list of seats. -/
def Train.cellsFrom (t : Train) : Nat := Nat.max 1024 (roundUp (32 + 16 * t.seats.length) 1024)

/-- The keys of a train's cells in the order of its image: those of one seat together. -/
def Train.cellKeys (t : Train) : List Nat := t.seats.flatMap (fun x => t.cells.map (fun a => x.n * 256 + a))

/-- A train: program, block, next instruction, seats with their numbers, then its cells. -/
def State.trainImage (s : State) (c : Nat) (t : Train) : List Byte :=
  let head := leBytes 8 t.prog ++ leBytes 8 t.block ++ leBytes 8 t.pc ++ leBytes 8 t.seats.length ++
    t.seats.flatMap (fun x => leBytes 8 x.n ++ leBytes 8 (s.tagOf c x.inst).toNat)
  padTo t.cellsFrom head ++ t.cellKeys.flatMap (fun a => leBytes 8 (NMap.getD t.slots a 0).toNat)

/-- R178: a waiter: the parked instance's tag, program and block, and the word's physical address. -/
def State.waiterImage (s : State) (c : Nat) (w : Waiter) : List Byte :=
  leBytes 8 (s.tagOf c w.inst).toNat ++ leBytes 8 w.inst.prog ++ leBytes 8 w.inst.block ++ leBytes 8 w.pa

/-- R304: the state words of a partition's tiles, then their bytes. -/
def TilePart.image (p : TilePart) : List Byte :=
  p.tiles.flatMap (fun t => leBytes 16 t.stateWord) ++ p.tiles.flatMap (fun t => t.mem.read 0 (tileBytes p.tsize))

/-- The physical address of the descriptor of the ring that a request reports to (R345). -/
def State.ringPlace (s : State) (q : CopyReq) : Option Nat :=
  if crRingv q.recd then (match s.ringAt q.info.launch (crRingk q.recd) [] with | .ok pa _ _ => some pa | _ => none) else none

/-- A copy request: its record, id word, elements and bytes done, chunks sealed, its barrier, the descriptor of its ring, and its unhandled notices
(R355). -/
def State.copyImage (s : State) (c : Nat) (q : CopyReq) : List Byte :=
  let bar := if crBarv q.recd then
      match (s.core (spCore q.info.core (crBar q.recd))).windows.find? (fun w => w.launch == q.info.launch) with
      | some w => w.mem.read (spOffset (crBar q.recd)) 16
      | none => []
    else []
  leBytes 256 q.recd ++ leBytes 8 (idWord c q.seq q.slot).toNat ++ leBytes 8 q.pos ++ leBytes 8 q.bytes ++ leBytes 8 q.chunk ++
  padTo 16 bar ++ padTo 16 (match s.ringPlace q with | some a => s.mem.read a 16 | none => []) ++ q.notices.flatMap (fun n => leBytes 8 n.toNat)

/-- Rows of an accumulator tile, 128 FP32 patterns each. -/
def MCtx.tileImage (x : MCtx) (tile : Nat) : List Byte :=
  (List.range 128).flatMap (fun r =>
    let row := NMap.getD x.rows (128 * tile + r) []
    (List.range 128).flatMap (fun j => leBytes 4 (row.getD j 0)))

/-- A graph context n (R399, R425): its record, the address of its image, each binding with its position and commits, and the units with their token
counts, accumulators and delay lines, whose tokens carry the label at which they came (R393). -/
def FCtx.image (x : FCtx) (n : Nat) (k : FCard) : List Byte :=
  leBytes 32 (x.record k) ++ leBytes 8 x.imgAt ++
  x.engs.flatMap (fun e => leBytes 64 e.2.desc ++ leBytes 8 e.1 ++ leBytes 8 e.2.pos ++ leBytes 8 (e.2.total + e.2.commit)) ++
  x.units.flatMap (fun u => leBytes 32 u.entry ++ leBytes 8 u.emitted ++ leBytes 8 u.folded ++ (List.range 16).flatMap (fun i => leBytes 4 (u.acc.getD i 0)) ++
    u.line.flatMap (fun t => leBytes 80 (t.image n (fuLabel u.entry 0))))

/-- A yard's record, the forming team's 32 mask words, and one slot number for each of its seats. -/
def State.yardImage (s : State) (y : Yard) : List Byte :=
  leBytes 16 (s.yardRecord y) ++
  (List.range 32).flatMap (fun w => leBytes 4 (packAt 1 (fun i => b2n (y.forming.seats.any (fun x => x.n == 32 * w + i))) 32)) ++
  (sortBy (fun (a b : TSeat) => decide (a.n ≤ b.n)) y.forming.seats).flatMap (fun x => leBytes 2 x.slot)

/-- A launch: its state, ASID and first code, and its record as copied. -/
def Launch.image (l : Launch) : List Byte :=
  leBytes 8 l.state.code ++ leBytes 8 l.asid ++ leBytes 8 l.code ++ leBytes 256 l.record.toNat

/-- A queue: its state, its resident entries, and the pointers of its siding. -/
def Queue.image (q : Queue) : List Byte :=
  leBytes 16 q.record ++ q.resident.flatMap (fun e => leBytes 8 e.metaWord.toNat ++ leBytes 8 e.data.toNat) ++
  leBytes 8 q.sbase ++ leBytes 8 q.shead ++ leBytes 8 q.scount

/-- The numbers of the partition registers (R274, R435). -/
def sregNumbers : List Nat := List.range 10 ++ (List.range 26).map (fun i => 0x8000 + i)

/-- R274, R293: a core's clock, counters and rotation pointer, then the registers of its partition in ascending number. -/
def State.clocksImage (s : State) (p c : Nat) : List Byte :=
  let k := s.core c
  leBytes 8 k.tclk ++ (List.range 4).flatMap (fun i => leBytes 8 (NMap.getD k.evt i 0).toNat) ++ leBytes 8 k.rptr ++
  sregNumbers.flatMap (fun n => leBytes 8 (s.sregValue p c n).toNat)

/-- What a row, a first and a second selector name (R471, R472). -/
inductive ObjSel where
  | none                      -- nothing
  | away                      -- an object whose partition is neither SWAPPED nor HALTED
  | found (part : Nat) (bytes : List Byte)
deriving DecidableEq, Repr

/-- An object of a cluster, when its partition shows its state. -/
def State.objOf (s : State) (cl : Nat) (bytes : Nat → List Byte) : ObjSel :=
  if 160 ≤ cl then .none
  else
    match s.partOfCluster cl with
    | none => .away
    | some p => if (s.part p).state = .swapped ∨ (s.part p).state = .halted then .found p (bytes p) else .away

/-- The element of a list at a place, when its number lies below a limit. -/
def nthObj {α : Type} (l : List α) (n : Nat) (f : α → List Byte) : List Byte := match l[n]? with | some x => f x | none => []

/-- R302: the object that a row names. An entry that is not in use has no bytes, and reads zero. -/
def State.object (s : State) (row a b : Nat) : ObjSel :=
  let cl := clusterOf a
  let k := s.core a
  match row with
  | 0 => if 4096 ≤ b then .none else s.objOf cl (fun _ => if (s.frame a b).alloc then (s.frame a b).image else [])
  | 1 => if 8192 ≤ b then .none else s.objOf cl (fun _ => nthObj k.entries b (s.entryImage a))
  | 2 => if 64 ≤ b then .none else s.objOf cl (fun _ => match NMap.get? k.plats b with | some p => s.platImage a p | none => [])
  | 3 =>
    let bytes := match (k.trains ++ k.taken).find? (fun t => t.number == b % 64) with | some t => s.trainImage a t | none => []
    if 48 ≤ b % 64 then .none else s.objOf cl (fun _ => bytes.drop (65536 * (b / 64)))
  | 4 => if 1024 ≤ b then .none else s.objOf cl (fun _ => nthObj k.waiters b (s.waiterImage a))
  | 5 =>
    let mine := k.eng.pool.find? (fun q => q.part == b % 8 && (b / 8 == 0 || q.launch.id % 65536 == b / 8))
    s.objOf cl (fun _ => match mine with | some q => q.image | none => [])
  | 6 => if 512 ≤ b then .none else s.objOf cl (fun _ => match k.eng.copy? b with | some q => s.copyImage a q | none => [])
  | 7 =>
    let x := NMap.get? (s.pair a).ctxs (b % 16)
    if 2 ≤ b % 16 ∨ 2 < b / 16 then .none
    else s.objOf (clusterOf (2 * a)) (fun _ =>
      match x with
      | some x => if b / 16 = 0 then leBytes 24 (s.mctxRecord x) else if x.owner.isSome then x.tileImage (b / 16 - 1) else []
      | none => [])
  | 8 =>
    if 16 ≤ b then .none
    else s.objOf a (fun _ =>
      match NMap.get? (s.cluster a).fab.ctxs b with
      | some x => (match (s.cluster a).fab.card? x.slot with | some j => x.image b j | none => [])
      | none => leBytes 32 (255 * 2 ^ 120))
  | 9 =>
    if a = 0xFFFF then
      match s.launch? ⟨b / 65536, (s.part (b / 65536)).keyOf (b % 65536)⟩ with
      | none => .none
      | some l =>
        let st := (s.part (b / 65536)).state
        if st = .swapped ∨ st = .halted then .found (b / 65536) l.image else .away
    else if 4 ≤ a ∨ 256 ≤ b then .none
    else
      match (s.die a).yards.find? (fun y => y.num == b) with
      | none =>
        match s.parts.find? (fun p => (p.2.state == .swapped || p.2.state == .halted) && p.2.cores.any (fun c => dieOf c == a)) with
        | some p => .found p.1 []
        | none => .away
      | some y =>
        let st := (s.part y.launch.part).state
        if st = .swapped ∨ st = .halted then .found y.launch.part (s.yardImage y) else .away
  | 10 => if 64 ≤ b then .none else s.objOf cl (fun _ => (match NMap.get? k.queues b with | some q => q.image | none => []))
  | 11 => s.objOf cl (fun p => s.clocksImage p a)
  | _ => .none

/-! ## Writes (R300) -/

/-- The bytes of a list at an offset changed. -/
def patchBytes (l : List Byte) (off : Nat) (data : List Byte) : List Byte := l.take off ++ data ++ l.drop (off + data.length)

/-- The 8-byte words of an image that a write touches, by number, as it leaves them. -/
def wordsWritten (img : List Byte) (off : Nat) (data : List Byte) : List (Nat × Word) :=
  let new := patchBytes img off data
  let ws := (List.range (data.length / 8 + 2)).map (fun i => off / 8 + i)
  (ws.filter (fun i => decide (8 * i < off + data.length))).map (fun i => (i, BitVec.ofNat 64 (ofLE ((new.drop (8 * i)).take 8))))

/-- A replay that a write through the window needs, its pages walked as they are met; none when it fails. -/
def State.windowPrep (s : State) (c h g : Nat) : Nat → Option (State × Frame × Nat)
  | 0 => none
  | n + 1 =>
    match s.prepWrite c h [] (s.frame c h) g false with
    | .ok f r => some (s, f, r)
    | .fault _ | .busy => none
    | .miss va =>
      match s.walk (s.frame c h).asid va with
      | .leaf base size e => (s.updCore c (fun k => { k with tlb := tlbAdd k.tlb 64 ⟨(s.frame c h).asid, base, size, e⟩ })).windowPrep c h g n
      | _ => none

/-- R204: a carried register written through the window; none when it is refused, which includes a slot lent to the matching store that is not
free yet (log 50). -/
def State.windowReg (s : State) (c h g : Nat) (v : Word) : Option State :=
  match s.windowPrep c h g 64 with
  | some (s1, f, n) => some ((s1.setPrepared c h f n).writeReg c h g v)
  | none => none

/-- R85, R300: a frame's MODE written through the window; none when it would hold a value that MODE never holds. -/
def State.windowMode (s : State) (c h : Nat) (v : Word) : Option State :=
  let m := modeFields v
  if modeRMOk m && modeSATPOk m then some (s.updFrame c h (fun f => { f with mode := m, modeNext := none, raised := 0 })) else none

/-- One 8-byte word of a frame's image: MODE, the handler and carried registers are written, the rest is left. -/
def State.frameWord (s : State) (c h i : Nat) (v : Word) : Option State :=
  let f := s.frame c h
  if i = 2 then s.windowMode c h v
  else if i = 1 then some (s.setFrame c h { f with trapValid := bit v 16, trapDest := bits v 15 4 })
  else if 8 ≤ i ∧ i < 8 + f.carryCount then s.windowReg c h (i - 8) v
  else some s

/-- R300: bytes written to a frame's image, word by word; none when one of them is refused. -/
def State.frameWrite (s : State) (c h off : Nat) (data : List Byte) : Option State :=
  (wordsWritten (s.frame c h).image off data).foldl (fun (st : Option State) w => st.bind (fun st => st.frameWord c h w.1 w.2)) (some s)

/-- R300: bytes written to a train's image: its cells, each a slot of one seat, are written, and the rest is left. -/
def State.trainWrite (s : State) (c : Nat) (t : Train) (off : Nat) (data : List Byte) : State :=
  let cells := (wordsWritten (s.trainImage c t) off data).filterMap (fun w =>
    if 8 * w.1 < t.cellsFrom then none else (t.cellKeys[w.1 - t.cellsFrom / 8]?).map (fun a => (a, w.2)))
  s.updCore c (fun k => k.setTrain { t with slots := cells.foldl (fun m x => NMap.put m x.1 x.2 0) t.slots })

/-- R300, R304: bytes written to the tiles of a partition, which follow their state words; those are RO. -/
def State.tilesWrite (s : State) (c : Nat) (p : TilePart) (off : Nat) (data : List Byte) : State :=
  let first := 16 * p.tiles.length
  let size := tileBytes p.tsize
  ((List.range data.length).zip data).foldl (fun (st : State) b =>
    let at' := off + b.1 - first
    if off + b.1 < first ∨ p.tiles.length ≤ at' / size then st else st.tileWrite c ⟨p.launch, p.part, at' / size⟩ (at' % size) [b.2]) s

/-- A row of an accumulator tile with one pattern changed. -/
def MCtx.setElem (x : MCtx) (tile r j v : Nat) : MCtx :=
  let row := NMap.getD x.rows (128 * tile + r) (List.replicate 128 0)
  { x with rows := NMap.set x.rows (128 * tile + r) (row.set j v) }

/-- R300: 4-byte patterns written to an accumulator tile. -/
def MCtx.tileWrite (x : MCtx) (tile off : Nat) (data : List Byte) : MCtx :=
  (List.range (data.length / 4)).foldl (fun (y : MCtx) i =>
    let n := off / 4 + i
    if 16384 ≤ n then y else y.setElem tile (n / 128) (n % 128) (ofLE ((data.drop (4 * i)).take 4))) x

/-- R300, R345: bytes written to a copy request's object: the descriptor of its ring is memory; its other fields are RO. -/
def State.copyWrite (s : State) (c : Nat) (q : CopyReq) (off : Nat) (data : List Byte) : State :=
  match s.ringPlace q with
  | none => s
  | some a =>
    let new := patchBytes (s.copyImage c q) off data
    { s with mem := s.mem.write a ((new.drop 304).take 16) }

/-- R300: bytes written to a core's clocks, counters and registers: the counters and what the registers' access codes allow (R274). -/
def State.countersWrite (s : State) (c p off : Nat) (data : List Byte) : State :=
  (wordsWritten (s.clocksImage p c) off data).foldl (fun (st : State) w =>
    if 1 ≤ w.1 ∧ w.1 ≤ 4 then st.updCore c (fun k => { k with evt := NMap.put k.evt (w.1 - 1) w.2 0 })
    else if w.1 < 6 then st
    else match sregNumbers[w.1 - 6]? with | some n => st.hostReg p c n w.2 | none => st) s

/-- R300: a write to an object of a HALTED partition; none when it is refused. Rows all of whose fields are RO take no write. -/
def State.objectWrite (s : State) (row a b off : Nat) (data : List Byte) : Option State :=
  match row with
  | 0 => if (s.frame a b).alloc then s.frameWrite a b off data else some s
  | 3 =>
    match (s.core a).trains.find? (fun t => t.number == b % 64) with
    | some t => some (s.trainWrite a t (off + 65536 * (b / 64)) data)
    | none => some s
  | 5 =>
    match (s.core a).eng.pool.find? (fun q => q.part == b % 8 && (b / 8 == 0 || q.launch.id % 65536 == b / 8)) with
    | some q => some (s.tilesWrite a q off data)
    | none => some s
  | 6 =>
    match (s.core a).eng.copy? b with
    | some q => some (s.copyWrite a q off data)
    | none => some s
  | 7 =>
    let p := s.pair a
    match NMap.get? p.ctxs (b % 16) with
    | some x =>
      if b / 16 = 0 ∨ x.owner.isNone then some s
      else some (s.setPair a { p with ctxs := NMap.set p.ctxs (b % 16) (x.tileWrite (b / 16 - 1) off data) })
    | none => some s
  | 11 =>
    match s.partOfCluster (clusterOf a) with
    | some p => some (s.countersWrite a p off data)
    | none => some s
  | _ => some s

end Sys2Proof.Machine
end

