-- ==== Sys2Proof/Machine/HostOps.lean ====
section
/-!
DEFINITION. The host interface: configuration space, window 0 and the management window (R459 to R473).
-/
namespace Sys2Proof.Machine

/-! ## Endpoint and MSI-X (R459, R466, R473) -/

/-- Host state changed. -/
def State.updHost (s : State) (f : HostIf → HostIf) : State := { s with host := f s.host }

/-- What the last access of the host returned. -/
def State.setReply (s : State) (l : List Byte) : State := s.updHost (fun h => { h with reply := l })

/-- R466: a vector whose interval has ended sends one message for what came inside it. -/
def Vec.sendPending (v : Vec) (msix : Bool) (now : Nat) : Vec :=
  if v.pending && msix && v.enabled && v.busyTo.isNone then { v with pending := false, sent := v.sent + 1, busyTo := some (now + msixGap) } else v

/-- R466, R473: causes that waited for MSI-X to be enabled send their messages. -/
def State.releaseVecs (s : State) : State :=
  s.updHost (fun h => { h with vecs := h.vecs.map (fun v => (v.1, v.2.sendPending h.msix s.cyc.toNat)) })

/-- R466: the end of a vector's interval; none while none runs out. -/
def State.intervalEnd (s : State) (v : Nat) : Option State :=
  let x := NMap.getD s.host.vecs v Vec.reset
  match x.busyTo with
  | none => none
  | some t =>
    if s.cyc.toNat < t then none
    else some (s.updHost (fun h => { h with vecs := NMap.set h.vecs v (({ x with busyTo := none }).sendPending h.msix s.cyc.toNat) }))

/-- R459: a configuration request. The standard's layout stands in the spec nowhere (log 51): word 0 is the assignment of the BARs, word 1
MSI-X enable, and word 256 + v the enable of vector v. -/
def State.configRequest (s : State) (write : Bool) (off : Nat) (w : Word) : State :=
  let on := bit w 0
  if write then
    (if off = 0 then s.updHost (fun h => { h with bars := on })
     else if off = 1 then s.updHost (fun h => { h with msix := on })
     else if 256 ≤ off ∧ off < 321 then
       s.updHost (fun h => { h with vecs := NMap.set h.vecs (off - 256) { NMap.getD h.vecs (off - 256) Vec.reset with enabled := on } })
     else s).releaseVecs
  else
    let v :=
      if off = 0 then s.host.bars
      else if off = 1 then s.host.msix
      else (NMap.getD s.host.vecs (off - 256) Vec.reset).enabled && decide (256 ≤ off)
    s.setReply (leBytes 8 (b2n v))

/-- R473: configuration space, the BARs and the MSI-X table are reset; causes that wait stay pending, and intervals run on. -/
def State.endpointReset (s : State) : State :=
  s.updHost (fun h => { h with bars := false, msix := false, vecs := h.vecs.map (fun v => (v.1, { v.2 with enabled := false })) })

/-! ## Window 0 (R460 to R465) -/

/-- Accesses reach the windows: main power is up, start-up has not stopped at the boot ROM's check (R467), and the BARs are assigned. -/
def State.windowsUp (s : State) : Bool := s.ramvan.powerGood && !s.ramvan.halted && s.host.bars

/-- R459: a word written to a register of a window; an access of another size or alignment is ignored. -/
def State.regWrite (s : State) (w : HostWord) (f : State → Word → State) : State := if w.fits then f s w.word else s

/-- R462: STATUS. -/
def State.status (s : State) : Nat :=
  b2n s.host.ready + 2 * b2n s.host.recovery + 4 * b2n s.host.featErr + 8 * b2n s.host.throttle + s.link.device % 256 * 2 ^ 8

/-- R459, R461: what a read of window 0 returns: zero but for 8 bytes, naturally aligned. -/
def State.window0 (s : State) (off len : Nat) : Word :=
  if s.windowsUp = false ∨ off % 8 ≠ 0 ∨ len ≠ 8 then 0
  else if off = 0 then BitVec.ofNat 64 s.status
  else if off = 8 then Config.featOffer
  else if off = 16 then s.host.featAccept
  else if 0x1000 ≤ off ∧ off < 0x1800 then
    let p := (off - 0x1000) / 128
    let k := (off - 0x1000) % 128 / 8
    if k < 8 then (let d := NMap.getD s.host.db (16 * p + k) (0, 0); BitVec.ofNat 64 (d.2 % 65536 + d.1 % 65536 * 2 ^ 16)) else 0
  else if 0x1800 ≤ off ∧ off < 0x1880 then
    let p := s.part ((off - 0x1800) / 8)
    BitVec.ofNat 64 (p.noteHead % 65536 + p.noteTail % 65536 * 2 ^ 16)
  else 0

/-- R462: a word written to STATUS: FEATERR is cleared by 1. -/
def State.statusWrite (s : State) (w : Word) : State :=
  if s.windowsUp && bit w 2 then s.updHost (fun h => { h with featErr := false }) else s

/-- R465: a word written to FEATACCEPT: stored while no partition exists, else ignored with FEATERR. -/
def State.featWrite (s : State) (w : Word) : State :=
  if !s.windowsUp then s
  else if s.parts.all (fun p => p.2.state == .off) then s.updHost (fun h => { h with featAccept := w &&& Config.featOffer &&& 0x7FF#64 })
  else s.updHost (fun h => { h with featErr := true })

/-- R463: a word written to the doorbell of host queue k. -/
def State.doorbell (s : State) (p k : Nat) (w : Word) : State :=
  if s.windowsUp = false ∨ 16 ≤ p ∨ 8 ≤ k then s
  else
    let d := NMap.getD s.host.db (16 * p + k) (0, 0)
    let tail := bits w 15 0
    let ahead := (tail + 65536 - d.1) % 65536
    if (s.part p).state = .off ∨ ahead < (d.2 + 65536 - d.1) % 65536 ∨ 256 < ahead then s.cmdErr p
    else s.updHost (fun h => { h with db := NMap.put h.db (16 * p + k) (d.1, tail) (0, 0) })

/-- R464: a word written to the notice ring's register: NHEAD. -/
def State.noticeWrite (s : State) (p : Nat) (w : Word) : State :=
  if s.windowsUp = false ∨ 16 ≤ p then s else s.updPart p (fun k => { k with noteHead := bits w 15 0 })

/-! ## The management window (R471, R472) -/

/-- Window 1 answers once start-up is complete (R467). -/
def State.window1Up (s : State) : Bool := s.windowsUp && s.host.ready

/-- An MSTAT bit set: 0 RANGE, 1 REFUSED, 2 NOTAVAIL. -/
def State.setMstat (s : State) (i : Nat) : State := s.updHost (fun h => { h with mstat := h.mstat ||| BitVec.ofNat 64 (2 ^ i) })

/-- R471: a word written to MSTAT. -/
def State.mstatWrite (s : State) (w : Word) : State :=
  if s.window1Up then s.updHost (fun h => { h with mstat := h.mstat &&& ~~~(w &&& 7#64) }) else s

/-- The defined bits of MSEL: the reserved ones read zero and ignore writes (R6). -/
def mselFields (sel : Word) : Word := sel &&& ~~~0x7FFF#64

/-- R471: a word written to MSEL. -/
def State.mselWrite (s : State) (sel : Word) : State :=
  if s.window1Up then s.updHost (fun h => { h with msel := mselFields sel }) else s

/-- R459, R471: what a read of the registers of window 1 returns, zero but for 8 bytes: MSEL and MSTAT. MDATA is read by the access it makes (R472). -/
def State.window1 (s : State) (off len : Nat) : Word :=
  if !s.window1Up || len != 8 then 0 else if off = 0 then s.host.msel else if off = 8 then s.host.mstat else 0

/-- What an access through the window comes to. -/
inductive WinRes where
  | ok (s : State) (data : List Byte)
  | bad (bit : Nat)

/-- R471: MSEL written and an access made: a refused one writes nothing, reads zero and sets its MSTAT bit. -/
def State.winAccess (s : State) (sel : Word) (n : Nat) (f : State → WinRes) : State :=
  if !s.window1Up then s.setReply (zeros n)
  else
    let s1 := s.mselWrite sel
    match f s1 with
    | .ok s2 data => s2.setReply (padTo n data)
    | .bad i => (s1.setMstat i).setReply (zeros n)

/-- R459: naturally aligned accesses of 4 to 64 bytes within the aperture; any other is ignored and reads zero. -/
def apertureOk (off len : Nat) : Bool :=
  (len == 4 || len == 8 || len == 16 || len == 32 || len == 64) && off % len == 0 && decide (off + len ≤ 65536)

/-- An access through the aperture. -/
def State.aperture (s : State) (sel : Word) (off len : Nat) (f : State → WinRes) : State :=
  if apertureOk off len then s.winAccess sel len f else s.setReply (zeros len)

def selKind (sel : Word) : Nat := bits sel 63 60

/-- R471: HALF must be zero for every KIND but 3. -/
def selClean (sel : Word) : Bool := !bit sel 15 || selKind sel == 3

/-- R471, R472 KIND 0: physical memory. A KIND that has nothing in the aperture names nothing. -/
def State.winPhys (s : State) (sel : Word) (write : Bool) (off len : Nat) (data : List Byte) : WinRes :=
  let pa := bits sel 51 16 * 65536 + off
  if !selClean sel || selKind sel != 0 || !physOk pa len then .bad 0
  else if write then .ok (s.pathWrite pa (padTo len data)) []
  else .ok s (s.mem.read pa len)

/-- Numbers of the partition registers (R274, R435). -/
def isSreg (n : Nat) : Bool := decide (n ≤ 9) || decide (0x8000 ≤ n ∧ n ≤ 0x800E) || decide (0x8010 ≤ n ∧ n ≤ 0x8019)

/-- The registers that each core has its own of (R274): TCLK and the event counters. -/
def coreReg (n : Nat) : Bool := n == 3 || decide (6 ≤ n ∧ n ≤ 9)

/-- R471, R472 KIND 1: a partition register through MDATA; per-core ones are those of the lowest core, and name nothing in a partition without cores. A KIND
that has nothing in MDATA names nothing. -/
def State.winReg (s : State) (sel : Word) (write : Bool) (w : Word) : WinRes :=
  let p := bits sel 55 52
  let n := bits sel 31 16
  let c := ((s.part p).cores.head?).getD 0
  if !selClean sel || selKind sel != 1 || bits sel 59 56 != 0 || bits sel 51 32 != 0 || !isSreg n || (coreReg n && (s.part p).cores.isEmpty) then .bad 0
  else if write then .ok (s.hostReg p c n w) []
  else .ok s (leBytes 8 (s.sregValue p c n).toNat)

/-- R472 KIND 2: an object of R302. -/
def State.winObject (s : State) (sel : Word) (write : Bool) (off len : Nat) (data : List Byte) : WinRes :=
  let row := bits sel 59 52
  let a := bits sel 51 36
  let b := bits sel 35 16
  if !selClean sel then .bad 0
  else
    match s.object row a b with
    | .none => .bad 0
    | .away => .bad 2
    | .found p bytes =>
      if write then
        if (s.part p).state ≠ .halted then .bad 1
        else
          match s.objectWrite row a b off (padTo len data) with
          | some s1 => .ok s1 []
          | none => .bad 1
      else .ok s ((bytes.drop off).take len)

/-- R472 KIND 3: one word of the FUT view as it stands: data, then its full bit. -/
def State.futView (s : State) (pa : Nat) : List Byte := s.mem.read pa 8 ++ leBytes 8 (b2n (s.futFull pa))

/-- R472 KIND 3, R178, R179: a write to one word of the view: a fill, then a write of 0 to the full bit empties it. -/
def State.futViewWrite (s : State) (base off : Nat) (data : List Byte) (i : Nat) : State :=
  let pa := base + 8 * i
  let new := patchBytes (s.futView pa) (off - 16 * i) (data.drop (16 * i - off) |>.take (16 * i + 16 - off))
  let s1 := if off < 16 * i + 8 then s.futFill pa (BitVec.ofNat 64 (ofLE (new.take 8))) else s
  if 16 * i + 8 < off + data.length ∧ ofLE (new.drop 8) % 2 = 0 then s1.futClear pa else s1

/-- R472 KIND 3: 32 KiB of FUT words. -/
def State.winFut (s : State) (sel : Word) (write : Bool) (off len : Nat) (data : List Byte) : WinRes :=
  let base := bits sel 51 16 * 65536 + 32768 * b2n (bit sel 15)
  if !selClean sel || !physOk base 32768 then .bad 0
  else
    let ws := (List.range ((off + len + 15) / 16 - off / 16)).map (fun i => off / 16 + i)
    if write then .ok (ws.foldl (fun (st : State) i => st.futViewWrite base off (padTo len data) i) s) []
    else .ok s (((ws.flatMap (fun i => s.futView (base + 8 * i))).drop (off % 16)).take len)

/-- The defined bits of an ASID entry (R270). -/
def asidFields (v : Nat) : Nat := natBits v 0 0 + natBits v 11 8 * 2 ^ 8 + natBits v 51 13 * 2 ^ 13

/-- R270: an ASID is in use: a launch of it is live or swapped. -/
def State.asidBusy (s : State) (a : Nat) : Bool :=
  s.parts.any (fun p => p.2.launches.any (fun l => l.2.asid == a && (l.2.state.live || p.2.state.away)))

/-- R472 KIND 4: an ASID's entry. -/
def State.winAsid (s : State) (sel : Word) (write : Bool) (off len : Nat) (data : List Byte) : WinRes :=
  let a := bits sel 24 16
  let old := s.asidEntry a
  if !selClean sel || bits sel 51 25 != 0 then .bad 0
  else if write then
    if 16 ≤ off then .ok s []
    else
      let new := asidFields (ofLE (patchBytes (leBytes 16 old) off ((padTo len data).take (16 - off))))
      if asidValid old && new != old && s.asidBusy a then .bad 1 else .ok { s with asids := NMap.put s.asids a new 0 } []
  else .ok s ((leBytes 16 old).drop off)

end Sys2Proof.Machine
end

