-- ==== Sys2Proof/Machine/EvMem.lean ====
section
/-!
DEFINITION. The events of memory and translation (R114, R221 to R229, R274 to R279).
-/
namespace Sys2Proof.Machine

/-- A write of the host to a register of a partition, through window 1: ignored until it answers (R467). -/
def hostWrite (s : State) (p : Nat) (f : State → State) : Host.Outcome State Fault Refusal :=
  eventStep (if p < 16 then some (if s.window1Up then f s else s) else none)

/-- R114: STORE_DRAIN. -/
def execStoreDrain (core : Nat) (s : State) : Host.Outcome State Fault Refusal := eventStep (s.drainTry core)

/-- R221: FLUSH_COMPLETE. -/
def execFlushComplete (core op : Nat) (s : State) : Host.Outcome State Fault Refusal := eventStep (s.flushTry core op)

/-- R224, R225: TRANSLATION_WALK. -/
def execTranslationWalk (core : Nat) (s : State) : Host.Outcome State Fault Refusal := eventStep (s.walkOne core)

/-- R228: PAGE_RESPONSE: the host writes PRESP. -/
def execPageResponse (part : Nat) (w : Word) (s : State) : Host.Outcome State Fault Refusal := hostWrite s part (fun st => st.pageResponse part w)

/-- R228: PAGE_REQUEST_TIMEOUT. -/
def execPageRequestTimeout (part : Nat) (s : State) : Host.Outcome State Fault Refusal := eventStep (s.pageTimeout part)

/-- R279: TLBINV: the host writes TLBINV. -/
def execTlbinv (part : Nat) (w : Word) (s : State) : Host.Outcome State Fault Refusal := hostWrite s part (fun st => st.tlbInvWrite part w)

/-- R226: TLB_INVALIDATION_COMPLETE. -/
def execTlbInvalidationComplete (part : Nat) (s : State) : Host.Outcome State Fault Refusal := eventStep (s.tlbInvDone part)

/-- R276: PRQCTL_WRITE. -/
def execPrqctlWrite (part : Nat) (w : Word) (s : State) : Host.Outcome State Fault Refusal := hostWrite s part (fun st => st.prqCtlWrite part w)

/-- The lowest core of a partition, whose per-core registers the host reaches (R472). -/
def State.lowCore (s : State) (p : Nat) : Nat := ((s.part p).cores.head?).getD 0

/-- R274 to R276: PARTITION_REGISTER_WRITE: the host writes register n. -/
def execPartitionRegisterWrite (part n : Nat) (w : Word) (s : State) : Host.Outcome State Fault Refusal :=
  hostWrite s part (fun st => st.hostReg part (st.lowCore part) n w)

/-- R280: SSLEN_WRITE. -/
def execSslenWrite (part : Nat) (w : Word) (s : State) : Host.Outcome State Fault Refusal :=
  hostWrite s part (fun st => st.ssLenWrite part (st.lowCore part) w)

end Sys2Proof.Machine
end

