-- ==== Sys2Proof/Machine/EvLaunch.lean ====
section
/-!
DEFINITION. The events of the launch engine (R36, R233 to R268, R438, R463, R464).
-/
namespace Sys2Proof.Machine

/-- The launch engine of a partition acts of itself: in RUN, and in timetable mode at the boundary only (R263, R286, R299). -/
def State.launchGo (s : State) (p : Nat) : Bool := (s.part p).state == .run && (s.part p).tt.isNone

/-- R233, R234, R437: a queue's head enters CHECK or is checked, or a record that waits for siding credit goes on. -/
def State.admitTry (s : State) (p : Nat) : Option State :=
  if !s.launchGo p then none
  else
    match s.launchAdmit p with
    | some s1 => some s1
    | none =>
      let s1 := s.retryFirings p
      if (s1.part p).firings == (s.part p).firings then none else some s1

def State.gridTry (s : State) (p id : Nat) : Option State := if s.launchGo p then s.gridRead p id else none
def State.placeTry (s : State) (p id : Nat) : Option State := if s.launchGo p then s.tryPlace p id else none

/-- R245: a launch completes, its steps as far as they go without waiting. A partition that drains lets it (R287). -/
def State.completeTry (s : State) (p id : Nat) : Option State :=
  let k := s.part p
  if k.tt.isSome || !(k.state == .run || k.state == .drain) then none
  else (s.complete p id).map (fun s1 => State.repeatTry (fun st => st.complete p id) 16384 s1)

def State.autoEndTry (s : State) (p id : Nat) : Option State := if s.launchGo p then s.autoEnd p id else none

/-- R438: a slot replays in RUN; in timetable mode at the boundary. -/
def State.sidingTry (s : State) (p id die : Nat) : Option State :=
  let k := s.part p
  if k.state == .run && (k.tt.isNone || k.bphase == 3) then s.sidingReplay p id die else none

/-- The partition whose launch holds a yard. -/
def State.yardPart (s : State) (die yard : Nat) : Option Nat :=
  ((s.die die).yards.find? (fun y => y.num == yard)).map (fun y => y.launch.part)

/-- A step of a yard of a partition whose launch engine acts of itself. -/
def State.yardStep (s : State) (die yard : Nat) (f : State → Option State) : Option State :=
  match s.yardPart die yard with
  | some p => if s.launchGo p then f s else none
  | none => none

/-- R463: HOST_DOORBELL. -/
def execHostDoorbell (part queue : Nat) (w : HostWord) (s : State) : Host.Outcome State Fault Refusal :=
  .next (s.regWrite w (fun st v => st.doorbell part queue v))

/-- R464: NOTICE_HEAD_WRITE. -/
def execNoticeHeadWrite (part : Nat) (w : HostWord) (s : State) : Host.Outcome State Fault Refusal :=
  .next (s.regWrite w (fun st v => st.noticeWrite part v))

/-- R233, R238: LAUNCH_ADMIT. -/
def execLaunchAdmit (part : Nat) (s : State) : Host.Outcome State Fault Refusal := eventStep (s.admitTry part)

/-- R243: GRID_WORD_READ. -/
def execGridWordRead (part id : Nat) (s : State) : Host.Outcome State Fault Refusal := eventStep (s.gridTry part id)

/-- R240: LAUNCH_PLACEMENT. -/
def execLaunchPlacement (part id : Nat) (s : State) : Host.Outcome State Fault Refusal := eventStep (s.placeTry part id)

/-- R36, R243, R252: LAUNCH_STALL. -/
def execLaunchStall (part id : Nat) (s : State) : Host.Outcome State Fault Refusal := eventStep (s.stallOut part id)

/-- R245: LAUNCH_COMPLETION. -/
def execLaunchCompletion (part id : Nat) (s : State) : Host.Outcome State Fault Refusal := eventStep (s.completeTry part id)

/-- R268: FAULTED_LAUNCH_AUTOEND. -/
def execFaultedLaunchAutoend (part id : Nat) (s : State) : Host.Outcome State Fault Refusal := eventStep (s.autoEndTry part id)

/-- R438: SIDING_REPLAY. -/
def execSidingReplay (part id die : Nat) (s : State) : Host.Outcome State Fault Refusal := eventStep (s.sidingTry part id die)

/-- R254, R259: YARD_RECORD_ARRIVAL. -/
def execYardRecordArrival (die yard : Nat) (s : State) : Host.Outcome State Fault Refusal :=
  eventStep (s.yardStep die yard (fun st => st.yardArrive die yard false))

/-- R252: YARD_TIMER_EXPIRY. -/
def execYardTimerExpiry (die yard : Nat) (s : State) : Host.Outcome State Fault Refusal :=
  eventStep (s.yardStep die yard (fun st => st.yardTimer die yard))

/-- R32, R252: TEAM_PLACEMENT. -/
def execTeamPlacement (die yard : Nat) (s : State) : Host.Outcome State Fault Refusal :=
  eventStep (s.yardStep die yard (fun st => st.teamPlace die yard))

end Sys2Proof.Machine
end

