-- ==== Sys2Proof/Machine/EvCtl.lean ====
section
/-!
DEFINITION. The events of the control engine: commands, drains, swaps, halts and timetable mode (R278, R286 to R301).
-/
namespace Sys2Proof.Machine

/-- R278: PREEMPT. -/
def execPreempt (part : Nat) (s : State) : Host.Outcome State Fault Refusal := hostWrite s part (fun st => st.pctlWrite part 1)

/-- R278: RESTORE. -/
def execRestore (part : Nat) (s : State) : Host.Outcome State Fault Refusal := hostWrite s part (fun st => st.pctlWrite part 2)

/-- R278: HALT. -/
def execHalt (part : Nat) (s : State) : Host.Outcome State Fault Refusal := hostWrite s part (fun st => st.pctlWrite part 3)

/-- R278: RESUME. -/
def execResume (part : Nat) (s : State) : Host.Outcome State Fault Refusal := hostWrite s part (fun st => st.pctlWrite part 4)

/-- R278: END of the FAULTED launch named. -/
def execEndLaunch (part id : Nat) (s : State) : Host.Outcome State Fault Refusal :=
  hostWrite s part (fun st => st.pctlWrite part (BitVec.ofNat 64 (5 + id % 65536 * 65536)))

/-- R286: DRAINLIM_EXPIRY. -/
def execDrainlimExpiry (part : Nat) (s : State) : Host.Outcome State Fault Refusal := eventStep (s.drainLimit part)

/-- R287: SAVE_START. -/
def execSaveStart (part : Nat) (s : State) : Host.Outcome State Fault Refusal := eventStep (s.saveStart part)

/-- R288 to R290: SAVE_COMPLETE. -/
def execSaveComplete (part : Nat) (s : State) : Host.Outcome State Fault Refusal := eventStep (s.saveDone part)

/-- R291: LOAD_COMPLETE. -/
def execLoadComplete (part : Nat) (s : State) : Host.Outcome State Fault Refusal := eventStep (s.loadDone part)

/-- R299: HALT_QUIESCED. -/
def execHaltQuiesced (part : Nat) (s : State) : Host.Outcome State Fault Refusal := eventStep (s.haltDone part)

/-- R293: TIMETABLE_STEP: a core's step, up to the instruction that the train it grants its turn issues. -/
def execTimetableStep (core : Nat) (s : State) : Host.Outcome State Fault Refusal := eventStep (s.ttStep core)

/-- R295: SUPERSTEP_BOUNDARY. -/
def execSuperstepBoundary (part : Nat) (s : State) : Host.Outcome State Fault Refusal := eventStep (s.boundary part)

/-- R298: TIMETABLE_FREEZE. -/
def execTimetableFreeze (part : Nat) (s : State) : Host.Outcome State Fault Refusal := eventStep (s.ttFreeze part)

/-- R301: TIMETABLE_HALT. -/
def execTimetableHalt (part : Nat) (s : State) : Host.Outcome State Fault Refusal := eventStep (s.ttHalt part)

end Sys2Proof.Machine
end

