-- ==== Sys2Proof/Machine/EvEng.lean ====
section
/-!
DEFINITION. The events of the engines: copies, barriers, tiles, matrix pairs, bank operations and the fabric (R303 to R427).
-/
namespace Sys2Proof.Machine

/-- R342: COPY_COMPLETION. -/
def execCopyCompletion (core slot : Nat) (s : State) : Host.Outcome State Fault Refusal := eventStep (s.copyTry core slot)

/-- R347: RING_SPACE_RETRY, by kind of writer: 0 a copy request, 1 a fabric job, 2 a queue's refusal. -/
def execRingSpaceRetry (kind unit slot : Nat) (s : State) : Host.Outcome State Fault Refusal := eventStep (s.ringTry kind unit slot)

/-- R350: BARRIER_UPDATE. -/
def execBarrierUpdate (core : Nat) (s : State) : Host.Outcome State Fault Refusal := eventStep (s.barTry core)

/-- R353: FREED_SLOT_NOTICE. -/
def execFreedSlotNotice (core slot : Nat) (s : State) : Host.Outcome State Fault Refusal := eventStep (s.noticeTry core slot)

/-- R310: TALLOC_GRANT. -/
def execTallocGrant (core : Nat) (s : State) : Host.Outcome State Fault Refusal := eventStep (s.grantTry core)

/-- R315: TILE_SEAL_COMPLETE. -/
def execTileSealComplete (core : Nat) (s : State) : Host.Outcome State Fault Refusal := eventStep (s.sealTry core false)

/-- R316: TFREE_COMPLETE. -/
def execTfreeComplete (core : Nat) (s : State) : Host.Outcome State Fault Refusal := eventStep (s.sealTry core true)

/-- R372: MCTX_CLAIM. -/
def execMctxClaim (pair ctx : Nat) (s : State) : Host.Outcome State Fault Refusal := eventStep (s.claimTry pair ctx)

/-- R359, R372: MCTX_RELEASE. -/
def execMctxRelease (pair ctx : Nat) (s : State) : Host.Outcome State Fault Refusal := eventStep (s.releaseTry pair ctx)

/-- R358: MTX_TILE_STEP. -/
def execMtxTileStep (pair : Nat) (s : State) : Host.Outcome State Fault Refusal := eventStep (s.tileTry pair)

/-- R383 to R387: BANK_OPERATION_COMPLETE. -/
def execBankOperationComplete (core slot : Nat) (s : State) : Host.Outcome State Fault Refusal := eventStep (s.bankTry core slot)

/-- R399: FAB_CARD_BIND. -/
def execFabCardBind (cluster : Nat) (s : State) : Host.Outcome State Fault Refusal := eventStep (s.bindTry cluster)

/-- R410: FAB_UNIT_FIRE. -/
def execFabUnitFire (cluster ctx unit : Nat) (s : State) : Host.Outcome State Fault Refusal := eventStep (s.unitTry cluster ctx unit)

/-- R414: FAB_SOURCE_TOKEN. -/
def execFabSourceToken (cluster ctx eng : Nat) (s : State) : Host.Outcome State Fault Refusal := eventStep (s.sourceTry cluster ctx eng)

/-- R418: FAB_SINK_COMMIT. -/
def execFabSinkCommit (cluster ctx eng : Nat) (s : State) : Host.Outcome State Fault Refusal := eventStep (s.sinkTry cluster ctx eng)

/-- R419: FAB_REPLAY: a soft error in a token buffer, a bus or a delay line of a context. -/
def execFabReplay (cluster ctx : Nat) (s : State) : Host.Outcome State Fault Refusal :=
  eventStep ((s.fabJobAt cluster ctx).bind (fun j => s.fabReplay cluster j.1 j.2))

/-- R423: FAB_JOB_COMPLETE. -/
def execFabJobComplete (cluster slot : Nat) (s : State) : Host.Outcome State Fault Refusal := eventStep (s.jobTry cluster slot)

end Sys2Proof.Machine
end

