-- ==== Sys2Proof/Machine/EvLink.lean ====
section
/-!
DEFINITION. The events of the link engine (R428 to R458).
-/
namespace Sys2Proof.Machine

/-- R441: whether a core of a peer has used its window of 16 entries of a queue, so that it sends no further one. -/
def State.peerWindow (s : State) (c : Nat) (f : QFlight) : Bool :=
  let mine := fun (e : QEntry) => e.dev == f.entry.dev && e.core == f.entry.core
  let k := s.core c
  decide (16 ≤ (k.qin.filter (fun g => qhQueue g.handle == qhQueue f.handle && mine g.entry)).length +
    ((k.queue (qhNum f.handle)).buffer.filter mine).length)

/-- R441: QUEUE_ENTRY_ARRIVAL: the entries of this device due at a core; or one from a peer, which in timetable mode waits for the boundary
(R297). -/
def execQueueEntryArrival (core : Nat) (pkt : List Word) (s : State) : Host.Outcome State Fault Refusal :=
  let f := entryOf pkt
  eventStep (if pkt.isEmpty then (if s.ttHolds core then none else s.queueDue core)
    else if !s.isPeer f.entry.dev || qhDev f.handle != s.link.device || qhCore f.handle != core || s.peerWindow core f then none
    else if s.ttHolds core then some (s.updCore core (fun k => { k with qin := k.qin ++ [{ f with due := s.cyc.toNat }] }))
    else some (s.queueArrive core f.handle f.entry))

/-- A reply to an entry that a core sent; in timetable mode it waits for the boundary (R297). -/
def State.replyTry (s : State) (c ser code : Nat) : Option State :=
  if !s.ttHolds c then s.queueReplied c ser code
  else if (s.core c).qsent.any (fun q => q.ser == ser && qhDev q.handle != s.link.device) then
    some (s.updCore c (fun k => { k with qback := k.qback ++ [⟨s.cyc.toNat, ser, code⟩] }))
  else none

/-- R451: QUEUE_REFUSAL, with the code of the refusal. -/
def execQueueRefusal (core ser code : Nat) (s : State) : Host.Outcome State Fault Refusal :=
  eventStep (if code = 0 then none else s.replyTry core ser code)

/-- R441: QUEUE_ACK. -/
def execQueueAck (core ser : Nat) (s : State) : Host.Outcome State Fault Refusal := eventStep (s.replyTry core ser 0)

/-- R443: QUEUE_SIDING_RETRY. -/
def execQueueSidingRetry (core queue : Nat) (s : State) : Host.Outcome State Fault Refusal := eventStep (s.sidingRetry core queue)

/-- R444: QUEUE_CYCLE_SCAN. -/
def execQueueCycleScan (s : State) : Host.Outcome State Fault Refusal := eventStep s.cycleScanDue

/-- R444: WAIT_GRAPH_EDGE_EXCHANGE. -/
def execWaitGraphEdgeExchange (edges : List (Nat × Nat)) (s : State) : Host.Outcome State Fault Refusal := eventStep (s.edgesArrive edges)

/-- R447: FRAME_FILL_TIMER. -/
def execFrameFillTimer (core builder : Nat) (s : State) : Host.Outcome State Fault Refusal := eventStep (s.fillTry core builder)

/-- R447: FRAME_SEND. -/
def execFrameSend (core builder : Nat) (s : State) : Host.Outcome State Fault Refusal := eventStep (s.frameTry core builder)

/-- R432, R448: ROW_FRAME_ARRIVAL: the frames of this device due at a core; or one from a peer, against the credit granted to it, which in timetable mode
waits for the boundary (R297). -/
def execRowFrameArrival (core dev part id : Nat) (bytes : List Byte) (s : State) : Host.Outcome State Fault Refusal :=
  let f : RowFrame := ⟨bytes, ⟨part, id⟩, 0, 0, dev, false⟩
  eventStep (if bytes.isEmpty then (if s.ttHolds core then none else s.framesDue core)
    else if !s.isPeer dev || tagCore (rfTag f.head) != core then none
    else (s.chargePeer core f.entries dev (rfSrc f.head) (rfTag f.head)).map (fun x =>
      if s.ttHolds core then x.1.updCore core (fun k => { k with frin := k.frin ++ [⟨s.cyc.toNat, core, f, x.2⟩] }) else x.1.frameArrive core f x.2))

/-- R436, R437: CREDIT_GRANT: entries granted by a peer; or by this device to a source core of a peer; with none, packets that wait go now that credit has
returned. -/
def execCreditGrant (core dev n : Nat) (s : State) : Host.Outcome State Fault Refusal := eventStep (s.creditGrant core dev n)

/-- R433: REMOTE_MEMORY_REQUEST. -/
def execRemoteMemoryRequest (dev id pa : Nat) (req : PeerReq) (s : State) : Host.Outcome State Fault Refusal :=
  eventStep (s.peerRequest dev id pa req)

/-- R433: REMOTE_MEMORY_RESPONSE: to a request of this device, or the wake-up of an instance parked at a peer, whose device is then `id` and
whose tag and word's address are the data. -/
def execRemoteMemoryResponse (id code : Nat) (data : List Byte) (s : State) : Host.Outcome State Fault Refusal :=
  eventStep (if code = rspWake then s.peerWake id (ofLE (data.drop 8)) (BitVec.ofNat 64 (ofLE (data.take 8))) else s.peerResponse id code data)

/-- R428, R429: FLIT_FORWARD: a flit of another route that has made its first hop, passed on for its second without the cores. -/
def execFlitForward (dev flit : Nat) (s : State) : Host.Outcome State Fault Refusal :=
  eventStep (if s.isPeer dev && !flit.testBit 8 && decide (1 ≤ flit % 2 ^ 8 ∧ flit % 2 ^ 8 ≤ 8) then some (s.emit (.forward dev (secondHop flit))) else none)

/-- R428: FLIT_RETRANSMIT: the link layer sends a flit again; it is delivered once and unaltered, so nothing else changes. -/
def execFlitRetransmit (_port : Nat) (s : State) : Host.Outcome State Fault Refusal := .next s

end Sys2Proof.Machine
end

