-- ==== Sys2Proof/Machine/RamvanOps.lean ====
section
/-!
DEFINITION. The management controller: start-up, resets, its commands, attestation, power and errors (R467 to R478).
-/
namespace Sys2Proof.Machine

/-- The controller's state changed. -/
def State.updRamvan (s : State) (f : Ramvan → Ramvan) : State := { s with ramvan := f s.ramvan }

/-! ## Events and replies (R474, R476) -/

/-- Kinds of logged events (R476): the model's numbers. -/
def evtRoute : Nat := 1
def evtControl : Nat := 2
def evtThermal : Nat := 3
def evtPower : Nat := 4
def evtVerify : Nat := 5
def evtMemory : Nat := 6

/-- R474: an entry of the log, which keeps 1,024. -/
def State.logEvent (s : State) (kind detail : Nat) : State :=
  let l := s.ramvan.log ++ [(kind, detail)]
  s.updRamvan (fun r => { r with log := l.drop (l.length - 1024) })

/-- R476: vector 64, a PLDM event, and an entry of the log. -/
def State.moduleEvent (s : State) (kind detail : Nat) : State :=
  ((s.logEvent kind detail).updRamvan (fun r => { r with pldmEvents := r.pldmEvents + 1 })).notify 64

/-- A command's answer: its completion code, 0 for success and 1 for a refusal, and its data. -/
def State.answerCmd (s : State) (code : Nat) (data : List Byte) : State := s.setReply (leBytes 1 code ++ data)

/-- A command that has been carried out, or refused with nothing changed (R269). -/
def State.command (s : State) (r : Option State) : State :=
  match r with
  | some s1 => s1.answerCmd 0 []
  | none => s.answerCmd 1 []

/-- Whether the management firmware runs: main power is up, the boot ROM's check passed, and the image verified (R467). -/
def State.firmwareUp (s : State) : Bool := s.ramvan.powerGood && !s.ramvan.halted && s.host.ready

/-- A Castopel command, for the firmware that runs; none while no controller is powered. -/
def State.castopel (s : State) (f : State → Option State) : Option State :=
  if !s.ramvan.powerGood then none else some (s.command (if s.firmwareUp then f s else none))

/-! ## The firmware image (R467 to R469) -/

def fwMagic (h : Nat) : Nat := natBits h 31 0
def fwHdrVer (h : Nat) : Nat := natBits h 63 32
def fwSecVer (h : Nat) : Nat := natBits h 95 64
def fwLength (h : Nat) : Nat := natBits h 127 96
def fwDigest (h : Nat) : Nat := natBits h 383 128
def fwSig (h : Nat) : Nat := natBits h 895 384
def fwKeyHash (h : Nat) : Nat := natBits h 1151 896

/-- R469: the header is well formed. -/
def fwHeaderOk (h : Nat) : Bool :=
  fwMagic h == 0x52464D31 && fwHdrVer h == 1 && natBits h 2047 1152 == 0 && fwLength h % 4096 == 0 && decide (fwLength h ≤ 8 * 2 ^ 20) &&
  decide (fwSecVer h ≤ 63)

/-- R467 step 2: an image is accepted, for a fused minimum. -/
def fwAccepted (img : List Byte) (minSec : Nat) : Bool :=
  let h := ofLE (img.take 256)
  let key := fun (b : Bool) => fwKeyHash h == Config.fusedKey b && !Config.keyRevoked b
  fwHeaderOk h && decide (256 + fwLength h ≤ img.length) && (key false || key true) &&
  Config.sm3 ((img.drop 256).take (fwLength h)) == fwDigest h && Config.sm2Valid (fwKeyHash h) (img.take 48) (fwSig h) &&
  decide (minSec ≤ fwSecVer h)

/-- The image in flash. -/
def Ramvan.image (r : Ramvan) : List Byte :=
  let h := ofLE (r.flash.read 0 256)
  if fwHeaderOk h then r.flash.read 0 (256 + fwLength h) else r.flash.read 0 256

/-! ## Start-up and resets (R467, R468, R474) -/

/-- R467: what a module reset leaves: flash, fuses and the event log stay; so do the model's inputs and free-value counter. -/
def State.cleared (s : State) : State :=
  { State.reset with
    freeCtr := s.freeCtr, inbox := s.inbox,
    ramvan := { Ramvan.reset with minSec := s.ramvan.minSec, flash := s.ramvan.flash, log := s.ramvan.log, pldmEvents := s.ramvan.pldmEvents } }

/-- R467: start-up once main power is good: the loader's digest, the firmware image, then READY; or the recovery loader (R468). -/
def State.startUp (s : State) : State :=
  let s1 := s.updRamvan (fun r => { r with powerGood := true })
  if Config.sm3 Config.romLoader != Config.loaderDigest then (s1.updRamvan (fun r => { r with halted := true })).moduleEvent evtVerify 1
  else
    let img := s1.ramvan.image
    if fwAccepted img s1.ramvan.minSec then
      let h := ofLE (img.take 256)
      (s1.updRamvan (fun r => { r with runSec := fwSecVer h, digest := fwDigest h })).updHost (fun q => { q with ready := true })
    else (s1.updHost (fun q => { q with recovery := true })).moduleEvent evtVerify 2

/-- R467: a module reset and the start-up behind it. -/
def State.moduleReset (s : State) : State := s.cleared.startUp

/-- R467: main power comes up; none when it is up. -/
def State.powerUp (s : State) : Option State := if s.ramvan.powerGood then none else some s.moduleReset

/-- R474: ModuleReset; none when no controller answers it. -/
def State.resetCmd (s : State) : Option State :=
  if !s.ramvan.powerGood then none else if s.ramvan.halted then some (s.answerCmd 1 []) else some (s.moduleReset.answerCmd 0 [])

/-- R468: an image from PLDM firmware update: verified, written to flash, and the module reset; or rejected. -/
def State.firmwareUpdate (s : State) (img : List Byte) : Option State :=
  if !s.ramvan.powerGood then none
  else if s.ramvan.halted || !fwAccepted img s.ramvan.minSec then some (s.answerCmd 1 [])
  else some (((s.updRamvan (fun r => { r with flash := Memory.write [] 0 img })).moduleReset).answerCmd 0 [])

/-! ## Commands (R269, R273, R474, R478) -/

/-- R269: some partition holds a live or swapped launch. -/
def State.anyBusy (s : State) : Bool := s.parts.any (fun p => p.2.busy)

/-- R16, R428, R474: SetDomain: this device's number, the members, and the routes that training the ports has found. -/
def State.setDomain (s : State) (dev : Nat) (members : List Nat) (routes : List (Nat × Nat × Nat)) : Option State :=
  if s.anyBusy || decide (256 ≤ dev) || members.any (fun d => decide (256 ≤ d)) then none
  else
    let ms := sortBy (fun a b => decide (a ≤ b)) (dedup (dev :: members))
    let rs := routes.filter (fun r => ms.contains r.1 && r.1 != dev && decide (1 ≤ r.2.2 ∧ r.2.2 ≤ 2))
    let l : Link := { Link.reset with
      device := dev, members := ms, scanAt := s.link.scanAt, reqSeq := s.link.reqSeq, out := s.link.out, wait := s.link.wait,
      routes := rs.foldl (fun m r => NMap.set m r.1 ⟨portMask r.2.1, r.2.2, portMask r.2.1 != 0⟩) [] }
    some { s with link := l.flush }

/-- R269: the state of clusters that leave a partition: they run nothing. Handles keep GEN (R18). -/
def State.clearClusters (s : State) (cls : List Nat) : State :=
  let mine := fun (c : Nat) => cls.contains (clusterOf c)
  { s with
    cores := s.cores.map (fun e =>
      if mine e.1 then (e.1, { Core.reset with frames := e.2.frames.map (fun f => (f.1, { Frame.free with gen := f.2.gen })), ops := e.2.ops, uids := e.2.uids })
      else e)
    clusters := s.clusters.map (fun e => if cls.contains e.1 then (e.1, Cluster.reset) else e)
    pairs := s.pairs.filter (fun e => !mine (2 * e.1)) }

/-- R269: a partition returned to OFF: its registers, doorbells and launch-engine state are cleared. -/
def State.partOff (s : State) (p : Nat) : State :=
  let s1 := s.clearClusters (s.part p).clusters
  let s2 : State := { s1 with
    dies := s1.dies.map (fun d => (d.1, { d.2 with yards := d.2.yards.filter (fun y => y.launch.part != p) }))
    host := { s1.host with db := s1.host.db.filter (fun e => e.1 / 16 != p) } }
  (s2.setPState p .off).setPart p Partition.reset

/-- R269, R474: SetPartition. -/
def State.setPartition (s : State) (p : Nat) (clusters : List Nat) : Option State :=
  let cls := sortBy (fun a b => decide (a ≤ b)) (dedup clusters)
  let k := s.part p
  let taken := s.parts.any (fun e => e.1 != p && e.2.state != .off && e.2.clusters.any (fun c => cls.contains c))
  if 16 ≤ p ∨ cls.any (fun c => decide (160 ≤ c)) = true ∨ taken = true ∨ k.busy = true then none
  else if cls.isEmpty then some (if k.state = .off then s else s.partOff p)
  else if k.state = .off then some ((s.setPart p { Partition.reset with clusters := cls }).setPState p .run)
  else some ((s.clearClusters (k.clusters.filter (fun c => !cls.contains c))).updPart p (fun k => { k with clusters := cls }))

/-- R273, R474: SetPriv. -/
def State.setPriv (s : State) (p : Nat) (v : Bool) : Option State :=
  if 16 ≤ p ∨ (s.part p).state = .off ∨ (s.part p).busy = true then none else some (s.updPart p (fun k => { k with priv := v }))

/-- R478: SetPowerCap: 1,200 W to 2,800 W. -/
def State.setPowerCap (s : State) (w : Nat) : Option State :=
  if 1200 ≤ w ∧ w ≤ 2800 then some (s.updRamvan (fun r => { r with cap := w })) else none

/-- R468: ActivateVersion: the fused minimum rises to the running image's SECVER. -/
def State.activateVersion (s : State) : Option State := some (s.updRamvan (fun r => { r with minSec := Nat.max r.minSec r.runSec }))

/-- R474: GetErrorLog: the logged events, oldest first. -/
def State.errorLog (s : State) : List Byte := s.ramvan.log.flatMap (fun e => leBytes 8 e.1 ++ leBytes 8 e.2)

/-- R474: GetRouteTable: number, ports and hop count of each member of the domain. -/
def State.routeTable (s : State) : List Byte :=
  s.link.members.flatMap (fun d =>
    match NMap.get? s.link.routes d with
    | some r => leBytes 2 d ++ leBytes 4 r.ports ++ leBytes 1 r.hops
    | none => if d = s.link.device then [] else leBytes 2 d ++ leBytes 4 0 ++ leBytes 1 0)

/-- A request that changes nothing, answered with some bytes; none while no controller is powered. -/
def State.query (s : State) (data : List Byte) : Option State :=
  if !s.ramvan.powerGood then none else some (if s.ramvan.halted then s.answerCmd 1 [] else s.answerCmd 0 data)

/-- R474, R477: a sensor's reading: the count of corrected errors, or a temperature or power. -/
def State.sensorRead (s : State) (n : Nat) : Option State :=
  let d := s.draw
  d.2.query (leBytes 8 (if Config.countsErrors n then s.ramvan.corrected else (Config.sensor n d.1).toNat))

/-! ## Attestation (R475) -/

/-- R475: a measurement by its index. -/
def State.measurement (s : State) (i : Nat) : List Byte :=
  match i with
  | 1 => leBytes 32 (Config.sm3 (Config.bootRom ++ Config.romLoader))
  | 2 => leBytes 32 s.ramvan.digest ++ leBytes 4 s.ramvan.runSec
  | 3 => leBytes 8 Config.featOffer.toNat ++ leBytes 8 s.host.featAccept.toNat
  | 4 => leBytes 1 s.link.device ++ leBytes 32 (Config.sm3 s.routeTable)
  | _ => []

/-- All four measurements. -/
def State.measurements (s : State) : List Byte := s.measurement 1 ++ s.measurement 2 ++ s.measurement 3 ++ s.measurement 4

/-- R475: GET_MEASUREMENTS by index; 0 asks for their number and 255 for all, as SPDM has it (log 52). -/
def State.measurementReply (s : State) (i : Nat) : List Byte :=
  if i = 0 then leBytes 1 4 else if i = 255 then s.measurements else s.measurement i

/-- R475: CHALLENGE: the chain's digest and the measurements' digest, with the nonce, signed by the identity key. -/
def State.challengeReply (s : State) (nonce : List Byte) : List Byte :=
  let body := leBytes 32 (Config.sm3 Config.certChain) ++ leBytes 32 (Config.sm3 s.measurements) ++ nonce
  body ++ Config.sm2Sign body

/-! ## Power and temperature (R478) -/

/-- R478: the clock is lowered by a step of 50 MHz, and THROTTLE is set. -/
def State.throttleStep (s : State) (kind detail : Nat) : Option State :=
  if !s.firmwareUp then none
  else some (((s.updRamvan (fun r => { r with steps := r.steps + 1 })).updHost (fun h => { h with throttle := true })).moduleEvent kind detail)

/-- R478: the clock runs at its full rate again; none while it is not lowered. -/
def State.throttleEnd (s : State) : Option State :=
  if s.host.throttle then some ((s.updRamvan (fun r => { r with steps := 0 })).updHost (fun h => { h with throttle := false })) else none

/-- R478: at 105 °C HALT is written to every partition in state RUN. -/
def State.thermalHalt (s : State) (die : Nat) : Option State :=
  if !s.firmwareUp then none
  else
    let ps := (s.parts.filter (fun p => p.2.state == .run)).map (·.1)
    some ((ps.foldl (fun (st : State) p => st.haltCmd p) s).moduleEvent evtThermal die)

/-! ## Errors (R129, R477) -/

/-- Slots of operand RAM of one core that a scrub has found uncorrectable: train and key. -/
def Core.markRam (k : Core) (xs : List (Nat × Nat)) : Core :=
  { k with ramBad := dedup (k.ramBad ++ xs.filter (fun x => k.trains.any (fun t => t.uid == x.1))) }

/-- R477: the scrubber marks what it finds uncorrectable: granules of HBM, granules of core SRAM by core and number, and slots of operand RAM by
core, train and key; the errors that it corrects are counted. -/
def State.markErrors (s : State) (gs : List Nat) (sram : List (Nat × Nat)) (ram : List (Nat × Nat × Nat)) : State :=
  let new := (gs.map (fun g => g - g % 32)).filter (fun g => physOk g 32)
  let d := s.draw
  let s1 := d.2.updRamvan (fun r => { r with corrected := r.corrected + Config.correctedErrors d.1 })
  let s2 := { s1 with bad := sortBy (fun a b => decide (a ≤ b)) (dedup (s.bad ++ new)) }
  let s3 := sram.foldl (fun (st : State) x =>
    if 1280 ≤ x.1 ∨ 12288 ≤ x.2 then st else st.updCore x.1 (fun k => { k with sramBad := dedup (k.sramBad ++ [x.2]) })) s2
  ram.foldl (fun (st : State) x => if 1280 ≤ x.1 then st else st.updCore x.1 (fun k => k.markRam [x.2])) s3

/-- The granule of core SRAM, by core and number, that a place of the scrubber names (log 66). -/
def scrubSram (n : Nat) : Option (Nat × Nat) :=
  if 2 ^ 60 ≤ n ∧ n < 2 ^ 61 then some ((n - 2 ^ 60) / 2 ^ 32, n % 2 ^ 32) else none

/-- The slot of operand RAM, by core, train and key, that a place of the scrubber names (log 66). -/
def scrubRam (n : Nat) : Option (Nat × Nat × Nat) :=
  if 2 ^ 61 ≤ n ∧ n < 2 ^ 62 then some ((n - 2 ^ 61) % 2 ^ 11, (n - 2 ^ 61) / 2 ^ 31, (n - 2 ^ 61) / 2 ^ 11 % 2 ^ 20) else none

/-- The row of the accumulator store, by pair, context and 128·tile + row, that a place of the scrubber names (log 66). -/
def scrubAcc (n : Nat) : Option (Nat × Nat × Nat) :=
  if 2 ^ 62 ≤ n ∧ n < 2 ^ 63 then some ((n - 2 ^ 62) / 2 ^ 10, (n - 2 ^ 62) / 2 ^ 9 % 2, (n - 2 ^ 62) % 2 ^ 8) else none

/-- The cluster whose image in shadow storage a place of the scrubber names (log 66). -/
def scrubShadow (n : Nat) : Option Nat := if 2 ^ 63 ≤ n then some (n - 2 ^ 63) else none

/-- R477: a row of a tile of an owned matrix context found uncorrectable. -/
def State.markAcc (s : State) (x : Nat × Nat × Nat) : State :=
  let p := s.pair x.1
  s.setPair x.1 { p with ctxs := p.ctxs.map (fun e =>
    if e.1 = x.2.1 ∧ e.2.owner.isSome = true then (e.1, { e.2 with bad := dedup (e.2.bad ++ [x.2.2]) }) else e) }

/-- R477: a context image in shadow storage found uncorrectable. -/
def State.markShadow (s : State) (cl : Nat) : State :=
  { s with parts := s.parts.map (fun p => (p.1, { p.2 with images := p.2.images.map (fun i =>
      if i.cluster = cl ∧ i.beyond.isNone = true then { i with bad := true } else i) })) }

/-- R477: one pass of the scrubber over the places it found, each logged (R474): a physical address below 2^60 is a granule of HBM, above it stand core SRAM,
operand RAM, the accumulator store and shadow storage (log 66: the numbering is the model's). -/
def State.patrolScrub (s : State) (places : List Nat) : State :=
  let s1 := s.markErrors places (places.filterMap scrubSram) (places.filterMap scrubRam)
  let s2 := (places.filterMap scrubAcc).foldl (fun (st : State) x => st.markAcc x) s1
  let s3 := (places.filterMap scrubShadow).foldl (fun (st : State) cl => st.markShadow cl) s2
  places.foldl (fun (st : State) n => st.logEvent evtMemory n) s3

/-- Launches that own an entry of a structure of a core (R477): 1 matching store, 2 platforms, 3 waiter table, 4 tile state, 5 queue state,
6 engine contexts. -/
def State.structOwners (s : State) (c detail : Nat) : List LaunchRef :=
  let k := s.core c
  let own := fun (i : Inst) => (s.frame c i.handle).launch
  match detail with
  | 1 => k.entries.map (fun e => own e.inst)
  | 2 => k.plats.flatMap (fun p => p.2.fills.flatMap (fun x => x.seats.map own))
  | 3 => k.waiters.map (fun w => own w.inst)
  | 4 => k.eng.pool.map (fun p => p.launch)
  | 5 => (k.queues.filter (fun q => q.2.live)).map (fun q => q.2.launch)
  | 6 =>
    k.eng.copies.map (fun q => q.info.launch) ++ k.eng.banks.map (fun b => b.info.launch) ++
    (s.pair (pairOf c)).ctxs.filterMap (fun x => if x.2.owner.isSome then some x.2.launch else none) ++
    (s.cluster (clusterOf c)).fab.cards.map (fun j => j.info.launch)
  | _ => []

/-- R477: an uncorrectable error in control state of a core: every live launch that owns an entry of the structure, or where the owner cannot
be told every live launch with a group on the core, takes a record and is FAULTED. -/
def State.controlError (s : State) (c detail : Nat) (told : Bool) : Option State :=
  if detail = 0 ∨ 6 < detail ∨ s.firmwareUp = false then none
  else
    let rs := dedup (if told then s.structOwners c detail else s.coreLaunches c)
    let live := rs.filter (fun r => match s.launch? r with | some l => l.state.live | none => false)
    some ((live.foldl (fun (st : State) r =>
      st.faultNow { FaultInfo.plain DATA_UNCORRECTABLE detail 0 r (s.launchAsid r) 2 with core := c }) s).moduleEvent evtControl detail)

/-- R428, R476: a route is lost or returns. A route has one hop or two. -/
def State.routeEvent (s : State) (dev : Nat) (up : Bool) (ports hops : Nat) : Option State :=
  if dev = s.link.device ∨ s.link.members.contains dev = false ∨ hops = 0 ∨ 2 < hops then none
  else
    let s1 := s.routeChange dev up ports hops
    some (if s.routed dev == up then s1 else s1.moduleEvent evtRoute dev)

end Sys2Proof.Machine
end

