-- ==== Sys2Proof/Machine/EvHost.lean ====
section
/-!
DEFINITION. The events of the host interface and of the management controller (R459 to R478). The command that an access or a request
carries is answered in `HostIf.reply`.
-/
namespace Sys2Proof.Machine

/-- R428, R476: ROUTE_CHANGE. -/
def execRouteChange (dev : Nat) (up : Bool) (ports hops : Nat) (s : State) : Host.Outcome State Fault Refusal :=
  eventStep (s.routeEvent dev up ports hops)

/-- R465: FEATACCEPT_WRITE. -/
def execFeatacceptWrite (w : HostWord) (s : State) : Host.Outcome State Fault Refusal := .next (s.regWrite w (fun st v => st.featWrite v))

/-- R466: MSIX_INTERVAL_EXPIRY. -/
def execMsixIntervalExpiry (vec : Nat) (s : State) : Host.Outcome State Fault Refusal := eventStep (s.intervalEnd vec)

/-- R471, R472: MGMT_PHYSICAL_ACCESS: KIND 0, and the KINDs that name nothing in the aperture (log 51). -/
def execMgmtPhysicalAccess (sel : Word) (write : Bool) (off len : Nat) (data : List Byte) (s : State) : Host.Outcome State Fault Refusal :=
  eventStep (if selKind sel = 0 ∨ selKind sel = 1 ∨ 5 ≤ selKind sel then some (s.aperture sel off len (fun st => st.winPhys sel write off len data)) else none)

/-- R459, R471, R472: MGMT_REGISTER_ACCESS: an access of MDATA: KIND 1, and the KINDs that name nothing there (log 51). One that is not 8 bytes, naturally
aligned, is ignored and reads zero. -/
def execMgmtRegisterAccess (sel : Word) (write : Bool) (w : HostWord) (s : State) : Host.Outcome State Fault Refusal :=
  .next (if w.fits then s.winAccess sel 8 (fun st => st.winReg sel write w.word) else (s.mselWrite sel).setReply (zeros w.size))

/-- R300, R302, R472: MGMT_OBJECT_ACCESS: KIND 2. -/
def execMgmtObjectAccess (sel : Word) (write : Bool) (off len : Nat) (data : List Byte) (s : State) : Host.Outcome State Fault Refusal :=
  eventStep (if selKind sel = 2 then some (s.aperture sel off len (fun st => st.winObject sel write off len data)) else none)

/-- R472: MGMT_FUT_VIEW_ACCESS: KIND 3. -/
def execMgmtFutViewAccess (sel : Word) (write : Bool) (off len : Nat) (data : List Byte) (s : State) : Host.Outcome State Fault Refusal :=
  eventStep (if selKind sel = 3 then some (s.aperture sel off len (fun st => st.winFut sel write off len data)) else none)

/-- R270, R472: MGMT_ASID_ENTRY_ACCESS: KIND 4. -/
def execMgmtAsidEntryAccess (sel : Word) (write : Bool) (off len : Nat) (data : List Byte) (s : State) : Host.Outcome State Fault Refusal :=
  eventStep (if selKind sel = 4 then some (s.aperture sel off len (fun st => st.winAsid sel write off len data)) else none)

/-- R462: STATUS_WRITE. -/
def execStatusWrite (w : HostWord) (s : State) : Host.Outcome State Fault Refusal := .next (s.regWrite w (fun st v => st.statusWrite v))

/-- R471: MSTAT_WRITE. -/
def execMstatWrite (w : HostWord) (s : State) : Host.Outcome State Fault Refusal := .next (s.regWrite w (fun st v => st.mstatWrite v))

/-- R459: CONFIGURATION_REQUEST. -/
def execConfigurationRequest (write : Bool) (off : Nat) (w : Word) (s : State) : Host.Outcome State Fault Refusal :=
  eventStep (if s.ramvan.powerGood then some (s.configRequest write off w) else none)

/-- R467: POWER_UP. -/
def execPowerUp (s : State) : Host.Outcome State Fault Refusal := eventStep s.powerUp

/-- R473: ENDPOINT_RESET. -/
def execEndpointReset (s : State) : Host.Outcome State Fault Refusal := .next s.endpointReset

/-- R474: SET_DOMAIN, with the routes that training the ports finds (R428). -/
def execSetDomain (dev : Nat) (members : List Nat) (routes : List (Nat × Nat × Nat)) (s : State) : Host.Outcome State Fault Refusal :=
  eventStep (s.castopel (fun st => st.setDomain dev members routes))

/-- R269: SET_PARTITION. -/
def execSetPartition (part : Nat) (clusters : List Nat) (s : State) : Host.Outcome State Fault Refusal :=
  eventStep (s.castopel (fun st => st.setPartition part clusters))

/-- R273: SET_PRIV. -/
def execSetPriv (part : Nat) (v : Bool) (s : State) : Host.Outcome State Fault Refusal := eventStep (s.castopel (fun st => st.setPriv part v))

/-- R478: SET_POWER_CAP. -/
def execSetPowerCap (watts : Nat) (s : State) : Host.Outcome State Fault Refusal := eventStep (s.castopel (fun st => st.setPowerCap watts))

/-- R467, R474: MODULE_RESET. -/
def execModuleReset (s : State) : Host.Outcome State Fault Refusal := eventStep s.resetCmd

/-- R468: ACTIVATE_VERSION. -/
def execActivateVersion (s : State) : Host.Outcome State Fault Refusal := eventStep (s.castopel (fun st => st.activateVersion))

/-- R474: GET_ERROR_LOG. -/
def execGetErrorLog (s : State) : Host.Outcome State Fault Refusal := eventStep (s.query s.errorLog)

/-- R474: GET_ROUTE_TABLE. -/
def execGetRouteTable (s : State) : Host.Outcome State Fault Refusal := eventStep (s.query s.routeTable)

/-- R474: PLDM_SENSOR_READ. -/
def execPldmSensorRead (sensor : Nat) (s : State) : Host.Outcome State Fault Refusal := eventStep (s.sensorRead sensor)

/-- R474: PLDM_BASE_DISCOVERY. -/
def execPldmBaseDiscovery (cmd : Nat) (s : State) : Host.Outcome State Fault Refusal := eventStep (s.query (Config.pldmBase cmd))

/-- R468: FIRMWARE_UPDATE. -/
def execFirmwareUpdate (image : List Byte) (s : State) : Host.Outcome State Fault Refusal := eventStep (s.firmwareUpdate image)

/-- R475: GET_VERSION: SPDM 1.2. -/
def execGetVersion (s : State) : Host.Outcome State Fault Refusal := eventStep (s.query (leBytes 1 0x12))

/-- R475: GET_CAPABILITIES: certificates, challenge and measurements, and no sessions: one bit for each in this order (log 52). -/
def execGetCapabilities (s : State) : Host.Outcome State Fault Refusal := eventStep (s.query (leBytes 1 7))

/-- R475: NEGOTIATE_ALGORITHMS: of the algorithms offered, bit 0 SM2 signatures and bit 1 SM3 hashes are taken (log 52). -/
def execNegotiateAlgorithms (algs : Nat) (s : State) : Host.Outcome State Fault Refusal := eventStep (s.query (leBytes 1 (algs % 4)))

/-- R475: GET_DIGESTS. -/
def execGetDigests (s : State) : Host.Outcome State Fault Refusal := eventStep (s.query (leBytes 32 (Config.sm3 Config.certChain)))

/-- R475: GET_CERTIFICATE. -/
def execGetCertificate (off len : Nat) (s : State) : Host.Outcome State Fault Refusal :=
  eventStep (s.query ((Config.certChain.drop off).take len))

/-- R475: CHALLENGE. -/
def execChallenge (nonce : List Byte) (s : State) : Host.Outcome State Fault Refusal := eventStep (s.query (s.challengeReply nonce))

/-- R475: GET_MEASUREMENTS. -/
def execGetMeasurements (index : Nat) (s : State) : Host.Outcome State Fault Refusal := eventStep (s.query (s.measurementReply index))

/-- R478: POWER_CAP_THROTTLE. -/
def execPowerCapThrottle (s : State) : Host.Outcome State Fault Refusal := eventStep (s.throttleStep evtPower 0)

/-- R478: THERMAL_THROTTLE. -/
def execThermalThrottle (die : Nat) (s : State) : Host.Outcome State Fault Refusal := eventStep (s.throttleStep evtThermal die)

/-- R478: THERMAL_HALT. -/
def execThermalHalt (die : Nat) (s : State) : Host.Outcome State Fault Refusal := eventStep (s.thermalHalt die)

/-- R478: THROTTLE_RELEASE. -/
def execThrottleRelease (s : State) : Host.Outcome State Fault Refusal := eventStep s.throttleEnd

/-- R477: PATROL_SCRUB: what it finds uncorrectable in HBM, core SRAM, operand RAM, the accumulator store and shadow storage. -/
def execPatrolScrub (granules : List Nat) (s : State) : Host.Outcome State Fault Refusal := .next (s.patrolScrub granules)

/-- R477: CONTROL_STATE_ERROR: structure `detail` of a core, and whether the owner of the entry can be told. -/
def execControlStateError (core detail : Nat) (told : Bool) (s : State) : Host.Outcome State Fault Refusal :=
  eventStep (s.controlError core detail told)

end Sys2Proof.Machine
end

