-- ==== Sys2Proof/Machine/Flt.lean ====
section
/-!
DEFINITION. Class FLT: the meanings of its instructions (R140 to R144).
-/
namespace Sys2Proof.Machine

/-- R140: L + R. -/
def execFadd (a b : BitVec 8) (r : BitVec 3) (t : BitVec 2) (s : State) : Host.Outcome State Fault Refusal :=
  laneInstr s a b (faddV t.toNat r.toNat)

/-- R140: L + R; predicated (R67). -/
def execFaddPred (a b : BitVec 8) (r : BitVec 3) (t : BitVec 2) (s : State) : Host.Outcome State Fault Refusal :=
  laneInstr s a b (predLane (faddV t.toNat r.toNat))

/-- R140: L − R. -/
def execFsub (a b : BitVec 8) (r : BitVec 3) (t : BitVec 2) (s : State) : Host.Outcome State Fault Refusal :=
  laneInstr s a b (fsubV t.toNat r.toNat)

/-- R140: L − R; predicated (R67). -/
def execFsubPred (a b : BitVec 8) (r : BitVec 3) (t : BitVec 2) (s : State) : Host.Outcome State Fault Refusal :=
  laneInstr s a b (predLane (fsubV t.toNat r.toNat))

/-- R140: L · R. -/
def execFmul (a b : BitVec 8) (r : BitVec 3) (t : BitVec 2) (s : State) : Host.Outcome State Fault Refusal :=
  laneInstr s a b (fmulV t.toNat r.toNat)

/-- R140: L · R; predicated (R67). -/
def execFmulPred (a b : BitVec 8) (r : BitVec 3) (t : BitVec 2) (s : State) : Host.Outcome State Fault Refusal :=
  laneInstr s a b (predLane (fmulV t.toNat r.toNat))

/-- R140: L · R + T, one rounding. -/
def execFfma (a b : BitVec 8) (r : BitVec 3) (t : BitVec 2) (s : State) : Host.Outcome State Fault Refusal :=
  laneInstr s a b (ffmaV t.toNat r.toNat)

/-- R140: L · R + T, one rounding; predicated (R67). -/
def execFfmaPred (a b : BitVec 8) (r : BitVec 3) (t : BitVec 2) (s : State) : Host.Outcome State Fault Refusal :=
  laneInstr s a b (predLane (ffmaV t.toNat r.toNat))

/-- R141: the lesser. -/
def execFmin (a b : BitVec 8) (r : BitVec 3) (t : BitVec 2) (s : State) : Host.Outcome State Fault Refusal :=
  laneInstr s a b (fminV t.toNat r.toNat)

/-- R141: the lesser; predicated (R67). -/
def execFminPred (a b : BitVec 8) (r : BitVec 3) (t : BitVec 2) (s : State) : Host.Outcome State Fault Refusal :=
  laneInstr s a b (predLane (fminV t.toNat r.toNat))

/-- R141: the greater. -/
def execFmax (a b : BitVec 8) (r : BitVec 3) (t : BitVec 2) (s : State) : Host.Outcome State Fault Refusal :=
  laneInstr s a b (fmaxV t.toNat r.toNat)

/-- R141: the greater; predicated (R67). -/
def execFmaxPred (a b : BitVec 8) (r : BitVec 3) (t : BitVec 2) (s : State) : Host.Outcome State Fault Refusal :=
  laneInstr s a b (predLane (fmaxV t.toNat r.toNat))

/-- R140: L with sign bit 0; the rounding field is ignored (R132). -/
def execFabs (a b : BitVec 8) (_r : BitVec 3) (t : BitVec 2) (s : State) : Host.Outcome State Fault Refusal :=
  laneInstr s a b (fabsV t.toNat)

/-- R140: L with sign bit 0; the rounding field is ignored (R132); predicated (R67). -/
def execFabsPred (a b : BitVec 8) (_r : BitVec 3) (t : BitVec 2) (s : State) : Host.Outcome State Fault Refusal :=
  laneInstr s a b (predLane (fabsV t.toNat))

/-- R140: L with its sign bit inverted; the rounding field is ignored (R132). -/
def execFneg (a b : BitVec 8) (_r : BitVec 3) (t : BitVec 2) (s : State) : Host.Outcome State Fault Refusal :=
  laneInstr s a b (fnegV t.toNat)

/-- R140: L with its sign bit inverted; the rounding field is ignored (R132); predicated (R67). -/
def execFnegPred (a b : BitVec 8) (_r : BitVec 3) (t : BitVec 2) (s : State) : Host.Outcome State Fault Refusal :=
  laneInstr s a b (predLane (fnegV t.toNat))

/-- R142: floating comparison. -/
def execFcmp (a b : BitVec 8) (r : BitVec 3) (t : BitVec 2) (c : BitVec 3) (s : State) : Host.Outcome State Fault Refusal :=
  laneInstr s a b (fcmpV t.toNat r.toNat c.toNat)

/-- R142: floating comparison; predicated (R67). -/
def execFcmpPred (a b : BitVec 8) (r : BitVec 3) (t : BitVec 2) (c : BitVec 3) (s : State) : Host.Outcome State Fault Refusal :=
  laneInstr s a b (predLane (fcmpV t.toNat r.toNat c.toNat))

/-- R143: class mask; the rounding field is ignored (R132). -/
def execFclass (a b : BitVec 8) (_r : BitVec 3) (t : BitVec 2) (s : State) : Host.Outcome State Fault Refusal :=
  laneInstr s a b (fclassV t.toNat)

/-- R143: class mask; the rounding field is ignored (R132); predicated (R67). -/
def execFclassPred (a b : BitVec 8) (_r : BitVec 3) (t : BitVec 2) (s : State) : Host.Outcome State Fault Refusal :=
  laneInstr s a b (predLane (fclassV t.toNat))

/-- R144: two-term dot product. -/
def execFdot2 (a b : BitVec 8) (r : BitVec 3) (t : BitVec 1) (s : State) : Host.Outcome State Fault Refusal :=
  laneInstr s a b (fdot2V (2 + t.toNat) r.toNat)

/-- R144: two-term dot product; predicated (R67). -/
def execFdot2Pred (a b : BitVec 8) (r : BitVec 3) (t : BitVec 1) (s : State) : Host.Outcome State Fault Refusal :=
  laneInstr s a b (predLane (fdot2V (2 + t.toNat) r.toNat))

/-- R144: four-term FP8 dot product. -/
def execFdot4 (a b : BitVec 8) (r : BitVec 3) (f : BitVec 2) (s : State) : Host.Outcome State Fault Refusal :=
  laneInstr s a b (fdot4V r.toNat f.toNat)

/-- R144: four-term FP8 dot product; predicated (R67). -/
def execFdot4Pred (a b : BitVec 8) (r : BitVec 3) (f : BitVec 2) (s : State) : Host.Outcome State Fault Refusal :=
  laneInstr s a b (predLane (fdot4V r.toNat f.toNat))

end Sys2Proof.Machine
end

