-- ==== Sys2Proof/Machine/Int.lean ====
section
/-!
DEFINITION. Class INT: the meanings of its instructions (R134 to R139).
-/
namespace Sys2Proof.Machine

/-- R134: L + R per element, wrapped or saturated. -/
def execIadd (a b : BitVec 8) (t : BitVec 3) (sat : BitVec 1) (s : State) : Host.Outcome State Fault Refusal :=
  laneInstr s a b (noFlags (iaddV (ITy.ofCode t.toNat) (sat == 1)))

/-- R134: L + R per element, wrapped or saturated; predicated (R67). -/
def execIaddPred (a b : BitVec 8) (t : BitVec 3) (sat : BitVec 1) (s : State) : Host.Outcome State Fault Refusal :=
  laneInstr s a b (predLane (noFlags (iaddV (ITy.ofCode t.toNat) (sat == 1))))

/-- R134: L − R per element. -/
def execIsub (a b : BitVec 8) (t : BitVec 3) (sat : BitVec 1) (s : State) : Host.Outcome State Fault Refusal :=
  laneInstr s a b (noFlags (isubV (ITy.ofCode t.toNat) (sat == 1)))

/-- R134: L − R per element; predicated (R67). -/
def execIsubPred (a b : BitVec 8) (t : BitVec 3) (sat : BitVec 1) (s : State) : Host.Outcome State Fault Refusal :=
  laneInstr s a b (predLane (noFlags (isubV (ITy.ofCode t.toNat) (sat == 1))))

/-- R134: L · R per element. -/
def execImul (a b : BitVec 8) (t : BitVec 3) (sat : BitVec 1) (s : State) : Host.Outcome State Fault Refusal :=
  laneInstr s a b (noFlags (imulV (ITy.ofCode t.toNat) (sat == 1)))

/-- R134: L · R per element; predicated (R67). -/
def execImulPred (a b : BitVec 8) (t : BitVec 3) (sat : BitVec 1) (s : State) : Host.Outcome State Fault Refusal :=
  laneInstr s a b (predLane (noFlags (imulV (ITy.ofCode t.toNat) (sat == 1))))

/-- R134: the high half of the exact product. -/
def execImulh (a b : BitVec 8) (t : BitVec 2) (s : State) : Host.Outcome State Fault Refusal :=
  laneInstr s a b (noFlags (imulhV (ITy.ofCode t.toNat)))

/-- R134: the high half of the exact product; predicated (R67). -/
def execImulhPred (a b : BitVec 8) (t : BitVec 2) (s : State) : Host.Outcome State Fault Refusal :=
  laneInstr s a b (predLane (noFlags (imulhV (ITy.ofCode t.toNat))))

/-- R134: L · R + T, wrapped or clamped once. -/
def execImad (a b : BitVec 8) (t : BitVec 3) (sat : BitVec 1) (s : State) : Host.Outcome State Fault Refusal :=
  laneInstr s a b (noFlags (imadV (ITy.ofCode t.toNat) (sat == 1)))

/-- R134: L · R + T, wrapped or clamped once; predicated (R67). -/
def execImadPred (a b : BitVec 8) (t : BitVec 3) (sat : BitVec 1) (s : State) : Host.Outcome State Fault Refusal :=
  laneInstr s a b (predLane (noFlags (imadV (ITy.ofCode t.toNat) (sat == 1))))

/-- R134: the lesser of L and R. -/
def execImin (a b : BitVec 8) (t : BitVec 3) (s : State) : Host.Outcome State Fault Refusal :=
  laneInstr s a b (noFlags (iminV (ITy.ofCode t.toNat)))

/-- R134: the lesser of L and R; predicated (R67). -/
def execIminPred (a b : BitVec 8) (t : BitVec 3) (s : State) : Host.Outcome State Fault Refusal :=
  laneInstr s a b (predLane (noFlags (iminV (ITy.ofCode t.toNat))))

/-- R134: the greater of L and R. -/
def execImax (a b : BitVec 8) (t : BitVec 3) (s : State) : Host.Outcome State Fault Refusal :=
  laneInstr s a b (noFlags (imaxV (ITy.ofCode t.toNat)))

/-- R134: the greater of L and R; predicated (R67). -/
def execImaxPred (a b : BitVec 8) (t : BitVec 3) (s : State) : Host.Outcome State Fault Refusal :=
  laneInstr s a b (predLane (noFlags (imaxV (ITy.ofCode t.toNat))))

/-- R134: the magnitude of L. -/
def execIabs (a b : BitVec 8) (t : BitVec 2) (sat : BitVec 1) (s : State) : Host.Outcome State Fault Refusal :=
  laneInstr s a b (noFlags (iabsV (ITy.ofCode (2 * t.toNat)) (sat == 1)))

/-- R134: the magnitude of L; predicated (R67). -/
def execIabsPred (a b : BitVec 8) (t : BitVec 2) (sat : BitVec 1) (s : State) : Host.Outcome State Fault Refusal :=
  laneInstr s a b (predLane (noFlags (iabsV (ITy.ofCode (2 * t.toNat)) (sat == 1))))

/-- R134: −L. -/
def execIneg (a b : BitVec 8) (t : BitVec 2) (sat : BitVec 1) (s : State) : Host.Outcome State Fault Refusal :=
  laneInstr s a b (noFlags (inegV (ITy.ofCode (2 * t.toNat)) (sat == 1)))

/-- R134: −L; predicated (R67). -/
def execInegPred (a b : BitVec 8) (t : BitVec 2) (sat : BitVec 1) (s : State) : Host.Outcome State Fault Refusal :=
  laneInstr s a b (predLane (noFlags (inegV (ITy.ofCode (2 * t.toNat)) (sat == 1))))

/-- R134: L AND R. -/
def execIand (a b : BitVec 8) (t : BitVec 1) (s : State) : Host.Outcome State Fault Refusal :=
  laneInstr s a b (noFlags (andV (ITy.ofCode (2 * t.toNat + 1))))

/-- R134: L AND R; predicated (R67). -/
def execIandPred (a b : BitVec 8) (t : BitVec 1) (s : State) : Host.Outcome State Fault Refusal :=
  laneInstr s a b (predLane (noFlags (andV (ITy.ofCode (2 * t.toNat + 1)))))

/-- R134: L OR R. -/
def execIor (a b : BitVec 8) (t : BitVec 1) (s : State) : Host.Outcome State Fault Refusal :=
  laneInstr s a b (noFlags (orV (ITy.ofCode (2 * t.toNat + 1))))

/-- R134: L OR R; predicated (R67). -/
def execIorPred (a b : BitVec 8) (t : BitVec 1) (s : State) : Host.Outcome State Fault Refusal :=
  laneInstr s a b (predLane (noFlags (orV (ITy.ofCode (2 * t.toNat + 1)))))

/-- R134: L XOR R. -/
def execIxor (a b : BitVec 8) (t : BitVec 1) (s : State) : Host.Outcome State Fault Refusal :=
  laneInstr s a b (noFlags (xorV (ITy.ofCode (2 * t.toNat + 1))))

/-- R134: L XOR R; predicated (R67). -/
def execIxorPred (a b : BitVec 8) (t : BitVec 1) (s : State) : Host.Outcome State Fault Refusal :=
  laneInstr s a b (predLane (noFlags (xorV (ITy.ofCode (2 * t.toNat + 1)))))

/-- R134: L AND NOT R. -/
def execAndn (a b : BitVec 8) (t : BitVec 1) (s : State) : Host.Outcome State Fault Refusal :=
  laneInstr s a b (noFlags (andnV (ITy.ofCode (2 * t.toNat + 1))))

/-- R134: L AND NOT R; predicated (R67). -/
def execAndnPred (a b : BitVec 8) (t : BitVec 1) (s : State) : Host.Outcome State Fault Refusal :=
  laneInstr s a b (predLane (noFlags (andnV (ITy.ofCode (2 * t.toNat + 1)))))

/-- R134: NOT L. -/
def execInot (a b : BitVec 8) (t : BitVec 1) (s : State) : Host.Outcome State Fault Refusal :=
  laneInstr s a b (noFlags (notV (ITy.ofCode (2 * t.toNat + 1))))

/-- R134: NOT L; predicated (R67). -/
def execInotPred (a b : BitVec 8) (t : BitVec 1) (s : State) : Host.Outcome State Fault Refusal :=
  laneInstr s a b (predLane (noFlags (notV (ITy.ofCode (2 * t.toNat + 1)))))

/-- R135: left shift. -/
def execShl (a b : BitVec 8) (t : BitVec 2) (s : State) : Host.Outcome State Fault Refusal :=
  laneInstr s a b (noFlags (shlV (ITy.ofCode (2 * t.toNat + 1))))

/-- R135: left shift; predicated (R67). -/
def execShlPred (a b : BitVec 8) (t : BitVec 2) (s : State) : Host.Outcome State Fault Refusal :=
  laneInstr s a b (predLane (noFlags (shlV (ITy.ofCode (2 * t.toNat + 1)))))

/-- R135: right shift with zeros. -/
def execShr (a b : BitVec 8) (t : BitVec 2) (s : State) : Host.Outcome State Fault Refusal :=
  laneInstr s a b (noFlags (shrV (ITy.ofCode (2 * t.toNat + 1))))

/-- R135: right shift with zeros; predicated (R67). -/
def execShrPred (a b : BitVec 8) (t : BitVec 2) (s : State) : Host.Outcome State Fault Refusal :=
  laneInstr s a b (predLane (noFlags (shrV (ITy.ofCode (2 * t.toNat + 1)))))

/-- R135: right shift with sign bits. -/
def execSar (a b : BitVec 8) (t : BitVec 2) (s : State) : Host.Outcome State Fault Refusal :=
  laneInstr s a b (noFlags (sarV (ITy.ofCode (2 * t.toNat))))

/-- R135: right shift with sign bits; predicated (R67). -/
def execSarPred (a b : BitVec 8) (t : BitVec 2) (s : State) : Host.Outcome State Fault Refusal :=
  laneInstr s a b (predLane (noFlags (sarV (ITy.ofCode (2 * t.toNat)))))

/-- R135: left rotation. -/
def execRot (a b : BitVec 8) (t : BitVec 2) (s : State) : Host.Outcome State Fault Refusal :=
  laneInstr s a b (noFlags (rotV (ITy.ofCode (2 * t.toNat + 1))))

/-- R135: left rotation; predicated (R67). -/
def execRotPred (a b : BitVec 8) (t : BitVec 2) (s : State) : Host.Outcome State Fault Refusal :=
  laneInstr s a b (predLane (noFlags (rotV (ITy.ofCode (2 * t.toNat + 1)))))

/-- R136: field extract. -/
def execBfx (a b : BitVec 8) (t : BitVec 2) (s : State) : Host.Outcome State Fault Refusal :=
  laneInstr s a b (noFlags (bfxV (ITy.ofCode t.toNat)))

/-- R136: field extract; predicated (R67). -/
def execBfxPred (a b : BitVec 8) (t : BitVec 2) (s : State) : Host.Outcome State Fault Refusal :=
  laneInstr s a b (predLane (noFlags (bfxV (ITy.ofCode t.toNat))))

/-- R136: field insert. -/
def execBfi (a b : BitVec 8) (t : BitVec 1) (s : State) : Host.Outcome State Fault Refusal :=
  laneInstr s a b (noFlags (bfiV (ITy.ofCode (2 * t.toNat + 1))))

/-- R136: field insert; predicated (R67). -/
def execBfiPred (a b : BitVec 8) (t : BitVec 1) (s : State) : Host.Outcome State Fault Refusal :=
  laneInstr s a b (predLane (noFlags (bfiV (ITy.ofCode (2 * t.toNat + 1)))))

/-- R134: number of 1 bits. -/
def execPopc (a b : BitVec 8) (t : BitVec 1) (s : State) : Host.Outcome State Fault Refusal :=
  laneInstr s a b (noFlags (popcV (ITy.ofCode (2 * t.toNat + 1))))

/-- R134: number of 1 bits; predicated (R67). -/
def execPopcPred (a b : BitVec 8) (t : BitVec 1) (s : State) : Host.Outcome State Fault Refusal :=
  laneInstr s a b (predLane (noFlags (popcV (ITy.ofCode (2 * t.toNat + 1)))))

/-- R134: zero bits above the highest 1 bit. -/
def execClz (a b : BitVec 8) (t : BitVec 1) (s : State) : Host.Outcome State Fault Refusal :=
  laneInstr s a b (noFlags (clzV (ITy.ofCode (2 * t.toNat + 1))))

/-- R134: zero bits above the highest 1 bit; predicated (R67). -/
def execClzPred (a b : BitVec 8) (t : BitVec 1) (s : State) : Host.Outcome State Fault Refusal :=
  laneInstr s a b (predLane (noFlags (clzV (ITy.ofCode (2 * t.toNat + 1)))))

/-- R134: bits reversed. -/
def execBrev (a b : BitVec 8) (t : BitVec 1) (s : State) : Host.Outcome State Fault Refusal :=
  laneInstr s a b (noFlags (brevV (ITy.ofCode (2 * t.toNat + 1))))

/-- R134: bits reversed; predicated (R67). -/
def execBrevPred (a b : BitVec 8) (t : BitVec 1) (s : State) : Host.Outcome State Fault Refusal :=
  laneInstr s a b (predLane (noFlags (brevV (ITy.ofCode (2 * t.toNat + 1)))))

/-- R137: integer comparison. -/
def execIcmp (a b : BitVec 8) (t : BitVec 3) (c : BitVec 4) (s : State) : Host.Outcome State Fault Refusal :=
  laneInstr s a b (noFlags (icmpV (ITy.ofCode t.toNat) c.toNat))

/-- R137: integer comparison; predicated (R67). -/
def execIcmpPred (a b : BitVec 8) (t : BitVec 3) (c : BitVec 4) (s : State) : Host.Outcome State Fault Refusal :=
  laneInstr s a b (predLane (noFlags (icmpV (ITy.ofCode t.toNat) c.toNat)))

/-- R137: L where bit 0 of P is 1, R otherwise. -/
def execSel (a b : BitVec 8) (t : BitVec 2) (s : State) : Host.Outcome State Fault Refusal :=
  laneInstr s a b (noFlags (selV (ITy.ofCode t.toNat)))

/-- R137: all 64 bits of L. -/
def execMov (a b : BitVec 8) (s : State) : Host.Outcome State Fault Refusal :=
  laneInstr s a b (noFlags movV)

/-- R137: all 64 bits of L; predicated (R67). -/
def execMovPred (a b : BitVec 8) (s : State) : Host.Outcome State Fault Refusal :=
  laneInstr s a b (predLane (noFlags movV))

/-- R138: the address adder. -/
def execAddx (a b : BitVec 8) (t : BitVec 2) (x : BitVec 4) (s : State) : Host.Outcome State Fault Refusal :=
  laneInstr s a b (noFlags (addxV (ITy.ofCode t.toNat) x.toNat))

/-- R138: the address adder; predicated (R67). -/
def execAddxPred (a b : BitVec 8) (t : BitVec 2) (x : BitVec 4) (s : State) : Host.Outcome State Fault Refusal :=
  laneInstr s a b (predLane (noFlags (addxV (ITy.ofCode t.toNat) x.toNat)))

/-- R139: format-I integer instruction. -/
def execConst (a : BitVec 8) (i : BitVec 16) (s : State) : Host.Outcome State Fault Refusal :=
  laneInstr s a 0#8 (noFlags (constV i))

/-- R139: format-I integer instruction; predicated (R67). -/
def execConstPred (a : BitVec 8) (i : BitVec 16) (s : State) : Host.Outcome State Fault Refusal :=
  laneInstr s a 0#8 (predLane (noFlags (constV i)))

/-- R139: format-I integer instruction. -/
def execConsh (a : BitVec 8) (i : BitVec 16) (s : State) : Host.Outcome State Fault Refusal :=
  laneInstr s a 0#8 (noFlags (conshV i))

/-- R139: format-I integer instruction; predicated (R67). -/
def execConshPred (a : BitVec 8) (i : BitVec 16) (s : State) : Host.Outcome State Fault Refusal :=
  laneInstr s a 0#8 (predLane (noFlags (conshV i)))

/-- R139: format-I integer instruction. -/
def execConsw (a : BitVec 8) (i : BitVec 16) (s : State) : Host.Outcome State Fault Refusal :=
  laneInstr s a 0#8 (noFlags (conswV i))

/-- R139: format-I integer instruction; predicated (R67). -/
def execConswPred (a : BitVec 8) (i : BitVec 16) (s : State) : Host.Outcome State Fault Refusal :=
  laneInstr s a 0#8 (predLane (noFlags (conswV i)))

/-- R139: format-I integer instruction. -/
def execIaddi (a : BitVec 8) (i : BitVec 16) (s : State) : Host.Outcome State Fault Refusal :=
  laneInstr s a 0#8 (noFlags (iaddiV i))

/-- R139: format-I integer instruction; predicated (R67). -/
def execIaddiPred (a : BitVec 8) (i : BitVec 16) (s : State) : Host.Outcome State Fault Refusal :=
  laneInstr s a 0#8 (predLane (noFlags (iaddiV i)))

end Sys2Proof.Machine
end

