-- ==== Sys2Proof/Machine/Launch.lean ====
section
/-!
DEFINITION. Class SCHED: `launch`, `nrec`, `dsig` and `dpub` (R256 to R261).
-/
namespace Sys2Proof.Machine

/-- R256: a release: the instruction waits until every earlier operation of its train on every path has completed, then executes. -/
def schedInstr (s : State) (f : Nat → State → Train → Host.Outcome State Fault Refusal) : Host.Outcome State Fault Refusal :=
  withTrain s (fun c t =>
    afterWrites s c t 63 (fun s1 => if (s1.core c).pathsBusy t.uid 63 then .next (s1.holdTrain c t .paths) else f c s1 t))

/-- R261: the checks of one seat's address: bits, alignment, translation and permission. The page is not REMOTE, and for a counter not
IMM. -/
def State.schedAccess (s : State) (c : Nat) (t : Train) (a b : Word) (align alignB : Nat) (need : Need) : Acc :=
  if !vaOk a.toNat || !vaOk b.toNat then .bad ACCESS_VIOLATION
  else if a.toNat % align != 0 || b.toNat % alignB != 0 then .bad MISALIGNED
  else
    match s.translate c t.asid t.failed a.toNat align need with
    | .ok pa e =>
      if leafRemote e.leaf || (need == .rmw && leafIMM e.leaf) then .bad ACCESS_VIOLATION
      else if granuleBad s.bad pa align then .bad DATA_UNCORRECTABLE
      else .ok pa e
    | r => r

/-- The seats of a SCHED instruction in order: every seat's address is checked (a miss holds the train), a seat that fails faults, and `f`
performs the others. `b` gives the operand T of `dpub`. -/
def schedSeats (s : State) (align alignB : Nat) (need : Need) (b : Train → Seat → Word)
    (f : Nat → State → Train → Seat → Nat → State) : Host.Outcome State Fault Refusal :=
  schedInstr s (fun c s1 t =>
    let cs := t.seats.map (fun x => (x, s1.schedAccess c t (t.slot x.n t.pc .l) (b t x) align alignB need))
    let ms := cs.filterMap (fun a => match a.2 with | .miss => some ((t.slot a.1.n t.pc .l).toNat, need.kind, 7) | _ => none)
    if ms.isEmpty then
      let r := cs.foldl (fun (p : State × Train) a =>
        match a.2 with
        | .ok pa _ => (f c p.1 t a.1 pa, p.2)
        | .bad code => p.1.takeFault c p.2 a.1 code 0 0 (t.slot a.1.n t.pc .l).toNat t.pc
        | .miss => p) (s1.looked c t, t)
      .next ((r.1.putTrain c r.2).retireUid c t.uid)
    else .next (s1.missHold c t ms))

/-- An effect of a SCHED instruction: at once, or at the superstep boundary (R263). -/
def State.schedDo (s : State) (c : Nat) (r : LaunchRef) (e : LEff) (now : State → State) : State :=
  if s.inTT r then s.updCore c (fun k => { k with lhold := k.lhold ++ [e] }) else now s

/-- R258 `launch`: the record of each active seat goes to device queue 8 + q. -/
def execLaunch (q : BitVec 3) (s : State) : Host.Outcome State Fault Refusal :=
  schedSeats s 256 1 .read (fun _ _ => 0) (fun c st t x _ =>
    let g : Firing := { issuer := t.launch, die := dieOf c, queue := 8 + q.toNat, asid := t.asid, va := (t.slot x.n t.pc .l).toNat,
                        created := st.inTT t.launch, failed := false, unit := none, got := none }
    st.schedDo c t.launch (.fire g) (fun s' => s'.fireTry g))

/-- R260: a counter update of one seat. -/
def State.ctrSeat (s : State) (c : Nat) (t : Train) (pa : Nat) (op : CtrOp) : State :=
  s.schedDo c t.launch (.ctr pa op t.launch t.asid) (fun s' => s'.ctrNow pa op t.launch (dieOf c) t.asid false)

/-- R260 `dsig`: signals a dependence counter. -/
def execDsig (s : State) : Host.Outcome State Fault Refusal :=
  schedSeats s 16 1 .rmw (fun _ _ => 0) (fun c st t x pa => st.ctrSeat c t pa (.sig (bits (t.slot x.n t.pc .r) 15 0)))

/-- R260 `dpub`: publishes a dependence counter for device queue 8 + q. -/
def execDpub (q : BitVec 3) (s : State) : Host.Outcome State Fault Refusal :=
  schedSeats s 16 256 .rmw (fun t x => t.slot x.n t.pc .t) (fun c st t x pa =>
    st.ctrSeat c t pa (.pub (bits (t.slot x.n t.pc .r) 31 0) (8 + q.toNat) (t.slot x.n t.pc .t).toNat))

/-- R259, R261: one seat of `nrec`: its record, none for a dropped one, or the fault code. -/
def State.nrecSeat (s : State) (c : Nat) (t : Train) (node : BitVec 2048) (x : Seat) : Except Nat (Option (List Byte)) :=
  let a := t.slot x.n t.pc .l
  let n := recRSize node
  if !vaOk a.toNat then .error ACCESS_VIOLATION
  else if spOffset a % 16 != 0 then .error MISALIGNED
  else
    match s.spAccess c t.launch a 16 with
    | .error code => .error code
    | .ok (core, off) =>
      if (((s.core core).window? t.launch).map (·.size)).getD 0 < off + n then .error ACCESS_VIOLATION
      else
        (s.winGet c t core off n).map (fun bs => if recRagged node && ofLE (bs.take 4) == 0 then none else some bs)

/-- R259 `nrec`: the records of the active seats go to the node's yard on this die. -/
def execNrec (n : BitVec 6) (s : State) : Host.Outcome State Fault Refusal :=
  schedInstr s (fun c s1 t =>
    let nodes := ((s1.launch? t.launch).map (fun l => recNodes l.record)).getD 0
    if nodes ≤ n.toNat then .next (s1.faultAll c t DEST_RANGE n.toNat)
    else
      let node := s1.nodeRec t.launch n.toNat
      let rs := t.seats.map (fun x => (x, s1.nrecSeat c t node x))
      let r := rs.foldl (fun (p : State × Train) a =>
        match a.2 with
        | .error code => p.1.takeFault c p.2 a.1 code 0 0 (t.slot a.1.n t.pc .l).toNat t.pc
        | .ok _ => p) (s1, t)
      let recs := rs.filterMap (fun a =>
        match a.2 with
        | .ok (some bs) => some (bs, s1.tagOf c a.1.inst)
        | _ => none)
      let d := r.1.draw
      let pack : YPack := { due := s.cyc.toNat + 16 + Config.latency d.1, launch := t.launch, node := n.toNat,
                            key := (recs.head?.map (·.2)).getD 0, recs := recs }
      let s2 := if recs.isEmpty then r.1 else d.2.schedDo c t.launch (.pack pack) (fun st => st.sendPack (dieOf c) pack)
      .next ((s2.putTrain c r.2).retireUid c t.uid))

end Sys2Proof.Machine
end

