-- ==== Sys2Proof/Machine/Net.lean ====
section
/-!
DEFINITION. Class NET: queues and row frames (R449 to R454).
-/
namespace Sys2Proof.Machine

/-! ## Handles (R450) -/

/-- R450 steps 1 and 2. -/
def State.handleOk (s : State) (h : Word) : Bool :=
  bit h 29 && bits h 28 16 == 0 && decide (qhCore h ≤ 1279) && s.link.members.contains (qhDev h)

/-- R450: the fault of a handle for `qenq` (own false), or for `qdeq` and `qkill` of a train of core c in an ASID. -/
def State.handleFault (s : State) (c asid : Nat) (r : LaunchRef) (own : Bool) (h : Word) : Option Nat :=
  if !s.handleOk h then some ACCESS_VIOLATION
  else if own then
    if qhDev h ≠ s.link.device ∨ qhCore h ≠ c ∨ qhAsid h ≠ asid then some ACCESS_VIOLATION else none
  else if qhDev h ≠ s.link.device ∧ s.featOn r 8 = false then some FEATURE_OFF
  else none

/-- Seats served in order, each of which may hold the train (R451, R454): `f` gives none while the seat must wait. The seats already
served are those below `moved`. -/
def serveSeats (f : State → Train → Seat → Option (State × Train)) : State → Train → List Seat → State × Train × Bool
  | s, t, [] => (s, t, true)
  | s, t, x :: xs =>
    match f s t x with
    | none => (s, t, false)
    | some (s1, t1) => serveSeats f s1 { t1 with moved := x.n + 1 } xs

/-- The seats still to serve, and what becomes of the train: retired, or held. -/
def State.serve (s : State) (c : Nat) (t : Train) (h : Hold) (f : State → Train → Seat → Option (State × Train)) : State :=
  match serveSeats f s t (t.seats.filter (fun x => decide (t.moved ≤ x.n))) with
  | (s1, t1, true) => (s1.putTrain c t1).retireUid c t1.uid
  | (s1, t1, false) => (s1.putTrain c t1).holdTrain c t1 h

/-! ## qenq and qdeq (R451) -/

/-- R441: unacknowledged entries of a core for a queue. -/
def Core.window (k : Core) (h : Word) : Nat := (k.qsent.filter (fun q => qhQueue q.handle == qhQueue h)).length

/-- R451: an entry sent to its queue: on this device behind the core's earlier ones for it (R431), at the boundary in timetable mode
(R458), or over the link. -/
def State.sendEntry (s : State) (c : Nat) (tt : Bool) (h : Word) (e : QEntry) : State :=
  if qhDev h ≠ s.link.device then s.emit (.entry (qhDev h) h e)
  else if tt then s.updCore c (fun k => { k with qhold := k.qhold ++ [(qhCore h, ⟨0, h, e⟩)] })
  else
    let d := s.draw
    let last := ((s.core (qhCore h)).qin.filter (fun f => f.entry.core == c && f.entry.dev == e.dev && qhQueue f.handle == qhQueue h)).foldl
      (fun m f => Nat.max m f.due) 0
    let due := Nat.max last (s.cyc.toNat + tokenDelay c (qhCore h) (Config.latency d.1))
    d.2.updCore (qhCore h) (fun k => { k with qin := k.qin ++ [⟨due, h, e⟩] })

/-- R451: one seat of `qenq`; none while the window of its queue is used. -/
def State.qenqSeat (s : State) (c : Nat) (t : Train) (ring : Option Nat) (x : Seat) : Option (State × Train) :=
  let h := t.slot x.n t.pc .l
  match s.handleFault c t.asid t.launch false h with
  | some code => some (s.takeFault c t x code 0 0 0 t.pc)
  | none =>
    if 16 ≤ (s.core c).window h then none
    else
      let n := s.newOp c
      let ser := (s.core c).qser + 1
      let own := s.tagOf c x.inst
      let e : QEntry := { data := t.slot x.n t.pc .r, sasid := t.asid, sender := tagHandle own, qseq := 0, spilled := false,
                          dev := s.link.device, core := c, ser := ser, resv := none }
      let q : QSent := { ser := ser, handle := h, data := e.data, src := own, ring := ring, info := s.seatInfo c t x 0 0 0 0 t.pc, opId := n.1,
                         page := none, pageFail := false }
      let s1 := (n.2.startOp c t.uid 23 5 n.1).updCore c (fun k => { k with qser := ser, qsent := k.qsent ++ [q] })
      some (s1.sendEntry c (s.inTT t.launch) h e, t)

/-- R451 `qenq`: a release at SCOPE, then one entry for each active seat. -/
def execQenq (sc : BitVec 3) (v : BitVec 1) (k : BitVec 2) (s : State) : Host.Outcome State Fault Refusal :=
  withScope s true sc.toNat (fun c t =>
    afterWrites s c t 1 (fun s1 =>
      if (s1.core c).pathsBusy t.uid 1 then .next (s1.holdTrain c t .paths)
      else
        let ring := if v = 1 then some k.toNat else none
        .next (s1.serve c t .queue (fun st tr x => st.qenqSeat c tr ring x))))

/-- The first resident entry without a reservation, reserved. -/
def reserveFirst (mark : Nat × Nat × Nat) : List QEntry → List QEntry
  | [] => []
  | e :: es => if e.resv.isNone then { e with resv := some mark } :: es else e :: reserveFirst mark es

/-- R451: one seat of `qdeq`; none while it has no entry to take. -/
def State.qdeqSeat (s : State) (c : Nat) (t : Train) (a : Nat) (try' : Bool) (x : Seat) : Option (State × Train) :=
  let h := t.slot x.n t.pc .l
  let give := fun (st : State) (data word : Word) => some (st.issueLate c t x (loadTargets a 4) [(a, data), (a + 1, word)] data 0 23 5 .far)
  match s.handleFault c t.asid t.launch true h with
  | some code => some (s.takeFault c t x code 0 0 0 t.pc)
  | none =>
    match (s.core c).current h with
    | none => give s 0 (BitVec.ofNat 64 (2 ^ 61))
    | some q =>
      match q.ready with
      | [] => if try' then give s 0 0 else none
      | e :: _ =>
        let q1 := { q with resident := reserveFirst (t.uid, x.inst.handle, x.inst.idx) q.resident }
        give (s.setQueue c (qhNum h) q1) e.data e.metaWord

/-- R451 `qdeq`: one entry for each active seat; the result is late. -/
def execQdeq (a : BitVec 8) (sc : BitVec 3) (t : BitVec 1) (s : State) : Host.Outcome State Fault Refusal :=
  withScope s true sc.toNat (fun c t0 =>
    match s.prepare c t0 with
    | .hold s' => .next s'
    | .go s1 t1 => .next (s1.serve c t1 .queue (fun st tr x => st.qdeqSeat c tr a.toNat (t == 1) x)))

/-! ## qpoll, qmake, qkill (R453) -/

/-- R453: the count word of a handle on its own core. -/
def Core.countWord (k : Core) (h : Word) : Word :=
  match k.current h with
  | some q =>
    BitVec.ofNat 64 (2 ^ 63 + b2n q.held * 2 ^ 62 + b2n q.spillFail * 2 ^ 61 + q.gen % 2 ^ 16 * 2 ^ 32 + (q.ready.length + q.scount) % 2 ^ 32)
  | none => BitVec.ofNat 64 ((k.queue (qhNum h)).gen % 2 ^ 16 * 2 ^ 32)

/-- R450, R453 `qpoll`: in its issue cycle. -/
def execQpoll (a : BitVec 8) (s : State) : Host.Outcome State Fault Refusal :=
  withTrain s (fun c t0 =>
    match s.prepare c t0 with
    | .hold s' => .next s'
    | .go s1 t =>
      let bad := t.seats.filter (fun x => !s1.handleOk (t.slot x.n t.pc .l))
      let r := s1.takeFaults c t ACCESS_VIOLATION t.pc (bad.map (fun x => (x, 0, 0)))
      let out := fun (x : Seat) =>
        let h := t.slot x.n t.pc .l
        if qhDev h = s1.link.device ∧ qhCore h = c then (s1.core c).countWord h else 0
      .next (r.1.finishLanes c r.2 [a.toNat] (r.2.seats.map (fun x => (x, ⟨out x, 0⟩)))))

/-- R440: a queue descriptor is well-formed. -/
def queueDescOk (d : Nat) : Bool :=
  natBits d 255 249 == 0 && natBits d 191 16 == 0 && natBits d 7 2 == 0 && decide (natBits d 1 0 ≤ 1) &&
  decide (2 ≤ natBits d 11 8 ∧ natBits d 11 8 ≤ 8) && natBits d 248 192 != 0 && natBits d 248 192 % 4096 == 0

/-- R441: entries of the queue store that live queues hold. -/
def Core.storeUsed (k : Core) : Nat := (k.queues.map (fun q => if q.2.live then q.2.cap else 0)).foldl (· + ·) 0

/-- R453: a queue made from a descriptor: the lowest free number, its GEN advanced; none without a number or capacity. -/
def State.makeQueue (s : State) (c : Nat) (r : LaunchRef) (asid owner d : Nat) : Option (State × Word) :=
  let k := s.core c
  match (List.range 64).find? (fun i => !(k.queue i).live) with
  | none => none
  | some n =>
    if 1024 < k.storeUsed + 2 ^ natBits d 11 8 then none
    else
      let q : Queue := { Queue.unused with
        live := true, gen := ((k.queue n).gen + 1) % 65536, oasid := asid, owner := owner, launch := r, slog := natBits d 15 12,
        caplog := natBits d 11 8, open' := natBits d 1 0, sbase := natBits d 248 192 }
      some (s.setQueue c n q, s.queueHandle c n q)

/-- The engine unit under which a train's descriptor read waits for a peer. -/
def unitNet (train : Nat) : Nat := 20480 + train

/-- R453: one seat of `qmake` whose descriptor can be read. -/
def State.qmakeSeat (s : State) (c : Nat) (t : Train) (a : Nat) (x : Seat) : State × Train :=
  let va := (t.slot x.n t.pc .l).toNat
  let give := fun (st : State) (v : Word) => st.giveSeat c t x a v 0
  match s.access c t.asid t.failed va 32 .read with
  | .bad code => s.takeFault c t x code 0 0 va t.pc
  | .miss => (s, t)
  | .ok _ _ =>
    match s.engRead c (unitNet t.number) t.asid va 32 with
    | .ok bs _ _ _ =>
      let d := ofLE bs
      if !queueDescOk d then s.takeFault c t x ILLEGAL_FORMAT 0 0 0 t.pc
      else
        match s.makeQueue c t.launch t.asid (tagHandle (s.tagOf c x.inst)) d with
        | some (s1, h) => give s1 h
        | none => give s 0
    | .bad code _ => s.takeFault c t x code 0 0 va t.pc
    | _ => s.takeFault c t x PAGE_UNRESOLVED 0 0 va t.pc

/-- R453 `qmake`. A descriptor on a REMOTE page is fetched first (R433). -/
def execQmake (a : BitVec 8) (s : State) : Host.Outcome State Fault Refusal :=
  withTrain s (fun c t0 =>
    match s.prepare c t0 with
    | .hold s' => .next s'
    | .go s0 t =>
      let s1 := s0.drainTrain c t
      let vas := t.seats.map (fun x => (t.slot x.n t.pc .l).toNat)
      let ms := vas.filterMap (fun va => match s1.access c t.asid t.failed va 32 .read with | .miss => some (va, Need.read.kind, 5) | _ => none)
      if !ms.isEmpty then .next (s1.missHold c t ms)
      else
        let unit := unitNet t.number
        let far := vas.filterMap (fun va =>
          match s1.access c t.asid t.failed va 32 .read with
          | .ok _ _ => match s1.engRead c unit t.asid va 32 with | .remote p pa n va _ => some (p, pa, n, va) | _ => none
          | _ => none)
        match far with
        | [] =>
          let r := s1.actSeats c t (t.seats.map (fun x => (x, ()))) (fun st tr x _ => st.qmakeSeat c tr a.toNat x)
          .next ((((r.1.putTrain c r.2).updEng c (fun e => e.dropRemote unit))).retireUid c t.uid)
        | (p, pa, n, va) :: _ =>
          let s2 := if (s1.core c).eng.asked unit then s1 else s1.engAsk c unit t.launch p pa n va .engRead
          .next (s2.holdTrain c t .engine))

/-- R453: one seat of `qkill`. -/
def State.qkillSeat (s : State) (c : Nat) (t : Train) (a : Nat) (x : Seat) : State × Train :=
  let h := t.slot x.n t.pc .l
  let give := fun (st : State) (v : Word) => st.giveSeat c t x a v 0
  match s.handleFault c t.asid t.launch true h with
  | some code => s.takeFault c t x code 0 0 0 t.pc
  | none =>
    match (s.core c).current h with
    | none => give s 0
    | some q =>
      if q.launch ≠ t.launch then s.takeFault c t x ACCESS_VIOLATION 0 0 0 t.pc
      else give (s.queueKill c (qhNum h)) (BitVec.ofNat 64 (q.resident.length + q.scount))

/-- R453 `qkill`. -/
def execQkill (a : BitVec 8) (s : State) : Host.Outcome State Fault Refusal :=
  withTrain s (fun c t0 =>
    match s.prepare c t0 with
    | .hold s' => .next s'
    | .go s1 t =>
      let r := s1.actSeats c t (t.seats.map (fun x => (x, ()))) (fun st tr x _ => st.qkillSeat c tr a.toNat x)
      .next ((r.1.putTrain c r.2).retireUid c t.uid))

/-! ## frmput and frmclose (R454) -/

/-- R454: the fault of a frame descriptor. -/
def State.frameDescFault (s : State) (t : Train) (d : Nat) : Option Nat :=
  if !frameDescOk d then some ILLEGAL_FORMAT
  else
    match s.tagFault t.asid (rfTag d) with
    | some code => some code
    | none => if s.destCount t.asid t.prog ≤ rfDest d then some DEST_RANGE else none

/-- R454: the builder a seat's row goes to, opened from the seat's descriptor when it is empty; or a fault code with its address. -/
def State.openBuilder (s : State) (c b : Nat) (t : Train) (x : Seat) : Except (Nat × Nat) Builder :=
  let y := (s.core c).builder b
  if !y.idle then .ok y
  else
    let w := t.slot x.n t.pc .l
    match s.spAccess c t.launch w 64 with
    | .error code => .error (code, w.toNat)
    | .ok (k, off) =>
      match s.winGet c t k off 64 with
      | .error code => .error (code, w.toNat)
      | .ok bs =>
        match s.frameDescFault t (ofLE bs) with
        | some code => .error (code, 0)
        | none => .ok { Builder.empty with launch := t.launch, desc := ofLE bs, flying := y.flying, flyOp := y.flyOp }

/-- R454: the row of a seat, or a fault code. -/
def State.frameRow (s : State) (c : Nat) (t : Train) (x : Seat) (rb : Nat) : Except Nat (List Byte) :=
  let w := t.slot x.n t.pc .t
  match s.spAccess c t.launch w 16 with
  | .error code => .error code
  | .ok (k, off) =>
    match (s.core k).window? t.launch with
    | none => .error ACCESS_VIOLATION
    | some v => if off + rb ≤ v.size then s.winGet c t k off rb else .error ACCESS_VIOLATION

/-- R447: a builder that can take a row: filling below CAP, or with place for a new frame; none while it has none. -/
def Builder.ready (y : Builder) (c b dev : Nat) : Option Builder :=
  let cap := frameCap (rfTsize y.desc) (rfRowBytes y.desc)
  if y.filling then
    if y.rows.length < cap then some y
    else if y.flying then none else y.close c b dev
  else if y.closed.isSome && y.flying then none
  else some y

/-- R454: a row added. -/
def Builder.addRow (y : Builder) (src : Word) (clock id : Nat) (row : List Byte) : Builder :=
  if y.filling then { y with rows := y.rows ++ [(id, row)] }
  else { y with filling := true, rows := [(id, row)], src := src, firstAt := clock }

/-- R454: one seat of `frmput`; none while the builder has no free frame. -/
def State.frmputSeat (s : State) (c b : Nat) (t : Train) (x : Seat) : Option (State × Train) :=
  match s.openBuilder c b t x with
  | .error (code, addr) => some (s.takeFault c t x code 0 0 addr t.pc)
  | .ok y =>
    match s.frameRow c t x (rfRowBytes y.desc) with
    | .error code => some (s.takeFault c t x code 0 0 (t.slot x.n t.pc .t).toNat t.pc)
    | .ok row =>
      match y.ready c b s.link.device with
      | none => none
      | some z =>
        let clock := s.clock c (s.inTT t.launch)
        some (s.setBuilder c b (z.addRow (s.tagOf c x.inst) clock (bits (t.slot x.n t.pc .r) 31 0) row), t)

/-- R447: a builder of timer class 0 closes its frame after each instruction. -/
def State.closeAtOnce (s : State) (c b : Nat) : State :=
  let y := (s.core c).builder b
  if rfTimer y.desc = 0 then
    match y.close c b s.link.device with
    | some z => s.setBuilder c b z
    | none => s
  else s

/-- R454 `frmput`. -/
def execFrmput (b : BitVec 3) (s : State) : Host.Outcome State Fault Refusal :=
  withTrain s (fun c t =>
    afterWrites s c t 1 (fun s1 =>
      let y := (s1.core c).builder b.toNat
      if (s1.core c).pathsBusy t.uid 1 then .next (s1.holdTrain c t .paths)
      else if !y.idle && y.launch != t.launch then .next (s1.holdTrain c t .builder)
      else .next ((s1.serve c t .builder (fun st tr x => st.frmputSeat c b.toNat tr x)).closeAtOnce c b.toNat)))

/-- Builders that an instruction of a launch closes. -/
def Core.openBuilders (k : Core) (r : LaunchRef) : List Nat :=
  (k.builders.filter (fun e => e.2.launch == r && e.2.filling)).map (·.1)

/-- R454: a builder closed for a train: the operation ends when the frame has been sent. -/
def State.closeFor (s : State) (c uid b : Nat) : State :=
  match ((s.core c).builder b).close c b s.link.device with
  | some z =>
    let n := s.newOp c
    (n.2.startOp c uid 23 5 n.1).setBuilder c b { z with ops := z.ops ++ [n.1] }
  | none => s

/-- R454 `frmclose`: once for the train; it holds while a frame to close has no place behind the one that waits. -/
def execFrmclose (l : BitVec 1) (b : BitVec 3) (s : State) : Host.Outcome State Fault Refusal :=
  withTrain s (fun c t =>
    let bs := ((s.core c).openBuilders t.launch).filter (fun i => l == 1 || i == b.toNat)
    if bs.any (fun i => ((s.core c).builder i).closed.isSome) then .next (s.holdTrain c t .builder)
    else .next ((bs.foldl (fun st i => st.closeFor c t.uid i) s).retire c t))

end Sys2Proof.Machine
end

