-- ==== Sys2Proof/Machine/Sfn.lean ====
section
/-!
DEFINITION. Class SFN: the meanings of its instructions (R145 to R150).
-/
namespace Sys2Proof.Machine

/-- R145, R146: 1 / L; the rounding field is ignored. -/
def execFrcp (a b : BitVec 8) (_r : BitVec 3) (s : State) : Host.Outcome State Fault Refusal :=
  lateInstr s a b (frcpV)

/-- R145, R146: 1 / L; the rounding field is ignored; predicated (R67). -/
def execFrcpPred (a b : BitVec 8) (_r : BitVec 3) (s : State) : Host.Outcome State Fault Refusal :=
  lateInstr s a b (predLane (frcpV))

/-- R145, R146: 1 / √L; the rounding field is ignored. -/
def execFrsq (a b : BitVec 8) (_r : BitVec 3) (s : State) : Host.Outcome State Fault Refusal :=
  lateInstr s a b (frsqV)

/-- R145, R146: 1 / √L; the rounding field is ignored; predicated (R67). -/
def execFrsqPred (a b : BitVec 8) (_r : BitVec 3) (s : State) : Host.Outcome State Fault Refusal :=
  lateInstr s a b (predLane (frsqV))

/-- R145, R146: √L. -/
def execFsqrt (a b : BitVec 8) (r : BitVec 3) (t : BitVec 1) (s : State) : Host.Outcome State Fault Refusal :=
  lateInstr s a b (fsqrtV t.toNat r.toNat)

/-- R145, R146: √L; predicated (R67). -/
def execFsqrtPred (a b : BitVec 8) (r : BitVec 3) (t : BitVec 1) (s : State) : Host.Outcome State Fault Refusal :=
  lateInstr s a b (predLane (fsqrtV t.toNat r.toNat))

/-- R145, R146: L / R. -/
def execFdiv (a b : BitVec 8) (r : BitVec 3) (t : BitVec 1) (s : State) : Host.Outcome State Fault Refusal :=
  lateInstr s a b (fdivV t.toNat r.toNat)

/-- R145, R146: L / R; predicated (R67). -/
def execFdivPred (a b : BitVec 8) (r : BitVec 3) (t : BitVec 1) (s : State) : Host.Outcome State Fault Refusal :=
  lateInstr s a b (predLane (fdivV t.toNat r.toNat))

/-- R145, R146: 2^L; the rounding field is ignored. -/
def execFexp2 (a b : BitVec 8) (_r : BitVec 3) (s : State) : Host.Outcome State Fault Refusal :=
  lateInstr s a b (fexp2V)

/-- R145, R146: 2^L; the rounding field is ignored; predicated (R67). -/
def execFexp2Pred (a b : BitVec 8) (_r : BitVec 3) (s : State) : Host.Outcome State Fault Refusal :=
  lateInstr s a b (predLane (fexp2V))

/-- R145, R146: log2 L; the rounding field is ignored. -/
def execFlog2 (a b : BitVec 8) (_r : BitVec 3) (s : State) : Host.Outcome State Fault Refusal :=
  lateInstr s a b (flog2V)

/-- R145, R146: log2 L; the rounding field is ignored; predicated (R67). -/
def execFlog2Pred (a b : BitVec 8) (_r : BitVec 3) (s : State) : Host.Outcome State Fault Refusal :=
  lateInstr s a b (predLane (flog2V))

/-- R145, R146: sin L; the rounding field is ignored. -/
def execFsin (a b : BitVec 8) (_r : BitVec 3) (s : State) : Host.Outcome State Fault Refusal :=
  lateInstr s a b (fsinV)

/-- R145, R146: sin L; the rounding field is ignored; predicated (R67). -/
def execFsinPred (a b : BitVec 8) (_r : BitVec 3) (s : State) : Host.Outcome State Fault Refusal :=
  lateInstr s a b (predLane (fsinV))

/-- R145, R146: cos L; the rounding field is ignored. -/
def execFcos (a b : BitVec 8) (_r : BitVec 3) (s : State) : Host.Outcome State Fault Refusal :=
  lateInstr s a b (fcosV)

/-- R145, R146: cos L; the rounding field is ignored; predicated (R67). -/
def execFcosPred (a b : BitVec 8) (_r : BitVec 3) (s : State) : Host.Outcome State Fault Refusal :=
  lateInstr s a b (predLane (fcosV))

/-- R145, R146: tanh L; the rounding field is ignored. -/
def execFtanh (a b : BitVec 8) (_r : BitVec 3) (s : State) : Host.Outcome State Fault Refusal :=
  lateInstr s a b (ftanhV)

/-- R145, R146: tanh L; the rounding field is ignored; predicated (R67). -/
def execFtanhPred (a b : BitVec 8) (_r : BitVec 3) (s : State) : Host.Outcome State Fault Refusal :=
  lateInstr s a b (predLane (ftanhV))

/-- R145, R146: L rounded to an integral value. -/
def execFrint (a b : BitVec 8) (r : BitVec 3) (t : BitVec 2) (s : State) : Host.Outcome State Fault Refusal :=
  lateInstr s a b (frintV t.toNat r.toNat)

/-- R145, R146: L rounded to an integral value; predicated (R67). -/
def execFrintPred (a b : BitVec 8) (r : BitVec 3) (t : BitVec 2) (s : State) : Host.Outcome State Fault Refusal :=
  lateInstr s a b (predLane (frintV t.toNat r.toNat))

/-- R70, R148: whether a conversion code needs feature 10 and the launch does not have it. -/
def cvtOff (s : State) (c : Nat) : Bool :=
  match s.train? with
  | some t => cvtNeedsFP64 c && !s.featOn t.launch 10
  | none => false

/-- R148, R149: conversions; a code that needs feature 10 without it faults with `FEATURE_OFF` (R131). -/
def execCvt (a b : BitVec 8) (r : BitVec 3) (c : BitVec 5) (s : State) : Host.Outcome State Fault Refusal :=
  lateLane s a b (fun _ => cvtOff s c.toNat) (fun _ _ _ x => cvtV r.toNat c.toNat x)

/-- R148, R149, R67: conversions, predicated. -/
def execCvtPred (a b : BitVec 8) (r : BitVec 3) (c : BitVec 5) (s : State) : Host.Outcome State Fault Refusal :=
  lateLane s a b (fun x => bit x.p 0 && cvtOff s c.toNat) (fun _ _ _ => predLane (cvtV r.toNat c.toNat))

/-- R94, R150: the block scale of a seat: byte J of slot T of seat 8·floor(s/8), zero when that seat is inactive. -/
def cvtscScale (j : Nat) (t : Train) (x : Seat) : Nat :=
  bits (t.slot (x.n / 8 * 8) t.pc .t) (8 * j + 7) (8 * j)

/-- R70: feature 6 is not effective for the current launch. -/
def mxOff (s : State) : Bool :=
  match s.train? with
  | some t => !s.featOn t.launch 6
  | none => false

/-- R150: the scaled narrow conversion; without feature 6 it faults with `FEATURE_OFF`. -/
def execCvtsc (a b : BitVec 8) (r f : BitVec 3) (j : BitVec 2) (s : State) : Host.Outcome State Fault Refusal :=
  lateLane s a b (fun _ => mxOff s) (fun t _ x y => cvtscV r.toNat f.toNat (cvtscScale j.toNat t x) y)

/-- R150, R67: the scaled narrow conversion, predicated. -/
def execCvtscPred (a b : BitVec 8) (r f : BitVec 3) (j : BitVec 2) (s : State) : Host.Outcome State Fault Refusal :=
  lateLane s a b (fun y => bit y.p 0 && mxOff s)
    (fun t _ x => predLane (cvtscV r.toNat f.toNat (cvtscScale j.toNat t x)))

/-- R147: quotient truncated toward zero. -/
def execIdiv (a b : BitVec 8) (t : BitVec 2) (sat : BitVec 1) (s : State) : Host.Outcome State Fault Refusal :=
  lateInstr s a b (noFlags (idivV (ITy.ofCode t.toNat) (sat == 1)))

/-- R147: quotient truncated toward zero; predicated (R67). -/
def execIdivPred (a b : BitVec 8) (t : BitVec 2) (sat : BitVec 1) (s : State) : Host.Outcome State Fault Refusal :=
  lateInstr s a b (predLane (noFlags (idivV (ITy.ofCode t.toNat) (sat == 1))))

/-- R147: remainder with the sign of L. -/
def execIrem (a b : BitVec 8) (t : BitVec 2) (s : State) : Host.Outcome State Fault Refusal :=
  lateInstr s a b (noFlags (iremV (ITy.ofCode t.toNat)))

/-- R147: remainder with the sign of L; predicated (R67). -/
def execIremPred (a b : BitVec 8) (t : BitVec 2) (s : State) : Host.Outcome State Fault Refusal :=
  lateInstr s a b (predLane (noFlags (iremV (ITy.ofCode t.toNat))))

end Sys2Proof.Machine
end

