-- ==== Sys2Proof/Machine/Xln.lean ====
section
/-!
DEFINITION. Class XLN: the meanings of its instructions (R151 to R157).
-/
namespace Sys2Proof.Machine

/-- R152: shuffle. -/
def execShfl (a b : BitVec 8) (f : BitVec 2) (s : State) : Host.Outcome State Fault Refusal :=
  xlnInstr s a b (fun n _ xs x => shflV n f.toNat xs x)

/-- R152: shuffle. -/
def execShflx (a b : BitVec 8) (f : BitVec 2) (s : State) : Host.Outcome State Fault Refusal :=
  xlnInstr s a b (fun n _ xs x => shflxV n f.toNat xs x)

/-- R152: shuffle. -/
def execShflup (a b : BitVec 8) (f : BitVec 2) (s : State) : Host.Outcome State Fault Refusal :=
  xlnInstr s a b (fun n _ xs x => shflupV n f.toNat xs x)

/-- R152: shuffle. -/
def execShfldn (a b : BitVec 8) (f : BitVec 2) (s : State) : Host.Outcome State Fault Refusal :=
  xlnInstr s a b (fun n _ xs x => shfldnV n f.toNat xs x)

/-- R152: shuffle. -/
def execBcast (a b : BitVec 8) (f : BitVec 2) (s : State) : Host.Outcome State Fault Refusal :=
  xlnInstr s a b (fun n _ xs x => bcastV n f.toNat xs x)

/-- R153: vote. -/
def execVote (a b : BitVec 8) (o : BitVec 2) (s : State) : Host.Outcome State Fault Refusal :=
  xlnInstr s a b (fun _ _ xs x => voteV o.toNat xs x)

/-- R153 to R155: the fold of a group, in tag order. -/
def execReduce (a b : BitVec 8) (o : BitVec 3) (t : BitVec 2) (g m : BitVec 1) (s : State) : Host.Outcome State Fault Refusal :=
  xlnInstr s a b (fun _ _ xs x => reduceV o.toNat t.toNat (g == 1) (m == 1) xs x)

/-- R153 to R155: the prefix folds of a group, in tag order. -/
def execScan (a b : BitVec 8) (o : BitVec 3) (t : BitVec 2) (g m x : BitVec 1) (s : State) : Host.Outcome State Fault Refusal :=
  xlnInstr s a b (fun _ _ xs y => scanV o.toNat t.toNat (g == 1) (m == 1) (x == 1) xs y)

/-- R156: seats that hold the same value. -/
def execXmatch (a b : BitVec 8) (w : BitVec 2) (s : State) : Host.Outcome State Fault Refusal :=
  xlnInstr s a b (fun _ _ xs x => matchV w.toNat xs x)

/-- R157: seat, stage, count, first, mask or core. -/
def execSeatid (a b : BitVec 8) (k : BitVec 3) (s : State) : Host.Outcome State Fault Refusal :=
  xlnInstr s a b (fun _ c xs x => seatidV k.toNat c xs x)

/-- R157: rank in tag order. -/
def execTagord (a b : BitVec 8) (g : BitVec 1) (s : State) : Host.Outcome State Fault Refusal :=
  xlnInstr s a b (fun _ _ xs x => tagordV (g == 1) xs x)

end Sys2Proof.Machine
end

