-- ==== Sys2Proof/Machine/Dispatch.lean ====
section
/-!
DEFINITION. One arm per instruction: the call of its meaning.
-/
namespace Sys2Proof.Machine

def exec (i : Instr) (s : State) : Host.Outcome State Fault Refusal :=
  match i with
  | .iadd a b t sc => Sys2Proof.Machine.execIadd a b t sc s
  | .isub a b t sc => Sys2Proof.Machine.execIsub a b t sc s
  | .imul a b t sc => Sys2Proof.Machine.execImul a b t sc s
  | .imulh a b t => Sys2Proof.Machine.execImulh a b t s
  | .imad a b t sc => Sys2Proof.Machine.execImad a b t sc s
  | .imin a b t => Sys2Proof.Machine.execImin a b t s
  | .imax a b t => Sys2Proof.Machine.execImax a b t s
  | .iabs a b t sc => Sys2Proof.Machine.execIabs a b t sc s
  | .ineg a b t sc => Sys2Proof.Machine.execIneg a b t sc s
  | .iand a b t => Sys2Proof.Machine.execIand a b t s
  | .ior a b t => Sys2Proof.Machine.execIor a b t s
  | .ixor a b t => Sys2Proof.Machine.execIxor a b t s
  | .andn a b t => Sys2Proof.Machine.execAndn a b t s
  | .inot a b t => Sys2Proof.Machine.execInot a b t s
  | .shl a b t => Sys2Proof.Machine.execShl a b t s
  | .shr a b t => Sys2Proof.Machine.execShr a b t s
  | .sar a b t => Sys2Proof.Machine.execSar a b t s
  | .rot a b t => Sys2Proof.Machine.execRot a b t s
  | .bfx a b t => Sys2Proof.Machine.execBfx a b t s
  | .bfi a b t => Sys2Proof.Machine.execBfi a b t s
  | .popc a b t => Sys2Proof.Machine.execPopc a b t s
  | .clz a b t => Sys2Proof.Machine.execClz a b t s
  | .brev a b t => Sys2Proof.Machine.execBrev a b t s
  | .icmp a b t c => Sys2Proof.Machine.execIcmp a b t c s
  | .sel a b t => Sys2Proof.Machine.execSel a b t s
  | .mov a b => Sys2Proof.Machine.execMov a b s
  | .addx a b t x => Sys2Proof.Machine.execAddx a b t x s
  | .const a imm => Sys2Proof.Machine.execConst a imm s
  | .consh a imm => Sys2Proof.Machine.execConsh a imm s
  | .consw a imm => Sys2Proof.Machine.execConsw a imm s
  | .iaddi a imm => Sys2Proof.Machine.execIaddi a imm s
  | .iaddPred a b t sc => Sys2Proof.Machine.execIaddPred a b t sc s
  | .isubPred a b t sc => Sys2Proof.Machine.execIsubPred a b t sc s
  | .imulPred a b t sc => Sys2Proof.Machine.execImulPred a b t sc s
  | .imulhPred a b t => Sys2Proof.Machine.execImulhPred a b t s
  | .imadPred a b t sc => Sys2Proof.Machine.execImadPred a b t sc s
  | .iminPred a b t => Sys2Proof.Machine.execIminPred a b t s
  | .imaxPred a b t => Sys2Proof.Machine.execImaxPred a b t s
  | .iabsPred a b t sc => Sys2Proof.Machine.execIabsPred a b t sc s
  | .inegPred a b t sc => Sys2Proof.Machine.execInegPred a b t sc s
  | .iandPred a b t => Sys2Proof.Machine.execIandPred a b t s
  | .iorPred a b t => Sys2Proof.Machine.execIorPred a b t s
  | .ixorPred a b t => Sys2Proof.Machine.execIxorPred a b t s
  | .andnPred a b t => Sys2Proof.Machine.execAndnPred a b t s
  | .inotPred a b t => Sys2Proof.Machine.execInotPred a b t s
  | .shlPred a b t => Sys2Proof.Machine.execShlPred a b t s
  | .shrPred a b t => Sys2Proof.Machine.execShrPred a b t s
  | .sarPred a b t => Sys2Proof.Machine.execSarPred a b t s
  | .rotPred a b t => Sys2Proof.Machine.execRotPred a b t s
  | .bfxPred a b t => Sys2Proof.Machine.execBfxPred a b t s
  | .bfiPred a b t => Sys2Proof.Machine.execBfiPred a b t s
  | .popcPred a b t => Sys2Proof.Machine.execPopcPred a b t s
  | .clzPred a b t => Sys2Proof.Machine.execClzPred a b t s
  | .brevPred a b t => Sys2Proof.Machine.execBrevPred a b t s
  | .icmpPred a b t c => Sys2Proof.Machine.execIcmpPred a b t c s
  | .movPred a b => Sys2Proof.Machine.execMovPred a b s
  | .addxPred a b t x => Sys2Proof.Machine.execAddxPred a b t x s
  | .constPred a imm => Sys2Proof.Machine.execConstPred a imm s
  | .conshPred a imm => Sys2Proof.Machine.execConshPred a imm s
  | .conswPred a imm => Sys2Proof.Machine.execConswPred a imm s
  | .iaddiPred a imm => Sys2Proof.Machine.execIaddiPred a imm s
  | .fadd a b r t => Sys2Proof.Machine.execFadd a b r t s
  | .fsub a b r t => Sys2Proof.Machine.execFsub a b r t s
  | .fmul a b r t => Sys2Proof.Machine.execFmul a b r t s
  | .ffma a b r t => Sys2Proof.Machine.execFfma a b r t s
  | .fmin a b r t => Sys2Proof.Machine.execFmin a b r t s
  | .fmax a b r t => Sys2Proof.Machine.execFmax a b r t s
  | .fabs a b r t => Sys2Proof.Machine.execFabs a b r t s
  | .fneg a b r t => Sys2Proof.Machine.execFneg a b r t s
  | .fcmp a b r t c => Sys2Proof.Machine.execFcmp a b r t c s
  | .fclass a b r t => Sys2Proof.Machine.execFclass a b r t s
  | .fdot2 a b r t => Sys2Proof.Machine.execFdot2 a b r t s
  | .fdot4 a b r f => Sys2Proof.Machine.execFdot4 a b r f s
  | .faddPred a b r t => Sys2Proof.Machine.execFaddPred a b r t s
  | .fsubPred a b r t => Sys2Proof.Machine.execFsubPred a b r t s
  | .fmulPred a b r t => Sys2Proof.Machine.execFmulPred a b r t s
  | .ffmaPred a b r t => Sys2Proof.Machine.execFfmaPred a b r t s
  | .fminPred a b r t => Sys2Proof.Machine.execFminPred a b r t s
  | .fmaxPred a b r t => Sys2Proof.Machine.execFmaxPred a b r t s
  | .fabsPred a b r t => Sys2Proof.Machine.execFabsPred a b r t s
  | .fnegPred a b r t => Sys2Proof.Machine.execFnegPred a b r t s
  | .fcmpPred a b r t c => Sys2Proof.Machine.execFcmpPred a b r t c s
  | .fclassPred a b r t => Sys2Proof.Machine.execFclassPred a b r t s
  | .fdot2Pred a b r t => Sys2Proof.Machine.execFdot2Pred a b r t s
  | .fdot4Pred a b r f => Sys2Proof.Machine.execFdot4Pred a b r f s
  | .frcp a b r => Sys2Proof.Machine.execFrcp a b r s
  | .frsq a b r => Sys2Proof.Machine.execFrsq a b r s
  | .fsqrt a b r t => Sys2Proof.Machine.execFsqrt a b r t s
  | .fdiv a b r t => Sys2Proof.Machine.execFdiv a b r t s
  | .fexp2 a b r => Sys2Proof.Machine.execFexp2 a b r s
  | .flog2 a b r => Sys2Proof.Machine.execFlog2 a b r s
  | .fsin a b r => Sys2Proof.Machine.execFsin a b r s
  | .fcos a b r => Sys2Proof.Machine.execFcos a b r s
  | .ftanh a b r => Sys2Proof.Machine.execFtanh a b r s
  | .frint a b r t => Sys2Proof.Machine.execFrint a b r t s
  | .cvt a b r c => Sys2Proof.Machine.execCvt a b r c s
  | .cvtsc a b r f j => Sys2Proof.Machine.execCvtsc a b r f j s
  | .idiv a b t sc => Sys2Proof.Machine.execIdiv a b t sc s
  | .irem a b t => Sys2Proof.Machine.execIrem a b t s
  | .frcpPred a b r => Sys2Proof.Machine.execFrcpPred a b r s
  | .frsqPred a b r => Sys2Proof.Machine.execFrsqPred a b r s
  | .fsqrtPred a b r t => Sys2Proof.Machine.execFsqrtPred a b r t s
  | .fdivPred a b r t => Sys2Proof.Machine.execFdivPred a b r t s
  | .fexp2Pred a b r => Sys2Proof.Machine.execFexp2Pred a b r s
  | .flog2Pred a b r => Sys2Proof.Machine.execFlog2Pred a b r s
  | .fsinPred a b r => Sys2Proof.Machine.execFsinPred a b r s
  | .fcosPred a b r => Sys2Proof.Machine.execFcosPred a b r s
  | .ftanhPred a b r => Sys2Proof.Machine.execFtanhPred a b r s
  | .frintPred a b r t => Sys2Proof.Machine.execFrintPred a b r t s
  | .cvtPred a b r c => Sys2Proof.Machine.execCvtPred a b r c s
  | .cvtscPred a b r f j => Sys2Proof.Machine.execCvtscPred a b r f j s
  | .idivPred a b t sc => Sys2Proof.Machine.execIdivPred a b t sc s
  | .iremPred a b t => Sys2Proof.Machine.execIremPred a b t s
  | .shfl a b f => Sys2Proof.Machine.execShfl a b f s
  | .shflx a b f => Sys2Proof.Machine.execShflx a b f s
  | .shflup a b f => Sys2Proof.Machine.execShflup a b f s
  | .shfldn a b f => Sys2Proof.Machine.execShfldn a b f s
  | .bcast a b f => Sys2Proof.Machine.execBcast a b f s
  | .vote a b o => Sys2Proof.Machine.execVote a b o s
  | .reduce a b o t g m => Sys2Proof.Machine.execReduce a b o t g m s
  | .scan a b o t g m x => Sys2Proof.Machine.execScan a b o t g m x s
  | .xmatch a b w => Sys2Proof.Machine.execXmatch a b w s
  | .seatid a b sc => Sys2Proof.Machine.execSeatid a b sc s
  | .tagord a b g => Sys2Proof.Machine.execTagord a b g s
  | .send d sc t w p => Sys2Proof.Machine.execSend d sc t w p s
  | .sendsel d sc t w p => Sys2Proof.Machine.execSendsel d sc t w p s
  | .switch d sc t w l => Sys2Proof.Machine.execSwitch d sc t w l s
  | .spawn d sc t w k => Sys2Proof.Machine.execSpawn d sc t w k s
  | .ret sc w f => Sys2Proof.Machine.execRet sc w f s
  | .free => Sys2Proof.Machine.execFree s
  | .tag a b m => Sys2Proof.Machine.execTag a b m s
  | .futld a o sc p k t => Sys2Proof.Machine.execFutld a o sc p k t s
  | .futst o sc p e => Sys2Proof.Machine.execFutst o sc p e s
  | .yield y => Sys2Proof.Machine.execYield y s
  | .trapset d c => Sys2Proof.Machine.execTrapset d c s
  | .trapret m => Sys2Proof.Machine.execTrapret m s
  | .depart t => Sys2Proof.Machine.execDepart t s
  | .gldx a b => Sys2Proof.Machine.execGldx a b s
  | .gstx => Sys2Proof.Machine.execGstx s
  | .gempty => Sys2Proof.Machine.execGempty s
  | .gtest a b => Sys2Proof.Machine.execGtest a b s
  | .rcpset a c g => Sys2Proof.Machine.execRcpset a c g s
  | .rcpdrop g => Sys2Proof.Machine.execRcpdrop g s
  | .rcpclr g => Sys2Proof.Machine.execRcpclr g s
  | .ld a z o sc p g => Sys2Proof.Machine.execLd a z o sc p g s
  | .st z o sc p => Sys2Proof.Machine.execSt z o sc p s
  | .lds a z o sc g => Sys2Proof.Machine.execLds a z o sc g s
  | .sts z o sc => Sys2Proof.Machine.execSts z o sc s
  | .atom a z o sc g x => Sys2Proof.Machine.execAtom a z o sc g x s
  | .atoms a z o sc g x => Sys2Proof.Machine.execAtoms a z o sc g x s
  | .cas a z o sc g => Sys2Proof.Machine.execCas a z o sc g s
  | .fence sc b c => Sys2Proof.Machine.execFence sc b c s
  | .pref p n => Sys2Proof.Machine.execPref p n s
  | .cflush p => Sys2Proof.Machine.execCflush p s
  | .cinv p => Sys2Proof.Machine.execCinv p s
  | .ldmx a o sc p f => Sys2Proof.Machine.execLdmx a o sc p f s
  | .stmx o sc p f => Sys2Proof.Machine.execStmx o sc p f s
  | .talloc a c p => Sys2Proof.Machine.execTalloc a c p s
  | .tst z => Sys2Proof.Machine.execTst z s
  | .tseal => Sys2Proof.Machine.execTseal s
  | .tld a c g z => Sys2Proof.Machine.execTld a c g z s
  | .tabandon => Sys2Proof.Machine.execTabandon s
  | .tfree => Sys2Proof.Machine.execTfree s
  | .tstat a => Sys2Proof.Machine.execTstat a s
  | .tpart a p => Sys2Proof.Machine.execTpart a p s
  | .cpy a => Sys2Proof.Machine.execCpy a s
  | .cpys a => Sys2Proof.Machine.execCpys a s
  | .cpyc => Sys2Proof.Machine.execCpyc s
  | .bari => Sys2Proof.Machine.execBari s
  | .bara => Sys2Proof.Machine.execBara s
  | .barx => Sys2Proof.Machine.execBarx s
  | .barw a => Sys2Proof.Machine.execBarw a s
  | .crpop a k => Sys2Proof.Machine.execCrpop a k s
  | .mma t k m u c l e => Sys2Proof.Machine.execMma t k m u c l e s
  | .mmax x y m n => Sys2Proof.Machine.execMmax x y m n s
  | .mctx a c t => Sys2Proof.Machine.execMctx a c t s
  | .mwait a c n => Sys2Proof.Machine.execMwait a c n s
  | .accz c l => Sys2Proof.Machine.execAccz c l s
  | .accld m c l => Sys2Proof.Machine.execAccld m c l s
  | .accst f r m c l => Sys2Proof.Machine.execAccst f r m c l s
  | .accrd a c l => Sys2Proof.Machine.execAccrd a c l s
  | .bgemv a => Sys2Proof.Machine.execBgemv a s
  | .bred a => Sys2Proof.Machine.execBred a s
  | .bfence sc => Sys2Proof.Machine.execBfence sc s
  | .bwait a n => Sys2Proof.Machine.execBwait a n s
  | .fjob a => Sys2Proof.Machine.execFjob a s
  | .fwait a n => Sys2Proof.Machine.execFwait a n s
  | .fcan => Sys2Proof.Machine.execFcan s
  | .fpush e n => Sys2Proof.Machine.execFpush e n s
  | .fpull a n => Sys2Proof.Machine.execFpull a n s
  | .scfg => Sys2Proof.Machine.execScfg s
  | .sbind e => Sys2Proof.Machine.execSbind e s
  | .sgo m => Sys2Proof.Machine.execSgo m s
  | .sbar m => Sys2Proof.Machine.execSbar m s
  | .sdone => Sys2Proof.Machine.execSdone s
  | .sloop c t => Sys2Proof.Machine.execSloop c t s
  | .launch q => Sys2Proof.Machine.execLaunch q s
  | .nrec n => Sys2Proof.Machine.execNrec n s
  | .dsig => Sys2Proof.Machine.execDsig s
  | .dpub q => Sys2Proof.Machine.execDpub q s
  | .qenq sc v k => Sys2Proof.Machine.execQenq sc v k s
  | .qdeq a sc t => Sys2Proof.Machine.execQdeq a sc t s
  | .qpoll a => Sys2Proof.Machine.execQpoll a s
  | .qmake a => Sys2Proof.Machine.execQmake a s
  | .qkill a => Sys2Proof.Machine.execQkill a s
  | .frmput b => Sys2Proof.Machine.execFrmput b s
  | .frmclose l b => Sys2Proof.Machine.execFrmclose l b s
  | .trap imm => Sys2Proof.Machine.execTrap imm s
  | .mode a b m => Sys2Proof.Machine.execMode a b m s
  | .clk a b m => Sys2Proof.Machine.execClk a b m s
  | .evt k => Sys2Proof.Machine.execEvt k s
  | .brk imm => Sys2Proof.Machine.execBrk imm s
  | .sregr a n => Sys2Proof.Machine.execSregr a n s
  | .sregw n => Sys2Proof.Machine.execSregw n s
  | .tokenArrival core dev flit => Sys2Proof.Machine.execTokenArrival core dev flit s
  | .discardNotice part id code dest tag src => Sys2Proof.Machine.execDiscardNotice part id code dest tag src s
  | .sendAck core op => Sys2Proof.Machine.execSendAck core op s
  | .departCommandArrival core dev idx tag src => Sys2Proof.Machine.execDepartCommandArrival core dev idx tag src s
  | .departureTimerExpiry core => Sys2Proof.Machine.execDepartureTimerExpiry core s
  | .trainDeparture core => Sys2Proof.Machine.execTrainDeparture core s
  | .trainEnd core uid => Sys2Proof.Machine.execTrainEnd core uid s
  | .lateValueLands core => Sys2Proof.Machine.execLateValueLands core s
  | .recipeReplay core => Sys2Proof.Machine.execRecipeReplay core s
  | .freeCompletion core handle => Sys2Proof.Machine.execFreeCompletion core handle s
  | .compaction core order => Sys2Proof.Machine.execCompaction core order s
  | .storeDrain core => Sys2Proof.Machine.execStoreDrain core s
  | .translationWalk core => Sys2Proof.Machine.execTranslationWalk core s
  | .pageResponse part w => Sys2Proof.Machine.execPageResponse part w s
  | .pageRequestTimeout part => Sys2Proof.Machine.execPageRequestTimeout part s
  | .tlbinv part w => Sys2Proof.Machine.execTlbinv part w s
  | .tlbInvalidationComplete part => Sys2Proof.Machine.execTlbInvalidationComplete part s
  | .prqctlWrite part w => Sys2Proof.Machine.execPrqctlWrite part w s
  | .partitionRegisterWrite part n w => Sys2Proof.Machine.execPartitionRegisterWrite part n w s
  | .sslenWrite part w => Sys2Proof.Machine.execSslenWrite part w s
  | .hostDoorbell part queue w => Sys2Proof.Machine.execHostDoorbell part queue w s
  | .launchAdmit part => Sys2Proof.Machine.execLaunchAdmit part s
  | .gridWordRead part id => Sys2Proof.Machine.execGridWordRead part id s
  | .launchPlacement part id => Sys2Proof.Machine.execLaunchPlacement part id s
  | .launchStall part id => Sys2Proof.Machine.execLaunchStall part id s
  | .launchCompletion part id => Sys2Proof.Machine.execLaunchCompletion part id s
  | .noticeHeadWrite part w => Sys2Proof.Machine.execNoticeHeadWrite part w s
  | .sidingReplay part id die => Sys2Proof.Machine.execSidingReplay part id die s
  | .yardRecordArrival die yard => Sys2Proof.Machine.execYardRecordArrival die yard s
  | .yardTimerExpiry die yard => Sys2Proof.Machine.execYardTimerExpiry die yard s
  | .teamPlacement die yard => Sys2Proof.Machine.execTeamPlacement die yard s
  | .endLaunch part id => Sys2Proof.Machine.execEndLaunch part id s
  | .faultedLaunchAutoend part id => Sys2Proof.Machine.execFaultedLaunchAutoend part id s
  | .preempt part => Sys2Proof.Machine.execPreempt part s
  | .restore part => Sys2Proof.Machine.execRestore part s
  | .halt part => Sys2Proof.Machine.execHalt part s
  | .resume part => Sys2Proof.Machine.execResume part s
  | .drainlimExpiry part => Sys2Proof.Machine.execDrainlimExpiry part s
  | .saveStart part => Sys2Proof.Machine.execSaveStart part s
  | .saveComplete part => Sys2Proof.Machine.execSaveComplete part s
  | .loadComplete part => Sys2Proof.Machine.execLoadComplete part s
  | .haltQuiesced part => Sys2Proof.Machine.execHaltQuiesced part s
  | .timetableStep core => Sys2Proof.Machine.execTimetableStep core s
  | .superstepBoundary part => Sys2Proof.Machine.execSuperstepBoundary part s
  | .timetableFreeze part => Sys2Proof.Machine.execTimetableFreeze part s
  | .timetableHalt part => Sys2Proof.Machine.execTimetableHalt part s
  | .copyCompletion core slot => Sys2Proof.Machine.execCopyCompletion core slot s
  | .ringSpaceRetry kind unit slot => Sys2Proof.Machine.execRingSpaceRetry kind unit slot s
  | .barrierUpdate core => Sys2Proof.Machine.execBarrierUpdate core s
  | .freedSlotNotice core slot => Sys2Proof.Machine.execFreedSlotNotice core slot s
  | .tallocGrant core => Sys2Proof.Machine.execTallocGrant core s
  | .tileSealComplete core => Sys2Proof.Machine.execTileSealComplete core s
  | .tfreeComplete core => Sys2Proof.Machine.execTfreeComplete core s
  | .mctxClaim pair ctx => Sys2Proof.Machine.execMctxClaim pair ctx s
  | .mctxRelease pair ctx => Sys2Proof.Machine.execMctxRelease pair ctx s
  | .mtxTileStep pair => Sys2Proof.Machine.execMtxTileStep pair s
  | .bankOperationComplete core slot => Sys2Proof.Machine.execBankOperationComplete core slot s
  | .fabCardBind cluster => Sys2Proof.Machine.execFabCardBind cluster s
  | .fabUnitFire cluster ctx unit => Sys2Proof.Machine.execFabUnitFire cluster ctx unit s
  | .fabSourceToken cluster ctx eng => Sys2Proof.Machine.execFabSourceToken cluster ctx eng s
  | .fabSinkCommit cluster ctx eng => Sys2Proof.Machine.execFabSinkCommit cluster ctx eng s
  | .fabReplay cluster ctx => Sys2Proof.Machine.execFabReplay cluster ctx s
  | .fabJobComplete cluster slot => Sys2Proof.Machine.execFabJobComplete cluster slot s
  | .queueEntryArrival core pkt => Sys2Proof.Machine.execQueueEntryArrival core pkt s
  | .queueRefusal core ser code => Sys2Proof.Machine.execQueueRefusal core ser code s
  | .queueAck core ser => Sys2Proof.Machine.execQueueAck core ser s
  | .queueSidingRetry core queue => Sys2Proof.Machine.execQueueSidingRetry core queue s
  | .queueCycleScan => Sys2Proof.Machine.execQueueCycleScan s
  | .frameFillTimer core builder => Sys2Proof.Machine.execFrameFillTimer core builder s
  | .frameSend core builder => Sys2Proof.Machine.execFrameSend core builder s
  | .rowFrameArrival core dev part id bytes => Sys2Proof.Machine.execRowFrameArrival core dev part id bytes s
  | .creditGrant core dev n => Sys2Proof.Machine.execCreditGrant core dev n s
  | .remoteMemoryRequest dev id pa req => Sys2Proof.Machine.execRemoteMemoryRequest dev id pa req s
  | .remoteMemoryResponse id code data => Sys2Proof.Machine.execRemoteMemoryResponse id code data s
  | .routeChange dev up ports hops => Sys2Proof.Machine.execRouteChange dev up ports hops s
  | .flitRetransmit port => Sys2Proof.Machine.execFlitRetransmit port s
  | .featacceptWrite w => Sys2Proof.Machine.execFeatacceptWrite w s
  | .msixIntervalExpiry vec => Sys2Proof.Machine.execMsixIntervalExpiry vec s
  | .mgmtPhysicalAccess sel write off len data => Sys2Proof.Machine.execMgmtPhysicalAccess sel write off len data s
  | .mgmtRegisterAccess sel write w => Sys2Proof.Machine.execMgmtRegisterAccess sel write w s
  | .mgmtObjectAccess sel write off len data => Sys2Proof.Machine.execMgmtObjectAccess sel write off len data s
  | .mgmtFutViewAccess sel write off len data => Sys2Proof.Machine.execMgmtFutViewAccess sel write off len data s
  | .mgmtAsidEntryAccess sel write off len data => Sys2Proof.Machine.execMgmtAsidEntryAccess sel write off len data s
  | .powerUp => Sys2Proof.Machine.execPowerUp s
  | .endpointReset => Sys2Proof.Machine.execEndpointReset s
  | .setDomain dev members routes => Sys2Proof.Machine.execSetDomain dev members routes s
  | .setPartition part clusters => Sys2Proof.Machine.execSetPartition part clusters s
  | .setPriv part v => Sys2Proof.Machine.execSetPriv part v s
  | .setPowerCap watts => Sys2Proof.Machine.execSetPowerCap watts s
  | .moduleReset => Sys2Proof.Machine.execModuleReset s
  | .activateVersion => Sys2Proof.Machine.execActivateVersion s
  | .getErrorLog => Sys2Proof.Machine.execGetErrorLog s
  | .getRouteTable => Sys2Proof.Machine.execGetRouteTable s
  | .pldmSensorRead sensor => Sys2Proof.Machine.execPldmSensorRead sensor s
  | .firmwareUpdate image => Sys2Proof.Machine.execFirmwareUpdate image s
  | .getVersion => Sys2Proof.Machine.execGetVersion s
  | .getCapabilities => Sys2Proof.Machine.execGetCapabilities s
  | .negotiateAlgorithms algs => Sys2Proof.Machine.execNegotiateAlgorithms algs s
  | .getDigests => Sys2Proof.Machine.execGetDigests s
  | .getCertificate off len => Sys2Proof.Machine.execGetCertificate off len s
  | .challenge nonce => Sys2Proof.Machine.execChallenge nonce s
  | .getMeasurements index => Sys2Proof.Machine.execGetMeasurements index s
  | .powerCapThrottle => Sys2Proof.Machine.execPowerCapThrottle s
  | .thermalThrottle die => Sys2Proof.Machine.execThermalThrottle die s
  | .thermalHalt die => Sys2Proof.Machine.execThermalHalt die s
  | .patrolScrub granules => Sys2Proof.Machine.execPatrolScrub granules s
  | .controlStateError core detail told => Sys2Proof.Machine.execControlStateError core detail told s
  | .throttleRelease => Sys2Proof.Machine.execThrottleRelease s
  | .configurationRequest write off w => Sys2Proof.Machine.execConfigurationRequest write off w s
  | .flitForward dev flit => Sys2Proof.Machine.execFlitForward dev flit s
  | .statusWrite w => Sys2Proof.Machine.execStatusWrite w s
  | .mstatWrite w => Sys2Proof.Machine.execMstatWrite w s
  | .pldmBaseDiscovery cmd => Sys2Proof.Machine.execPldmBaseDiscovery cmd s
  | .waitGraphEdgeExchange edges => Sys2Proof.Machine.execWaitGraphEdgeExchange edges s
  | .flushComplete core op => Sys2Proof.Machine.execFlushComplete core op s

end Sys2Proof.Machine
end

