-- ==== Sys2Proof/Machine/Sched.lean ====
section
/-!
DEFINITION. What the machine does next: the order in which the steps of one cycle are taken, and the instructions that its cores issue (R2,
R27 to R31, R88, R193). The spec gives no order between most steps of a cycle; this one keeps every order that it gives (log 41).
-/
namespace Sys2Proof.Machine

/-- What a step of the machine does. -/
inductive Todo where
  | event (i : Instr)             -- the oldest input from outside
  | act (a : Act)                 -- a step of the machine's own
  | issue (core uid : Nat)        -- a train issues its next instruction
  | command (cluster ctx : Nat) (i : Instr) -- a graph context runs its next command
  | fetch (core uid : Nat)        -- a train's block is fetched
  | take (part : Nat)             -- trains of a draining partition are taken (R286)
  | back (core : Nat)             -- a replayed value is stored back (R203)
  | start (core : Nat)            -- placed instances become ready (R240)
  | seat (core : Nat)             -- ready instances take seats (R27)
  | power                         -- main power comes up
  | store (core : Nat)            -- the core's oldest store drains (R114)
  | wake (core : Nat)             -- accesses that wait at the core's tiles are judged again (R309)
  | laned                         -- the lanes have done what they do in this cycle (R320)
  | tick                          -- the cycle ends
deriving DecidableEq, Repr

/-! ## A core's own steps -/

/-- An act, when its cause is there. -/
def actIf (b : Bool) (a : Act) : Option Todo := if b then some (.act a) else none

/-- R443: the retry of a siding access of a queue of a core. -/
def State.retryNext (s : State) (c : Nat) (k : Core) : Option Todo :=
  (k.queues.find? (fun q => (q.2.spillFail || q.2.readFail) && (s.sidingRetry c q.1).isSome)).map (fun q => Todo.act (.queueSidingRetry c q.1))

/-- What comes due at a core: late results, write-backs, packets and replies. -/
def State.dueNext (s : State) (c : Nat) (k : Core) : Option Todo :=
  let now := s.cyc.toNat
  let tt := s.ttHolds c
  (actIf (k.late.any (fun l => decide (l.due ≤ now))) (.lateValueLands c)).or <|
  (((k.flushes.find? (fun f => decide (f.1 ≤ now))).map (fun f => Todo.act (.flushComplete c f.2)))).or <|
  (actIf (!tt && !k.flights.isEmpty && (s.dueTry c true).isSome) (.tokenArrival c)).or <|
  (actIf (!tt && !k.flights.isEmpty && (s.dueTry c false).isSome) (.departCommandArrival c)).or <|
  (actIf (!tt && k.qin.any (fun f => decide (f.due ≤ now))) (.queueEntryArrival c)).or <|
  (actIf (!tt && k.frin.any (fun f => decide (f.due ≤ now))) (.rowFrameArrival c)).or <|
  (if s.swappedCore c then s.retryNext c k else none).or <|
  if tt then none
  else (k.qback.filter (fun r => decide (r.due ≤ now))).findSome? (fun r =>
    if (s.replyTry c r.ser r.code).isNone then none
    else some (.act (if r.code = 0 then .queueAck c r.ser else .queueRefusal c r.ser r.code)))

/-- Seals and frees whose registered writes have been performed (R315, R316). -/
def State.sealNext (s : State) (c : Nat) (k : Core) : Option Todo :=
  if k.eng.seals.isEmpty then none
  else (actIf (s.sealTry c false).isSome (.tileSealComplete c)).or (actIf (s.sealTry c true).isSome (.tfreeComplete c))

/-- The first of some engine steps that can be taken. -/
def State.first (s : State) (l : List Act) : Option Todo := (s.firstOf l).map Todo.act

/-- Steps of the engines, pools and homes of a core outside timetable mode. -/
def State.homeNext (s : State) (c : Nat) (k : Core) : Option Todo :=
  let e := k.eng
  let first := s.first
  (if e.copies.isEmpty then none else first (s.copyEvents c)).or <|
  (if e.banks.isEmpty then none else first (s.bankEvents c)).or <|
  (if k.builders.isEmpty then none
   else (first (s.frameEvents c)).or
     ((k.builders.find? (fun b => (s.fillTry c b.1).isSome)).map (fun b => Todo.act (.frameFillTimer c b.1)))).or <|
  actIf (e.pool.any (fun p => !p.queue.isEmpty) && (s.grantTry c).isSome) (.tallocGrant c)

/-- Steps of a core's matrix pair and of its cluster's fabric outside timetable mode that work for the core (R320): a claim or a release of its
pair's even core, a tile step of its command, a step of its cards. -/
def State.sharedNext (s : State) (c : Nat) : Option Todo :=
  let p := pairOf c
  let cl := clusterOf c
  let mine := fun (k : FCard) => k.info.core == c
  (if (s.pair p).ctxs.isEmpty then none
   else (if c % 2 = 0 then s.first [.mctxRelease p 0, .mctxRelease p 1, .mctxClaim p 0, .mctxClaim p 1] else none).or
     (if (s.stepChoice p).any (fun x => x.2.info.core == c) then s.first [.mtxTileStep p] else none)).or <|
  if (s.fab cl).cards.isEmpty then none
  else (s.first (s.fabEvents cl mine)).or ((s.listWhere (fun i => !isSbind i) [cl] mine).map (fun x => Todo.command x.1 x.2.1 x.2.2))

/-- Housekeeping of a core: walks, replays, retries, ends of trains and frees. -/
def State.keepNext (s : State) (c : Nat) (k : Core) : Option Todo :=
  (actIf (!k.walks.isEmpty) (.translationWalk c)).or <|
  (actIf (!k.regWaits.isEmpty && (s.replayWait c).isSome) (.recipeReplay c)).or <|
  (if (k.backFrame).isSome then some (.back c) else none).or <|
  (s.retryNext c k).or <|
  ((dedup (k.held.map (·.dev))).findSome? (fun d => actIf (s.creditGrant c d 0).isSome (.creditGrant c d))).or <|
  ((k.trains.find? (fun t => t.words.isSome && t.finished && !s.undecided c t.uid)).map (fun t => Todo.act (.trainEnd c t.uid))).or <|
  (k.freeable.head?.map (fun h => Todo.act (.freeCompletion c h))).or <|
  (k.compactFor.head?.map (fun o => Todo.act (.compaction c o))).or <|
  (k.trains.find? (fun t => t.words.isNone && t.waits.isEmpty)).map (fun t => .fetch c t.uid)

/-! ## What surrounds an instruction -/

/-- R129: the active seats for which the train's next instruction reads an operand with an uncorrectable error fault with DATA_UNCORRECTABLE; a slot
has no address, so that the record's is 0 (log 24). -/
def State.consume (s : State) (c uid : Nat) : State :=
  match (s.core c).train? uid with
  | none => s
  | some t =>
    let bad := (s.core c).ramBad.filter (fun b => b.1 == uid && (s.core c).readsKey t b.2)
    if bad.isEmpty then s
    else
      let r := (t.seats.filter (fun x => bad.any (fun b => b.2 / 256 == x.n))).foldl (fun (p : State × Train) x =>
        p.1.takeFault c p.2 x DATA_UNCORRECTABLE 0 0 0 t.pc) (s, t)
      r.1.putTrain c r.2

/-- A team's train changed outside timetable mode. -/
def State.updTeam (s : State) (c uid : Nat) (f : Train → Train) : State :=
  match (s.core c).train? uid with
  | some t => if t.team && !s.ttCore c then s.updCore c (fun k => k.setTrain (f t)) else s
  | none => s

/-- The state in which a train's instruction executes: a wide team's holds the seats of one mask word (R32); in timetable mode the one step that
issues the instruction sweeps all its words (R293). -/
def State.forTrain (s : State) (c uid : Nat) : State := { s.updTeam c uid Train.inWord with cur := (c, uid) }

/-! ## Issue (R31, R57, R88, R193) -/

/-- Whether a train can issue in this cycle. -/
def State.canIssue (s : State) (c : Nat) (k : Core) (t : Train) : Bool :=
  t.words.isSome && !t.finished && t.waits.isEmpty && t.heldAt != some s.cyc.toNat && (k.pendOps t).isEmpty && (k.clauseOps t).isEmpty &&
  !s.refStopped t.launch && !s.orderWait c t

/-- An instruction that may register an engine write on a tile (R314), or a matrix command. -/
def Train.registers (t : Train) : Bool :=
  match t.nextInstr with
  | some (.cpy ..) | some (.cpys ..) | some (.accst ..) | some (.mma ..) | some (.accz ..) | some (.accld ..) | some (.accrd ..) => true
  | _ => false

/-- An instruction that reads carried registers at issue (R193). -/
def Train.atCarryRead (t : Train) : Bool := match t.nextInstr with | some (.gldx ..) | some (.gtest ..) => true | _ => false

/-- The trains of a pipe that can issue, oldest first, when the pipe has not issued in this cycle. -/
def State.pipeTrains (s : State) (c : Nat) (k : Core) (pipe : Nat) : List Train :=
  if NMap.get? k.issueCyc pipe = some (s.cyc.toNat + 1) then []
  else sortBy (fun (a b : Train) => decide (a.departed < b.departed ∨ (a.departed = b.departed ∧ a.uid ≤ b.uid)))
    (k.trains.filter (fun t => t.pipe == pipe && s.canIssue c k t))

/-- The oldest of them. -/
def State.pipeNext (s : State) (c : Nat) (k : Core) (pipe : Nat) : Option Train := (s.pipeTrains c k pipe).head?

/-- The train that issues next on a core: pipe 0 first, but a carried read of pipe 0 after what pipe 1 does in its cycle (R193). -/
def State.issueNext (s : State) (c : Nat) (k : Core) : Option Todo :=
  match s.pipeNext c k 0, s.pipeNext c k 1 with
  | some t, some u => some (.issue c (if t.atCarryRead && !u.atCarryRead then u.uid else t.uid))
  | some t, none => some (.issue c t.uid)
  | none, some u => some (.issue c u.uid)
  | none, none => none

/-- Whether a train that tries its next instruction holds at it. -/
def State.wouldHold (s : State) (c : Nat) (t : Train) : Bool :=
  match t.nextInstr with
  | none => false
  | some i =>
    match exec i ((s.consume c t.uid).forTrain c t.uid) with
    | .next s1 =>
      match (s1.core c).train? t.uid with
      | some u => u.pc == t.pc && u.moved == t.moved && !u.finished
      | none => false
    | _ => false

/-- The first of a pipe's trains, oldest first, to issue an instruction that may register an engine write, when those ahead of it hold. -/
def State.registrar (s : State) (c : Nat) : List Train → Option Train
  | [] => none
  | t :: ts => if t.registers then some t else if ts.any Train.registers && s.wouldHold c t then State.registrar s c ts else none

/-- R314, R320, R360: instructions that may register an engine write issue before what the other lanes of the cycle do, and with them the matrix
commands, which enter a context's queue by core and pipe. -/
def State.registerNext (s : State) (c : Nat) (k : Core) : Option Todo :=
  ((s.registrar c (s.pipeTrains c k 0)).or (s.registrar c (s.pipeTrains c k 1))).map (fun t => .issue c t.uid)

/-! ## Seats and departures (R27 to R29, R240) -/

def State.departureNext (s : State) (c : Nat) (k : Core) : Option Todo :=
  let now := s.cyc.toNat
  (if !k.starts.isEmpty && s.runCore c && decide (k.startAt ≤ now) then some (.start c) else none).or <|
  (if k.settled != now + 1 && k.entries.any (fun e => e.state == .ready || e.reserve.isSome) then some (.seat c) else none).or <|
  (actIf (!k.plats.isEmpty && s.runCore c && (s.expireTimers c false).isSome) (.departureTimerExpiry c)).or <|
  actIf (!k.plats.isEmpty && (s.departTry c).isSome) (.trainDeparture c)

/-! ## The parts of a cycle (R320, R350, log 41) -/

/-- How far a core's partition goes on. -/
inductive Going where
  | none'           -- no partition, or one that stands still
  | halting         -- only work under way completes
  | moves           -- outside timetable mode
  | clocked         -- in timetable mode
deriving DecidableEq, Repr

def State.going (s : State) (c : Nat) : Going :=
  match s.partOfCluster (clusterOf c) with
  | none => .none'
  | some p =>
    let q := s.part p
    if q.tt.isSome then .clocked
    else if q.state == .run || q.state == .drain then .moves
    else if q.state == .halting then .halting
    else .none'

/-- A core of a timetable partition issues what its turn grants, or begins a step. -/
def State.turnNext (s : State) (c : Nat) (k : Core) : Option Todo :=
  match k.turn with
  | some uid => some (.issue c uid)
  | none => actIf (s.ttStep c).isSome (.timetableStep c)

/-- What the lanes of a core do. -/
def State.laneNext (s : State) (c : Nat) (k : Core) : Option Todo :=
  match s.going c with
  | .moves => s.issueNext c k
  | .clocked => s.turnNext c k
  | _ => none

/-- The core's oldest store, when its time to drain has come and no peer holds it (R114, R220); in timetable mode stores stay (R296). -/
def State.storeNext (s : State) (c : Nat) (k : Core) : Option Todo :=
  match k.sq with
  | e :: _ =>
    if decide (e.due ≤ s.cyc.toNat) && e.sent.isNone && k.sqCyc != s.cyc.toNat + 1 && !s.ttCore c then some (.store c) else none
  | [] => none

/-- Whether the partition of a core in timetable mode completes work: not while a pre-emption has frozen it (R298). -/
def State.clockGoes (s : State) (c : Nat) : Bool :=
  match s.partOfCluster (clusterOf c) with
  | some p => (s.part p).state == .run || (s.part p).state == .halting
  | none => false

/-- What the engines of a core do. -/
def State.engineNext (s : State) (c : Nat) (k : Core) : Option Todo :=
  match s.going c with
  | .moves | .halting => (s.homeNext c k).or <| (s.sharedNext c).or (s.sealNext c k)
  | .clocked => if s.clockGoes c then s.sealNext c k else none
  | .none' => none

/-- Housekeeping, seats and departures of a core. -/
def State.restNext (s : State) (c : Nat) (k : Core) : Option Todo :=
  match s.going c with
  | .moves => (s.keepNext c k).or (s.departureNext c k)
  | .halting => s.keepNext c k
  | .clocked => if s.clockGoes c then s.keepNext c k else none
  | .none' => none

/-- The first core for which a part of the cycle has something to do. -/
def State.coreDo (s : State) (f : Nat → Core → Option Todo) : Option Todo := s.cores.findSome? (fun c => f c.1 c.2)

/-- R314, R320, R414: a `sbind` outside timetable mode runs ahead of the lanes of its cycle: it may register an engine write. -/
def State.sbindNext (s : State) : Option Todo :=
  let cls := (s.clusters.filter (fun k => !k.2.fab.cards.isEmpty && (s.going (8 * k.1) == .moves || s.going (8 * k.1) == .halting))).map (·.1)
  (s.listWhere isSbind cls (fun _ => true)).map (fun x => Todo.command x.1 x.2.1 x.2.2)

/-- The lanes' part of a cycle: registrations, then the other instructions in ascending core and pipe (R320). -/
def State.lanesNext (s : State) : Option Todo :=
  if s.laned = s.cyc.toNat + 1 then none
  else
    s.sbindNext.or <|
    (s.coreDo (fun c k => if s.going c == .moves then s.registerNext c k else none)).or <|
    (s.coreDo s.laneNext).or (some .laned)

/-- What the cores do in a cycle, part by part: what comes due, lanes, stores, engines, housekeeping with seats and departures, and last the barrier
updates that have reached their homes (R350). -/
def State.coresNext (s : State) : Option Todo :=
  (s.coreDo s.dueNext).or <| s.lanesNext.or <| (s.coreDo s.storeNext).or <|
  (s.coreDo (fun c k => if k.tileStirs then some (.wake c) else none)).or <|
  (s.coreDo s.engineNext).or <| (s.coreDo s.restNext).or <|
  s.coreDo (fun c k => if s.going c == .moves || s.going c == .halting then actIf (!k.eng.barq.isEmpty) (.barrierUpdate c) else none)

/-! ## Partitions, dies and the module -/

/-- R286 to R301: what the control engine does for a partition. -/
def State.controlNext (s : State) (p : Nat) (k : Partition) : Option Todo :=
  match k.state with
  | .run => (actIf (s.ttFreeze p).isSome (.timetableFreeze p)).or (actIf (k.ttPend == 4) (.timetableHalt p))
  | .drain =>
    (if (s.drainTake p).isSome then some (.take p) else none).or <|
    (actIf (s.drainLimit p).isSome (.drainlimExpiry p)).or (actIf (s.saveStart p).isSome (.saveStart p))
  | .save => actIf (s.saveDone p).isSome (.saveComplete p)
  | .load => actIf (s.loadDone p).isSome (.loadComplete p)
  | .halting => actIf (s.haltDone p).isSome (.haltQuiesced p)
  | _ => none

/-- What the launch engine does for a partition. -/
def State.launchNext (s : State) (p : Nat) (k : Partition) : Option Todo :=
  let ids := k.launches.map (·.1)
  (actIf (s.admitTry p).isSome (.launchAdmit p)).or <|
  if ids.isEmpty then none
  else
    (ids.findSome? (fun id => actIf (s.gridTry p id).isSome (.gridWordRead p id))).or <|
    (k.placingOrder.findSome? (fun id => actIf (s.placeTry p id).isSome (.launchPlacement p id))).or <|
    (ids.findSome? (fun id => actIf (s.stallOut p id).isSome (.launchStall p id))).or <|
    (ids.findSome? (fun id => actIf (s.autoEndTry p id).isSome (.faultedLaunchAutoend p id))).or <|
    (ids.findSome? (fun id => actIf (s.completeTry p id).isSome (.launchCompletion p id))).or <|
    k.launches.findSome? (fun l => l.2.slots.findSome? (fun q =>
      if q.items.isEmpty then none else actIf (s.sidingTry p l.1 q.die).isSome (.sidingReplay p l.1 q.die)))

/-- R295, R356, R377, R390, R427: the steps of a boundary in its order. -/
def State.boundaryTodo (s : State) (p : Nat) (k : Partition) : Option Todo :=
  let go := actIf (s.boundary p).isSome (.superstepBoundary p)
  if k.bphase != 3 then go
  else
    let cs := k.cores
    let first := fun (l : List Act) => (s.firstOf l).map Todo.act
    (first (s.copyOrder cs)).or <|
    (if (s.boundaryMtx cs).isSome then go else none).or <|
    (first (k.pairs.flatMap mtxEvents)).or <| (first (s.bankOrder cs)).or <|
    (if (s.boundaryFab cs).isSome then go else none).or <|
    (first (k.clusters.flatMap (fun cl => s.fabEvents cl (fun _ => true)))).or <|
    ((s.listNext k.clusters (fun _ => true)).map (fun x => Todo.command x.1 x.2.1 x.2.2)).or <|
    (first (cs.flatMap s.frameEvents)).or go

/-- The next step for a partition within the cycle. -/
def State.partNext (s : State) (p : Nat) (k : Partition) : Option Todo :=
  if k.state == .off then none
  else
    (s.controlNext p k).or <| (actIf (!k.tlbInv.isEmpty) (.tlbInvalidationComplete p)).or <|
    (actIf (!k.preqs.isEmpty && (s.pageTimeout p).isSome) (.pageRequestTimeout p)).or <|
    (if k.state == .run || k.state == .drain then s.launchNext p k else none).or <|
    if k.tt.isSome && k.state == .run then s.boundaryTodo p k else none

/-- Yards of a die. -/
def State.yardNext (s : State) (d : Nat) (k : Die) : Option Todo :=
  k.yards.findSome? (fun y =>
    (actIf (!y.inq.isEmpty && (s.yardStep d y.num (fun st => st.yardArrive d y.num false)).isSome) (.yardRecordArrival d y.num)).or <|
    (actIf (!y.forming.seats.isEmpty && (s.yardStep d y.num (fun st => st.yardTimer d y.num)).isSome) (.yardTimerExpiry d y.num)).or <|
    actIf (!y.formed.isEmpty && (s.yardStep d y.num (fun st => st.teamPlace d y.num)).isSome) (.teamPlacement d y.num))

/-- The step that the machine takes in a state. -/
def State.todo (s : State) : Todo :=
  match s.inbox with
  | i :: _ => .event i
  | [] =>
    if !s.ramvan.powerGood then .power
    else
      (((s.host.vecs.find? (fun v => (s.intervalEnd v.1).isSome)).map (fun v => Todo.act (.msixIntervalExpiry v.1))).or <|
       (s.parts.findSome? (fun p => s.partNext p.1 p.2)).or <|
       (s.dies.findSome? (fun d => s.yardNext d.1 d.2)).or <|
       s.coresNext.or <|
       actIf (decide (s.link.scanAt ≤ s.cyc.toNat)) .queueCycleScan).getD .tick

/-! ## What follows an instruction -/

/-- R284: a train's instruction has retired, once for all passes of a team. -/
def State.countRetired (s : State) (c : Nat) (t u : Train) : State :=
  if u.pc = t.pc || (t.sweeps && !s.ttCore c && (u.wordFrom (u.pass + 1)).isSome) then s else s.countEvt c 3 1

/-- After an instruction outside timetable mode: the pipe has issued in this cycle when the train has moved on, and the retired instruction is
counted (R284); a train that has not moved waits for the next cycle. -/
def State.issued (s : State) (c : Nat) (t : Train) : State :=
  let done := fun (st : State) =>
    st.updCore c (fun k => { k with issueCyc := NMap.set k.issueCyc t.pipe (st.cyc.toNat + 1) })
  match (s.core c).train? t.uid with
  | none => done s
  | some u =>
    if u.pc = t.pc ∧ u.moved = t.moved ∧ u.finished = false then
      s.updCore c (fun k => k.setTrain { u with heldAt := some s.cyc.toNat })
    else done (s.countRetired c t u)

/-- After a granted turn in timetable mode. -/
def State.turned (s : State) (c : Nat) (t : Train) : State :=
  let s1 := s.ttAfter c t.uid t.pc t.number
  match (s.core c).train? t.uid with
  | some u => s1.countRetired c t u
  | none => s1

/-- After a train's instruction. -/
def State.afterIssue (s : State) (c : Nat) (t : Train) : State :=
  let s1 := s.updTeam c t.uid Train.rejoin
  (if s.ttCore c then s1.turned c t else s1.issued c t).updTeam c t.uid (fun u => u.nextPass t)

/-- Whether one of a partition's counters counts an event (R284). -/
def Partition.counts (k : Partition) (code : Nat) : Bool := (List.range 4).any (fun i => bits k.evtSel (8 * i + 7) (8 * i) == code)

/-- The cycle ends on a core: its frames' MODE words settle (R88), fills of marked seats that have become ordinary stay so (R37), and the counters
of cycles in a wait count (R284). -/
def State.tickCore (s : State) (c : Nat) : State :=
  let s1 := (s.updCore c (fun k => { k with frames := k.frames.map (fun f => (f.1, f.2.endCycle)) })).latchYields c
  let s2 := if (s1.core c).trains.any (fun t => t.hold == some .talloc) then s1.countEvt c 10 1 else s1
  if (s2.pair (pairOf c)).ctxs.any (fun x => (match x.2.owner with | some o => o.1 == c | none => false) && !x.2.queue.isEmpty) then
    s2.countEvt c 12 1
  else s2

/-- A cycle ends: CYC advances, and on every core whose partition selects it the counter of cycles counts (R2, R284). -/
def State.tick (s : State) : State :=
  let s1 := s.parts.foldl (fun (st : State) p =>
    if p.2.state != .off && p.2.counts 2 then p.2.cores.foldl (fun st c => st.countEvt c 2 1) st else st) s
  let s2 := s.cores.foldl (fun (st : State) e => st.tickCore e.1) s1
  { s2 with cyc := s2.cyc + 1 }

/-- R114: a core's queue drains at most one store in a cycle. -/
def State.storeTurn (s : State) (c : Nat) : State := s.updCore c (fun k => { k with sqCyc := s.cyc.toNat + 1 })

/-- Instances of a core are seated, once in a cycle. -/
def State.seatCore (s : State) (c : Nat) : State := (s.settle c false).updCore c (fun k => { k with settled := s.cyc.toNat + 1 })

/-- An act of the machine's own is the event of its name. -/
def runAct (a : Act) (s : State) : Host.Outcome State Fault Refusal :=
  match a with
  | .tokenArrival c => execTokenArrival c s.link.device 0 s
  | .departCommandArrival c => execDepartCommandArrival c s.link.device 0 0 0 s
  | .departureTimerExpiry c => execDepartureTimerExpiry c s
  | .trainDeparture c => execTrainDeparture c s
  | .trainEnd c u => execTrainEnd c u s
  | .lateValueLands c => execLateValueLands c s
  | .recipeReplay c => execRecipeReplay c s
  | .freeCompletion c h => execFreeCompletion c h s
  | .compaction c o => execCompaction c o s
  | .storeDrain c => execStoreDrain c s
  | .flushComplete c o => execFlushComplete c o s
  | .translationWalk c => execTranslationWalk c s
  | .pageRequestTimeout p => execPageRequestTimeout p s
  | .tlbInvalidationComplete p => execTlbInvalidationComplete p s
  | .launchAdmit p => execLaunchAdmit p s
  | .gridWordRead p i => execGridWordRead p i s
  | .launchPlacement p i => execLaunchPlacement p i s
  | .launchStall p i => execLaunchStall p i s
  | .launchCompletion p i => execLaunchCompletion p i s
  | .faultedLaunchAutoend p i => execFaultedLaunchAutoend p i s
  | .sidingReplay p i d => execSidingReplay p i d s
  | .yardRecordArrival d y => execYardRecordArrival d y s
  | .yardTimerExpiry d y => execYardTimerExpiry d y s
  | .teamPlacement d y => execTeamPlacement d y s
  | .drainlimExpiry p => execDrainlimExpiry p s
  | .saveStart p => execSaveStart p s
  | .saveComplete p => execSaveComplete p s
  | .loadComplete p => execLoadComplete p s
  | .haltQuiesced p => execHaltQuiesced p s
  | .timetableStep c => execTimetableStep c s
  | .superstepBoundary p => execSuperstepBoundary p s
  | .timetableFreeze p => execTimetableFreeze p s
  | .timetableHalt p => execTimetableHalt p s
  | .copyCompletion c n => execCopyCompletion c n s
  | .ringSpaceRetry k u n => execRingSpaceRetry k u n s
  | .barrierUpdate c => execBarrierUpdate c s
  | .freedSlotNotice c n => execFreedSlotNotice c n s
  | .tallocGrant c => execTallocGrant c s
  | .tileSealComplete c => execTileSealComplete c s
  | .tfreeComplete c => execTfreeComplete c s
  | .mctxClaim p x => execMctxClaim p x s
  | .mctxRelease p x => execMctxRelease p x s
  | .mtxTileStep p => execMtxTileStep p s
  | .bankOperationComplete c n => execBankOperationComplete c n s
  | .fabCardBind k => execFabCardBind k s
  | .fabUnitFire k x u => execFabUnitFire k x u s
  | .fabSourceToken k x e => execFabSourceToken k x e s
  | .fabSinkCommit k x e => execFabSinkCommit k x e s
  | .fabJobComplete k n => execFabJobComplete k n s
  | .queueEntryArrival c => execQueueEntryArrival c [] s
  | .queueRefusal c n k => execQueueRefusal c n k s
  | .queueAck c n => execQueueAck c n s
  | .queueSidingRetry c q => execQueueSidingRetry c q s
  | .queueCycleScan => execQueueCycleScan s
  | .frameFillTimer c b => execFrameFillTimer c b s
  | .frameSend c b => execFrameSend c b s
  | .rowFrameArrival c => execRowFrameArrival c s.link.device 0 0 [] s
  | .creditGrant c d => execCreditGrant c d 0 s
  | .msixIntervalExpiry v => execMsixIntervalExpiry v s

/-- Steps that have no row of their own. -/
def State.house (s : State) (t : Todo) : Option State :=
  match t with
  | .fetch c uid => ((s.core c).train? uid).map (fun t => s.fetchTrain c t)
  | .take p => s.drainTake p
  | .back c => (s.core c).backFrame.map (fun f => s.setFrame c f.1 f.2)
  | .start c => some (s.updCore c (fun k => k.startBatch s.cyc.toNat))
  | .seat c => some (s.seatCore c)
  | .wake c => some (s.tileWake c)
  | .laned => some { s with laned := s.cyc.toNat + 1 }
  | .tick => some s.tick
  | _ => none

end Sys2Proof.Machine
end

