-- ==== Sys2Proof/Machine/FetchOps.lean ====
section
/-!
DEFINITION. A machine about to run one instruction: what it takes for a word to be the one that a core, or a graph context, fetches next (R45,
R47, R405). A program is loaded from outside the machine; this stands for that load (log 42).
-/
namespace Sys2Proof.Machine

/-- The class under which a word reads as the instruction that `decodeTableWord` gives (log 4). -/
def tableClass (nbits w : Nat) : Nat :=
  match decodeTableWord nbits w with
  | none => 0
  | some i => ((List.range 16).find? (fun k => match decodeWord k (BitVec.ofNat 32 w) with | .ok j => decide (j = i) | .error _ => false)).getD 0

/-- A block of one instruction: its header, one clause of a class, and the word. -/
def oneBlock (cls : Nat) (w : IWord) : List IWord :=
  [BitVec.ofNat 32 (0xB * 2 ^ 28 + 1 * 2 ^ 22), BitVec.ofNat 32 (4 * 2 ^ 8), BitVec.ofNat 32 (1 * 2 ^ 28 + cls * 2 ^ 24), w]

/-- The launch, frame, instance and train that stand at the word. -/
def fetchRef : LaunchRef := ⟨0, 1⟩
def fetchInst : Inst :=
  { asid := 0, handle := 0, prog := 0, block := 0, idx := 0, toks := [], yielded := false, after := 0, num := 1 }
def fetchFrame : Frame :=
  { Frame.free with alloc := true, gen := 1, launch := fetchRef, mode := 1, order := 0, unit := 0 }
def fetchLaunch : Launch :=
  { id := 1, state := .running, asid := 0, queue := 0, record := 0, nodes := [], groups := [], code := 0, leaks := 0, since := 0,
    created := false, step := 0, slots := [], recSlots := [], placeSeq := 0, used := [0], pageWait := none, failed := [] }
def fetchTrainOf (cls : Nat) (w : IWord) (now : Nat) : Train :=
  { uid := 1, number := 0, launch := fetchRef, asid := 0, prog := 0, block := 0, team := false, departed := now, pipe := 0, ram := 1024,
    words := some (oneBlock cls w), pc := 1, seats := [⟨0, fetchInst⟩], slots := [], pend := [], hold := none, heldAt := none, failed := [],
    waits := [], ext := none, moved := 0, resumed := false, pass := 0, aside := [] }

/-- A fabric job whose graph context stands at the word. -/
def fetchCard (now : Nat) : FCard :=
  { slot := 0, seq := 1, info := { FaultInfo.plain 0 0 0 fetchRef 0 2 with core := 0 }, frame := 0, train := 0, opId := 0, tt := false, card := 0,
    bufs := [], copy := none, stage := .running, ctx := 0, code := 0, reason := 0, engine := 0, cancelled := false, inf := false, nan := false,
    element := 0, faddr := 0, orphan := false, cancelOps := [], pages := [], failed := [], due := now }
def fetchCtx (w : IWord) : FCtx :=
  { slot := 0, orow := 0, ocol := 0, fh := 0, fw := 0, phys := [], left := none, iter := 0, pc := 0, stopped := false, replay := false,
    words := [w.toNat], scope := none, units := [], engs := [], check := none, past := 0, nan := false, inf := false, pages := [], failed := [], imgAt := 0, kinds := [] }

/-- Partition 0 in RUN with cluster 0 and the one launch; core 0 with its frame; and the word, in the train's block or the command list; a
command runs when the lanes of the cycle have done what they do. -/
def State.placeWord (s : State) (cls : Nat) (w : IWord) : State :=
  let now := s.cyc.toNat
  let part : Partition := { Partition.reset with state := .run, clusters := [0], lastId := 1, launches := [(1, fetchLaunch)] }
  let core0 : Core := { Core.reset with frames := [(0, fetchFrame)], sram := [(0, 0)], uids := 1 }
  let core : Core := if cls = 15 then core0 else { core0 with trains := [fetchTrainOf cls w now] }
  let fab : Fabric := if cls = 15 then { cards := [fetchCard now], seqs := [(0, 1)], ctxs := [(0, fetchCtx w)] } else Fabric.reset
  { s with
    laned := if cls = 15 then now + 1 else 0, inbox := [], parts := [(0, part)], cores := [(0, core)], clusters := [(0, { Cluster.reset with fab := fab })], pairs := [], dies := [],
    host := { s.host with ready := true, vecs := s.host.vecs.map (fun v => (v.1, { v.2 with busyTo := none })), featAccept := 0x7FF },
    ramvan := { s.ramvan with powerGood := true }, link := { s.link with scanAt := now + 1050000 } }

end Sys2Proof.Machine
end

