-- ==== Sys2Proof/Machine/Step.lean ====
section
/-!
DEFINITION. One step of the machine: the first thing that it has to do in its state, an instruction, an event or housekeeping.
-/
namespace Sys2Proof.Machine

/-- One step. -/
def step (s : State) : Host.Outcome State Fault Refusal :=
  match s.todo with
  | .event i => exec i { s with inbox := s.inbox.tail }
  | .act a => runAct a s
  | .power => execPowerUp s
  | .issue c uid =>
    match (s.core c).train? uid with
    | none => .fault .noTrain
    | some t =>
      match t.nextInstr with
      | none => .next ((s.faultAll c t ILLEGAL_OPCODE 0).afterIssue c t)
      | some i =>
        match exec i ((s.consume c uid).forTrain c uid) with
        | .next s1 => .next (s1.afterIssue c t)
        | o => o
  | .command cl ctx i => exec i { s with cur := (cl, ctx) }
  | .store c => execStoreDrain c (s.storeTurn c)
  | t => eventStep (s.house t)

/-- The state with the instruction of a word where the next step fetches it (log 42). -/
def State.withFetchWord (s : State) (nbits w : Nat) : State := s.placeWord (tableClass nbits w) (BitVec.ofNat 32 w)

end Sys2Proof.Machine
end

