-- ==== Sys2Proof/Safety.lean ====
section
/-!
DEFINITION. What counts as a safe run, and the words in which statements about the machine are made: an instruction retired, results that land
at once or later, and what a step leaves as it was.
-/
namespace Sys2Proof.Machine

/-! ## Safe runs -/

/-- n steps from a state stop neither at a fault of the model nor at a refusal. -/
def SafeRun : Nat → State → Prop
  | 0, _ => True
  | n + 1, s => ∃ s', step s = .next s' ∧ SafeRun n s'

/-- HBM is in canonical form. -/
def State.memOk (s : State) : Prop := s.mem.wf = true

/-! ## What a step leaves as it was -/

/-- Two states agree but for core c; the count of free values drawn is the model's own and not compared. -/
def State.sameBut (s s' : State) (c : Nat) : Prop :=
  { s' with cores := s.cores, freeCtr := s.freeCtr } = s ∧ ∀ k, k ≠ c → s'.core k = s.core k

/-- Two states agree but for what the cores hold. -/
def State.sameOutside (s s' : State) : Prop := { s' with cores := s.cores, freeCtr := s.freeCtr } = s

/-! ## Instructions of a train -/

/-- The train behind the instruction that it has executed (R31). -/
def Train.retired (t : Train) : Train :=
  { t with pc := t.pc + 1, hold := none, heldAt := none, failed := [], waits := [], moved := 0, resumed := false }

/-- A train whose next instruction is current, with no write entry for it (R192), its active seats numbered apart (R28). -/
structure Issuing (s : State) (t : Train) : Prop where
  current : s.train? = some t
  noEntry : t.writeRegs = []
  apart : (t.seats.map (fun x => x.n)).Nodup

/-- No store of the train waits in its core's queue (R114), and none of its writes is under way at a peer (R433). -/
def State.storesDone (s : State) (t : Train) : Prop :=
  (∀ e ∈ (s.core s.cur.1).sq, e.train ≠ t.uid) ∧
  ∀ r ∈ s.link.reqs, r.core = s.cur.1 → r.train = t.uid → r.kind.writes = false

/-- Entries stand behind the current core's queued stores, each with the cycle from which on it drains (R114, R220). -/
def State.queues (s s' : State) (es : List SQEntry) : Prop :=
  ∃ new, (s'.core s.cur.1).sq = (s.core s.cur.1).sq ++ new ∧ new.map (fun e => { e with due := 0 }) = es ∧
    ∀ e ∈ new, s.cyc.toNat ≤ e.due

/-- Nothing of the train is outstanding on a path of a mask (R109, R120). -/
def State.pathsDone (s : State) (t : Train) (mask : Nat) : Prop := (s.core s.cur.1).pathsBusy t.uid mask = false

/-- The slot of a seat that a target byte names. -/
def Train.at (t : Train) (seat target : Nat) : Word := NMap.getD t.slots (seat * 256 + target) 0

/-- A slot that no active seat of the train has under a target. -/
def Train.untouched (t : Train) (targets : List Nat) (key : Nat) : Prop :=
  ∀ x ∈ t.seats, ∀ g ∈ targets, 4 ≤ g → key ≠ x.n * 256 + g

/-- What a train becomes when an instruction delivers one word to each active seat in its issue cycle: every target holds the seat's word, every
other slot what it held (R58, R184). -/
def Train.given (t u : Train) (targets : List Nat) (word : Seat → Word) : Prop :=
  u = { t.retired with slots := u.slots } ∧
  (∀ x ∈ t.seats, ∀ g ∈ targets, 4 ≤ g → u.at x.n g = word x) ∧
  ∀ key, t.untouched targets key → NMap.getD u.slots key 0 = NMap.getD t.slots key 0

/-- What an instruction whose results land at once comes to (R88): the train is given its words, and each frame's MODE, as the end of the cycle
leaves it, takes the flags of its active seats and nothing else. -/
def State.deliversNow (s s' : State) (t : Train) (targets : List Nat) (out : Seat → LaneOut) : Prop :=
  ∃ u, t.given u targets (fun x => (out x).val) ∧ s.sameBut s' s.cur.1 ∧
    (s'.core s.cur.1).trains = ((s.core s.cur.1).setTrain u).trains ∧
    { s'.core s.cur.1 with frames := (s.core s.cur.1).frames, trains := (s.core s.cur.1).trains } = s.core s.cur.1 ∧
    ∀ h, { s'.frame s.cur.1 h with raised := (s.frame s.cur.1 h).raised } = s.frame s.cur.1 h ∧
      ∀ k, bit (s'.frame s.cur.1 h).modeNow k =
        (bit (s.frame s.cur.1 h).modeNow k ||
          t.seats.any (fun x => x.inst.handle == h && decide (16 ≤ k) && (out x).fl.getLsbD (k - 16)))

/-- A late result of a seat (R53): an operation of the train is outstanding under a wait bit and a path, its targets wait for it, and the values
are on their way, with the flags they raise. -/
def State.lateFor (s s' : State) (t u : Train) (x : Seat) (vals : List (Nat × Word)) (fl : Flags) (wbit path : Nat) : Prop :=
  ∃ l ∈ (s'.core s.cur.1).late, l.train = t.uid ∧ l.seat = x.n ∧ l.handle = x.inst.handle ∧ l.vals = vals ∧ l.fl = fl ∧
    s.cyc.toNat < l.due ∧ (s.core s.cur.1).ops < l.opId ∧
    (⟨t.uid, wbit, path, l.opId⟩ : OutOp) ∈ (s'.core s.cur.1).outst ∧
    ∀ v ∈ vals, 4 ≤ v.1 → (x.n * 256 + v.1, l.opId) ∈ u.pend

/-- What an instruction whose results are late comes to: the train is behind it, its slots as they were, and every active seat has its late
result; registers, windows and memory are as they were. -/
def State.deliversLate (s s' : State) (t : Train) (wbit path : Nat) (vals : Seat → List (Nat × Word)) (fl : Seat → Flags) : Prop :=
  ∃ u, u = { t.retired with pend := u.pend } ∧ s.sameBut s' s.cur.1 ∧
    (s'.core s.cur.1).trains = ((s.core s.cur.1).setTrain u).trains ∧
    (s'.core s.cur.1).frames = (s.core s.cur.1).frames ∧ (s'.core s.cur.1).windows = (s.core s.cur.1).windows ∧
    (∀ l ∈ (s.core s.cur.1).late, l ∈ (s'.core s.cur.1).late) ∧
    ∀ x ∈ t.seats, s.lateFor s' t u x (vals x) (fl x) wbit path

/-- The next state of an instruction that changes nothing but its train's place: it retires. -/
def State.retires (s : State) (t : Train) : State := s.putTrain s.cur.1 t.retired

/-! ## What the lane instructions deliver (R67, R134 to R157) -/

/-- R134, R137 to R139: the targets of a plain INT instruction and the word it gives a seat, element by element as the tables have it. The
shifts and bit fields have the model's functions, of which statements of their own say what R135 and R136 ask. -/
def intWord : Instr → Option (BitVec 8 × BitVec 8 × (LaneIn → Word))
  | .iadd a b t k => some (a, b, fun x => (ITy.ofCode t.toNat).result (k == 1)
      (fun i => (ITy.ofCode t.toNat).read x.l i + (ITy.ofCode t.toNat).read x.r i))
  | .isub a b t k => some (a, b, fun x => (ITy.ofCode t.toNat).result (k == 1)
      (fun i => (ITy.ofCode t.toNat).read x.l i - (ITy.ofCode t.toNat).read x.r i))
  | .imul a b t k => some (a, b, fun x => (ITy.ofCode t.toNat).result (k == 1)
      (fun i => (ITy.ofCode t.toNat).read x.l i * (ITy.ofCode t.toNat).read x.r i))
  | .imulh a b t => some (a, b, fun x => (ITy.ofCode t.toNat).result false
      (fun i => (ITy.ofCode t.toNat).read x.l i * (ITy.ofCode t.toNat).read x.r i / 2 ^ (ITy.ofCode t.toNat).w))
  | .imad a b t k => some (a, b, fun x => (ITy.ofCode t.toNat).result (k == 1) (fun i =>
      (ITy.ofCode t.toNat).read x.l i * (ITy.ofCode t.toNat).read x.r i + (ITy.ofCode t.toNat).read x.t i))
  | .imin a b t => some (a, b, fun x => (ITy.ofCode t.toNat).result false
      (fun i => min ((ITy.ofCode t.toNat).read x.l i) ((ITy.ofCode t.toNat).read x.r i)))
  | .imax a b t => some (a, b, fun x => (ITy.ofCode t.toNat).result false
      (fun i => max ((ITy.ofCode t.toNat).read x.l i) ((ITy.ofCode t.toNat).read x.r i)))
  | .iabs a b t k => some (a, b, fun x => (ITy.ofCode (2 * t.toNat)).result (k == 1)
      (fun i => ((ITy.ofCode (2 * t.toNat)).read x.l i).natAbs))
  | .ineg a b t k => some (a, b, fun x => (ITy.ofCode (2 * t.toNat)).result (k == 1)
      (fun i => -(ITy.ofCode (2 * t.toNat)).read x.l i))
  | .iand a b t => some (a, b, fun x => if t = 1 then x.l &&& x.r else (x.l &&& x.r) &&& 0xFFFFFFFF#64)
  | .ior a b t => some (a, b, fun x => if t = 1 then x.l ||| x.r else (x.l ||| x.r) &&& 0xFFFFFFFF#64)
  | .ixor a b t => some (a, b, fun x => if t = 1 then x.l ^^^ x.r else (x.l ^^^ x.r) &&& 0xFFFFFFFF#64)
  | .andn a b t => some (a, b, fun x => if t = 1 then x.l &&& ~~~x.r else (x.l &&& ~~~x.r) &&& 0xFFFFFFFF#64)
  | .inot a b t => some (a, b, fun x => if t = 1 then ~~~x.l else ~~~x.l &&& 0xFFFFFFFF#64)
  | .shl a b t => some (a, b, shlV (ITy.ofCode (2 * t.toNat + 1)))
  | .shr a b t => some (a, b, shrV (ITy.ofCode (2 * t.toNat + 1)))
  | .sar a b t => some (a, b, sarV (ITy.ofCode (2 * t.toNat)))
  | .rot a b t => some (a, b, rotV (ITy.ofCode (2 * t.toNat + 1)))
  | .bfx a b t => some (a, b, bfxV (ITy.ofCode t.toNat))
  | .bfi a b t => some (a, b, bfiV (ITy.ofCode (2 * t.toNat + 1)))
  | .popc a b t => some (a, b, popcV (ITy.ofCode (2 * t.toNat + 1)))
  | .clz a b t => some (a, b, clzV (ITy.ofCode (2 * t.toNat + 1)))
  | .brev a b t => some (a, b, brevV (ITy.ofCode (2 * t.toNat + 1)))
  | .icmp a b t c => some (a, b, fun x => boolElems (ITy.ofCode t.toNat).w (ITy.ofCode t.toNat).n
      (fun i => icmpHolds c.toNat ((ITy.ofCode t.toNat).read x.l i) ((ITy.ofCode t.toNat).read x.r i)))
  | .sel a b t => some (a, b, fun x => (ITy.ofCode t.toNat).pack (fun i => (ITy.ofCode t.toNat).raw (if bit x.p 0 then x.l else x.r) i))
  | .mov a b => some (a, b, fun x => x.l)
  | .addx a b t k => some (a, b, fun x =>
      x.l + BitVec.ofInt 64 ((ITy.ofCode t.toNat).read x.r 0) * BitVec.ofNat 64 (2 ^ k.toNat) + x.t)
  | .const a i => some (a, 0, fun _ => i.signExtend 64)
  | .consh a i => some (a, 0, fun x => i ++ x.l.extractLsb' 0 48)
  | .consw a i => some (a, 0, fun x => x.l.extractLsb' 0 48 ++ i)
  | .iaddi a i => some (a, 0, fun x => x.l + i.signExtend 64)
  | _ => none

/-- R140 to R144: the targets of a plain FLT instruction, and its result with the flags that it raises. -/
def fltOut : Instr → Option (BitVec 8 × BitVec 8 × (LaneIn → LaneOut))
  | .fadd a b r t => some (a, b, faddV t.toNat r.toNat)
  | .fsub a b r t => some (a, b, fsubV t.toNat r.toNat)
  | .fmul a b r t => some (a, b, fmulV t.toNat r.toNat)
  | .ffma a b r t => some (a, b, ffmaV t.toNat r.toNat)
  | .fmin a b r t => some (a, b, fminV t.toNat r.toNat)
  | .fmax a b r t => some (a, b, fmaxV t.toNat r.toNat)
  | .fabs a b _ t => some (a, b, fabsV t.toNat)
  | .fneg a b _ t => some (a, b, fnegV t.toNat)
  | .fcmp a b r t c => some (a, b, fcmpV t.toNat r.toNat c.toNat)
  | .fclass a b _ t => some (a, b, fclassV t.toNat)
  | .fdot2 a b r t => some (a, b, fdot2V (2 + t.toNat) r.toNat)
  | .fdot4 a b r f => some (a, b, fdot4V r.toNat f.toNat)
  | _ => none

/-- R145 to R150: the targets of a plain SFN instruction, the feature that it needs, and the result of a seat of a train. -/
def sfnOut (t : Train) : Instr → Option (BitVec 8 × BitVec 8 × Option Nat × (Seat → LaneIn → LaneOut))
  | .frcp a b _ => some (a, b, none, fun _ => frcpV)
  | .frsq a b _ => some (a, b, none, fun _ => frsqV)
  | .fsqrt a b r y => some (a, b, none, fun _ => fsqrtV y.toNat r.toNat)
  | .fdiv a b r y => some (a, b, none, fun _ => fdivV y.toNat r.toNat)
  | .fexp2 a b _ => some (a, b, none, fun _ => fexp2V)
  | .flog2 a b _ => some (a, b, none, fun _ => flog2V)
  | .fsin a b _ => some (a, b, none, fun _ => fsinV)
  | .fcos a b _ => some (a, b, none, fun _ => fcosV)
  | .ftanh a b _ => some (a, b, none, fun _ => ftanhV)
  | .frint a b r y => some (a, b, none, fun _ => frintV y.toNat r.toNat)
  | .cvt a b r c => some (a, b, if cvtNeedsFP64 c.toNat then some 10 else none, fun _ => cvtV r.toNat c.toNat)
  | .cvtsc a b r f j => some (a, b, some 6, fun x => cvtscV r.toNat f.toNat (cvtscScale j.toNat t x))
  | .idiv a b y k => some (a, b, none, fun _ z => ⟨idivV (ITy.ofCode y.toNat) (k == 1) z, 0⟩)
  | .irem a b y => some (a, b, none, fun _ z => ⟨iremV (ITy.ofCode y.toNat) z, 0⟩)
  | _ => none

/-- R151 to R157: the targets of an XLN instruction, and the result of a seat among all the active seats of a train of core c. -/
def xlnOut (s : State) (c : Nat) (t : Train) : Instr → Option (BitVec 8 × BitVec 8 × (XSeat → LaneOut))
  | .shfl a b f => some (a, b, shflV t.seatCount f.toNat (s.xseats c t))
  | .shflx a b f => some (a, b, shflxV t.seatCount f.toNat (s.xseats c t))
  | .shflup a b f => some (a, b, shflupV t.seatCount f.toNat (s.xseats c t))
  | .shfldn a b f => some (a, b, shfldnV t.seatCount f.toNat (s.xseats c t))
  | .bcast a b f => some (a, b, bcastV t.seatCount f.toNat (s.xseats c t))
  | .vote a b o => some (a, b, voteV o.toNat (s.xseats c t))
  | .reduce a b o y g m => some (a, b, reduceV o.toNat y.toNat (g == 1) (m == 1) (s.xseats c t))
  | .scan a b o y g m e => some (a, b, scanV o.toNat y.toNat (g == 1) (m == 1) (e == 1) (s.xseats c t))
  | .xmatch a b w => some (a, b, matchV w.toNat (s.xseats c t))
  | .seatid a b k => some (a, b, seatidV k.toNat c (s.xseats c t))
  | .tagord a b g => some (a, b, tagordV (g == 1) (s.xseats c t))
  | _ => none

/-- R67: the plain form of a predicated instruction. -/
def plainForm : Instr → Option Instr
  | .iaddPred a b t k => some (.iadd a b t k)
  | .isubPred a b t k => some (.isub a b t k)
  | .imulPred a b t k => some (.imul a b t k)
  | .imulhPred a b t => some (.imulh a b t)
  | .imadPred a b t k => some (.imad a b t k)
  | .iminPred a b t => some (.imin a b t)
  | .imaxPred a b t => some (.imax a b t)
  | .iabsPred a b t k => some (.iabs a b t k)
  | .inegPred a b t k => some (.ineg a b t k)
  | .iandPred a b t => some (.iand a b t)
  | .iorPred a b t => some (.ior a b t)
  | .ixorPred a b t => some (.ixor a b t)
  | .andnPred a b t => some (.andn a b t)
  | .inotPred a b t => some (.inot a b t)
  | .shlPred a b t => some (.shl a b t)
  | .shrPred a b t => some (.shr a b t)
  | .sarPred a b t => some (.sar a b t)
  | .rotPred a b t => some (.rot a b t)
  | .bfxPred a b t => some (.bfx a b t)
  | .bfiPred a b t => some (.bfi a b t)
  | .popcPred a b t => some (.popc a b t)
  | .clzPred a b t => some (.clz a b t)
  | .brevPred a b t => some (.brev a b t)
  | .icmpPred a b t c => some (.icmp a b t c)
  | .movPred a b => some (.mov a b)
  | .addxPred a b t k => some (.addx a b t k)
  | .constPred a i => some (.const a i)
  | .conshPred a i => some (.consh a i)
  | .conswPred a i => some (.consw a i)
  | .iaddiPred a i => some (.iaddi a i)
  | .faddPred a b r t => some (.fadd a b r t)
  | .fsubPred a b r t => some (.fsub a b r t)
  | .fmulPred a b r t => some (.fmul a b r t)
  | .ffmaPred a b r t => some (.ffma a b r t)
  | .fminPred a b r t => some (.fmin a b r t)
  | .fmaxPred a b r t => some (.fmax a b r t)
  | .fabsPred a b r t => some (.fabs a b r t)
  | .fnegPred a b r t => some (.fneg a b r t)
  | .fcmpPred a b r t c => some (.fcmp a b r t c)
  | .fclassPred a b r t => some (.fclass a b r t)
  | .fdot2Pred a b r t => some (.fdot2 a b r t)
  | .fdot4Pred a b r f => some (.fdot4 a b r f)
  | .frcpPred a b r => some (.frcp a b r)
  | .frsqPred a b r => some (.frsq a b r)
  | .fsqrtPred a b r t => some (.fsqrt a b r t)
  | .fdivPred a b r t => some (.fdiv a b r t)
  | .fexp2Pred a b r => some (.fexp2 a b r)
  | .flog2Pred a b r => some (.flog2 a b r)
  | .fsinPred a b r => some (.fsin a b r)
  | .fcosPred a b r => some (.fcos a b r)
  | .ftanhPred a b r => some (.ftanh a b r)
  | .frintPred a b r t => some (.frint a b r t)
  | .cvtPred a b r c => some (.cvt a b r c)
  | .cvtscPred a b r f j => some (.cvtsc a b r f j)
  | .idivPred a b t k => some (.idiv a b t k)
  | .iremPred a b t => some (.irem a b t)
  | _ => none

/-! ## Tokens on their way (R163 to R166) -/

/-- A token that core c has released, with its operation: in flight to its core, kept for a boundary, held at c for credit, or at the ports as the
flit of R430. -/
def State.onItsWay (s : State) (c : Nat) (tok : Token) (a op : Nat) : Prop :=
  (∃ f ∈ (s.core (tagCore tok.tag)).flights, f.cargo = .tok tok ∧ f.opId = op ∧ f.opCore = a) ∨
  (∃ f ∈ (s.core c).sends, f.1 = tagCore tok.tag ∧ f.2.cargo = .tok tok ∧ f.2.opId = op) ∨
  (∃ q ∈ (s.core c).held, q.cargo = .tok tok ∧ q.opId = op) ∨
  (∃ p ∈ s.link.out ++ s.link.wait, p.pkt = .flit (tagDevice tok.tag) a op (Cargo.flit (.tok tok)))

/-- R163, R164: the data token of a seat with its own tag: the words that PWORDS does not declare are zero. -/
def dataToken (t : Train) (x : Seat) (own tag : Word) (dest : Nat) (sc : BitVec 3) (w : BitVec 2) : Token :=
  { tag := tag, src := own, dest := dest, scope := sc.toNat, pwords := w.toNat,
    pay0 := if w = 0 then 0 else t.slot x.n t.pc .l, pay1 := if w = 2 then t.slot x.n t.pc .r else 0,
    kind := 0, sided := false, sender := t.launch }

/-- R19, R173, R190: a spawned frame of a spawner's: the spawner's launch, program, stage and mode, its continuation, registers empty. -/
def childFrame (f : Frame) (gen carry order place reserve : Nat) (ptag : Word) (pdest : Nat) : Frame :=
  { Frame.free with
    alloc := true, gen := gen, launch := f.launch, asid := f.asid, prog := f.prog, mode := f.mode &&& 0xF7#64, parentValid := true,
    parentTag := ptag, parentDest := pdest, stage := f.stage, carryCount := carry, order := order, unit := place,
    reserve := reserve, empties := List.range carry }

/-- R170 to R172: destination, scope, tag source, payload words and awaited paths of a sending instruction of a seat, and when it is in range. -/
def senderOf (t : Train) (x : Seat) : Instr → Option (Nat × BitVec 3 × BitVec 1 × BitVec 2 × Nat × Prop)
  | .send d sc b w p => some (d.toNat, sc, b, w, p.toNat, True)
  | .sendsel d sc b w p => some (d.toNat + b2n (bit (t.slot x.n t.pc .p) 0), sc, b, w, p.toNat, True)
  | .switch d sc b w l => some (d.toNat + (t.slot x.n t.pc .p).toNat, sc, b, w, 0, (t.slot x.n t.pc .p).toNat ≤ l.toNat)
  | _ => none

/-! ## Values read at once (R176, R195, R280, R283, R324, R453) -/

/-- The targets of an instruction that reads state, the word it gives a seat of a train of core c, and the condition under which it does. -/
def nowOut (s : State) (c : Nat) (t : Train) : Instr → Option (List Nat × (Seat → Word) × Prop)
  | .tag a b m => some ([a.toNat, b.toNat], fun x =>
      let own := s.tagOf c x.inst
      let f := s.frame c x.inst.handle
      let l := t.slot x.n t.pc .l
      if m = 0 then own
      else if m = 1 then setBits own 23 0 (bits l 23 0)
      else if m = 2 then (if f.parentValid then f.parentTag else 0)
      else if m = 3 then BitVec.ofNat 64 f.gen
      else BitVec.ofNat 64 (bits (t.slot x.n t.pc .r) 23 0 + bits l 30 0 * 2 ^ 24 + t.asid * 2 ^ 55), m.toNat ≤ 4)
  | .clk a b m => some ([a.toNat, b.toNat], fun _ =>
      let p := s.part t.launch.part
      if m = 0 then (if p.tt.isSome then BitVec.ofNat 64 (s.core c).tclk else s.cyc)
      else if m = 1 then (if p.tt.isSome then p.ssCount else 0)
      else s.cyc, m.toNat ≤ 2)
  | .gtest a b => some ([a.toNat, b.toNat], fun x =>
      let f := s.frame c x.inst.handle
      let g := (t.slot x.n t.pc .l).toNat
      BitVec.ofNat 64 (b2n (f.full g) + 2 * b2n (f.binding? g).isSome + 4 * b2n ((f.binding? g).any (fun b => b.dropped))),
      ∀ x ∈ t.seats, (t.slot x.n t.pc .l).toNat < (s.frame c x.inst.handle).carryCount)
  | .qpoll a => some ([a.toNat], fun x =>
      let h := t.slot x.n t.pc .l
      if qhDev h = s.link.device ∧ qhCore h = c then (s.core c).countWord h else 0,
      ∀ x ∈ t.seats, s.handleOk (t.slot x.n t.pc .l) = true)
  | .tpart a p => some ([a.toNat], fun _ =>
      match poolFind (s.core c).eng.pool t.launch p.toNat with
      | some q => tpartWord q
      | none => 0, True)
  | .sregr a n => some ([a.toNat], fun _ => s.sregValue t.launch.part c n.toNat,
      sregReadable n.toNat = true ∧ (0x8000 ≤ n.toNat → (s.part t.launch.part).priv = true))
  | _ => none

/-! ## One seat at an engine (R40, R53, R57) -/

/-- After the instruction its train stands as u. -/
def State.stands (s s' : State) (u : Train) : Prop := (s'.core s.cur.1).trains = ((s.core s.cur.1).setTrain u).trains

/-- Each target of an instruction of a train holds one word at once, and memory is as it was. -/
def State.givesNow (s s' : State) (t : Train) (targets : List Nat) (w : Word) : Prop :=
  ∃ u, t.given u targets (fun _ => w) ∧ s.stands s' u ∧ s'.mem = s.mem

/-- One word on its way to a target of a seat under a wait bit and a path, and memory as it was. -/
def State.givesLate (s s' : State) (t : Train) (x : Seat) (vals : List (Nat × Word)) (wbit path : Nat) : Prop :=
  ∃ u, u = { t.retired with pend := u.pend } ∧ s.stands s' u ∧ s.lateFor s' t u x vals 0 wbit path

/-- An engine gives a seat one word: late, under a wait bit (0: none); at once in timetable mode (log 26). -/
def State.gives (s s' : State) (t : Train) (x : Seat) (a : Nat) (w : Word) (wbit : Nat) : Prop :=
  if s.inTT t.launch then s.givesNow s' t [a] w else s.givesLate s' t x [(a, w)] wbit 6 ∧ s'.mem = s.mem

/-- A new operation of the train is outstanding under a wait bit and a path. -/
def State.opens (s s' : State) (t : Train) (wbit path op : Nat) : Prop :=
  (s.core s.cur.1).ops < op ∧ (⟨t.uid, wbit, path, op⟩ : OutOp) ∈ (s'.core s.cur.1).outst

/-- A tile of the launch's pool on a core. -/
def State.tile? (s : State) (core : Nat) (k : TileKey) : Option Tile := poolTile (s.core core).eng.pool k

/-- R315, R316, R318: what `tseal`, `tfree` and `tabandon` need of a tile and make of it in an unbound partition. -/
def tileAfter (u : Tile) : Instr → Option (TState × Tile)
  | .tseal => some (.unsealed, { u with state := .sealed, run := false })
  | .tfree => some (.unsealed, { u with state := .free, run := false, dropping := false })
  | .tabandon => some (.sealed, if u.count ≤ 1 then { u with count := u.count - 1, state := .free, run := false, dropping := false }
      else { u with count := u.count - 1 })
  | _ => none

/-- R351: the update of a barrier that a seat of `bari`, `bara` or `barx` sends. -/
def barrierOf (t : Train) (x : Seat) : Instr → Option BarOp
  | .bari => if bits (t.slot x.n t.pc .r) 11 0 = 0 then none else some (.init (bits (t.slot x.n t.pc .r) 11 0))
  | .bara => some .arrive
  | .barx => some (.add (bits (t.slot x.n t.pc .r) 47 0))
  | _ => none

/-! ## Engines' commands (R366, R371, R406) -/

/-- R366, R368 to R371: the context of a matrix instruction, the command it queues for a train's lowest active seat, with the number of the
registered write of an `accst`, and whether it is accepted: its features, and its operands. -/
def matrixOf (s : State) (c : Nat) (t : Train) (x : Seat) : Instr → Option (BitVec 1 × (Nat → MKind) × Prop)
  | .mma ty k m u ctx l e => some (ctx, fun _ => .mma ty.toNat k.toNat m.toNat (u == 1) l.toNat (t.slot x.n t.pc .l) (t.slot x.n t.pc .r)
      (t.slot x.n t.pc .t) (t.mext e),
      mmaFeature s t ty.toNat (t.mext e) = true ∧
      s.mmaReason c t.launch ty.toNat k.toNat m.toNat (t.slot x.n t.pc .l) (t.slot x.n t.pc .r) (t.slot x.n t.pc .t) (t.mext e) = none)
  | .accz ctx l => some (ctx, fun _ => .accz l.toNat, True)
  | .accld m ctx l => some (ctx, fun _ => .accld l.toNat m.toNat (t.slot x.n t.pc .l) (bits (t.slot x.n t.pc .r) 31 0),
      accReason s c t x m.toNat 4 = none)
  | .accst f r m ctx l => some (ctx, fun mark => .accst l.toNat m.toNat f.toNat
      (if r = 0 then modeRM (s.frame c x.inst.handle).mode else r.toNat) (modeSATP (s.frame c x.inst.handle).mode == 1)
      (t.slot x.n t.pc .l) (bits (t.slot x.n t.pc .r) 31 0) mark,
      accReason s c t x m.toNat (ofmtBytes f.toNat) = none)
  | _ => none

/-- A context of the current core's pair. -/
def State.context (s : State) (ctx : BitVec 1) : MCtx := s.mctx s.cur.1 ctx.toNat

end Sys2Proof.Machine
end

