-- ==== Sys2Proof/Certificates/Slice0/Obligations.lean ====
section
/-!
DEFINITION. The statements for the provers.
-/
open Sys2Proof Sys2Proof.Machine

/-- What module reset leaves (10_control.md R274, R277, 17_host.md R461, R462, R467, R478, 16_network.md R435). -/
def Obligations.ResetLeavesTheModuleOff : Prop :=
  State.reset.cyc = 0 ∧ State.reset.ramvan.cap = 2800 ∧ State.reset.host.ready = false ∧ State.reset.mem = [] ∧
  State.reset.link.device = 0 ∧ State.reset.link.members = [0] ∧ (∀ c h, (State.reset.frame c h).alloc = false) ∧
  ∀ p, (State.reset.part p).state = .off ∧ (State.reset.part p).launches = [] ∧
    ∀ c n, n ≠ 0x0000 → n ≠ 0x0001 → State.reset.sregValue p c n =
      if n = 0x0005 then 256#64
      else if n = 0x8001 then BitVec.ofNat 64 (p % 16 * 2 ^ 24)
      else if n = 0x8002 then BitVec.allOnes 64
      else if n = 0x8003 then 2048#64
      else if n = 0x8019 then 16#64
      else 0#64

/-- Words written out from the encodings decode to their instructions (02_encoding.md R58 to R69). -/
def Obligations.WordsOfTheSpecDecode : Prop :=
  decodeWord 0 0x01140090#32 = .ok (.iadd 0x14 0 4 1) ∧
  decodeWord 0 0x131D2460#32 = .ok (.bfx 0x1D 0x24 3) ∧
  decodeWord 1 0x831A0040#32 = .ok (.fmulPred 0x1A 0 2 0) ∧
  decodeWord 2 0x04102428#32 = .ok (.fdiv 0x10 0x24 1 1) ∧
  decodeWord 3 0x070C0010#32 = .ok (.reduce 0x0C 0 0 2 0 0) ∧
  decodeWord 4 0x01001240#32 = .ok (.send 1 1 0 1 0) ∧
  decodeWord 4 0x03006244#32 = .ok (.switch 6 1 0 1 4) ∧
  decodeWord 5 0x05490009#32 = .ok (.rcpset 0x49 0 9) ∧
  decodeWord 5 0x00000000#32 = .error .illegalOpcode ∧
  decodeWord 6 0x01484600#32 = .ok (.ld 0x48 2 1 4 0 0) ∧
  decodeWord 6 0x07244D88#32 = .ok (.cas 0x24 0 3 3 1) ∧
  decodeWord 6 0x08008102#32 = .ok (.fence 4 2 1) ∧
  decodeWord 7 0x041D0019#32 = .ok (.tld 0x1D 1 1 1) ∧
  decodeWord 8 0x08100002#32 = .ok (.crpop 0x10 2) ∧
  decodeWord 9 0x01006104#32 = .ok (.mma 6 1 0 0 0 0 1) ∧
  decodeWord 9 0x07002400#32 = .ok (.accst 1 1 0 0 0) ∧
  decodeWord 10 0x04300000#32 = .ok (.bwait 0x30 0) ∧
  decodeWord 11 0x04000012#32 = .ok (.fpush 1 2) ∧
  decodeWord 12 0x02000005#32 = .ok (.nrec 5) ∧
  decodeWord 13 0x021C0021#32 = .ok (.qdeq 0x1C 4 1) ∧
  decodeWord 14 0x06140004#32 = .ok (.sregr 0x14 4) ∧
  decodeWord 15 0x86000301#32 = .ok (.sloop 3 1)

/-- Every plain INT instruction completes with the words its tables give (05_lanes.md R130 to R139). -/
def Obligations.IntLanesDeliver : Prop :=
  ∀ (s : State) (t : Train) (i : Instr) (a b : BitVec 8) (f : LaneIn → Word), Issuing s t → intWord i = some (a, b, f) →
    ∃ s', exec i s = .next s' ∧
      s.deliversNow s' t [a.toNat, b.toNat] (fun x => ⟨f (s.seatIn s.cur.1 t x), 0⟩)

/-- Every plain FLT instruction completes with its result and ORs its flags into MODE (05_lanes.md R130 to R133, R140 to R144, 03_numbers.md
R88). The sign of an exact zero sum under other modes than nearest even is presumed (log 10); IV beside a quiet NaN in a sum, and IX of a
saturated conversion, are deduced (log 63). -/
def Obligations.FltLanesDeliver : Prop :=
  ∀ (s : State) (t : Train) (i : Instr) (a b : BitVec 8) (f : LaneIn → LaneOut), Issuing s t → fltOut i = some (a, b, f) →
    ∃ s', exec i s = .next s' ∧ s.deliversNow s' t [a.toNat, b.toNat] (fun x => f (s.seatIn s.cur.1 t x))

/-- A predicated INT or FLT instruction delivers the plain result where P bit 0 is 1, and L without a flag elsewhere (02_encoding.md R67,
05_lanes.md R130 to R144). -/
def Obligations.PredicatedLanesDeliver : Prop :=
  ∀ (s : State) (t : Train) (i j : Instr) (a b : BitVec 8) (f : LaneIn → LaneOut), Issuing s t → plainForm i = some j →
    ((∃ g, intWord j = some (a, b, g) ∧ f = fun x => ⟨g x, 0⟩) ∨ fltOut j = some (a, b, f)) →
    ∃ s', exec i s = .next s' ∧ s.deliversNow s' t [a.toNat, b.toNat] (fun x =>
      let y := s.seatIn s.cur.1 t x
      if bit y.p 0 then f y else ⟨y.l, 0⟩)

/-- Every SFN instruction completes and its results are late; a predicated one delivers L where P bit 0 is 0 (05_lanes.md R131, R145 to
R150, 02_encoding.md R53, 02_encoding.md R67). How long results take is free (log 2); that the evaluation of the functions rounds as the
exact value does is deduced (log 11). -/
def Obligations.SfnLanesAreLate : Prop :=
  (∀ (s : State) (t : Train) (i : Instr) (a b : BitVec 8) (need : Option Nat) (f : Seat → LaneIn → LaneOut), Issuing s t →
    sfnOut t i = some (a, b, need, f) → (∀ k, need = some k → s.featOn t.launch k = true) →
    ∃ s', exec i s = .next s' ∧
      s.deliversLate s' t 0 6
        (fun x => [(a.toNat, (f x (s.seatIn s.cur.1 t x)).val), (b.toNat, (f x (s.seatIn s.cur.1 t x)).val)])
        (fun x => (f x (s.seatIn s.cur.1 t x)).fl)) ∧
  (∀ (s : State) (t : Train) (i j : Instr) (a b : BitVec 8) (need : Option Nat) (f : Seat → LaneIn → LaneOut), Issuing s t →
    plainForm i = some j → sfnOut t j = some (a, b, need, f) → (∀ k, need = some k → s.featOn t.launch k = true) →
    ∃ s', exec i s = .next s' ∧
      s.deliversLate s' t 0 6
        (fun x =>
          let y := s.seatIn s.cur.1 t x
          let v := if bit y.p 0 then (f x y).val else y.l
          [(a.toNat, v), (b.toNat, v)])
        (fun x =>
          let y := s.seatIn s.cur.1 t x
          if bit y.p 0 then (f x y).fl else 0))

/-- Every XLN instruction completes with a result for each active seat from all of them (05_lanes.md R151 to R157). IV in minimum and
maximum folds is deduced (log 63); how two seats of one tag stand is the model's choice (log 16). -/
def Obligations.XlnLanesDeliver : Prop :=
  ∀ (s : State) (t : Train) (i : Instr) (a b : BitVec 8) (f : XSeat → LaneOut), Issuing s t →
    xlnOut s s.cur.1 t i = some (a, b, f) →
    ∃ s', exec i s = .next s' ∧
      s.deliversNow s' t [a.toNat, b.toNat] (fun x =>
        match seatOf (s.xseats s.cur.1 t) x.n with
        | some y => f y
        | none => ⟨0, 0⟩)

/-- A result is placed element by element, and bits 63 to 32 are as the type gives (03_numbers.md R76, 05_lanes.md R133). -/
def Obligations.PackedElementsStandAlone : Prop :=
  ∀ (c : Nat) (f : Nat → Nat), c < 8 →
    (∀ i < (ITy.ofCode c).n, (ITy.ofCode c).raw ((ITy.ofCode c).pack f) i = f i % 2 ^ (ITy.ofCode c).w) ∧
    (c = 0 → ∀ k, 32 ≤ k → k < 64 → bit ((ITy.ofCode c).pack f) k = bit ((ITy.ofCode c).pack f) 31) ∧
    (c ≠ 0 → c ≠ 2 → c ≠ 3 → ∀ k, 32 ≤ k → bit ((ITy.ofCode c).pack f) k = false)

/-- shl, shr, sar and rot bit by bit (R135). -/
def Obligations.ShiftsMoveBitsWithinElements : Prop :=
  ∀ (y : Nat) (x : LaneIn) (i k : Nat), y < 8 → i < (ITy.ofCode y).n → k < (ITy.ofCode y).w →
    let w := (ITy.ofCode y).w
    let c := (ITy.ofCode y).raw x.r i % w
    let l := (ITy.ofCode y).raw x.l i
    ((ITy.ofCode y).raw (shlV (ITy.ofCode y) x) i).testBit k = (decide (c ≤ k) && l.testBit (k - c)) ∧
    ((ITy.ofCode y).raw (shrV (ITy.ofCode y) x) i).testBit k = (decide (k + c < w) && l.testBit (k + c)) ∧
    ((ITy.ofCode y).raw (sarV (ITy.ofCode y) x) i).testBit k = l.testBit (min (k + c) (w - 1)) ∧
    ((ITy.ofCode y).raw (rotV (ITy.ofCode y) x) i).testBit k = l.testBit ((k + w - c) % w)

/-- bfx and bfi bit by bit (R136). -/
def Obligations.BitFieldsAreCutAtTheElement : Prop :=
  ∀ (y : Nat) (x : LaneIn) (k : Nat), y < 4 → k < (ITy.ofCode y).w →
    let w := (ITy.ofCode y).w
    let pos := bits x.r 7 0
    let n := min (bits x.r 15 8) (w - pos)
    let l := (ITy.ofCode y).raw x.l 0
    ((ITy.ofCode y).raw (bfxV (ITy.ofCode y) x) 0).testBit k =
      (if n = 0 then false else if k < n then l.testBit (pos + k) else ((ITy.ofCode y).signed && l.testBit (pos + n - 1))) ∧
    ((ITy.ofCode y).raw (bfiV (ITy.ofCode y) x) 0).testBit k =
      (if pos ≤ k ∧ k < pos + n then l.testBit (k - pos) else ((ITy.ofCode y).raw x.t 0).testBit k)

/-- A write entry stores an INT result in the carried register and fills it (07_carry.md R192 to R194). -/
def Obligations.WriteEntryTakesTheResult : Prop :=
  ∀ (s : State) (t : Train) (x : Seat) (i : Instr) (a b : BitVec 8) (f : LaneIn → Word), s.train? = some t → t.seats = [x] →
    intWord i = some (a, b, f) → (s.frame s.cur.1 x.inst.handle).binds = [] →
    (∀ g ∈ t.writeRegs, g < (s.frame s.cur.1 x.inst.handle).carryCount) →
    ∃ s' u, exec i s = .next s' ∧ (s'.core s.cur.1).train? t.uid = some u ∧ u.pc = t.pc + 1 ∧
      (∀ g ∈ [a.toNat, b.toNat], 4 ≤ g → u.at x.n g = f (s.seatIn s.cur.1 t x)) ∧
      ∀ g ∈ t.writeRegs,
        if s.overtaken s.cur.1 t x.inst.handle g then
          (s'.frame s.cur.1 x.inst.handle).full g = (s.frame s.cur.1 x.inst.handle).full g ∧
            (s'.frame s.cur.1 x.inst.handle).reg g = (s.frame s.cur.1 x.inst.handle).reg g
        else (s'.frame s.cur.1 x.inst.handle).full g = true ∧
          (s'.frame s.cur.1 x.inst.handle).reg g = f (s.seatIn s.cur.1 t x)

/-- ld and lds complete with the bytes at their address or place, late (08_memory.md R211 to R215, R223, 04_ordering.md R114, 08_memory.md
R209 to R214). How long results take is free (log 2). -/
def Obligations.LoadsDeliverLate : Prop :=
  (∀ (s : State) (t : Train) (a : BitVec 8) (z : BitVec 3) (o : BitVec 1) (sc : BitVec 3) (p : BitVec 2) (g : BitVec 1)
    (home : Seat → Nat × TlbEntry), Issuing s t → (o = 1 → s.scopeBound t sc.toNat = true) →
    (∀ x ∈ t.seats, s.access s.cur.1 t.asid t.failed (t.slot x.n t.pc .l).toNat (2 ^ z.toNat) .read = .ok (home x).1 (home x).2 ∧
      leafRemote (home x).2.leaf = false ∧ granuleBad s.bad (home x).1 (2 ^ z.toNat) = false) →
    ∃ s', exec (.ld a z o sc p g) s = .next s' ∧
      s.deliversLate s' t 16 0
        (fun x => loadVals a.toNat z.toNat (g == 1)
          (ofLE (s.seeGlob s.cur.1 t.uid (s.inTT t.launch) (home x).1 (2 ^ z.toNat)))) (fun _ => 0)) ∧
  (∀ (s : State) (t : Train) (a : BitVec 8) (z : BitVec 3) (o : BitVec 1) (sc : BitVec 3) (g : BitVec 1) (home : Seat → Nat × Nat),
    Issuing s t → (o = 1 → s.scopeBound t sc.toNat = true) →
    (∀ x ∈ t.seats, s.spAccess s.cur.1 t.launch (t.slot x.n t.pc .l) (2 ^ z.toNat) = .ok (home x) ∧
      s.winErr t.launch (home x).1 (home x).2 (2 ^ z.toNat) = false) →
    ∃ s', exec (.lds a z o sc g) s = .next s' ∧
      s.deliversLate s' t 16 0
        (fun x => loadVals a.toNat z.toNat (g == 1)
          (ofLE (s.seeWin s.cur.1 t.uid (s.inTT t.launch) t.launch (home x).1 (home x).2 (2 ^ z.toNat)))) (fun _ => 0))

/-- st and sts put their bytes behind the core’s queued stores in seat order, and a drain writes exactly its bytes (04_ordering.md R114,
08_memory.md R213, R214). -/
def Obligations.StoresQueueAndDrain : Prop :=
  ((∀ (s : State) (t : Train) (z : BitVec 3) (o : BitVec 1) (sc : BitVec 3) (p : BitVec 2) (home : Seat → Nat × TlbEntry),
    Issuing s t → (o = 1 → s.scopeBound t sc.toNat = true) →
    (∀ x ∈ t.seats, s.access s.cur.1 t.asid t.failed (t.slot x.n t.pc .l).toNat (2 ^ z.toNat) .write = .ok (home x).1 (home x).2) →
    exec (.st z o sc p) s = .next (((s.looked s.cur.1 t).enqueue s.cur.1 (t.seats.map (fun x =>
      sqEntry t x (.glob (home x).1 (leafHome (home x).2.leaf) (storeBytes t x z.toNat)) [] [] 0))).putTrain s.cur.1 t.retired)) ∧
  (∀ (s : State) (t : Train) (z : BitVec 3) (o : BitVec 1) (sc : BitVec 3) (home : Seat → Nat × Nat),
    Issuing s t → (o = 1 → s.scopeBound t sc.toNat = true) →
    (∀ x ∈ t.seats, s.spAccess s.cur.1 t.launch (t.slot x.n t.pc .l) (2 ^ z.toNat) = .ok (home x)) →
    exec (.sts z o sc) s = .next ((s.enqueue s.cur.1 (t.seats.map (fun x =>
      sqEntry t x (.win (home x).1 (home x).2 (storeBytes t x z.toNat)) [] [] 0))).putTrain s.cur.1 t.retired))) ∧
  (∀ (s : State) (c pa : Nat) (d : List Byte) (e : SQEntry) (rest : List SQEntry), (s.core c).sq = e :: rest → e.op = .glob pa none d → e.sent = none →
    s.ttCore c = false → s.memOk →
    ∃ s', exec (.storeDrain c) s = .next s' ∧ s'.core c = { s.core c with sq := rest } ∧ (∀ k, k ≠ c → s'.core k = s.core k) ∧
      (∀ i (h : i < d.length), s'.mem.get (pa + i) = d[i]) ∧
      (∀ a, a < pa ∨ pa + d.length ≤ a → s'.mem.get a = s.mem.get a) ∧
      { s' with mem := s.mem, cores := s.cores } = s)

/-- atom and cas replace their word and return the old one (08_memory.md R217, R218, 04_ordering.md R126). -/
def Obligations.AtomicsActAtTheirHome : Prop :=
  ∀ (s : State) (t : Train) (x : Seat) (i : Instr) (a : BitVec 8) (z : BitVec 1) (o sc : BitVec 3) (g : BitVec 1) (op pa : Nat) (e : TlbEntry),
    Issuing s t → t.seats = [x] → s.inTT t.launch = false → s.storesDone t → s.scopeBound t sc.toNat = true →
    ((i = .cas a z o sc g ∧ op = 7) ∨ ∃ y : BitVec 3, i = .atom a z o sc g y ∧ op = y.toNat) →
    s.access s.cur.1 t.asid t.failed (t.slot x.n t.pc .l).toNat (4 + 4 * z.toNat) .rmw = .ok pa e → leafRemote e.leaf = false →
    granuleBad s.bad pa (4 + 4 * z.toNat) = false → s.memOk →
    ∃ s' u, exec i s = .next s' ∧ u = { t.retired with pend := u.pend } ∧
      (s'.core s.cur.1).trains = ((s.core s.cur.1).setTrain u).trains ∧
      s'.mem.readNat pa (4 + 4 * z.toNat) = rmwNew op (8 * (4 + 4 * z.toNat)) (g == 1) (s.mem.readNat pa (4 + 4 * z.toNat))
        (t.slot x.n t.pc .r).toNat (t.slot x.n t.pc .t).toNat ∧
      (∀ b, b < pa ∨ pa + (4 + 4 * z.toNat) ≤ b → s'.mem.get b = s.mem.get b) ∧
      { s' with mem := s.mem, cores := s.cores, freeCtr := s.freeCtr } = s ∧ (∀ k, k ≠ s.cur.1 → s'.core k = s.core k) ∧
      (s'.core s.cur.1).frames = (s.core s.cur.1).frames ∧ (s'.core s.cur.1).windows = (s.core s.cur.1).windows ∧
      (4 ≤ a.toNat → s.lateFor s' t u x
        [(a.toNat, extend (g == 1) (4 + 4 * z.toNat) (s.mem.readNat pa (4 + 4 * z.toNat)))] 0 18 0)

/-- atoms replaces its word of a window and returns the old one (08_memory.md R217, R219, 04_ordering.md R114). -/
def Obligations.ScratchpadAtomicsActOnTheWindow : Prop :=
  ∀ (s : State) (t : Train) (x : Seat) (a : BitVec 8) (z : BitVec 1) (o sc : BitVec 3) (g : BitVec 1) (y : BitVec 3) (k off : Nat),
    Issuing s t → t.seats = [x] → s.inTT t.launch = false → s.storesDone t → s.scopeBound t sc.toNat = true →
    s.spAccess s.cur.1 t.launch (t.slot x.n t.pc .l) (4 + 4 * z.toNat) = .ok (k, off) → s.winErr t.launch k off (4 + 4 * z.toNat) = false →
    (∀ w, (s.core k).window? t.launch = some w → w.mem.wf = true) →
    ∃ s' u w w', exec (.atoms a z o sc g y) s = .next s' ∧ u = { t.retired with pend := u.pend } ∧
      (s'.core s.cur.1).trains = ((s.core s.cur.1).setTrain u).trains ∧
      (s.core k).window? t.launch = some w ∧ (s'.core k).window? t.launch = some w' ∧
      w'.mem.readNat off (4 + 4 * z.toNat) = rmwNew y.toNat (8 * (4 + 4 * z.toNat)) (g == 1)
        (ofLE (s.seeWin s.cur.1 t.uid false t.launch k off (4 + 4 * z.toNat))) (t.slot x.n t.pc .r).toNat 0 ∧
      (∀ b, b < off ∨ off + (4 + 4 * z.toNat) ≤ b → w'.mem.get b = w.mem.get b) ∧ s'.mem = s.mem ∧
      (4 ≤ a.toNat → s.lateFor s' t u x [(a.toNat, extend (g == 1) (4 + 4 * z.toNat)
        (ofLE (s.seeWin s.cur.1 t.uid false t.launch k off (4 + 4 * z.toNat))))] 0 18 0)

/-- fence and bfence retire once nothing earlier is outstanding, and fence holds until then (04_ordering.md R120, 14_bank.md R389,
04_ordering.md R109, R120, 16_network.md R433). -/
def Obligations.FencesWaitForEarlierWork : Prop :=
  ((∀ (s : State) (t : Train) (sc : BitVec 3) (b c : BitVec 6), Issuing s t → s.scopeBound t sc.toNat = true → s.storesDone t →
    s.pathsDone t b.toNat → s.bufferHolds s.cur.1 t sc.toNat b.toNat = false → exec (.fence sc b c) s = .next (s.retires t)) ∧
  (∀ (s : State) (t : Train) (sc : BitVec 3), Issuing s t → s.scopeBound t sc.toNat = true → s.storesDone t →
    s.pathsDone t 17 → s.bufferHolds s.cur.1 t sc.toNat 17 = false → exec (.bfence sc) s = .next (s.retires t))) ∧
  (∀ (s : State) (t : Train) (sc : BitVec 3) (b c : BitVec 6), Issuing s t → s.scopeBound t sc.toNat = true →
    (s.storesDone t → (s.core s.cur.1).pathsBusy t.uid b.toNat = true → exec (.fence sc b c) s = .next (s.holdTrain s.cur.1 t .paths)) ∧
    (s.inTT t.launch = false → (∀ e ∈ (s.core s.cur.1).sq, e.train ≠ t.uid) → b.toNat.testBit 0 = true →
      (∃ r ∈ s.link.reqs, r.core = s.cur.1 ∧ r.train = t.uid ∧ r.kind.writes = true) →
      exec (.fence sc b c) s = .next (s.holdTrain s.cur.1 t .paths)) ∧
    (s.storesDone t → s.pathsDone t b.toNat → s.inTT t.launch = true → 2 ≤ s.extent t sc.toNat → t.moved = 0 →
      (∃ e ∈ (s.core s.cur.1).sq, b.toNat.testBit e.op.path = true) →
      exec (.fence sc b c) s =
        .next (s.holdTrain s.cur.1 { t with moved := (s.part t.launch.part).ssCount.toNat + 1 } .paths)))

/-- pref, cflush and cinv complete without a fault and change no memory (08_memory.md R221). -/
def Obligations.PrefetchAndFlushNeverFault : Prop :=
  ∀ (s : State) (t : Train) (i : Instr), Issuing s t →
    ((∃ p n, i = .pref p n) ∨ (∃ p, i = .cflush p) ∨ ∃ p, i = .cinv p) →
    ∃ s', exec i s = .next s' ∧ s'.mem = s.mem ∧ s'.fut = s.fut ∧ s'.parts = s.parts ∧ s'.link = s.link ∧
      (s'.core s.cur.1).trains = ((s.core s.cur.1).setTrain t.retired).trains ∧
      (s'.core s.cur.1).frames = (s.core s.cur.1).frames ∧ (s'.core s.cur.1).windows = (s.core s.cur.1).windows ∧
      ((∀ p n, i ≠ .pref p n) → ∃ op, (⟨t.uid, 17, 0, op⟩ : OutOp) ∈ (s'.core s.cur.1).outst ∧
        ∃ due, (due, op) ∈ (s'.core s.cur.1).flushes)

/-- futst fills a future and wakes its waiters, or empties it (06_firing.md R178, R179). -/
def Obligations.FutureStoreFillsOrEmpties : Prop :=
  ∀ (s : State) (t : Train) (x : Seat) (o : BitVec 1) (sc : BitVec 3) (p : BitVec 2) (y : BitVec 1) (pa : Nat) (e : TlbEntry),
    Issuing s t → t.seats = [x] → s.inTT t.launch = false → s.storesDone t → (o = 1 → s.scopeBound t sc.toNat = true) →
    s.futAccess s.cur.1 t x .write = .ok pa e → leafRemote e.leaf = false → s.memOk →
    ∃ s', exec (.futst o sc p y) s = .next s' ∧ (s'.core s.cur.1).trains = ((s.core s.cur.1).setTrain t.retired).trains ∧
      (∀ q, q ≠ pa → s'.futFull q = s.futFull q) ∧
      (y = 1 → s'.futFull pa = false ∧ s'.mem = s.mem) ∧
      (y = 0 → s'.futFull pa = true ∧ s'.mem.readNat pa 8 = (t.slot x.n t.pc .r).toNat ∧
        (∀ b, b < pa ∨ pa + 8 ≤ b → s'.mem.get b = s.mem.get b) ∧
        ∀ c, ∀ w ∈ (s'.core c).waiters, w.pa = pa → w.woken = true)

/-- futld of a full word delivers it, and parks the seat on an empty one (06_firing.md R177, 06_firing.md R177, R178). -/
def Obligations.FutureLoadReadsOrParks : Prop :=
  (∀ (s : State) (t : Train) (x : Seat) (a : BitVec 8) (o : BitVec 1) (sc : BitVec 3) (p : BitVec 2) (k y : BitVec 1) (pa : Nat) (e : TlbEntry),
    Issuing s t → t.seats = [x] → t.outwardBefore = false → s.inTT t.launch = false → s.storesDone t →
    (o = 1 → s.scopeBound t sc.toNat = true) → s.futAccess s.cur.1 t x (if k == 1 then .rmw else .read) = .ok pa e →
    leafRemote e.leaf = false → granuleBad s.bad pa 8 = false → s.futFull pa = true →
    ∃ s' u, exec (.futld a o sc p k y) s = .next s' ∧ u = { t.retired with pend := u.pend } ∧
      (s'.core s.cur.1).trains = ((s.core s.cur.1).setTrain u).trains ∧
      s.lateFor s' t u x [(a.toNat, BitVec.ofNat 64 (s.mem.readNat pa 8))] 0 0 0 ∧ s'.mem = s.mem ∧
      (∀ q, q ≠ pa → s'.futFull q = s.futFull q) ∧ s'.futFull pa = !(k == 1)) ∧
  (∀ (s : State) (t : Train) (x : Seat) (a : BitVec 8) (o : BitVec 1) (sc : BitVec 3) (p : BitVec 2) (k : BitVec 1) (pa : Nat) (e : TlbEntry),
    Issuing s t → t.seats = [x] → t.outwardBefore = false → s.inTT t.launch = false → s.storesDone t →
    (o = 1 → s.scopeBound t sc.toNat = true) → s.futAccess s.cur.1 t x (if k == 1 then .rmw else .read) = .ok pa e →
    leafRemote e.leaf = false → granuleBad s.bad pa 8 = false → s.futFull pa = false → (s.core s.cur.1).waiters.length < 1024 →
    ∃ s' u, exec (.futld a o sc p k 0) s = .next s' ∧ (s'.core s.cur.1).train? t.uid = some u ∧ u.seats = [] ∧ u.pc = t.pc + 1 ∧
      (s'.core s.cur.1).waiters = (s.core s.cur.1).waiters ++ [⟨x.inst, pa, false⟩] ∧ s'.mem = s.mem ∧ s'.fut = s.fut)

/-- ldmx delivers four elements of a block and its scale to each seat; stmx queues data and scale of each group (08_memory.md R222,
03_numbers.md R94, 04_ordering.md R127). How long results take is free (log 2). -/
def Obligations.BlockLoadsAndStores : Prop :=
  (∀ (s : State) (t : Train) (a : BitVec 8) (o : BitVec 1) (sc : BitVec 3) (p : BitVec 2) (f : BitVec 3) (first : Nat → Seat) (home : Nat → Nat × Nat),
    Issuing s t → (o = 1 → s.scopeBound t sc.toNat = true) →
    (∀ x ∈ t.seats, t.seat? (8 * (x.n / 8)) = some (first (x.n / 8)) ∧
      s.mxAccess s.cur.1 t.asid t.failed (t.slot (first (x.n / 8)).n t.pc .l).toNat f.toNat .read =
        .ok (home (x.n / 8)).1 none (home (x.n / 8)).2 none ∧
      granuleBad s.bad (home (x.n / 8)).1 (mxBytes f.toNat) = false ∧ granuleBad s.bad (home (x.n / 8)).2 1 = false) →
    ∃ s', exec (.ldmx a o sc p f) s = .next s' ∧
      s.deliversLate s' t 16 0
        (fun x => [(a.toNat, mxSeatWord f.toNat
          (ofLE (s.seeGlob s.cur.1 t.uid (s.inTT t.launch) (home (x.n / 8)).1 (mxBytes f.toNat)))
          (ofLE (s.seeGlob s.cur.1 t.uid (s.inTT t.launch) (home (x.n / 8)).2 1)) (x.n % 8))]) (fun _ => 0)) ∧
  (∀ (s : State) (t : Train) (o : BitVec 1) (sc : BitVec 3) (p : BitVec 2) (f : BitVec 3) (first : Nat → Seat)
    (home : Nat → (Nat × Option Nat) × (Nat × Option Nat)), Issuing s t → (o = 1 → s.scopeBound t sc.toNat = true) →
    (∀ b ∈ t.groups, t.seat? (8 * b) = some (first b) ∧
      s.mxAccess s.cur.1 t.asid t.failed (t.slot (first b).n t.pc .l).toNat f.toNat .write =
        .ok (home b).1.1 (home b).1.2 (home b).2.1 (home b).2.2) →
    exec (.stmx o sc p f) s = .next ((((s.looked s.cur.1 t).tlbFill s.cur.1 t.asid (s.mxScaleVas s.cur.1 t f.toNat)).enqueue s.cur.1
      (t.groups.map (fun b => sqEntry t (first b) (.mx (home b).1.1 (home b).1.2 (leBytes (mxBytes f.toNat) (stmxData t f.toNat b))
        (home b).2.1 (home b).2.2 (BitVec.ofNat 8 (t.slot (first b).n t.pc .t).toNat)) [] [] 0))).putTrain s.cur.1 t.retired))

/-- tag, clk, gtest, qpoll, tpart and sregr complete in their issue cycle with the value the rules give (06_firing.md R176, 07_carry.md
R195, 10_control.md R280, R283, 11_tiles.md R324, 16_network.md R450, R453). -/
def Obligations.RegisterReadsDeliverAtOnce : Prop :=
  ∀ (s : State) (t : Train) (i : Instr) (gs : List Nat) (w : Seat → Word) (ok : Prop), Issuing s t →
    nowOut s s.cur.1 t i = some (gs, w, ok) → ok →
    ∃ s', exec i s = .next s' ∧ s.deliversNow s' t gs (fun x => ⟨w x, 0⟩)

/-- mode delivers the old MODE word and writes the new one, which the end of the cycle settles (03_numbers.md R84, R85, R88, 10_control.md
R282, 01_machine.md R2). -/
def Obligations.ModeReadsAndWritesItsWord : Prop :=
  (∀ (s : State) (t : Train) (x : Seat) (a b : BitVec 8) (m : BitVec 2), Issuing s t → t.seats = [x] → m.toNat ≤ 2 →
    let f := s.frame s.cur.1 x.inst.handle
    let l := t.slot x.n t.pc .l
    let r := t.slot x.n t.pc .r
    let old := f.modeNext.getD f.mode
    let new := if m = 0 then old else if m = 1 then modeFields ((old &&& ~~~r) ||| (l &&& r)) else old &&& ~~~(0x007F0000#64)
    modeRMOk new = true → modeSATPOk new = true →
    ∃ s' u, exec (.mode a b m) s = .next s' ∧ t.given u [a.toNat, b.toNat] (fun _ => old) ∧ s.sameBut s' s.cur.1 ∧
      (s'.core s.cur.1).trains = ((s.core s.cur.1).setTrain u).trains ∧
      s'.frame s.cur.1 x.inst.handle = { f with modeNext := some new } ∧
      (s'.frame s.cur.1 x.inst.handle).modeNow = modeOrFlags new f.raised ∧
      (∀ h, h ≠ x.inst.handle → s'.frame s.cur.1 h = s.frame s.cur.1 h) ∧
      { s'.core s.cur.1 with frames := (s.core s.cur.1).frames, trains := (s.core s.cur.1).trains } = s.core s.cur.1) ∧
  (∀ s : State, s.todo = .tick →
    ∃ s', step s = .next s' ∧ s'.cyc = s.cyc + 1 ∧ s'.mem = s.mem ∧
      ∀ c h, (s'.frame c h).mode = (s.frame c h).modeNow ∧ (s'.frame c h).modeNext = none ∧ (s'.frame c h).raised = 0)

/-- sregw writes a partition register for a privileged partition and faults otherwise (10_control.md R273, R274, R275, R280). -/
def Obligations.RegisterWritesNeedPrivilege : Prop :=
  (∀ (s : State) (t : Train) (x : Seat) (xs : List Seat) (n : BitVec 16), s.train? = some t → t.seats = x :: xs →
    sregWritable n.toNat = true → (s.part t.launch.part).priv = true →
    let w := t.slot x.n t.pc .l
    let p := t.launch.part
    ∃ s', exec (.sregw n) s = .next s' ∧
      (6 ≤ n.toNat → n.toNat ≤ 9 → s'.sregValue p s.cur.1 n.toNat = w) ∧
      (n = 0x8002#16 ∨ n = 0x8003#16 ∨ n = 0x800A#16 → s'.sregValue p s.cur.1 n.toNat = w) ∧
      (n = 0x800D#16 → s'.sregValue p s.cur.1 n.toNat = w &&& 0xFFFFFFFF#64) ∧
      (n = 0x800E#16 → (s'.part p).brkEn = bit w 0 ∧ (s'.part p).autoEnd = bit w 1) ∧
      (n = 0x8010#16 → s'.sregValue p s.cur.1 n.toNat = BitVec.ofNat 64 (bits w 8 0)) ∧
      (n.toNat ≤ 9 ∨ n = 0x8002#16 ∨ n = 0x8003#16 ∨ n = 0x800D#16 ∨ n = 0x800E#16 →
        s'.mem = s.mem ∧ (s'.core s.cur.1).train? t.uid = some t.retired)) ∧
  (∀ (s : State) (t : Train) (n : BitVec 16), s.train? = some t → sregWritable n.toNat = true → (s.part t.launch.part).priv = false →
    exec (.sregw n) s = .next (s.faultAll s.cur.1 t PRIVILEGED 0)) ∧
  (∀ (s : State) (t : Train) (a : BitVec 8) (n : BitVec 16), s.train? = some t → sregReadable n.toNat = true → 0x8000 ≤ n.toNat →
    (s.part t.launch.part).priv = false → exec (.sregr a n) s = .next (s.faultAll s.cur.1 t PRIVILEGED 0))

/-- evt counts in the counters that select it; brk does nothing while BRKEN is 0, and else halts its partition (10_control.md R284, R285,
R299). -/
def Obligations.EventsCountAndBreakpointsHalt : Prop :=
  (∀ (s : State) (t : Train) (k : BitVec 2), s.train? = some t →
    ∃ s', exec (.evt k) s = .next s' ∧ (s'.core s.cur.1).trains = ((s.core s.cur.1).setTrain t.retired).trains ∧ s'.mem = s.mem ∧
      s'.parts = s.parts ∧ ∀ j, NMap.getD (s'.core s.cur.1).evt j 0 =
        if j = k.toNat ∧ bits (s.part t.launch.part).evtSel (8 * k.toNat + 7) (8 * k.toNat) = 1 then
          NMap.getD (s.core s.cur.1).evt j 0 + 1
        else NMap.getD (s.core s.cur.1).evt j 0) ∧
  (∀ (s : State) (t : Train) (i : BitVec 16), s.train? = some t → ((s.part t.launch.part).brkEn = false ∨ t.resumed = true) →
    exec (.brk i) s = .next (s.retires t)) ∧
  (∀ (s : State) (t : Train) (i : BitVec 16), s.train? = some t → (s.part t.launch.part).brkEn = true → t.resumed = false →
    t.hold ≠ some .brk → (s.part t.launch.part).state = .run → (s.part t.launch.part).ttPend = 0 → (s.part t.launch.part).tt = none →
    ∃ s' u, exec (.brk i) s = .next s' ∧ (s'.core s.cur.1).train? t.uid = some u ∧ u.pc = t.pc ∧ u.seats = t.seats ∧
      u.hold = some .brk ∧ (s'.part t.launch.part).state = .halting ∧ (s'.part t.launch.part).drainAt = s.cyc.toNat)

/-- trap sends a trap token to a registered handler, and without one stops the launch (06_firing.md R181, R182, 10_control.md R264, R268,
R281). -/
def Obligations.TrapReachesItsHandler : Prop :=
  ∀ (s : State) (t : Train) (x : Seat) (i : BitVec 16), s.train? = some t → t.seats = [x] → t.outwardBefore = false → s.cur.1 < 1280 →
    let c := s.cur.1
    let f := s.frame c x.inst.handle
    let d := bits (t.slot x.n t.pc .l) 47 0 * 2 ^ 16 + i.toNat
    let cause := 0x50 + x.n * 2 ^ 16 + t.pc * 2 ^ 26 + f.gen * 2 ^ 32 + t.block * 2 ^ 48
    ∃ s' u, exec (.trap i) s = .next s' ∧ (s'.core c).train? t.uid = some u ∧ u.seats = [] ∧ u.pc = t.pc + 1 ∧
      (f.trapValid = true →
        (∃ e ∈ (s'.core c).entries, e.inst = { x.inst with yielded := false, num := 0 } ∧ e.state = .held) ∧
        s'.onItsWay c ⟨s.tagOf c x.inst, s.tagOf c x.inst, f.trapDest, 0, 2, BitVec.ofNat 64 cause, BitVec.ofNat 64 d, 1, false, t.launch⟩ c 0 ∧
        s'.mem = s.mem) ∧
      (f.trapValid = false → ∀ l, s.launch? t.launch = some l → l.id = t.launch.id →
        ∃ l', s'.launch? t.launch = some l' ∧ l'.state = .faulted ∧ l'.code = if l.state = .faulted then l.code else 0x50)

/-- send, sendsel and switch release one token with the seat’s payload to the destination they name (06_firing.md R163 to R166, R170 to
R172, 04_ordering.md R122). -/
def Obligations.SendersReleaseOneToken : Prop :=
  ∀ (s : State) (t : Train) (x : Seat) (i : Instr) (dest paths : Nat) (sc : BitVec 3) (ts : BitVec 1) (w : BitVec 2) (ok : Prop),
    s.train? = some t → t.seats = [x] → senderOf t x i = some (dest, sc, ts, w, paths, ok) → ok →
    s.scopeBound t sc.toNat = true → s.storesDone t → s.pathsDone t paths →
    let c := s.cur.1
    let tag := if ts = 1 then t.slot x.n t.pc .t else s.tagOf c x.inst
    s.crowded c tag = false → dest < s.destCount t.asid t.prog → tagAsid tag = t.asid → tagCore tag < 1280 →
    s.link.members.contains (tagDevice tag) = true →
    ∃ s' op, exec i s = .next s' ∧ (s'.core c).trains = ((s.core c).setTrain t.retired).trains ∧
      s'.onItsWay c (dataToken t x (s.tagOf c x.inst) tag dest sc w) c op ∧
      (s.core c).ops < op ∧ (⟨t.uid, 23, 6, op⟩ : OutOp) ∈ (s'.core c).outst ∧ s'.mem = s.mem ∧
      ∀ k, (s'.core k).frames = (s.core k).frames ∧ (s'.core k).windows = (s.core k).windows

/-- spawn starts an activation in a new frame when it gets one, and sends to the next destination when not (06_firing.md R159, R162, R173,
01_machine.md R15, R18 to R20). That the lowest free handle and place are taken is the model's choice (log 13). -/
def Obligations.SpawnTakesAFrameOrFallsBack : Prop :=
  ∀ (s : State) (t : Train) (x : Seat) (d : BitVec 12) (sc : BitVec 3) (ts : BitVec 1) (w : BitVec 2) (k : BitVec 5),
    s.train? = some t → t.seats = [x] → s.scopeBound t sc.toNat = true → s.storesDone t →
    let c := s.cur.1
    let own := s.tagOf c x.inst
    let f := s.frame c x.inst.handle
    let p := t.slot x.n t.pc .p
    let ptag := if ts = 1 then t.slot x.n t.pc .t else own
    let tok := fun (tag : Word) (dest : Nat) => dataToken t x own tag dest sc w
    let ord := s.frameOrder f.asid f.prog (8 * k.toNat)
    bits p 11 0 < s.destCount t.asid t.prog →
    (ts = 1 → tagAsid ptag = t.asid ∧ tagCore ptag < 1280 ∧ s.link.members.contains (tagDevice ptag) = true) →
    (∀ h u, freeHandle (s.core c).frames = some h → sramFind (s.core c).sram ord = some u → ord ≤ 8 →
      ∃ s' op, exec (.spawn d sc ts w k) s = .next s' ∧ (s'.core c).trains = ((s.core c).setTrain t.retired).trains ∧ s'.mem = s.mem ∧
        s'.onItsWay c (tok (mkTag t.asid s.link.device c h (bits p 35 12)) d.toNat) c op ∧
        (∀ j, j ≠ h → s'.frame c j = s.frame c j) ∧
        s'.frame c h = childFrame f (((s.frame c h).gen + 1) % 65536) (8 * k.toNat) ord u (s.reserveBytes f.asid f.prog) ptag (bits p 11 0)) ∧
    ((freeHandle (s.core c).frames = none ∨ sramFind (s.core c).sram ord = none ∨ 8 < ord) → d.toNat + 1 < s.destCount t.asid t.prog →
      ∃ s' op, exec (.spawn d sc ts w k) s = .next s' ∧ (s'.core c).trains = ((s.core c).setTrain t.retired).trains ∧ s'.mem = s.mem ∧
        s'.onItsWay c (tok own (d.toNat + 1)) c op ∧ ∀ j, s'.frame c j = s.frame c j)

/-- ret sends a token to the frame’s continuation, or stores a root’s payload, and frees the frame with FREE (06_firing.md R174, R175,
10_control.md R247). -/
def Obligations.RetReturnsToItsContinuation : Prop :=
  ∀ (s : State) (t : Train) (x : Seat) (sc : BitVec 3) (w : BitVec 2) (fr : BitVec 1),
    s.train? = some t → t.seats = [x] → s.scopeBound t sc.toNat = true → s.storesDone t →
    let c := s.cur.1
    let f := s.frame c x.inst.handle
    let frames := fun (s' : State) => (∀ j, j ≠ x.inst.handle → s'.frame c j = s.frame c j) ∧
      s'.frame c x.inst.handle = if fr = 1 then { f with freePending := true } else f
    (f.parentValid = true → s.crowded c f.parentTag = false →
      ∃ s' op, exec (.ret sc w fr) s = .next s' ∧ (s'.core c).trains = ((s.core c).setTrain t.retired).trains ∧ s'.mem = s.mem ∧
        s'.onItsWay c (dataToken t x (s.tagOf c x.inst) f.parentTag f.parentDest sc w) c op ∧ frames s') ∧
    (f.parentValid = false → ∀ home : Nat → Nat × TlbEntry,
      (∀ i < w.toNat, s.resultOf t ≠ 0 → s.access c t.asid t.failed (s.resultOf t + 8 * i) 8 .write = .ok (home i).1 (home i).2) →
      ∃ s', exec (.ret sc w fr) s = .next s' ∧ (s'.core c).trains = ((s.core c).setTrain t.retired).trains ∧ s'.mem = s.mem ∧
        (s'.core c).flights = (s.core c).flights ∧ (s'.core c).sends = (s.core c).sends ∧ frames s' ∧
        s.queues s' (if s.resultOf t = 0 then [] else (List.range w.toNat).map (fun i =>
          sqEntry t x (.glob (home i).1 (leafHome (home i).2.leaf)
            (leBytes 8 (if i = 0 then t.slot x.n t.pc .l else t.slot x.n t.pc .r).toNat)) [] [] 0)))

/-- free and trapset change exactly the frames of the active seats (06_firing.md R175, R180). -/
def Obligations.FreeAndTrapsetMarkTheirFrames : Prop :=
  ∀ (s : State) (t : Train) (i : Instr) (f : Frame → Frame), s.train? = some t →
    ((i = .free ∧ f = fun g => { g with freePending := true }) ∨
     (∃ d : BitVec 12, i = .trapset d 0 ∧ f = fun g => { g with trapValid := true, trapDest := d.toNat }) ∨
     ∃ d : BitVec 12, i = .trapset d 1 ∧ f = fun g => { g with trapValid := false }) →
    ∃ s', exec i s = .next s' ∧ s.sameBut s' s.cur.1 ∧
      (s'.core s.cur.1).trains = ((s.core s.cur.1).setTrain t.retired).trains ∧
      { s'.core s.cur.1 with frames := (s.core s.cur.1).frames, trains := (s.core s.cur.1).trains } = s.core s.cur.1 ∧
      ∀ h, s'.frame s.cur.1 h = if (∃ x ∈ t.seats, x.inst.handle = h) then f (s.frame s.cur.1 h) else s.frame s.cur.1 h

/-- yield puts its instance back with the yield mark; trapret releases or discards a held one; depart forces a platform (06_firing.md R169,
R183 to R187). How `trapret` judges the seats of a train is deduced (log 64). -/
def Obligations.SeatsLeaveAndReturn : Prop :=
  (∀ (s : State) (t : Train) (x : Seat) (y : BitVec 1), s.train? = some t → t.seats = [x] → t.outwardBefore = false →
    (¬(y = 1 ∨ bit (t.slot x.n t.pc .l) 0 = true) → exec (.yield y) s = .next (s.retires t)) ∧
    (y = 1 ∨ bit (t.slot x.n t.pc .l) 0 = true →
      ∃ s' u, exec (.yield y) s = .next s' ∧ (s'.core s.cur.1).train? t.uid = some u ∧ u.seats = [] ∧ u.pc = t.pc + 1 ∧ s'.mem = s.mem ∧
        (s'.core s.cur.1).entries = (s.core s.cur.1).entries ++
          [⟨{ x.inst with yielded := true, after := (s.core s.cur.1).ready, num := 0 }, .ready, none, x.inst.toks.length,
            (s.core s.cur.1).entrySeq⟩])) ∧
  (∀ (s : State) (t : Train) (x : Seat) (m : BitVec 2) (e : MEntry), s.train? = some t → t.seats = [x] → t.outwardBefore = false →
    m.toNat ≤ 2 → e.state = .held → e.inst.handle = x.inst.handle → e.inst.idx = x.inst.idx →
    e.inst.block = bits (t.slot x.n t.pc .l) 63 48 →
    (∀ y ∈ (s.core s.cur.1).entries, y.state = .held → y.inst.handle = x.inst.handle → y.inst.idx = x.inst.idx →
      y.inst.block = e.inst.block → y = e) → e ∈ (s.core s.cur.1).entries →
    ∃ s', exec (.trapret m) s = .next s' ∧ (s'.core s.cur.1).trains = ((s.core s.cur.1).setTrain t.retired).trains ∧ s.sameBut s' s.cur.1 ∧
      (s'.core s.cur.1).entries = (s.core s.cur.1).entries.filter (fun y => !(y == e)) ++
        (if m = 2 then [] else
          [⟨{ e.inst with yielded := (m == 1), after := if m = 1 then (s.core s.cur.1).ready else 0, num := 0 }, .ready, none,
            e.inst.toks.length, (s.core s.cur.1).entrySeq⟩])) ∧
  (∀ (s : State) (t : Train) (x : Seat) (block slot : Nat), s.train? = some t → t.seats = [x] →
    s.imgDest t.asid t.prog (bits (t.slot x.n t.pc .l) 11 0) = some (block, slot) →
    ∃ s', exec (.depart 0) s = .next s' ∧ (s'.core s.cur.1).trains = ((s.core s.cur.1).setTrain t.retired).trains ∧ s.sameBut s' s.cur.1 ∧
      (s'.core s.cur.1).plats = (s.core s.cur.1).plats.map (fun e =>
        if e.2.asid = t.asid ∧ e.2.prog = t.prog ∧ e.2.block = block then
          (e.1, { e.2 with fills := e.2.fills.map (fun f => { f with elig := true, forced := true }) }) else e))

/-- gldx, gstx and gempty read, write and empty the carried register that L names (07_carry.md R190, R191, R193 to R195). The value left in
an emptied register is free (log 12) and not stated. -/
def Obligations.CarriedRegistersByIndex : Prop :=
  ∀ (s : State) (t : Train) (x : Seat), Issuing s t → t.seats = [x] →
    let c := s.cur.1
    let h := x.inst.handle
    let f := s.frame c h
    let g := (t.slot x.n t.pc .l).toNat
    let others := fun (s' : State) => s'.mem = s.mem ∧ (∀ j, j ≠ h → s'.frame c j = s.frame c j) ∧
      ∀ k, k ≠ g → (s'.frame c h).reg k = f.reg k ∧ (s'.frame c h).full k = f.full k
    g < f.carryCount → f.binds = [] →
    (∃ s', exec .gstx s = .next s' ∧ s.stands s' t.retired ∧ others s' ∧
      (s'.frame c h).reg g = (if s.overtaken c t h g then f.reg g else t.slot x.n t.pc .r) ∧
      (s'.frame c h).full g = (if s.overtaken c t h g then f.full g else true)) ∧
    (∃ s', exec .gempty s = .next s' ∧ s.stands s' t.retired ∧ others s' ∧
      (s'.frame c h).full g = (if s.overtaken c t h g then f.full g else false)) ∧
    ∀ a b : BitVec 8,
      (f.full g = true → (s.core c).regErr f g = false → ∃ s', exec (.gldx a b) s = .next s' ∧ others s' ∧ (s'.frame c h).reg g = f.reg g ∧ (s'.frame c h).full g = true ∧
        s.givesLate s' t x [(a.toNat, f.reg g), (b.toNat, f.reg g)] 0 6) ∧
      (f.full g = false → ∃ s' u op, exec (.gldx a b) s = .next s' ∧ others s' ∧ u = { t.retired with pend := u.pend } ∧ s.stands s' u ∧
        s.opens s' t 0 6 op ∧ (s'.core c).regWaits = (s.core c).regWaits ++ [⟨h, g, t.uid, x.n, t.pc, none, [a.toNat, b.toNat], [], op⟩] ∧
        ∀ v ∈ [a.toNat, b.toNat], 4 ≤ v → (x.n * 256 + v, op) ∈ u.pend)

/-- rcpset tags a register with a recipe, rcpdrop drops it, rcpclr makes it plain again (07_carry.md R196 to R203, R206). The scale of a
`cvtsc` in a recipe is deduced (log 14). -/
def Obligations.RecipesBindDropAndClear : Prop :=
  ∀ (s : State) (t : Train) (x : Seat) (a r : BitVec 8) (g : BitVec 7), Issuing s t → t.seats = [x] →
    let c := s.cur.1
    let h := x.inst.handle
    let f := s.frame c h
    let body := ((s.core c).recipe? f.asid f.prog r.toNat).getD []
    let others := fun (s' : State) => s'.mem = s.mem ∧ ∀ j, j ≠ h → s'.frame c j = s.frame c j
    g.toNat < f.carryCount →
    (f.binds = [] → (∀ k ∈ rcpSources body, k < f.carryCount ∧ f.full k = true ∧ k ≠ g.toNat) →
      s.recipeOff t.launch body = false → ∀ v fl, s.rcpEval c h t.failed f body (f.mode &&& 0xF7#64) = .ok v fl →
      ∃ s' u, exec (.rcpset a r g) s = .next s' ∧ others s' ∧
        (if s.overtaken c t h g.toNat then
          (s'.frame c h).reg g.toNat = f.reg g.toNat ∧ (s'.frame c h).full g.toNat = f.full g.toNat ∧ (s'.frame c h).binds = []
        else (s'.frame c h).reg g.toNat = v ∧ (s'.frame c h).full g.toNat = true ∧
          (s'.frame c h).binds = [⟨g.toNat, r.toNat, false, f.mode &&& 0xF7#64, none⟩]) ∧ (s'.frame c h).mode = f.mode ∧
        (∀ k, k ≠ g.toNat → (s'.frame c h).reg k = f.reg k) ∧ u = { t.retired with pend := u.pend } ∧ s.stands s' u ∧
        s.lateFor s' t u x [(a.toNat, v)] fl 0 6) ∧
    (∃ s', exec (.rcpdrop g) s = .next s' ∧ s.stands s' t.retired ∧ others s' ∧
      s'.frame c h = { f with binds := f.binds.map (fun b => if b.reg = g.toNat then { b with dropped := true } else b) }) ∧
    (s.dependants c f g.toNat = [] →
      (f.binding? g.toNat = none → ∃ s', exec (.rcpclr g) s = .next s' ∧ s.stands s' t.retired ∧ others s' ∧ s'.frame c h = f) ∧
      ∀ b, f.binding? g.toNat = some b →
        (b.dropped = false → ∃ s', exec (.rcpclr g) s = .next s' ∧ s.stands s' t.retired ∧ others s' ∧
          s'.frame c h = { f with binds := f.binds.filter (fun y => y.reg != g.toNat) }) ∧
        ∀ v fl, b.dropped = true → s.rebuild c h t.failed f (s.replayOf c f b) = .ok v fl → (s.core c).slotFree h f = true →
          ∃ s', exec (.rcpclr g) s = .next s' ∧ s.stands s' t.retired ∧ others s' ∧ (s'.frame c h).reg g.toNat = v ∧
            (s'.frame c h).binding? g.toNat = none)

/-- talloc, tst, tld, tseal, tfree, tabandon and tstat act on their tiles as their rules say (11_tiles.md R305, R308, R310, R311, R313,
11_tiles.md R304, R308, R309, R315 to R318, R323). What a tile holds before it is written is deduced (log 83) and not stated. That an engine
gives its words at once in timetable mode is deduced (log 26). -/
def Obligations.TilesAreTakenWrittenReadAndEnded : Prop :=
  ((∀ (s : State) (t : Train) (x : Seat) (a k : BitVec 8) (p : BitVec 3) (q : TilePart) (i : Nat) (rest : List Nat) (u : Tile),
    Issuing s t → t.seats = [x] → poolFind (s.core s.cur.1).eng.pool t.launch p.toNat = some q → q.queue = [] → q.bound = none →
    q.which (fun y => y.state == .free) = i :: rest → q.tiles[i]? = some u →
    let n := if k.toNat ≠ 0 then k.toNat else bits (t.slot x.n t.pc .l) 7 0
    n ≠ 0 → (∀ m, (s.core s.cur.1).eng.highestHeld t.launch x.inst.handle x.inst.idx = some m → m < p.toNat) →
    ∃ s', exec (.talloc a k p) s = .next s' ∧
      s.gives s' t x a.toNat (mkHandle ((u.gen + 1) % 65536) s.cur.1 p.toNat i 0) 0 ∧
      s'.tile? s.cur.1 ⟨t.launch, p.toNat, i⟩ = some { u with
        gen := (u.gen + 1) % 65536, state := .unsealed, count := n, hkind := false, hframe := x.inst.handle, hindex := x.inst.idx,
        run := true, dropping := false }) ∧
  (∀ (s : State) (t : Train) (z : BitVec 3) (ref : Seat → HRef × Tile), s.train? = some t → s.inTT t.launch = false →
    (∀ x ∈ t.seats, tileRefAt s.cur.1 t.launch (t.slot x.n t.pc .l) (2 ^ z.toNat) (s.poolSeen s.cur.1 false) = .ok (ref x)) →
    ∃ s', exec (.tst z) s = .next s' ∧ s.stands s' t.retired ∧ s'.mem = s.mem ∧
      s.queues s' (t.seats.map (fun x =>
        sqEntry t x (.tile (ref x).1.core (ref x).1.key (ref x).1.gen (.write (ref x).1.off (storeBytes t x z.toNat))
          [s.tileInfo s.cur.1 t x]) [] [] 0)))) ∧
  (∀ (s : State) (t : Train) (x : Seat) (r : HRef) (u : Tile) (size : Nat) (q : TilePart), Issuing s t → t.seats = [x] →
    s.inTT t.launch = false → s.storesDone t → u.gen = r.gen → u.pend = [] → (s.core r.core).eng.tileWaits = [] →
    poolFind (s.core r.core).eng.pool r.key.launch r.key.part = some q → q.bound = none →
    tileRef s.cur.1 t.launch (t.slot x.n t.pc .l) (s.poolSeen s.cur.1 false) = some (r, size, u) →
    (∀ (a : BitVec 8) (cnt g : BitVec 1) (z : BitVec 3), u.state = .sealed → r.off % 2 ^ z.toNat = 0 → r.off + 2 ^ z.toNat ≤ size →
      s.tileErr r.core u r.off (2 ^ z.toNat) = false →
      ∃ s', exec (.tld a cnt g z) s = .next s' ∧ s'.mem = s.mem ∧
        s.givesLate s' t x (loadVals a.toNat z.toNat (g == 1) (u.mem.readNat r.off (2 ^ z.toNat))) 16 0 ∧
        s'.tile? r.core r.key = some (if cnt = 0 then u
          else if u.count ≤ 1 then { u with count := u.count - 1, state := .free, run := false, dropping := false }
          else { u with count := u.count - 1 })) ∧
    (∀ (i : Instr) (need : TState) (u' : Tile), tileAfter u i = some (need, u') → u.state = need →
      ∃ s', exec i s = .next s' ∧ s.stands s' t.retired ∧ s'.mem = s.mem ∧ s'.tile? r.core r.key = some u') ∧
    ∀ a : BitVec 8, ∃ s', exec (.tstat a) s = .next s' ∧ s'.mem = s.mem ∧ s'.tile? r.core r.key = some u ∧
      s.givesLate s' t x [(a.toNat, BitVec.ofNat 64 (u.gen * 2 ^ 48 + u.state.code * 2 ^ 46 + 2 ^ 45 + u.count % 256 * 2 ^ 37))] 0 6)

/-- cpy and cpys take a request slot and deliver its id word; cpyc cancels the request it names (12_copy.md R338 to R340, R354). That no
slot has been used at reset is the model's choice (log 1). That an engine gives its words at once in timetable mode is deduced (log 26). -/
def Obligations.CopyRequestsTakeASlot : Prop :=
  (∀ (s : State) (t : Train) (x : Seat) (i : Instr) (a : BitVec 8) (stream : Bool) (k off slot : Nat) (v : Window), Issuing s t →
    t.seats = [x] → s.storesDone t → ((i = .cpy a ∧ stream = false) ∨ (i = .cpys a ∧ stream = true)) →
    s.spAccess s.cur.1 t.launch (t.slot x.n t.pc .l) 32 = .ok (k, off) → (s.core k).window? t.launch = some v → off + 256 ≤ v.size →
    s.winErr t.launch k off 256 = false →
    let recd := ofLE (s.seeWin s.cur.1 t.uid (s.inTT t.launch) t.launch k off 256)
    let seq := (NMap.getD (s.core s.cur.1).eng.copySeq slot 0 + 1) % 65536
    s.copyFault s.cur.1 t recd stream = none → (s.core s.cur.1).eng.copies.length < 512 → (s.core s.cur.1).eng.freeSlot = some slot →
    ∃ s' q, exec i s = .next s' ∧ s.gives s' t x a.toNat (idWord s.cur.1 seq slot) 0 ∧ q ∈ (s'.core s.cur.1).eng.copies ∧
      q.slot = slot ∧ q.seq = seq ∧ q.recd = recd ∧ q.stream = stream ∧ q.pos = 0 ∧ q.cancelled = false ∧ s.opens s' t 20 1 q.opId) ∧
  (∀ (s : State) (t : Train) (x : Seat), s.train? = some t → t.seats = [x] →
    let w := t.slot x.n t.pc .l
    (∀ q, (s.core s.cur.1).eng.copy? (bits w 8 0) = some q → bits w 42 32 = s.cur.1 → bits w 31 16 = q.seq →
      ∃ s' op, exec .cpyc s = .next s' ∧ s.stands s' t.retired ∧ s'.mem = s.mem ∧ s.opens s' t 20 1 op ∧
        (s'.core s.cur.1).eng.copy? q.slot = some { q with cancelled := true, cancelOps := q.cancelOps ++ [op] }) ∧
    ((∀ q, (s.core s.cur.1).eng.copy? (bits w 8 0) = some q → ¬(bits w 42 32 = s.cur.1 ∧ bits w 31 16 = q.seq)) →
      exec .cpyc s = .next (s.retires t)))

/-- bari, bara and barx send their update, barw delivers a passed phase, crpop takes a ring’s record (12_copy.md R345, R348 to R352). A
barrier that a plain store has written is free (log 36) and excluded. That an engine gives its words at once in timetable mode is deduced
(log 26). -/
def Obligations.BarriersAndRings : Prop :=
  ∀ (s : State) (t : Train) (x : Seat), Issuing s t → t.seats = [x] → s.inTT t.launch = false → s.storesDone t →
    (∀ (i : Instr) (o : BarOp) (k off : Nat), barrierOf t x i = some o →
      s.spAccess s.cur.1 t.launch (t.slot x.n t.pc .l) 16 = .ok (k, off) →
      ∃ s', exec i s = .next s' ∧ s.stands s' t.retired ∧ s'.mem = s.mem ∧
        s.queues s' [sqEntry t x (.bar k off o) [] [] 0]) ∧
    (∀ (a : BitVec 8) (k off : Nat), s.spAccess s.cur.1 t.launch (t.slot x.n t.pc .l) 16 = .ok (k, off) →
      (∀ u ∈ (s.core k).eng.barq, ¬(u.launch = t.launch ∧ u.off = off)) →
      s.barOpen s.cur.1 t.uid false t.launch k off = false → s.winErr t.launch k off 16 = false →
      let b := ofLE (s.seeWin s.cur.1 t.uid false t.launch k off 16)
      natBits b 119 104 ≠ bits (t.slot x.n t.pc .r) 15 0 →
      ∃ s', exec (.barw a) s = .next s' ∧ s.gives s' t x a.toNat (BitVec.ofNat 64 (b / 2 ^ 64)) 0) ∧
    ∀ (a : BitVec 8) (n : BitVec 2) (l : Launch) (pa leaf base size : Nat), s.launch? t.launch = some l → l.asid = t.asid →
      recRingTab l.record ≠ 0 → s.engAcc t.asid (recRingTab l.record + 16 * n.toNat) 16 .rmw = .ok pa leaf base size →
      leafRemote leaf = false → leafIMM leaf = false →
      let d := s.mem.readNat pa 16
      let head := natBits d 15 0
      (natBits d 120 64 = 0 ∨ head = natBits d 31 16 → ∃ s', exec (.crpop a n) s = .next s' ∧ s'.mem = s.mem ∧
        s.givesLate s' t x [(a.toNat, 0)] 20 1) ∧
      (natBits d 120 64 ≠ 0 → head ≠ natBits d 31 16 → s.memOk → ∃ s', exec (.crpop a n) s = .next s' ∧
        s'.mem.readNat pa 2 = (head + 1) % 65536 ∧ (∀ b, b < pa ∨ pa + 2 ≤ b → s'.mem.get b = s.mem.get b) ∧
        s.givesLate s' t x [(a.toNat, BitVec.ofNat 64 (2 ^ 63 + natBits d 120 64 + 32 * (head % 2 ^ natBits d 35 32)))] 20 1)

/-- mma, accz, accld, accst and accrd queue one command in a context their frame owns; mmax holds for the mma (13_matrix.md R357 to R371).
-/
def Obligations.MatrixCommandsJoinTheirContext : Prop :=
  (∀ (s : State) (t : Train) (x : Seat) (i : Instr) (ctx : BitVec 1) (kind : Nat → MKind) (ok : Prop), s.train? = some t →
    t.lowest = some x → s.inTT t.launch = false → s.storesDone t → matrixOf s s.cur.1 t x i = some (ctx, kind, ok) → ok →
    (s.context ctx).ownedBy s.cur.1 x.inst.handle = true → (s.context ctx).queue.length < 4 →
    ∃ s' m mark, exec i s = .next s' ∧ s.stands s' { t.retired with ext := none } ∧ s'.mem = s.mem ∧
      (s'.context ctx).queue = (s.context ctx).queue ++ [m] ∧ m.kind = kind mark ∧ m.ctx = ctx.toNat ∧ m.train = t.uid ∧
      m.seq = (s.context ctx).seq + 1 ∧ m.started = false ∧ s.opens s' t 21 2 m.opId) ∧
  (∀ (s : State) (t : Train) (x : Seat) (a : BitVec 8) (ctx l : BitVec 1), Issuing s t → t.seats = [x] → s.inTT t.launch = false →
    s.storesDone t → (s.context ctx).ownedBy s.cur.1 x.inst.handle = true → (s.context ctx).queue.length < 4 →
    ∃ s' u m y, exec (.accrd a ctx l) s = .next s' ∧ u = { t.retired with pend := u.pend } ∧ s.stands s' u ∧ s'.mem = s.mem ∧
      (s'.context ctx).queue = (s.context ctx).queue ++ [m] ∧ m.kind = .accrd l.toNat [(y, (t.slot x.n t.pc .l).toNat)] ∧
      y.targets = loadTargets a.toNat 3 ∧ s.opens s' t 21 2 y.opId ∧ (4 ≤ a.toNat → (x.n * 256 + a.toNat, y.opId) ∈ u.pend)) ∧
  (∀ (s : State) (t : Train) (x : Seat) (p q : BitVec 3) (m n : BitVec 1), s.train? = some t → t.lowest = some x →
    ∃ s', exec (.mmax p q m n) s = .next s' ∧ s'.mem = s.mem ∧ s.stands s' { t.retired with
      ext := some (n.toNat * 2 ^ 8 + m.toNat * 2 ^ 9 + q.toNat * 2 ^ 10 + p.toNat * 2 ^ 13, t.slot x.n t.pc .l, t.slot x.n t.pc .r,
        t.slot x.n t.pc .t) })

/-- mctx claims, releases and tells a context’s address; mwait reports its record and clears it (13_matrix.md R359, R372, R373). That an
engine gives its words at once in timetable mode is deduced (log 26). -/
def Obligations.ContextsAreClaimedAndReported : Prop :=
  ∀ (s : State) (t : Train) (x : Seat) (a : BitVec 8) (ctx : BitVec 1), Issuing s t → t.seats = [x] → s.inTT t.launch = false →
    let m := s.context ctx
    let me := (s.cur.1, x.inst.handle)
    let claimed := fun (s' : State) => (s'.context ctx).owner = some me ∧ (s'.context ctx).code = 0 ∧ (s'.context ctx).ops = 0 ∧
      (s'.context ctx).rows = []
    (m.owner = none → m.claims = [] →
      (∃ s', exec (.mctx a ctx 0) s = .next s' ∧ s.stands s' t.retired ∧ s'.mem = s.mem ∧ claimed s') ∧
      ∃ s', exec (.mctx a ctx 1) s = .next s' ∧ s.gives s' t x a.toNat 1 0 ∧ claimed s') ∧
    (∀ o, m.owner = some o → o ≠ me → ∃ s', exec (.mctx a ctx 1) s = .next s' ∧ s.gives s' t x a.toNat 0 0 ∧ s'.context ctx = m) ∧
    (∃ s', exec (.mctx a ctx 3) s = .next s' ∧ s.gives s' t x a.toNat (BitVec.ofNat 64 m.faddr) 0 ∧ s'.context ctx = m) ∧
    (m.owner = some me → m.releasing = false → m.queue = [] →
      (m.code = 0 → ∃ s', exec (.mctx a ctx 2) s = .next s' ∧ s.stands s' t.retired ∧ s'.mem = s.mem ∧ (s'.context ctx).owner = none) ∧
      ∀ n : BitVec 1, (m.code = 0 ∨ n = 1) →
        ∃ s', exec (.mwait a ctx n) s = .next s' ∧
          s.gives s' t x a.toNat (BitVec.ofNat 64 (m.ops % 65536 * 2 ^ 48 + m.code * 2 ^ 40 +
            (if m.code = 0 then 0 else m.rowp * 2 ^ 32 + m.chunkp % 16 * 2 ^ 28) + b2n m.disc * 8 + b2n m.sat * 4 + b2n m.inf * 2 +
            b2n m.nan)) 0 ∧
          (s'.context ctx).code = 0 ∧ (s'.context ctx).ops = 0 ∧ (s'.context ctx).faddr = 0)

/-- bgemv and bred take a slot and deliver its id word; bwait reports a finished operation and frees its slot (14_bank.md R380, R382, R386,
R388). That an engine gives its words at once in timetable mode is deduced (log 26). -/
def Obligations.BankOperationsTakeASlot : Prop :=
  ∀ (s : State) (t : Train) (x : Seat) (a : BitVec 8), Issuing s t → t.seats = [x] →
    (∀ (i : Instr) (red : Bool) (k off slot : Nat), ((i = .bgemv a ∧ red = false) ∨ (i = .bred a ∧ red = true)) → s.storesDone t →
      s.spAccess s.cur.1 t.launch (t.slot x.n t.pc .l) 64 = .ok (k, off) → s.winErr t.launch k off 64 = false →
      let r := ofLE (s.seeWin s.cur.1 t.uid (s.inTT t.launch) t.launch k off 64)
      let seq := (NMap.getD (s.core s.cur.1).eng.bankSeq slot 0 + 1) % 65536
      s.bankFeature t.launch r red = true → (if red then redReason r else gemvReason r) = 0 →
      (s.core s.cur.1).eng.banks.length < 64 → (s.core s.cur.1).eng.freeBank = some slot →
      ∃ s' b, exec i s = .next s' ∧ s.gives s' t x a.toNat (idWord s.cur.1 seq slot) 0 ∧
        (s'.core s.cur.1).eng.banks = (s.core s.cur.1).eng.banks ++ [b] ∧ b.slot = slot ∧ b.seq = seq ∧ b.recd = r ∧ b.red = red ∧
        b.row = 0 ∧ b.done = false ∧ s.opens s' t 22 4 b.opId) ∧
    ∀ n : BitVec 1,
      (s.bankNamed s.cur.1 (t.slot x.n t.pc .l) = none → ∃ s', exec (.bwait a n) s = .next s' ∧ s.gives s' t x a.toNat 0 22) ∧
      ∀ b, s.bankNamed s.cur.1 (t.slot x.n t.pc .l) = some b → b.done = true → (b.fault = none ∨ n = 1) →
        ∃ s', exec (.bwait a n) s = .next s' ∧ (s'.core s.cur.1).eng.bank? b.slot = none ∧
          s.gives s' t x a.toNat (BitVec.ofNat 64 (2 ^ 63 + (b.fault.map (·.1)).getD 0 * 2 ^ 40 + b2n b.inf * 2 ^ 33 +
            b2n b.nan * 2 ^ 32 + b.row % 2 ^ 17)) 22

/-- fjob posts a card and delivers its id word; fwait reports a completed job; fcan cancels a waiting one (15_fabric.md R396, R401 to R403,
R412). That a waiting card ends at once is deduced (log 71). That an engine gives its words at once in timetable mode is deduced (log 26).
-/
def Obligations.FabricJobsArePostedAndReported : Prop :=
  ∀ (s : State) (t : Train) (x : Seat) (a : BitVec 8), Issuing s t → t.seats = [x] → s.inTT t.launch = false → t.moved = 0 →
    let cl := clusterOf s.cur.1
    let w := t.slot x.n t.pc .l
    (∀ (pa : Nat) (e : TlbEntry) (l : List Nat), s.storesDone t → s.cardAccess s.cur.1 t x = .ok pa e →
      let card := s.mem.readNat pa 128
      s.cardBufs s.cur.1 t.asid card = .ok l → s.cardReason s.cur.1 t.asid t.prog t.launch false card (some l) = 0 → (s.fab cl).room = true →
      ∃ s' k, exec (.fjob a) s = .next s' ∧ s.gives s' t x a.toNat (fabId s.cur.1 k.seq k.slot) 0 ∧
        (s'.fab cl).cards = (s.fab cl).cards ++ [k] ∧ k.card = card ∧ k.bufs = l ∧ k.stage = .waiting ∧
        k.seq = (NMap.getD (s.fab cl).seqs k.slot 0 + 1) % 65536 ∧ s.opens s' t 22 3 k.opId) ∧
    (∀ n : BitVec 1,
      (s.fabNamed s.cur.1 w = none → ∃ s', exec (.fwait a n) s = .next s' ∧ s.gives s' t x a.toNat 0 22) ∧
      ∀ k, s.fabNamed s.cur.1 w = some k → k.stage = .done → (k.code = 0 ∨ n = 1) →
        ∃ s', exec (.fwait a n) s = .next s' ∧ (s'.fab cl).card? k.slot = none ∧
          s.gives s' t x a.toNat (BitVec.ofNat 64 (2 ^ 63 + k.code % 256 * 2 ^ 48 + k.reason % 256 * 2 ^ 40 + k.engine % 16 * 2 ^ 36 +
            b2n k.cancelled * 2 ^ 34 + b2n k.inf * 2 ^ 33 + b2n k.nan * 2 ^ 32 + k.element % 2 ^ 32)) 22) ∧
    ∀ k, s.fabJob t.launch w = some k → k.stage = .waiting →
      ∃ s' j, exec .fcan s = .next s' ∧ s.stands s' t.retired ∧ s'.mem = s.mem ∧
        (s'.fab (clusterOf (bits w 42 32))).card? k.slot = some j ∧ j.stage = .ended ∧ j.cancelled = true

/-- fpush puts its groups’ tokens at a port with room; fpull takes the token there, and leaves END (15_fabric.md R393, R404). -/
def Obligations.TrainPortsCarryTokens : Prop :=
  (∀ (s : State) (t : Train) (x : Seat) (xs : List Seat) (e : BitVec 1) (n : BitVec 4) (cl : Nat) (k : FCard) (y : FCtx) (g : FEng),
    s.train? = some t → t.seats = x :: xs → s.inTT t.launch = false → t.moved = 0 →
    s.trainPort t.launch (t.slot x.n t.pc .l) n.toNat 7 = some (cl, k, y, g) → g.port.length + (t.pushToks (e == 1)).length ≤ 8 →
    ∃ s' z, exec (.fpush e n) s = .next s' ∧ s.stands s' t.retired ∧ s'.mem = s.mem ∧ (s'.fab cl).ctx? k.ctx = some z ∧
      NMap.get? z.engs n.toNat = some { g with port := g.port ++ t.pushToks (e == 1) }) ∧
  ∀ (s : State) (t : Train) (x : Seat) (a : BitVec 8) (n : BitVec 4) (cl : Nat) (k : FCard) (y : FCtx) (g : FEng) (tok : FTok)
    (rest : List FTok), Issuing s t → t.seats = [x] → s.inTT t.launch = false → t.moved = 0 →
    s.trainPort t.launch (t.slot x.n t.pc .l) n.toNat 8 = some (cl, k, y, g) → g.port = tok :: rest →
    ∃ s' z v, exec (.fpull a n) s = .next s' ∧ s'.mem = s.mem ∧ s.givesLate s' t x [(a.toNat, v)] 22 3 ∧
      (s'.fab cl).ctx? k.ctx = some z ∧
      NMap.get? z.engs n.toNat = some (if tok.kind = .fin then { g with running := false } else { g with port := rest }) ∧
      (tok.kind = .fin → v = 0x200000000#64) ∧
      (tok.kind ≠ .fin → tok.data.getD (x.n % 16) 0 < 2 ^ 32 →
        bit v 32 = tok.valid.testBit (x.n % 16) ∧ bit v 33 = false ∧ bit v 34 = decide (tok.kind = .err) ∧
        (tok.valid.testBit (x.n % 16) = true → bits v 31 0 = tok.data.getD (x.n % 16) 0))

/-- scfg, sbind, sgo, sbar, sdone and sloop act on the running job whose command is current (15_fabric.md R405 to R407, R412, R414, R419).
That `sgo` and `sbind` wait for running engines and which labels are checked (log 71), and how a copy request's list without both copy kinds
ends (log 87), are deduced. -/
def Obligations.CommandListsRunInOrder : Prop :=
  ∀ (s : State) (cl : Nat) (k : FCard) (x : FCtx), s.streamJob = some (cl, k, x) →
    let quiet := ∀ e ∈ x.engs, e.2.running = false
    let at' := fun (s' : State) (y : FCtx) => (s'.fab cl).ctx? k.ctx = some y ∧ s'.mem = s.mem
    (∀ hb bs, quiet → x.operand 0 % 64 = 0 → s.fabRead cl k x (x.operand 0) 64 = .ok hb → headOk (ofLE hb) (x.operand 1) x = true →
      let n := natBits (ofLE hb) 23 16
      s.fabRead cl k x (x.operand 0 + 64) (32 * n) = .ok bs →
      let us := (List.range n).map (fun i => ofLE ((bs.drop (32 * i)).take 32))
      imageReason (ofLE hb) us = 0 →
      ∃ s', exec .scfg s = .next s' ∧ at' s' { x with
        pc := x.pc + 5, scope := some (natBits (ofLE hb) 63 32), units := us.map FUnit.fresh, check := none, imgAt := x.operand 0 }) ∧
    (∀ (e : BitVec 4) db ps, (∀ g, NMap.get? x.engs e.toNat = some g → g.running = false) → x.operand 0 % 64 = 0 →
      s.fabRead cl k x (x.operand 0) 64 = .ok db → s.bindReason k e.toNat (ofLE db) = 0 → fdKind (ofLE db) ≠ 4 →
      s.fabRead cl k x (fdPat (ofLE db)) (16 * fdNdim (ofLE db)) = .ok ps →
      let g := { FEng.fresh (x.phys.getD e.toNat 0) (ofLE db) (cutBufs ps (fdNdim (ofLE db))) with
        tsize := (s.notifySize k.info.launch k.info.asid (ofLE db)).getD 0 }
      s.patReason k.info.core k.info.launch k.bufs g = 0 → NMap.get? x.engs e.toNat = none →
      ∃ s', exec (.sbind e) s = .next s' ∧ at' s' { x with pc := x.pc + 3, engs := NMap.set x.engs e.toNat g, kinds := dedup (x.kinds ++ [fdKind (ofLE db)]), past := x.past + 0 }) ∧
    (∀ m : BitVec 16, (∀ e ∈ maskList m.toNat, ∀ g, NMap.get? x.engs e = some g → g.running = false) → s.goReason k x m.toNat = none →
      ∃ s' y, exec (.sgo m) s = .next s' ∧ at' s' y ∧ y.pc = x.pc + 1 ∧ y.check.isSome = true ∧
        y.engs = x.engs.map (fun e => if m.toNat.testBit e.1 then (e.1, e.2.start x.iter) else e)) ∧
    (∀ m : BitVec 16, (∀ e ∈ maskList m.toNat, ∃ g, NMap.get? x.engs e = some g ∧ g.running = false) →
      ∃ s', exec (.sbar m) s = .next s' ∧ at' s' { x with pc := x.pc + 1 }) ∧
    (quiet → (k.copy.isSome = true → 5 ∈ x.kinds ∧ 6 ∈ x.kinds) →
      ∃ s' j, exec .sdone s = .next s' ∧ (s'.fab cl).card? k.slot = some j ∧ j.stage = .ended ∧ j.code = 0 ∧
        j.cancelled = false ∧ (s'.fab cl).ctx? k.ctx = some x.stop) ∧
    (quiet → k.copy.isSome = true → ¬(5 ∈ x.kinds ∧ 6 ∈ x.kinds) →
      ∃ s' j, exec .sdone s = .next s' ∧ (s'.fab cl).card? k.slot = some j ∧ j.stage = .ended ∧ j.code = FAB_CONFIG ∧ j.reason = 14) ∧
    ∀ c b : BitVec 8,
      (∀ n, ((x.left = none ∧ n = c.toNat) ∨ x.left = some (x.pc, n)) →
        (0 < n → ∃ s', exec (.sloop c b) s = .next s' ∧ at' s' { x with
          left := some (x.pc, n - 1), iter := x.iter + 1, pc := cmdOffset x.words b.toNat 0 }) ∧
        (n = 0 → ∃ s', exec (.sloop c b) s = .next s' ∧ at' s' { x with pc := x.pc + 1, left := none })) ∧
      ∀ p n, x.left = some (p, n) → p ≠ x.pc →
        ∃ s' j, exec (.sloop c b) s = .next s' ∧ (s'.fab cl).card? k.slot = some j ∧ j.stage = .ended ∧ j.code = FAB_CONFIG ∧ j.reason = 5

/-- launch queues its record, dsig and dpub update their counter, nrec sends its record to the yard (10_control.md R233, R249, R250, R256 to
R261). -/
def Obligations.LaunchInstructionsQueueAndCount : Prop :=
  ∀ (s : State) (t : Train) (x : Seat), s.train? = some t → t.seats = [x] → s.inTT t.launch = false → s.storesDone t →
    s.pathsDone t 63 →
    let c := s.cur.1
    let p := t.launch.part
    let l := t.slot x.n t.pc .l
    (∀ (q : BitVec 3) (pa pb leaf base size : Nat) (e : TlbEntry), s.schedAccess c t l 0 256 1 .read = .ok pa e →
      s.engAcc t.asid l.toNat 256 .read = .ok pb leaf base size → leafRemote leaf = false → (s.part p).recWaiting (8 + q.toNat) = false →
      ((s.part p).dqueue (8 + q.toNat)).length < 256 →
      ∃ s', exec (.launch q) s = .next s' ∧ s.stands s' t.retired ∧ (s'.part p).dqueue (8 + q.toNat) =
        (s.part p).dqueue (8 + q.toNat) ++ [⟨BitVec.ofNat 2048 (s.mem.readNat pb 256), t.asid, false, false⟩]) ∧
    (∀ (i : Instr) (op : CtrOp) (pa align : Nat) (tb : Word) (e : TlbEntry),
      ((i = .dsig ∧ op = .sig (bits (t.slot x.n t.pc .r) 15 0) ∧ tb = 0 ∧ align = 1) ∨
       ∃ q : BitVec 3, i = .dpub q ∧ op = .pub (bits (t.slot x.n t.pc .r) 31 0) (8 + q.toNat) (t.slot x.n t.pc .t).toNat ∧
         tb = t.slot x.n t.pc .t ∧ align = 256) →
      s.schedAccess c t l tb 16 align .rmw = .ok pa e → s.memOk →
      let v := op.apply (s.mem.readNat pa 16)
      ¬(v.testBit 32 = true ∧ v.testBit 33 = false ∧ toSigned 32 v ≤ 0) →
      ∃ s', exec i s = .next s' ∧ s.stands s' t.retired ∧ s'.mem.readNat pa 16 = v ∧ s'.parts = s.parts ∧
        ∀ b, b < pa ∨ pa + 16 ≤ b → s'.mem.get b = s.mem.get b) ∧
    ∀ (n : BitVec 6) (ln : Launch) (bs : List Byte) (y : Yard), s.launch? t.launch = some ln → n.toNat < recNodes ln.record →
      s.nrecSeat c t (s.nodeRec t.launch n.toNat) x = .ok (some bs) → s.yard? (dieOf c) t.launch n.toNat = some y →
      ∃ s' k, exec (.nrec n) s = .next s' ∧ s.stands s' t.retired ∧ s'.mem = s.mem ∧
        s'.yard? (dieOf c) t.launch n.toNat = some { y with inq := y.inq ++ [k] } ∧ k.launch = t.launch ∧ k.node = n.toNat ∧
        k.recs = [(bs, s.tagOf c x.inst)] ∧ s.cyc.toNat + 16 ≤ k.due

/-- qenq sends an entry, qdeq takes one, qmake and qkill make and end queues, frmput and frmclose build row frames (16_network.md R440 to
R442, R447, R450 to R454). That an engine gives its words at once in timetable mode is deduced (log 26). -/
def Obligations.QueuesAndFrameBuilders : Prop :=
  ∀ (s : State) (t : Train) (x : Seat), Issuing s t → t.seats = [x] → s.storesDone t → t.moved ≤ x.n →
    let c := s.cur.1
    let w := t.slot x.n t.pc .l
    (∀ (sc : BitVec 3) (v : BitVec 1) (k : BitVec 2), s.scopeBound t sc.toNat = true → s.pathsDone t 1 →
      s.handleFault c t.asid t.launch false w = none → (s.core c).window w < 16 →
      ∃ s' q, exec (.qenq sc v k) s = .next s' ∧ s.stands s' t.retired ∧ s'.mem = s.mem ∧
        (s'.core c).qsent = (s.core c).qsent ++ [q] ∧ q.ser = (s.core c).qser + 1 ∧ q.handle = w ∧ q.data = t.slot x.n t.pc .r ∧
        q.src = s.tagOf c x.inst ∧ q.ring = (if v = 1 then some k.toNat else none) ∧ s.opens s' t 23 5 q.opId) ∧
    (∀ (a : BitVec 8) (sc : BitVec 3) (y : BitVec 1), (a = 0 ∨ 4 ≤ a.toNat) → s.scopeBound t sc.toNat = true →
      s.handleFault c t.asid t.launch true w = none →
      ((s.core c).current w = none → ∃ s', exec (.qdeq a sc y) s = .next s' ∧ s'.mem = s.mem ∧
        s.givesLate s' t x [(a.toNat, 0), (a.toNat + 1, BitVec.ofNat 64 (2 ^ 61))] 23 5) ∧
      ∀ q e es, (s.core c).current w = some q → q.ready = e :: es →
        ∃ s', exec (.qdeq a sc y) s = .next s' ∧ s'.mem = s.mem ∧ s.givesLate s' t x [(a.toNat, e.data), (a.toNat + 1, e.metaWord)] 23 5 ∧
          ((s'.core c).queue (qhNum w)).ready = es) ∧
    (∀ (a : BitVec 8) (pa leaf base size : Nat) (e : TlbEntry) (n : Nat) (s1 : State) (h : Word),
      s.access c t.asid t.failed w.toNat 32 .read = .ok pa e → s.coreAcc c t.asid w.toNat 32 .read = .ok pa leaf base size →
      leafRemote leaf = false → queueDescOk (s.mem.readNat pa 32) = true →
      (List.range 64).find? (fun i => !((s.core c).queue i).live) = some n →
      (s.core c).storeUsed + 2 ^ natBits (s.mem.readNat pa 32) 11 8 ≤ 1024 →
      s.makeQueue c t.launch t.asid (tagHandle (s.tagOf c x.inst)) (s.mem.readNat pa 32) = some (s1, h) →
      ∃ s', exec (.qmake a) s = .next s' ∧ s.gives s' t x a.toNat h 0 ∧ ((s'.core c).queue n).live = true ∧
        ((s'.core c).queue n).gen = (((s.core c).queue n).gen + 1) % 65536 ∧ ((s'.core c).queue n).launch = t.launch) ∧
    (∀ (a : BitVec 8) (q : Queue), s.handleFault c t.asid t.launch true w = none → (s.core c).current w = some q → q.launch = t.launch →
      ∃ s', exec (.qkill a) s = .next s' ∧ s.gives s' t x a.toNat (BitVec.ofNat 64 (q.resident.length + q.scount)) 0 ∧
        ((s'.core c).queue (qhNum w)).live = false) ∧
    (∀ (b : BitVec 3) (row : List Byte), s.pathsDone t 1 →
      let y := (s.core c).builder b.toNat
      y.filling = true → y.launch = t.launch → y.rows.length < frameCap (rfTsize y.desc) (rfRowBytes y.desc) → rfTimer y.desc ≠ 0 →
      s.frameRow c t x (rfRowBytes y.desc) = .ok row →
      ∃ s', exec (.frmput b) s = .next s' ∧ s.stands s' t.retired ∧ s'.mem = s.mem ∧
        (s'.core c).builder b.toNat = { y with rows := y.rows ++ [(bits (t.slot x.n t.pc .r) 31 0, row)] }) ∧
    ∀ b : BitVec 3, let y := (s.core c).builder b.toNat
      y.filling = true → y.closed = none → y.launch = t.launch → (s.core c).openBuilders t.launch = [b.toNat] →
      ∃ s' f, exec (.frmclose 0 b) s = .next s' ∧ s.stands s' t.retired ∧ s'.mem = s.mem ∧
        ((s'.core c).builder b.toNat).filling = false ∧ ((s'.core c).builder b.toNat).rows = [] ∧
        ((s'.core c).builder b.toNat).closed = some f ∧ f.bytes = y.bytes

/-- A step runs exec on the instruction that the current word decodes to, and nothing else on it (02_encoding.md R45, R47, R55 to R57,
01_machine.md R31, R32, 04_ordering.md R129, 15_fabric.md R405). -/
def Obligations.StepRunsTheDecodedInstruction : Prop :=
  (∀ (s : State) (c uid : Nat) (t : Train) (b : BInstr) (i : Instr), s.todo = .issue c uid → (s.core c).train? uid = some t →
    t.next? = some b → decodeWord b.cls b.word = .ok i →
    (step s = match exec i ((s.consume c uid).forTrain c uid) with
      | .next s' => .next (s'.afterIssue c t)
      | o => o) ∧
    ((∀ e ∈ (s.core c).ramBad, e.1 ≠ uid) → t.team = false → (s.consume c uid).forTrain c uid = { s with cur := (c, uid) })) ∧
  (∀ (s : State) (k x : Nat) (i : Instr), s.todo = .command k x i → step s = exec i { s with cur := (k, x) }) ∧
  (∀ (s : State) (i : Instr) (rest : List Instr), s.inbox = i :: rest → step s = exec i { s with inbox := rest }) ∧
  (∀ (s : State) (a : Act), s.todo = .act a → step s = runAct a s) ∧
  (∀ (s : State) (c uid : Nat) (t : Train) (ws : List IWord), s.todo = .fetch c uid → (s.core c).train? uid = some t →
    s.fetch t.launch.part t.asid t.prog t.block (t.failed.map (·.1)) = .ok ws →
    (∃ h off n, s.imgHeader t.asid t.prog = some h ∧ s.blockOffset t.asid t.prog t.block = some off ∧
      ws = (s.imgWords t.asid t.prog h.size off).take n) ∧
    ∃ s' u, step s = .next s' ∧ (s'.core c).train? uid = some u ∧ u.words = some ws)

/-- No instruction is refused, and every block instruction of a current train answers a next state (02_encoding.md R68, R69, 10_control.md
R264, R265). -/
def Obligations.NothingIsRefused : Prop :=
  (∀ (i : Instr) (s : State) (r : Refusal), exec i s ≠ .refused r) ∧
  (∀ (i : Instr) (s : State) (t : Train) (k : Nat), s.train? = some t → i.cls = some k → k ≠ 15 → ∃ s', exec i s = .next s') ∧
  (∀ (i : Instr) (s : State), i.cls = some 15 → s.streamJob.isSome = true → ∃ s', exec i s = .next s') ∧
  (∀ (i : Instr) (s : State), i.cls = none → (∃ s', exec i s = .next s') ∨ exec i s = .fault .notEnabled)

/-- Decoding the word of an instruction gives the instruction, and every word that decodes is the word of what it decodes to (02_encoding.md
R58 to R69). -/
def Obligations.DecodeAndEncodeAgree : Prop :=
  (∀ (i : Instr) (k : Nat), i.cls = some k → i.fieldError = none → decodeWord k (encode i) = .ok i) ∧
  (∀ (k : Nat) (w : IWord) (i : Instr), decodeWord k w = .ok i → i.cls = some k ∧ i.fieldError = none ∧ encode i = w)

/-- Every step keeps HBM in canonical form (01_machine.md R4, 17_host.md R467, R470). -/
def Obligations.StepsKeepMemoryCanonical : Prop :=
  ∀ (s s' : State), s.memOk → step s = .next s' → s'.memOk

/-- A token fills its instance, a depart command forces its platform, and senders’ operations end (06_firing.md R165, R166, R185,
01_machine.md R21, R23, R25, 10_control.md R265 to R267). DETAIL and CORE of the record of a discarded packet (log 53), and that a tag of
another address space is discarded (log 17), are deduced. -/
def Obligations.TokensAndCommandsArrive : Prop :=
  (∀ (s : State) (c : Nat) (f : Flight) (tok : Token), s.ttCore c = false → (s.core c).flights = [f] → f.cargo = .tok tok →
    f.due ≤ s.cyc.toNat → f.dev = some s.link.device → f.ctx = none → f.opId ≠ 0 → f.acked = false →
    let h := tagFrame tok.tag
    let fr := s.frame c h
    (∀ b k, s.swappedCore c = false → fr.alloc = true → tagAsid tok.tag = fr.asid → s.resolveToken fr tok = .to b k 1 false → (s.core c).waiting = [] →
      (∀ e ∈ (s.core c).entries, e.inst.hasKey fr.asid h b (tagIdx tok.tag) = false) → (s.core c).stored < 8192 →
      ∃ s' e, exec (.tokenArrival c s.link.device 0) s = .next s' ∧ (s'.core c).flights = [] ∧
        (s'.core c).entries = (s.core c).entries ++ [e] ∧ e.state = .ready ∧ e.inst.hasKey fr.asid h b (tagIdx tok.tag) = true ∧
        e.inst.prog = fr.prog ∧ e.inst.toks = [(k, tok)] ∧ ∀ o ∈ (s'.core f.opCore).outst, o.id ≠ f.opId) ∧
    (fr.alloc = false ∨ (s.swappedCore c = false ∧ tagAsid tok.tag ≠ fr.asid) →
      ∃ s', exec (.tokenArrival c s.link.device 0) s = .next s' ∧ (s'.core c).flights = [] ∧
        (s'.core c).entries = (s.core c).entries ∧ ∀ o ∈ (s'.core f.opCore).outst, o.id ≠ f.opId)) ∧
  (∀ (s : State) (c idx op a due b j : Nat) (tag src : Word) (r : LaunchRef), s.ttCore c = false →
    (s.core c).flights = [⟨due, some s.link.device, .depart idx tag src r, op, a, none, false⟩] → due ≤ s.cyc.toNat →
    let fr := s.frame c (tagFrame tag)
    fr.alloc = true → tagAsid tag = fr.asid → s.imgDest fr.asid fr.prog idx = some (b, j) →
    ∃ s', exec (.departCommandArrival c s.link.device 0 0 0) s = .next s' ∧ (s'.core c).flights = [] ∧
      (s'.core c).plats = (s.core c).plats.map (fun p =>
        if p.2.asid = fr.asid ∧ p.2.prog = fr.prog ∧ p.2.block = b then
          (p.1, { p.2 with fills := p.2.fills.map (fun f => { f with elig := true, forced := true }) })
        else p)) ∧
  (∀ (s : State) (c b op : Nat) (y : Builder), (s.core c).builders = [(b, y)] → y.flying = true → y.flyOp = op → op ≠ 0 →
    ∃ s', exec (.sendAck c op) s = .next s' ∧ ((s'.core c).builder b).flying = false ∧ (s'.core c).outst = (s.core c).outst) ∧
  (∀ (s : State) (c op : Nat), (∃ o ∈ (s.core c).outst, o.id = op ∧ o.wbit = 23) →
    (∀ b ∈ (s.core c).builders, b.2.flying = true → b.2.flyOp ≠ op) →
    exec (.sendAck c op) s = .next (s.updCore c (fun k => { k with outst := k.outst.filter (fun o => o.id != op) }))) ∧
  (∀ (s : State) (p id code dest : Nat) (tag src : Word) (m : Memory), p < 16 →
    let r : LaunchRef := ⟨p, (s.part p).keyOf id⟩
    (∀ l, s.launch? r = some l → recFaultQ l.record = 0) →
    let f := { FaultInfo.plain (code % 256) (if code / 256 = 1 then tag.toNat else dest) 0 r (tagAsid tag) 3 with
      tag := tag, core := tagCore tag }
    let d := (s.part p).fqAddr
    physOk d 16 = true →
    ringAppend s.mem d (fun base off => if physOk (base + off) 64 then some (base + off) else none) (f.record (s.faultTime f)) = some (true, m) →
    exec (.discardNotice p id code dest tag src) s = .next ({ s with mem := m }.notify (4 * p + 2)))

/-- Timers make platforms eligible, an eligible platform departs as a train, and a finished train leaves (01_machine.md R28 to R31, R34,
06_firing.md R160, R175). -/
def Obligations.TrainsDepartAndEnd : Prop :=
  (∀ (s : State) (c n : Nat) (p : Platform) (f : Fill) (m : Nat), s.runCore c = true → s.ttCore c = false → (n, p) ∈ (s.core c).plats →
    f ∈ p.fills → f.elig = false → timerCycles p.timer = some m → f.first + f.stood + m ≤ s.cyc.toNat →
    ∃ s', exec (.departureTimerExpiry c) s = .next s' ∧
      (s'.core c).plats.map (fun e => (e.1, e.2.fills.map (fun y => y.seats))) =
        (s.core c).plats.map (fun e => (e.1, e.2.fills.map (fun y => y.seats))) ∧
      (∀ e ∈ (s'.core c).plats, ∀ y ∈ e.2.fills,
        y.elig = true ∨ ∀ k, timerCycles e.2.timer = some k → s.cyc.toNat < y.first + y.stood + k) ∧
      { s'.core c with plats := (s.core c).plats } = s.core c) ∧
  (∀ (s : State) (c n h0 h1 : Nat) (p : Platform) (f : Fill) (i0 : Inst) (is : List Inst), s.runCore c = true → s.ttCore c = false →
    (s.core c).departCyc ≠ some s.cyc.toNat → (s.core c).plats = [(n, p)] → p.fills = [f] → f.elig = true → f.seats = i0 :: is →
    (∀ i ∈ f.seats, s.instStopped c i = false) → s.headFor c (s.frame c i0.handle).launch p.asid p.prog p.block = .ok h0 h1 →
    (s.core c).trains = [] → (s.core c).waiting = [] →
    (s.core c).ramFits (s.frame c i0.handle).launch (256 * h1Demand h1) = true →
    ∃ s' u, exec (.trainDeparture c) s = .next s' ∧ (s'.core c).plats = [] ∧ (s'.core c).trains = [u] ∧ u.number = 0 ∧
      u.uid = (s.core c).uids + 1 ∧ u.asid = p.asid ∧ u.prog = p.prog ∧ u.block = p.block ∧ u.launch = (s.frame c i0.handle).launch ∧
      u.ram = 256 * h1Demand h1 ∧ u.departed = s.cyc.toNat ∧ (s'.core c).departCyc = some s.cyc.toNat ∧
      ∀ x ∈ u.seats, f.seats[x.n]? = some x.inst) ∧
  (∀ (s : State) (c uid : Nat) (t : Train), (s.core c).train? uid = some t → t.words.isSome = true → t.finished = true →
    s.undecided c uid = false → (∀ q ∈ (s.core c).queues, ∀ e ∈ q.2.resident, ∀ r, e.resv = some r → r.1 ≠ uid) →
    ∃ s', exec (.trainEnd c uid) s = .next s' ∧ (s'.core c).trains = (s.core c).trains.filter (fun u => u.uid != uid) ∧
      (s'.core c).frames = (s.core c).frames ∧ s'.mem = s.mem) ∧
  (∀ (s : State) (c h : Nat) (f : Frame), NMap.get? (s.core c).frames h = some f → f.alloc = true → f.freePending = true →
    (s.core c).frameBusy h = false →
    ∃ s', exec (.freeCompletion c h) s = .next s' ∧ s'.frame c h = { Frame.free with gen := f.gen } ∧
      (∀ k, k ≠ h → s'.frame c k = s.frame c k) ∧ s'.mem = s.mem) ∧
  (∀ (s : State) (c o : Nat), o ∈ (s.core c).compactFor →
    ∃ s', exec (.compaction c o) s = .next s' ∧ (s'.core c).compactFor = (s.core c).compactFor.filter (· != o) ∧
      (∀ h, { s'.frame c h with unit := (s.frame c h).unit } = s.frame c h) ∧
      { s'.core c with frames := (s.core c).frames, sram := (s.core c).sram, compactFor := (s.core c).compactFor } = s.core c)

/-- A due late result lands in its target, a replay rebuilds a dropped value, and a write-back ends (02_encoding.md R53, 07_carry.md R202,
R203, 08_memory.md R221). -/
def Obligations.LateResultsLand : Prop :=
  (∀ (s : State) (c g : Nat) (l : Late) (v : Word) (t : Train), (s.core c).late = [l] → l.due ≤ s.cyc.toNat → l.regs = [] → l.fl = 0 →
    l.vals = [(g, v)] → 4 ≤ g → g < 256 → (s.core c).train? l.train = some t → (t.seat? l.seat).isSome = true →
    ∃ s' u, exec (.lateValueLands c) s = .next s' ∧ (s'.core c).train? l.train = some u ∧ u.pc = t.pc ∧ u.seats = t.seats ∧
      u.at l.seat g = v ∧ (∀ k, k ≠ l.seat * 256 + g → NMap.getD u.slots k 0 = NMap.getD t.slots k 0) ∧
      (∀ e ∈ u.pend, e.2 ≠ l.opId) ∧ (s'.core c).late = [] ∧ (∀ o ∈ (s'.core c).outst, o.id ≠ l.opId) ∧
      (s'.core c).frames = (s.core c).frames ∧ s'.mem = s.mem) ∧
  (∀ (s : State) (c : Nat) (w : RegWait) (x : Replay) (v : Word) (g : Flags), (s.core c).regWaits = [w] → w.replay = some x →
    let f := s.frame c w.handle
    s.rebuild c w.handle [] f x = .ok v g →
    ∃ s', exec (.recipeReplay c) s = .next s' ∧ (s'.core c).regWaits = [] ∧
      (∀ b, f.binding? w.reg = some b → b.dropped = true → s.replayOf c f b = x → (s.core c).slotFree w.handle f = true →
        (s'.frame c w.handle).reg w.reg = v ∧ ∀ y ∈ (s'.frame c w.handle).binds, y.reg = w.reg → y.dropped = false) ∧
      ∃ l ∈ (s'.core c).late, l.opId = w.opId ∧ l.train = w.train ∧ l.seat = w.seat ∧ l.vals = w.targets.map (fun g => (g, v)) ∧
        l.due = s.cyc.toNat + 1) ∧
  (∀ (s : State) (c op due : Nat), (due, op) ∈ (s.core c).flushes → due ≤ s.cyc.toNat →
    ∃ s', exec (.flushComplete c op) s = .next s' ∧ (∀ f ∈ (s'.core c).flushes, f.2 ≠ op) ∧ (∀ o ∈ (s'.core c).outst, o.id ≠ op) ∧
      s'.mem = s.mem ∧ (s'.core c).trains = (s.core c).trains)

/-- Walks fill the TLBs or raise page requests; responses, timeouts and invalidations take effect (08_memory.md R224 to R229, 10_control.md
R276, R279). Which entry a full TLB drops is the model's choice (log 61) and not stated. -/
def Obligations.TranslationsAreWalkedAndAnswered : Prop :=
  (∀ (s : State) (c base size e : Nat) (x : Walk) (rest : List Walk), (s.core c).walks = x :: rest → s.walk x.asid x.va = .leaf base size e →
    ∃ s', exec (.translationWalk c) s = .next s' ∧ (s'.core c).walks = rest ∧
      (x.own = true → (⟨x.asid, base, size, e⟩ : TlbEntry) ∈ (s'.core c).tlb) ∧
      (⟨x.asid, base, size, e⟩ : TlbEntry) ∈ (s'.cluster (clusterOf c)).tlb ∧ s'.mem = s.mem) ∧
  (∀ (s : State) (c p l : Nat) (x : Walk) (rest : List Walk), (s.core c).walks = x :: rest → s.walk x.asid x.va = .invalid l → s.partOfCluster (clusterOf c) = some p → (s.part p).early = [] →
    ∃ s', exec (.translationWalk c) s = .next s' ∧ (s'.core c).walks = rest ∧ s'.requested x.asid (x.va / 8192) = true) ∧
  (∀ (s : State) (p : Nat) (w : Word) (r : PageReq) (fail : Bool) (i : Instr), (s.part p).preqs = [r] →
    (∀ e ∈ s.cores, e.2.queues = [] ∧ e.2.regWaits = []) → (∀ e ∈ s.parts, e.2.firings = []) →
    ((i = .pageResponse p w ∧ p < 16 ∧ s.window1Up = true ∧ bits w 12 11 = b2n fail ∧ bits w 8 0 = r.asid ∧
        bits w 56 13 = r.vunit ∧ ∀ base size e, s.walk r.asid (r.vunit * 8192) = .leaf base size e → unitIn base size r.vunit = true) ∨
      (i = .pageRequestTimeout p ∧ fail = true ∧ (s.part p).prqLim ≠ 0 ∧ r.since + 1050 * (s.part p).prqLim ≤ s.cyc.toNat)) →
    ∃ s', exec i s = .next s' ∧ (s'.part p).preqs = [] ∧ s'.mem = s.mem ∧
      ∀ c, ∀ t ∈ (s.core c).trains, t.asid = r.asid → r.vunit ∈ t.waits.map (fun m => m.1 / 8192) →
        (fail = true → ∃ u ∈ (s'.core c).trains, u.uid = t.uid ∧ u.pc = t.pc ∧ r.vunit ∉ u.waits.map (fun m => m.1 / 8192) ∧ (r.vunit, PAGE_UNRESOLVED) ∈ u.failed) ∧
        (fail = false → ∃ x ∈ (s'.core c).walks, x.asid = r.asid ∧ x.va / 8192 = r.vunit)) ∧
  (∀ (s : State) (p : Nat) (w : Word), p < 16 → s.window1Up = true → bits w 12 11 < 3 →
    (s.part p).tlbInv.length < 17 → exec (.tlbinv p w) s = .next (s.updPart p (fun k => { k with tlbInv := k.tlbInv ++ [w] }))) ∧
  (∀ (s : State) (p : Nat) (w : Word) (rest : List Word), (s.part p).tlbInv = w :: rest →
    ∃ s', exec (.tlbInvalidationComplete p) s = .next s' ∧ (s'.part p).tlbInv = rest ∧ s'.mem = s.mem ∧
      (∀ c e, e ∈ (s'.core c).tlb ↔ e ∈ (s.core c).tlb ∧ s.tlbHitBy p w e = false) ∧
      ∀ c e, e ∈ (s'.cluster c).tlb ↔ e ∈ (s.cluster c).tlb ∧ s.tlbHitBy p w e = false)

/-- Writes of the host through its windows change the registers that the tables name (10_control.md R274 to R280, R284, R285, 17_host.md
R462 to R465, R471). -/
def Obligations.HostWritesReachTheRegisters : Prop :=
  (∀ (s : State) (p : Nat) (w : Word), p < 16 → s.window1Up = true →
    ((s.part p).busy = false → prqFits (s.part p).prqBase (bits w 35 32) = true →
      ∃ s', exec (.prqctlWrite p w) s = .next s' ∧ (s'.part p).prqHead = bits w 15 0 ∧ (s'.part p).prqLog2n = bits w 35 32 ∧
        (s'.part p).prqBase = (s.part p).prqBase) ∧
    ((s.part p).tt = none → 16 ≤ w.toNat → w.toNat ≤ 65536 →
      exec (.sslenWrite p w) s = .next (s.updPart p (fun k => { k with ssLen := w.toNat }))) ∧
    ∃ s1 s2 s3 s4 s5, exec (.partitionRegisterWrite p 0x8002 w) s = .next s1 ∧ (s1.part p).featMask = w ∧
      exec (.partitionRegisterWrite p 0x8003 w) s = .next s2 ∧ (s2.part p).drainLim = w.toNat ∧
      exec (.partitionRegisterWrite p 0x800A w) s = .next s3 ∧ (s3.part p).prqLim = w.toNat ∧
      exec (.partitionRegisterWrite p 0x800D w) s = .next s4 ∧ (s4.part p).evtSel = w &&& 0xFFFFFFFF#64 ∧
      exec (.partitionRegisterWrite p 0x800E w) s = .next s5 ∧ (s5.part p).brkEn = bit w 0 ∧ (s5.part p).autoEnd = bit w 1 ∧
      ∀ q, q ≠ p → s1.part q = s.part q ∧ s2.part q = s.part q ∧ s3.part q = s.part q ∧ s4.part q = s.part q ∧ s5.part q = s.part q) ∧
  (∀ (s : State) (w : Word), s.windowsUp = true →
    ((∀ e ∈ s.parts, e.2.state = .off) →
      exec (.featacceptWrite ⟨8, 0, w⟩) s = .next { s with host := { s.host with featAccept := w &&& Config.featOffer &&& 0x7FF#64 } }) ∧
    ((∃ e ∈ s.parts, e.2.state ≠ .off) → exec (.featacceptWrite ⟨8, 0, w⟩) s = .next { s with host := { s.host with featErr := true } }) ∧
    (bit w 2 = true → exec (.statusWrite ⟨8, 0, w⟩) s = .next { s with host := { s.host with featErr := false } }) ∧
    (s.host.ready = true → s.window1 8 8 = s.host.mstat ∧
      exec (.mstatWrite ⟨8, 0, w⟩) s = .next { s with host := { s.host with mstat := s.host.mstat &&& ~~~(w &&& 7#64) } }) ∧
    (∀ p, p < 16 → exec (.noticeHeadWrite p ⟨8, 0, w⟩) s = .next (s.updPart p (fun k => { k with noteHead := bits w 15 0 })))) ∧
  (∀ (s : State) (w : HostWord) (p k : Nat), w.size ≠ 8 ∨ w.skew ≠ 0 → exec (.featacceptWrite w) s = .next s ∧ exec (.statusWrite w) s = .next s ∧
    exec (.mstatWrite w) s = .next s ∧ (p < 16 → k < 8 → exec (.noticeHeadWrite p w) s = .next s ∧ exec (.hostDoorbell p k w) s = .next s)) ∧
  (∀ (s : State) (p k : Nat) (w : Word), s.windowsUp = true → p < 16 → k < 8 → (s.part p).state ≠ .off →
    let d := NMap.getD s.host.db (16 * p + k) (0, 0)
    let ahead := (bits w 15 0 + 65536 - d.1) % 65536
    (d.2 + 65536 - d.1) % 65536 ≤ ahead → ahead ≤ 256 →
    ∃ s', exec (.hostDoorbell p k ⟨8, 0, w⟩) s = .next s' ∧ NMap.getD s'.host.db (16 * p + k) (0, 0) = (d.1, bits w 15 0) ∧
      (∀ j, j ≠ 16 * p + k → NMap.getD s'.host.db j (0, 0) = NMap.getD s.host.db j (0, 0)) ∧ { s' with host := s.host } = s)

/-- PREEMPT, RESTORE, HALT, RESUME and END do what PCTL’s table says, and drains and swaps reach their states (10_control.md R278, R286 to
R291, R298 to R301). That a swapped state stays in its fields is the model's choice (log 34). -/
def Obligations.CommandsMoveThePartition : Prop :=
  (∀ (s : State) (p : Nat), p < 16 → s.window1Up = true → (s.part p).tt = none → (s.part p).ttPend = 0 →
    ((s.part p).state = .run → ∃ s', exec (.preempt p) s = .next s' ∧ (s'.part p).state = .drain ∧ (s'.part p).drainAt = s.cyc.toNat ∧
      s'.cores = s.cores ∧ s'.mem = s.mem) ∧
    ((s.part p).state = .swapped → ∃ s', exec (.restore p) s = .next s' ∧ (s'.part p).state = .load ∧ s'.cores = s.cores ∧ s'.mem = s.mem) ∧
    ((s.part p).state = .run → ∃ s', exec (.halt p) s = .next s' ∧ (s'.part p).state = .halting ∧ (s'.part p).drainAt = s.cyc.toNat ∧
      s'.cores = s.cores ∧ s'.mem = s.mem) ∧
    ((s.part p).state = .halted → ∃ s', exec (.resume p) s = .next s' ∧ (s'.part p).state = .run ∧ (s'.part p).quiesced = false ∧
      ∀ c, clusterOf c ∈ (s.part p).clusters → ∀ t ∈ (s.core c).trains, t.hold = some .brk →
        ∃ u ∈ (s'.core c).trains, u = { t with resumed := true }) ∧
    (∀ id n l, (s.part p).state = .run ∨ (s.part p).state = .halted → id < 65536 →
      (s.part p).launches.find? (fun e => e.1 % 65536 == id && e.2.state == .faulted) = some (n, l) → s.launch? ⟨p, n⟩ = some l → l.id = n →
      ∃ s' l', exec (.endLaunch p id) s = .next s' ∧ s'.launch? ⟨p, n⟩ = some l' ∧ l'.state = .completing ∧ l'.code = l.code)) ∧
  (∀ (s : State) (p : Nat), ((s.part p).state = .drain → s.anyTrain p (fun _ _ => true) = true → s.fabJobs p = [] →
      (s.part p).drainAt + (s.part p).drainLim ≤ s.cyc.toNat →
      ∃ s', exec (.drainlimExpiry p) s = .next s' ∧ s'.anyTrain p (fun _ _ => true) = false ∧ s'.mem = s.mem) ∧
    ((s.part p).state = .drain → s.drained p = true → ∃ s', exec (.saveStart p) s = .next s' ∧ (s'.part p).state = .save ∧ s'.cores = s.cores) ∧
    ((s.part p).state = .save → (s.part p).cmdCycle ≤ s.cyc.toNat →
      ∃ s', exec (.saveComplete p) s = .next s' ∧ (s'.part p).state = .swapped ∧ s'.cores = s.cores) ∧
    ((s.part p).state = .load → (s.part p).cmdCycle ≤ s.cyc.toNat → (∀ e ∈ s.cores, e.2.queues = []) → (∀ i ∈ (s.part p).images, i.bad = false) →
      ∃ s', exec (.loadComplete p) s = .next s' ∧ (s'.part p).state = .run ∧
        ∀ c ∈ (s.part p).cores, (s'.core c).tlb = [] ∧ (s'.core c).walks = [] ∧ (s'.core c).frames = (s.core c).frames) ∧
    ((s.part p).state = .halting → (∀ c ∈ (s.part p).cores, (s.core c).workLeft p = false) → s.packetsFly p = false →
      ∃ s', exec (.haltQuiesced p) s = .next s' ∧ (s'.part p).state = .halted ∧ (s'.part p).quiesced = true ∧ s'.cores = s.cores) ∧
    ((s.part p).ttPend = 2 → s.closeAll p = none → s.freezeSend p = none → s.lateWrites p = false → s.linkLeft p = false →
      ∃ s', exec (.timetableFreeze p) s = .next s' ∧ (s'.part p).state = .save ∧ (s'.part p).ttPend = 0 ∧
      s'.cores = s.cores) ∧
    ((s.part p).ttPend = 4 → ∃ s', exec (.timetableHalt p) s = .next s' ∧ (s'.part p).state = .halting ∧ (s'.part p).ttPend = 0 ∧
      s'.cores = s.cores))

/-- A launch is admitted, checked, sized, placed, stalled, ended and completed by the launch engine’s steps (09_scheduler.md R232 to R234,
R238 to R243, R245, R246, 10_control.md R268, 17_host.md R463, R464). Which address fields fail the check (log 73), and what holds
completion back beside the rule's conditions (log 48), are deduced. -/
def Obligations.LaunchesAdvance : Prop :=
  (∀ (s : State) (p q : Nat), p < 16 → s.launchGo p = true → (s.part p).launches = [] → s.nextQueue p = some q → q < 8 →
    let h := s.hostQueue p q
    let pa := (s.part p).lArea + 0x80000 + 0x10000 * q + 256 * (h.1 % 256)
    physOk pa 256 = true →
    ∃ s' l, exec (.launchAdmit p) s = .next s' ∧ (s'.part p).launches = [(((s.part p).lastId + 1) % 65536, l)] ∧ l.state = .check ∧
      l.queue = q ∧ l.asid = NMap.getD (s.part p).hqAsid q 0 ∧ l.record = BitVec.ofNat 2048 (s.mem.readNat pa 256) ∧
      s'.hostQueue p q = ((h.1 + 1) % 65536, h.2) ∧ s'.mem = s.mem) ∧
  (∀ (s : State) (p id : Nat) (l : Launch), s.launchGo p = true → l.id = id →
    ((s.part p).launches = [(id, l)] → l.state = .check → l.pageWait = none →
      (∀ ns, s.checkLaunch p l = .pass ns → recIndirect l.record = false → emptyGrid (s.roleGrid l.asid l.record) = false →
        ∃ s' l', exec (.launchAdmit p) s = .next s' ∧ s'.launch? ⟨p, id⟩ = some l' ∧ l'.state = .placing ∧ l'.nodes = ns ∧
          l'.groups = s.roleGrid l.asid l.record ∧ s'.mem = s.mem) ∧
      (∀ code b d a, s.checkLaunch p l = .bad code b d a →
        ∃ s' l', exec (.launchAdmit p) s = .next s' ∧ s'.launch? ⟨p, id⟩ = some l' ∧ l'.state = .faulted ∧ l'.code = code)) ∧
    (s.launch? ⟨p, id⟩ = some l →
      (∀ w, l.state = .gridwait → l.pageWait = none → s.gridLook l = .word w → natBits w 47 24 = 0 → natBits w 23 0 ≠ 0 → natBits w 63 48 ≠ 0 →
        ∃ s' l', exec (.gridWordRead p id) s = .next s' ∧ s'.launch? ⟨p, id⟩ = some l' ∧ l'.state = .placing ∧
          l'.groups = [(natBits w 63 48, natBits w 23 0)] ∧ s'.mem = s.mem) ∧
      (l.state = .placing → recTimetable l.record = false → (s.placeLaunch ⟨p, id⟩ l).isSome = true →
        ∃ s' l', exec (.launchPlacement p id) s = .next s' ∧ s'.launch? ⟨p, id⟩ = some l' ∧ l'.state = .running) ∧
      (l.state = .gridwait ∨ (l.state = .placing ∧ ((s.alone ⟨p, id⟩).placeLaunch ⟨p, id⟩ l).isNone = true) → recStall l.record ≠ 0 →
        l.since + 1050 * recStall l.record ≤ s.cyc.toNat →
        ∃ s' l', exec (.launchStall p id) s = .next s' ∧ s'.launch? ⟨p, id⟩ = some l' ∧ l'.state = .faulted ∧ l'.code = 0x48) ∧
      (l.state = .faulted → (s.part p).autoEnd = true → s.engineBusy ⟨p, id⟩ = false →
        ∃ s' l', exec (.faultedLaunchAutoend p id) s = .next s' ∧ s'.launch? ⟨p, id⟩ = some l' ∧ l'.state = .completing ∧ l'.code = l.code) ∧
      (l.state = .completing → l.step = 6 → l.pageWait = none → l.slots = [] → s.recordsWait ⟨p, id⟩ { l with recSlots := [] } = false →
        recNotify l.record = true → ((s.part p).noteTail + 65536 - (s.part p).noteHead) % 65536 ≠ 256 → s.memOk →
        let pa := (s.part p).lArea + 0x100000 + 16 * ((s.part p).noteTail % 256)
        physOk pa 16 = true →
        ∃ s', exec (.launchCompletion p id) s = .next s' ∧ s'.launch? ⟨p, id⟩ = none ∧
          (s'.part p).noteTail = ((s.part p).noteTail + 1) % 65536 ∧ s'.mem.readNat pa 8 = l.cword.toNat ∧
          ∀ a, a < pa ∨ pa + 16 ≤ a → s'.mem.get a = s.mem.get a)))

/-- Records reach their yards, timers form teams, teams take cores, and sidings replay (09_scheduler.md R251 to R254, 01_machine.md R32,
16_network.md R438). That teams take the lowest core with room is the model's choice (log 76). -/
def Obligations.YardsSeatAndPlaceTeams : Prop :=
  (∀ (s : State) (d p : Nat) (y : Yard) (l : Launch), (s.die d).yards = [y] → y.launch.part = p → s.launchGo p = true →
    s.launch? y.launch = some l → l.id = y.launch.id → l.state = .running →
    (∀ (k : YPack) (bs : List Byte) (src : Word) (j pa leaf b z : Nat), y.inq = [k] → k.due ≤ s.cyc.toNat → k.launch = y.launch → k.node = y.node →
      k.recs = [(bs, src)] → y.pageWait = none → l.slots = [] → l.freeRecSlot y.node = some j → s.memOk →
      let nr := l.nodes.getD y.node 0
      let va := recRecBuf nr + j * recRSize nr
      recRagged nr = false → recNTimer nr ≠ 0 → y.forming.fill + 1 < recCoal nr → bs.length = recRSize nr → va % 8192 + recRSize nr ≤ 8192 →
      s.engAcc l.asid va (recRSize nr) .write = .ok pa leaf b z → leafRemote leaf = false → leafIMM leaf = false →
      ∃ s' y' l', exec (.yardRecordArrival d y.num) s = .next s' ∧ (s'.die d).yards = [y'] ∧ y'.inq = [] ∧ y'.formed = y.formed ∧
        y'.forming.seats = y.forming.seats ++ [⟨y.forming.fill, j, 0, src⟩] ∧ y'.forming.fill = y.forming.fill + 1 ∧
        s'.launch? y.launch = some l' ∧ l'.recSlots = l.recSlots ++ [(y.node, j)] ∧
        (∀ i (h : i < bs.length), s'.mem.get (pa + i) = bs[i]) ∧
        ∀ a, a < pa ∨ pa + bs.length ≤ a → s'.mem.get a = s.mem.get a) ∧
    (s.yardExpired y = true →
      ∃ s' y', exec (.yardTimerExpiry d y.num) s = .next s' ∧ (s'.die d).yards = [y'] ∧ y'.forming = Team.empty ∧ s'.mem = s.mem ∧
        y'.formed = y.formed ++ [{ y.forming with formedAt := s.cyc.toNat }]) ∧
    (∀ (t : Team) (rest : List Team) (c : Nat) (cs : List Nat), y.formed = t :: rest →
      (s.part p).cores.filter (fun c => dieOf c == d) = c :: cs →
      ((s.updYard d y.num (fun y => { y with formed := rest })).placeTeam l y.launch y.node t c).isSome = true →
      ∃ s' u, exec (.teamPlacement d y.num) s = .next s' ∧ (s'.die d).yards = [{ y with formed := rest }] ∧
        u ∈ (s'.core c).trains ∧ u.uid = (s.core c).uids + 1 ∧ u.team = true ∧ u.launch = y.launch)) ∧
  (∀ (s : State) (p id d c : Nat) (v : List Nat) (l : Launch) (q : SidSlot) (t : Token), (s.part p).state = .run → (s.part p).tt = none →
    s.launch? ⟨p, id⟩ = some l → l.id = id → l.slots = [q] → q.die = d → q.items = [⟨.tok c s.link.device t, v⟩] → s.swappedCore c = false →
    let h := tagFrame t.tag
    let fr := s.frame c h
    ∀ b k, fr.alloc = true → tagAsid t.tag = fr.asid → s.resolveToken fr t = .to b k 1 false → (s.core c).waiting = [] →
      (∀ e ∈ (s.core c).entries, e.inst.hasKey fr.asid h b (tagIdx t.tag) = false) → (s.core c).stored < 8192 →
      ∃ s' e l' q', exec (.sidingReplay p id d) s = .next s' ∧ (s'.core c).entries = (s.core c).entries ++ [e] ∧ e.state = .ready ∧
        e.inst.hasKey fr.asid h b (tagIdx t.tag) = true ∧ e.inst.toks = [(k, t)] ∧
        s'.launch? ⟨p, id⟩ = some l' ∧ l'.slots = [q'] ∧ q'.items = [] ∧ q.credit < q'.credit)

/-- A timetable core idles or grants a turn, and a boundary performs stores, delivers and begins the next superstep (10_control.md R292 to
R295). The order of engine kinds in the boundary is deduced (log 74). -/
def Obligations.TimetableStepsAndBoundaries : Prop :=
  (∀ (s : State) (c p : Nat), s.partOfCluster (clusterOf c) = some p → (s.part p).tt.isSome = true → (s.part p).state = .run → (s.part p).bphase = 0 →
    (s.part p).ttPend = 0 →
    let q := s.core c
    q.ssDone = false → q.turn = none → q.stepped ≠ s.cyc.toNat + 1 → q.flights = [] → q.starts = [] → q.entries = [] → q.plats = [] → q.waiting = [] →
    (q.trains = [] →
      ∃ s', exec (.timetableStep c) s = .next s' ∧ (s'.core c).tclk = q.tclk + 1 ∧ (s'.core c).rptr = q.rptr ∧
        (s'.core c).ssDone = decide ((s.part p).ssEnd ≤ q.tclk + 1) ∧ s'.mem = s.mem) ∧
    (∀ t, q.trains = [t] → t.words.isSome = true → t.finished = false → t.waits = [] → q.pendOps t = [] → q.clauseOps t = [] →
      s.refStopped t.launch = false → s.orderWait c t = false → t.heldAt ≠ some s.cyc.toNat →
      ∃ s', exec (.timetableStep c) s = .next s' ∧ (s'.core c).turn = some t.uid ∧ (s'.core c).tclk = q.tclk ∧ (s'.core c).trains = [t] ∧
        s'.mem = s.mem)) ∧
  (∀ (s : State) (p : Nat), (s.part p).tt.isSome = true → (s.part p).state = .run →
    ((s.part p).bphase = 0 → (∀ c ∈ (s.part p).cores, (s.core c).ssDone = true ∧ (s.core c).sq = [] ∧ (s.core c).eng.barq = []) →
      ∃ s', exec (.superstepBoundary p) s = .next s' ∧ (s'.part p).bphase = 1 ∧ s'.mem = s.mem ∧ ∀ c, s'.core c = s.core c) ∧
    (∀ id l, (s.part p).bphase = 3 → (s.part p).launches = [(id, l)] → l.id = id → l.state = .running → recTimetable l.record = true → l.slots = [] →
      s.hasFrame ⟨p, id⟩ = true → (s.part p).firings = [] → (s.part p).dq = [] → s.dies = [] →
      (∀ c ∈ (s.part p).cores, (s.core c).lhold = [] ∧ (s.core c).sends = [] ∧ (s.core c).held = [] ∧ (s.core c).csends = [] ∧ (s.core c).eng.barq = []) →
      s.boundaryMtx (s.part p).cores = none → s.boundaryFab (s.part p).cores = none →
      s.firstOf (s.copyOrder (s.part p).cores ++ (s.part p).pairs.flatMap mtxEvents ++ s.bankOrder (s.part p).cores ++
        (s.part p).clusters.flatMap (fun cl => s.fabEvents cl (fun _ => true)) ++ (s.part p).cores.flatMap s.frameEvents) = none →
      s.listNext (s.part p).clusters (fun _ => true) = none → s.boundaryHeld p = false →
      ∃ s', exec (.superstepBoundary p) s = .next s' ∧ (s'.part p).ssCount = (s.part p).ssCount + 1 ∧ (s'.part p).bphase = 0 ∧
        (s'.part p).ssEnd = (s.part p).ssEnd + (s.part p).ssLen ∧ ∀ c ∈ (s.part p).cores, (s'.core c).ssDone = false))

/-- Copies, rings, barriers, streams, tile pools, matrix pairs and bank engines take their steps (11_tiles.md R310, R315, R316, 12_copy.md
R332, R342, R347, R350, R353, 13_matrix.md R358, R359, R370 to R372, 14_bank.md R385, R387). Copies run without a break until something
holds them (log 65), a spoilt barrier is free (log 36) and excluded. -/
def Obligations.EnginesWork : Prop :=
  (∀ (s : State) (c slot : Nat) (q : CopyReq), (s.core c).eng.copy? slot = some q → s.modeAt (clusterOf c) = .run → s.ttCore c = false →
    q.due ≤ s.cyc.toNat → q.reporting = 0 → q.cancelled = false → q.fault = none → q.pageWait = none → (s.core c).eng.asked (unitCopy slot) = false →
    crMxMode q.recd = 0 → crSkind q.recd = 0 → crFabv q.recd = false → crBarv q.recd = false → crTokv q.recd = false → s.memOk →
    let n := 2 ^ crEsize q.recd
    (∀ sa sl sb sz da dl db dz, q.stream = false → crDkind q.recd = 0 → crElems q.recd = 1 → q.pos = 0 → q.cancelOps = [] → crRingv q.recd = false →
      crArrive q.recd = false → s.coreAcc c q.info.asid (crSrc q.recd) n .read = .ok sa sl sb sz → leafRemote sl = false →
      s.coreAcc c q.info.asid (crDst q.recd) n .write = .ok da dl db dz → leafRemote dl = false →
      ∃ s', exec (.copyCompletion c slot) s = .next s' ∧ (s'.core c).eng.copy? slot = none ∧ (∀ o ∈ (s'.core c).outst, o.id ≠ q.opId) ∧
        (∀ i, i < n → s'.mem.get (da + i) = s.mem.get (sa + i)) ∧ ∀ a, a < da ∨ da + n ≤ a → s'.mem.get a = s.mem.get a) ∧
    (∀ (h : Word) (rest : List Word) (part : TilePart) (u : Tile) (pa leaf b z : Nat), q.stream = true → 1 < crElems q.recd → crEsize q.recd = 4 →
      crChunk q.recd = 16 → q.pos = 0 → q.chunk = 0 → q.sealFor = none → q.tt = false → q.notices = h :: rest → (s.core c).eng.tileWaits = [] →
      poolFind (s.core c).eng.pool q.info.launch (crPart q.recd) = some part → part.tiles[hndTile h]? = some u → u.pend = [] →
      u.gen = hndGen h → u.state = .unsealed →
      s.coreAcc c q.info.asid (crSrc q.recd) 16 .read = .ok pa leaf b z → leafRemote leaf = false →
      ∃ s' q', exec (.freedSlotNotice c slot) s = .next s' ∧ (s'.core c).eng.copy? slot = some q' ∧ q'.notices = rest ∧ q'.chunk = 1 ∧ q'.pos = 1 ∧
        s'.tile? c ⟨q.info.launch, crPart q.recd, hndTile h⟩ = some { u with
          mem := u.mem.write 0 (s.mem.read pa 16), state := .sealed, run := false, hkind := false, count := crReads q.recd } ∧
        s'.mem = s.mem)) ∧
  (∀ (s s1 : State) (c slot : Nat) (q : CopyReq), (s.core c).eng.copy? slot = some q → s.modeAt (clusterOf c) = .run → q.reporting = 1 →
    crRingv q.recd = true → crTokv q.recd = false → q.cancelOps = [] → q.pageWait = none → s.ringWrite q.info.launch (crRingk q.recd) 0 [] ≠ .full →
    s.ringWrite q.info.launch (crRingk q.recd) (q.ringRecord ((s.core c).eng.lastOf q)) [] = .ok s1 →
    ∃ s', exec (.ringSpaceRetry 0 c slot) s = .next s' ∧ s'.mem = s1.mem ∧ (s'.core c).eng.copy? slot = none ∧
      ∀ o ∈ (s'.core c).outst, o.id ≠ q.opId) ∧
  (∀ (s : State) (c : Nat) (u : BarUpd) (w : Window), (s.core c).eng.barq = [u] → (s.core c).window? u.launch = some w → w.barOpen u.off = false →
    ∃ s', exec (.barrierUpdate c) s = .next s' ∧ (s'.core c).eng.barq = [] ∧ s'.mem = s.mem ∧
      (s'.core c).window? u.launch = some { w with
        mem := w.mem.write u.off (leBytes 16 (barCheck (u.op.apply (w.mem.readNat u.off 16))))
        bars := dedup (w.bars ++ [u.off])
        spoilt := w.spoilt.filter (fun b => u.op.rank ≠ 0 ∨ b ≠ u.off) }) ∧
  (∀ (s : State) (c : Nat) (q : TilePart) (w : TallocReq) (t : Train) (x : Seat) (n i : Nat) (rest : List Nat) (u : Tile),
    s.ttCore c = false → s.runCore c = true → (s.core c).eng.pool = [q] → q.queue = [w] → (s.core c).train? w.train = some t → t.seats = [x] →
    s.inTT t.launch = false → w.counts = [(x.n, n)] → q.which (fun y => y.state == .free) = i :: rest → q.tiles[i]? = some u →
    ∃ s' t' l, exec (.tallocGrant c) s = .next s' ∧ (s'.core c).train? w.train = some t' ∧ t'.pc = t.pc + 1 ∧ t'.hold = none ∧
      (s'.core c).late = (s.core c).late ++ [l] ∧ s.cyc.toNat < l.due ∧ l.train = w.train ∧ l.seat = x.n ∧ l.regs = t.writeRegs ∧
      l.vals = [(w.target, mkHandle ((u.gen + 1) % 65536) c q.part i 0)] ∧ s'.mem = s.mem ∧
      s'.tile? c ⟨q.launch, q.part, i⟩ = some { u with
        gen := (u.gen + 1) % 65536, state := .unsealed, count := n, hkind := false, hframe := x.inst.handle, hindex := x.inst.idx,
        run := true, dropping := false }) ∧
  (∀ (s : State) (c : Nat) (w : SealWait) (u : Tile) (p : TilePart), (s.core c).eng.seals = [w] → w.waitFor = [] →
    s.tile? c w.key = some u → u.gen = w.gen → u.state = .unsealed → (s.core c).eng.tileWaits = [] →
    poolFind (s.core c).eng.pool w.key.launch w.key.part = some p → p.bound = none →
    (w.free = false → ∃ s', exec (.tileSealComplete c) s = .next s' ∧ s'.tile? c w.key = some { u with state := .sealed, run := false } ∧
      (s'.core c).eng.seals = [] ∧ s'.mem = s.mem ∧ ∀ o ∈ (s'.core w.core).outst, o.id ≠ w.opId) ∧
    (w.free = true → u.pend = [] → ∃ s', exec (.tfreeComplete c) s = .next s' ∧
      s'.tile? c w.key = some { u with state := .free, run := false, dropping := false } ∧
      (s'.core c).eng.seals = [] ∧ s'.mem = s.mem ∧ ∀ o ∈ (s'.core w.core).outst, o.id ≠ w.opId)) ∧
  (∀ (s : State) (p i : Nat), s.modeAt (clusterOf (2 * p)) = .run →
    let x := (s.pair p).ctx i
    (∀ q rest t, x.owner = none → x.claims = q :: rest → (s.core q.core).train? q.train = some t →
      ∃ s', exec (.mctxClaim p i) s = .next s' ∧ (s'.pair p).ctx i = { x.claimFor q.core q.frame t.launch with claims := rest } ∧
        s'.cores = s.cores ∧ s'.mem = s.mem) ∧
    (x.releasing = true → x.queue = [] → x.code = 0 →
      ∃ s', exec (.mctxRelease p i) s = .next s' ∧ (s'.pair p).ctx i = { x with owner := none, releasing := false, rows := [], bad := [] } ∧
        s'.cores = s.cores ∧ s'.mem = s.mem) ∧
    ∀ (m : MCmd) (rest : List MCmd), i < 2 → s.ttCore (2 * p) = false → (s.pair p).stepCyc ≠ some s.cyc.toNat → x.queue = m :: rest →
      ((s.pair p).ctx (1 - i)).queue = [] → m.pageWait = none → m.fault = none → (s.core m.info.core).eng.asked (unitMtx i) = false →
      (∀ tile, m.kind = .accz tile → x.code = 0 →
        ∃ s', exec (.mtxTileStep p) s = .next s' ∧ ((s'.pair p).ctx i).queue = rest ∧ ((s'.pair p).ctx i).ops = (x.ops + 1) % 65536 ∧
          (∀ r, r < 128 → ((s'.pair p).ctx i).row tile r = List.replicate 128 0) ∧
          (∀ k r, k ≠ tile → r < 128 → ((s'.pair p).ctx i).row k r = x.row k r) ∧ s'.mem = s.mem) ∧
      (∀ ty kc mc acc tile a b st e ra rb sa sb, m.kind = .mma ty kc mc acc tile a b st e → m.started = true → m.okA = true → m.okB = true →
        x.badRows tile x.rowp = false →
        (mcRows mc ≤ (if x.chunkp = kc then x.rowp + 8 else x.rowp) → isHandle a = false ∧ isHandle b = false) →
        s.mmaStepData m (unitMtx i) ty kc mc x.rowp x.chunkp a b st e = .ok (ra, rb, sa, sb) →
        ∃ s', exec (.mtxTileStep p) s = .next s' ∧ s'.mem = s.mem ∧
          (∀ j n, j < 8 → n < 128 → (((s'.pair p).ctx i).row tile (x.rowp + j)).getD n 0 =
            (promote ((x.row tile (x.rowp + j)).getD n 0) (countedPairs (ra.getD j ⟨[], []⟩) (rb.getD n ⟨[], []⟩)) (sa.getD j oneVal) sb).acc) ∧
          (if x.chunkp = kc then ((s'.pair p).ctx i).rowp = x.rowp + 8 ∧ ((s'.pair p).ctx i).chunkp = 0
           else ((s'.pair p).ctx i).rowp = x.rowp ∧ ((s'.pair p).ctx i).chunkp = x.chunkp + 1))) ∧
  (∀ (s : State) (c slot : Nat) (b : BankOp) (v : Nat) (ov : Bool) (pa leaf pb z : Nat), (s.core c).eng.bank? slot = some b → b.red = true →
    b.done = false → b.fault = none → b.pageWait = none → bkRows b.recd = 1 → b.row = 0 → s.modeAt (clusterOf c) = .run → s.ttCore c = false →
    b.due ≤ s.cyc.toNat → s.redElem c b.info.asid b.recd 0 = .ok (v, ov) → s.clusterAcc c b.info.asid (bkYaddr b.recd) 4 .write = .ok pa leaf pb z →
    leafRemote leaf = false → leafIMM leaf = false →
    ∃ s' b', exec (.bankOperationComplete c slot) s = .next s' ∧ s'.mem = s.mem.writeNat pa 4 v ∧ (s'.core c).eng.bank? slot = some b' ∧
      b'.done = true ∧ b'.row = 1 ∧ ∀ o ∈ (s'.core c).outst, o.id ≠ b.opId)

/-- Cards bind, units fire, sources send, sinks commit, phases replay, and jobs complete (15_fabric.md R394, R399, R410, R414, R418, R419,
R423). What COMMIT counts and how units take END are deduced (log 71). -/
def Obligations.FabricWorks : Prop :=
  (∀ (s : State) (cl n r c : Nat) (k : FCard) (rest : List FCard) (phys ws : List Nat), (s.fab cl).waiting = k :: rest → s.modeAt cl = .run →
    s.ttCore (8 * cl) = false → k.due ≤ s.cyc.toNat → (s.fab cl).grant k.card = some (n, phys, r, c) → s.readList k = .ok ws →
    listOk ws (ws.length + 1) 0 0 false = true →
    ∃ s', exec (.fabCardBind cl) s = .next s' ∧ (s'.fab cl).card? k.slot = some { k with stage := .running, ctx := n } ∧
      (s'.fab cl).ctx? n = some (FCtx.fresh k.slot r c (fcFh k.card) (fcFw k.card) phys ws) ∧ s'.mem = s.mem) ∧
  (∀ (s : State) (cl ctx : Nat) (k : FCard) (x : FCtx), s.fabJobAt cl ctx = some (k, x) → s.modeAt cl = .run →
    (∀ (i : Nat) (u : FUnit), x.units[i]? = some u → u.ended = false → u.streamPorts ≠ [] →
      (∀ p ∈ u.streamPorts, ∃ t, (u.ports.getD p []).head? = some t ∧ t.kind = .data) →
      let st := u.take ((List.range 3).map (fun p => if u.streamPorts.contains p then (u.ports.getD p []).head? else none))
      let v := { st.unit with ports := st.unit.ports.mapIdx (fun p q => if u.streamPorts.contains p then q.drop 1 else q) }
      let y : FCtx := { x with units := changeAt x.units i (fun _ => v), nan := x.nan || st.nan, inf := x.inf || st.inf }
      (st.out = none → exec (.fabUnitFire cl ctx i) s = .next (s.setFCtx cl ctx y)) ∧
      ∀ t, st.out = some t → x.busRoom (fuSends u.entry) t.kind = true →
        exec (.fabUnitFire cl ctx i) s = .next (s.setFCtx cl ctx (y.send (fuSends u.entry) t))) ∧
    (∀ (e : Nat) (g : FEng), NMap.get? x.engs e = some g →
      (fdKind g.desc = 1 → g.running = true →
        (∀ bs : Nat → List Byte, 16 * g.pos + 16 ≤ g.count → x.dataRoom [fdLabelOf g.desc g.pos] = true →
          (∀ i, i < 16 → s.fabRead cl k x ((fbBase (k.bufs.getD (fdBuf g.desc) 0) : Int) + g.addr + patDisp g.pats (16 * g.pos + i)).toNat 4 =
            .ok (bs i)) →
          exec (.fabSourceToken cl ctx e) s = .next (s.setFCtx cl ctx ((x.setEng e { g with pos := g.pos + 1 }).send [fdLabelOf g.desc g.pos]
            (mkTok ((List.range 16).map (fun i => ofLE (bs i) % 2 ^ 32)) 0xFFFF (16 * g.pos))))) ∧
        (g.count ≤ 16 * g.pos → x.busRoom (dedup (fdSends g.desc)) .fin = true →
          exec (.fabSourceToken cl ctx e) s =
            .next (s.setFCtx cl ctx ((x.setEng e { g with running := false }).send (dedup (fdSends g.desc)) (finTok g.count))))) ∧
      (∀ (t : FTok) (rest : List FTok) (pa leaf b z : Nat), fdKind g.desc = 2 → g.queue = t :: rest → t.kind = .data → t.valid = 1 →
        g.commit ≤ 16 * g.pos → 16 * g.pos + 16 ≤ g.count →
        s.clusterAcc k.info.core k.info.asid ((fbBase (k.bufs.getD (fdBuf g.desc) 0) : Int) + g.addr + patDisp g.pats (16 * g.pos)).toNat 4 .write =
          .ok pa leaf b z → leafRemote leaf = false → leafIMM leaf = false → s.memOk →
        ∃ s' y, exec (.fabSinkCommit cl ctx e) s = .next s' ∧ (s'.fab cl).ctx? ctx = some y ∧
          NMap.get? y.engs e = some { g with queue := rest, pos := g.pos + 1, commit := 16 * g.pos + 16 } ∧
          s'.mem.readNat pa 4 = t.data.getD 0 0 % 2 ^ 32 ∧ ∀ a, a < pa ∨ pa + 4 ≤ a → s'.mem.get a = s.mem.get a)) ∧
    (∀ ck : FCheck, x.check = some ck → x.engs.any (fun e => ck.engs.contains e.1 && e.2.running) = true →
      x.engs.any (fun e => ck.engs.contains e.1 && fdKind e.2.desc == 7) = false →
      ∃ s' y, exec (.fabReplay cl ctx) s = .next s' ∧ (s'.fab cl).ctx? ctx = some y ∧ y.iter = ck.iter ∧ s'.mem = s.mem ∧
        y.units = ck.units.map (fun u => { u with ports := [[], [], []] }) ∧
        ∀ e g, NMap.get? x.engs e = some g → ∃ g', NMap.get? y.engs e = some g' ∧ g'.commit = g.commit ∧
          (ck.engs.contains e = true → g'.pos = 0 ∧ g'.queue = []) ∧ (ck.engs.contains e = false → g' = g))) ∧
  (∀ (s : State) (cl slot : Nat) (k : FCard), (s.fab cl).card? slot = some k → k.stage = .ended → k.copy = none → s.modeAt cl = .run →
    fcRingv k.card = false → fcTokv k.card = false → k.cancelOps = [] →
    let home := spCore k.info.core (fcBar k.card)
    ∃ s', exec (.fabJobComplete cl slot) s = .next s' ∧ (s'.fab cl).card? slot = some { k with stage := .done } ∧ s'.mem = s.mem ∧
      (∀ o ∈ (s'.core k.info.core).outst, o.id ≠ k.opId) ∧
      (s'.core home).eng.barq = (s.core home).eng.barq ++
        (if fcArrive k.card then [⟨k.info.launch, spOffset (fcBar k.card), .arrive, k.info.core, 0, k.slot⟩] else []))

/-- Queue entries, replies, sidings, frames, credits, peers’ requests and flits move as their rules say (16_network.md R428, R433, R436,
R437, R441 to R445, R447, R448, R451). How a grant names a peer's context (log 22) and codes in responses (log 78) are deduced. -/
def Obligations.LinksCarry : Prop :=
  (∀ (s : State) (c : Nat), s.ttCore c = false →
    (∀ (f : QFlight) (q : Queue), (s.core c).qin = [f] → f.due ≤ s.cyc.toNat → (s.core c).current f.handle = some q →
      q.open' ≠ 0 ∨ f.entry.sasid = q.oasid → q.scount = 0 → q.buffer = [] → q.resident.length < q.cap → s.swappedCore c = false →
      f.entry.dev = s.link.device →
      ∃ s' r, exec (.queueEntryArrival c []) s = .next s' ∧ (s'.core c).qin = [] ∧ s'.mem = s.mem ∧
        (s'.core c).queue (qhNum f.handle) = { q with
          qseq := (q.qseq + 1) % 65536, resident := q.resident ++ [{ f.entry with qseq := q.qseq }], held := false } ∧
        (s'.core f.entry.core).qback = (s.core f.entry.core).qback ++ [r] ∧ r.ser = f.entry.ser ∧ r.code = 0) ∧
    (∀ (ser code : Nat) (r : QReply) (q : QSent), (s.core c).qback = [r] → r.ser = ser → r.code = code → r.due ≤ s.cyc.toNat →
      (s.core c).qsent = [q] → q.ser = ser →
      (code = 0 → ∃ s', exec (.queueAck c ser) s = .next s' ∧ (s'.core c).qsent = [] ∧ (s'.core c).qback = [] ∧ s'.mem = s.mem ∧
        ∀ o ∈ (s'.core c).outst, o.id ≠ q.opId) ∧
      (∀ k s2, code ≠ 0 → q.ring = some k → q.page = none → q.pageFail = false →
        (s.updCore c (fun m => { m with qback := [] })).ringWrite q.info.launch k (q.ringRecord code) [] = .ok s2 →
        ∃ s', exec (.queueRefusal c ser code) s = .next s' ∧ (s'.core c).qsent = [] ∧ (s'.core c).qback = [] ∧ s'.mem = s2.mem ∧
          ∀ o ∈ (s'.core c).outst, o.id ≠ q.opId)) ∧
    (∀ (x : FrFlight) (p : TilePart) (i : Nat) (rest : List Nat) (u : Tile), (s.core c).frin = [x] → x.due ≤ s.cyc.toNat → x.ctx = none →
      let f := x.frame
      let h := f.head
      let fr := s.frame c (tagFrame (rfTag h))
      fr.alloc = true → tagAsid (rfTag h) = fr.asid → s.swappedCore c = false → s.frameSided fr.launch (dieOf c) = false → s.inTT fr.launch = false →
      poolFind (s.core c).eng.pool fr.launch (rfPart h) = some p → p.tsize = rfTsize h → p.which (fun t => t.state == .free) = i :: rest →
      p.tiles[i]? = some u → f.dev = s.link.device →
      ∃ s', exec (.rowFrameArrival c 0 0 0 []) s = .next s' ∧ (s'.core c).frin = [] ∧ s'.mem = s.mem ∧
        ((s'.core f.core).builder f.builder).flying = false ∧
        s'.tile? c ⟨fr.launch, rfPart h, i⟩ = some { u with
          gen := (u.gen + 1) % 65536, state := .sealed, run := false, hkind := false, count := rfReads h, hframe := 0, hindex := 0,
          dropping := false, mem := u.mem.write 0 f.bytes } ∧
        s'.onItsWay c ⟨rfTag h, rfSrc h, rfDest h, rfScope h, 2, mkHandle ((u.gen + 1) % 65536) c (rfPart h) i 0,
          BitVec.ofNat 64 (rfRows h + rfSeq h * 2 ^ 32), 0, false, f.sender⟩ c 0)) ∧
  (∀ (s : State) (c n : Nat) (e : QEntry), let q := (s.core c).queue n
    q.live = true → q.spillFail = true → q.pageWait = none → q.retryAt ≤ s.cyc.toNat → q.buffer = [e] → q.scount = 0 →
    q.resident.length < q.cap → s.swappedCore c = false → s.inTT q.launch = false → e.dev = s.link.device →
    ∃ s', exec (.queueSidingRetry c n) s = .next s' ∧ s'.mem = s.mem ∧
      (s'.core c).queue n = { q with resident := q.resident ++ [e], buffer := [], held := false }) ∧
  (∀ s : State, s.link.scanAt ≤ s.cyc.toNat → s.link.onCycle = [] →
    ∃ s', exec .queueCycleScan s = .next s' ∧ s'.link.scanAt = s.link.scanAt + 1050000 ∧ s'.cores = s.cores ∧ s'.mem = s.mem ∧
      s'.link.onCycle = graphCycles (s.waitEdges ++ s.link.edges.flatMap (·.2)) ∧
      ∀ d ∈ s.link.members, d ≠ s.link.device → ∃ p ∈ s'.link.out ++ s'.link.wait, p.pkt = .edges d s.edgesOut) ∧
  (∀ (s : State) (dev : Nat) (held : List Nat) (es : List (Nat × Nat)), s.isPeer dev = true →
    exec (.waitGraphEdgeExchange ((dev, held.length) :: held.map (fun q => (q, 0)) ++ es)) s = .next { s with link := { s.link with
      peerHeld := NMap.set s.link.peerHeld dev held, edges := NMap.set s.link.edges dev es } }) ∧
  (∀ (s : State) (c b : Nat), let x := (s.core c).builder b
    (∀ n, s.runCore c = true → timerCycles (rfTimer x.desc) = some n → x.filling = true → x.closed = none →
      x.firstAt + n ≤ s.clock c (s.inTT x.launch) →
      ∃ s', exec (.frameFillTimer c b) s = .next s' ∧ s'.mem = s.mem ∧
        (s'.core c).builder b = { x with
          filling := false, rows := [], seq := (x.seq + 1) % 2 ^ 32,
          closed := some { bytes := x.bytes, sender := x.launch, core := c, builder := b, dev := s.link.device, sided := false } }) ∧
    (∀ f, s.modeAt (clusterOf c) = .run → x.closed = some f → x.flying = false → x.ops = [] →
      let tag := rfTag f.head
      let sent : Builder := { x with closed := none, flying := true, ops := [] }
      (tagDevice tag ≠ s.link.device → s.routed (tagDevice tag) = true → s.link.wait = [] → (s.peerCtx tag).isSome = true →
        f.entries ≤ s.peerCredit c tag → let op := (s.core c).ops + 1
        ∃ s', exec (.frameSend c b) s = .next s' ∧ s'.link.out = s.link.out ++ [(OutPkt.frame (tagDevice tag) c op f).packet] ∧ s'.mem = s.mem ∧
          s'.peerCredit c tag = s.peerCredit c tag - f.entries ∧ (s'.core c).builder b = { sent with flyOp := op }) ∧
      (∀ s1 ch, tagDevice tag = s.link.device → s.inTT x.launch = false → (s.frame (tagCore tag) (tagFrame tag)).alloc = true →
        (s.setBuilder c b sent).takeCredit (s.frame (tagCore tag) (tagFrame tag)).launch (dieOf (tagCore tag)) f.entries = some (s1, ch) →
        ∃ s' due, exec (.frameSend c b) s = .next s' ∧ s.cyc.toNat < due ∧ (s'.core (tagCore tag)).frin = (s1.core (tagCore tag)).frin ++
          [⟨due, tagCore tag, f, if ch then some (s.frame (tagCore tag) (tagFrame tag)).launch else none⟩]))) ∧
  (∀ (s : State) (c dev n : Nat) (tag : Word), s.isPeer dev = true → 0 < n → (s.core c).held = [] → tagDevice tag = dev →
    tagCore tag = natBits n 54 44 → tagFrame tag = natBits n 66 55 → let r : LaunchRef := ⟨natBits n 43 40, natBits n 39 24⟩
    ∃ s', exec (.creditGrant c dev n) s = .next s' ∧ s'.mem = s.mem ∧ s'.link.out = s.link.out ∧ s'.peerCtx tag = some r ∧
      s'.peerCredit c tag = NMap.getD s.link.credits (creditKey c dev r) 0 + natBits n 23 0) ∧
  (∀ (s : State) (dev id pa : Nat), s.isPeer dev = true →
    (∀ k, physOk pa k = true → granuleBad s.bad pa k = false →
      exec (.remoteMemoryRequest dev id pa (.read k)) s = .next (s.emit (.response dev id 0 (s.mem.read pa k)))) ∧
    (∀ bs, physOk pa bs.length = true →
      exec (.remoteMemoryRequest dev id pa (.write bs false)) s = .next ((s.pathWrite pa bs).emit (.response dev id 0 []))) ∧
    ∀ flit, 1 ≤ flit % 2 ^ 8 → flit % 2 ^ 8 ≤ 8 → flit.testBit 8 = false →
      exec (.flitForward dev flit) s = .next (s.emit (.forward dev (flit + 2 ^ 8)))) ∧
  (∀ (s : State) (q : RemoteReq) (sgn : Bool) (data : List Byte), s.link.reqs = [q] → q.kind = .read sgn → s.unsent q = false →
    ∃ s', exec (.remoteMemoryResponse q.id 0 data) s = .next s' ∧ s'.link.reqs = [] ∧ s'.mem = s.mem ∧
      (s'.core q.core).late = (s.core q.core).late ++
        [⟨s.cyc.toNat, q.train, q.seat, q.handle, rspVals q.targets (q.value data), q.regs, BitVec.ofNat 64 (q.value data), 0, q.opId, .far⟩]) ∧
  (∀ (s : State) (port : Nat), exec (.flitRetransmit port) s = .next s)

/-- The host’s windows, the controller’s commands, attestation, power and errors act as their rules say (16_network.md R428, 17_host.md
R459, R466, R471, R472, 17_host.md R467 to R469, R473 to R478, 10_control.md R269, R273). The words of configuration space and the forms of
replies are presumed (log 51, 52), one release ends every throttle step (log 81), and what start-up leaves is deduced (log 79). -/
def Obligations.HostAndControllerAct : Prop :=
  (∀ (s : State) (sel : Word), s.window1Up = true → selClean sel = true →
    let s1 := s.updHost (fun h => { h with msel := mselFields sel })
    (∀ off len data, selKind sel = 0 → apertureOk off len = true → let pa := bits sel 51 16 * 65536 + off
      physOk pa len = true →
      exec (.mgmtPhysicalAccess sel false off len data) s = .next (s1.setReply (padTo len (s.mem.read pa len))) ∧
      exec (.mgmtPhysicalAccess sel true off len data) s = .next ((s1.pathWrite pa (padTo len data)).setReply (zeros len))) ∧
    (∀ w, w.fits = false → ∀ k, exec (.mgmtRegisterAccess sel k w) s = .next (s1.setReply (zeros w.size))) ∧
    (∀ w, selKind sel = 1 → bits sel 59 56 = 0 → bits sel 51 32 = 0 → isSreg (bits sel 31 16) = true →
      let p := bits sel 55 52
      (coreReg (bits sel 31 16) = true → (s.part p).cores ≠ []) →
      let c := ((s.part p).cores.head?).getD 0
      exec (.mgmtRegisterAccess sel false ⟨8, 0, w⟩) s = .next (s1.setReply (leBytes 8 (s.sregValue p c (bits sel 31 16)).toNat)) ∧
      exec (.mgmtRegisterAccess sel true ⟨8, 0, w⟩) s = .next ((s1.hostReg p c (bits sel 31 16) w).setReply (zeros 8))) ∧
    (∀ off len data p bytes, selKind sel = 2 → apertureOk off len = true → s1.object (bits sel 59 52) (bits sel 51 36) (bits sel 35 16) = .found p bytes →
      exec (.mgmtObjectAccess sel false off len data) s = .next (s1.setReply (padTo len ((bytes.drop off).take len)))) ∧
    (∀ i data, selKind sel = 3 → i < 4096 → let base := bits sel 51 16 * 65536 + 32768 * b2n (bit sel 15)
      physOk base 32768 = true →
      exec (.mgmtFutViewAccess sel false (16 * i) 16 data) s =
        .next (s1.setReply (s.mem.read (base + 8 * i) 8 ++ leBytes 8 (b2n (s.futFull (base + 8 * i)))))) ∧
    (∀ data, selKind sel = 4 → bits sel 51 25 = 0 → data.length = 16 → asidValid (s.asidEntry (bits sel 24 16)) = false →
      ∃ s', exec (.mgmtAsidEntryAccess sel true 0 16 data) s = .next s' ∧ s'.asidEntry (bits sel 24 16) = asidFields (ofLE data) ∧
        ∀ a, a ≠ bits sel 24 16 → s'.asidEntry a = s.asidEntry a)) ∧
  (∀ (s : State) (v : Nat), let x := NMap.getD s.host.vecs v Vec.reset
    (∀ t, x.busyTo = some t → t ≤ s.cyc.toNat →
      ∃ s', exec (.msixIntervalExpiry v) s = .next s' ∧ s'.mem = s.mem ∧ NMap.getD s'.host.vecs v Vec.reset =
        if x.pending && s.host.msix && x.enabled then { x with pending := false, sent := x.sent + 1, busyTo := some (s.cyc.toNat + msixGap) }
        else { x with busyTo := none }) ∧
    ∃ s', exec .endpointReset s = .next s' ∧ s'.host.bars = false ∧ s'.host.msix = false ∧ s'.mem = s.mem ∧ s'.parts = s.parts ∧
      (NMap.getD s'.host.vecs v Vec.reset).enabled = false ∧ (NMap.getD s'.host.vecs v Vec.reset).pending = x.pending ∧ (NMap.getD s'.host.vecs v Vec.reset).busyTo = x.busyTo) ∧
  (∀ s : State, let up := Config.sm3 Config.romLoader == Config.loaderDigest && fwAccepted s.ramvan.image s.ramvan.minSec
    let fresh := fun (s' : State) => s'.mem = State.reset.mem ∧ s'.parts = State.reset.parts ∧ s'.cores = State.reset.cores ∧
      s'.ramvan.powerGood = true ∧ s'.ramvan.minSec = s.ramvan.minSec ∧ s'.ramvan.flash = s.ramvan.flash ∧ s'.host.ready = up
    (s.ramvan.powerGood = false → ∃ s', exec .powerUp s = .next s' ∧ fresh s') ∧
    (s.ramvan.powerGood = true → s.ramvan.halted = false →
      (∃ s', exec .moduleReset s = .next s' ∧ fresh s' ∧ s'.host.reply = leBytes 1 0) ∧
      (∀ img, let ok := fwAccepted img s.ramvan.minSec
        ∃ s', exec (.firmwareUpdate img) s = .next s' ∧ s'.host.reply = leBytes 1 (b2n (!ok)) ∧ s'.ramvan.minSec = s.ramvan.minSec ∧
          s'.ramvan.flash = (if ok then Memory.write [] 0 img else s.ramvan.flash) ∧
          (if ok then s'.mem = State.reset.mem ∧ s'.parts = State.reset.parts ∧ s'.cores = State.reset.cores ∧ s'.host.ready =
              (Config.sm3 Config.romLoader == Config.loaderDigest && fwAccepted s'.ramvan.image s.ramvan.minSec)
           else s' = s.setReply (leBytes 1 1))) ∧
      let tells := fun (i : Instr) (data : List Byte) => exec i s = .next (s.setReply (leBytes 1 0 ++ data))
      tells .getErrorLog s.errorLog ∧ tells .getRouteTable s.routeTable ∧ (∀ cmd, tells (.pldmBaseDiscovery cmd) (Config.pldmBase cmd)) ∧
      tells .getVersion (leBytes 1 0x12) ∧ tells .getCapabilities (leBytes 1 7) ∧ (∀ a, tells (.negotiateAlgorithms a) (leBytes 1 (a % 4))) ∧
      tells .getDigests (leBytes 32 (Config.sm3 Config.certChain)) ∧
      (∀ off len, tells (.getCertificate off len) ((Config.certChain.drop off).take len)) ∧
      (∀ nonce, tells (.challenge nonce) (s.challengeReply nonce)) ∧ (∀ i, tells (.getMeasurements i) (s.measurementReply i)) ∧
      ∀ n, ∃ s' v, exec (.pldmSensorRead n) s = .next s' ∧ s'.host.reply = leBytes 1 0 ++ leBytes 8 v ∧ s'.mem = s.mem) ∧
    ∀ w, s.ramvan.powerGood = true → ∃ s', exec (.configurationRequest true 0 w) s = .next s' ∧ s'.host.bars = bit w 0 ∧ s'.mem = s.mem) ∧
  (∀ s : State, s.firmwareUp = true →
    (∀ dev ms rs, s.anyBusy = false → dev < 256 → (∀ d ∈ ms, d < 256) →
      ∃ s', exec (.setDomain dev ms rs) s = .next s' ∧ s'.link.device = dev ∧ (∀ d, d ∈ s'.link.members ↔ d = dev ∨ d ∈ ms) ∧
        s'.host.reply = leBytes 1 0 ∧ s'.mem = s.mem) ∧
    (∀ p cls, p < 16 → cls ≠ [] → (∀ c ∈ cls, c < 160) → (s.part p).state = .off → (s.part p).busy = false →
      (∀ e ∈ s.parts, e.1 ≠ p → e.2.state = .off ∨ ∀ c ∈ e.2.clusters, c ∉ cls) →
      ∃ s', exec (.setPartition p cls) s = .next s' ∧ (s'.part p).state = .run ∧ (∀ c, c ∈ (s'.part p).clusters ↔ c ∈ cls) ∧
        s'.host.reply = leBytes 1 0 ∧ s'.mem = s.mem) ∧
    (∀ p v, p < 16 → (s.part p).state ≠ .off → (s.part p).busy = false →
      ∃ s', exec (.setPriv p v) s = .next s' ∧ (s'.part p).priv = v ∧ s'.host.reply = leBytes 1 0 ∧ s'.mem = s.mem) ∧
    (∀ w, ∃ s', exec (.setPowerCap w) s = .next s' ∧ s'.mem = s.mem ∧
      (1200 ≤ w ∧ w ≤ 2800 → s'.ramvan.cap = w ∧ s'.host.reply = leBytes 1 0) ∧
      (¬(1200 ≤ w ∧ w ≤ 2800) → s'.ramvan.cap = s.ramvan.cap ∧ s'.host.reply = leBytes 1 1)) ∧
    (∃ s', exec .activateVersion s = .next s' ∧ s'.ramvan.minSec = Nat.max s.ramvan.minSec s.ramvan.runSec ∧ s'.mem = s.mem) ∧
    (∃ s', exec .powerCapThrottle s = .next s' ∧ s'.ramvan.steps = s.ramvan.steps + 1 ∧ s'.host.throttle = true ∧ s'.mem = s.mem) ∧
    (∀ d, ∃ s', exec (.thermalThrottle d) s = .next s' ∧ s'.ramvan.steps = s.ramvan.steps + 1 ∧ s'.host.throttle = true ∧ s'.mem = s.mem) ∧
    (∀ d p k, s.parts = [(p, k)] → k.state = .run → k.ttPend = 0 → k.tt = none →
      ∃ s', exec (.thermalHalt d) s = .next s' ∧ (s'.part p).state = .halting ∧ s'.mem = s.mem) ∧
    (∀ c n r l, 1 ≤ n → n ≤ 6 → s.structOwners c n = [r] → s.launch? r = some l → l.id = r.id → l.state.live = true →
      ∃ s' l', exec (.controlStateError c n true) s = .next s' ∧ s'.launch? r = some l' ∧ l'.state = .faulted)) ∧
  (∀ s : State,
    (∀ dev up ports hops, s.isPeer dev = true → 1 ≤ hops → hops ≤ 2 →
      let v64 := fun (st : State) => NMap.getD st.host.vecs 64 Vec.reset
      ∃ s', exec (.routeChange dev up ports hops) s = .next s' ∧ NMap.get? s'.link.routes dev = some ⟨portMask ports, hops, up⟩ ∧ s'.mem = s.mem ∧
        (s.routed dev = up → s'.ramvan.log = s.ramvan.log ∧ s'.host = s.host) ∧
        (s.routed dev ≠ up → (let l := s.ramvan.log ++ [(evtRoute, dev)]; s'.ramvan.log = l.drop (l.length - 1024)) ∧
          ((v64 s').pending = true ∨ (v64 s').sent = (v64 s).sent + 1))) ∧
    (s.host.throttle = true → ∃ s', exec .throttleRelease s = .next s' ∧ s'.ramvan.steps = 0 ∧ s'.host.throttle = false ∧ s'.mem = s.mem) ∧
    ∀ ps, ∃ s', exec (.patrolScrub ps) s = .next s' ∧ s'.mem = s.mem ∧
      (∀ g, g ∈ s'.bad ↔ g ∈ s.bad ∨ ∃ x ∈ ps, g = x - x % 32 ∧ physOk g 32 = true) ∧
      ∀ c, c < 1280 →
        (∀ g, g ∈ (s'.core c).sramBad ↔ g ∈ (s.core c).sramBad ∨ (2 ^ 60 + c * 2 ^ 32 + g ∈ ps ∧ g < 12288)) ∧
        ∀ u q, (u, q) ∈ (s'.core c).ramBad ↔ (u, q) ∈ (s.core c).ramBad ∨
          (2 ^ 61 + (u * 2 ^ 20 + q) * 2 ^ 11 + c ∈ ps ∧ q < 2 ^ 20 ∧ 2 ^ 61 + (u * 2 ^ 20 + q) * 2 ^ 11 + c < 2 ^ 62 ∧
          ∃ t ∈ (s.core c).trains, t.uid = u))
end

