-- ==== Sys2Proof/Laws/Memory.lean ====
section
/-!
SUPPORT. Laws of byte memory: read after write, lengths, little-endian numbers, and the canonical form that every operation keeps.
-/
namespace Sys2Proof.Machine

/-! ## One byte -/

theorem Memory.get_cons (k : Nat) (v : Byte) (m : Memory) (a : Nat) :
    Memory.get ((k, v) :: m) a = if a = k then v else Memory.get m a := rfl

/-- In a list whose addresses all exceed a, a is not listed. -/
theorem Memory.get_above (m : Memory) (lo a : Nat) (h : Memory.wfFrom (some lo) m = true) (ha : a ≤ lo) :
    m.get a = Memory.blank := by
  induction m generalizing lo with
  | nil => rfl
  | cons e m ih =>
    obtain ⟨k, v⟩ := e
    simp only [Memory.wfFrom, Bool.and_eq_true, decide_eq_true_eq] at h
    have hk : a ≠ k := by omega
    rw [Memory.get_cons, if_neg hk]
    exact ih k h.2 (by omega)

theorem Memory.wfFrom_none (m : Memory) (lo : Option Nat) (h : Memory.wfFrom lo m = true) : Memory.wfFrom none m = true := by
  cases m with
  | nil => rfl
  | cons e m =>
    obtain ⟨k, v⟩ := e
    cases lo with
    | none => exact h
    | some b =>
      simp only [Memory.wfFrom, Bool.and_eq_true, decide_eq_true_eq, Bool.true_and] at h ⊢
      exact ⟨h.1.2, h.2⟩

theorem Memory.wfFrom_mono (m : Memory) (lo b : Nat) (h : Memory.wfFrom (some lo) m = true) (hb : b ≤ lo) :
    Memory.wfFrom (some b) m = true := by
  cases m with
  | nil => rfl
  | cons e m =>
    obtain ⟨k, v⟩ := e
    simp only [Memory.wfFrom, Bool.and_eq_true, decide_eq_true_eq] at h ⊢
    exact ⟨⟨by omega, h.1.2⟩, h.2⟩

/-- A byte that a write reaches. -/
theorem Memory.get_put_same (m : Memory) (a : Nat) (b : Byte) (h : m.wf = true) : (m.put a b).get a = b := by
  have key : ∀ (m : Memory) (lo : Option Nat), Memory.wfFrom lo m = true → (m.put a b).get a = b := by
    intro m
    induction m with
    | nil =>
      intro lo _
      simp only [Memory.put]
      split
      · rename_i hb; simp [Memory.get, hb]
      · simp [Memory.get]
    | cons e m ih =>
      obtain ⟨k, v⟩ := e
      intro lo h
      have ht : Memory.wfFrom (some k) m = true := by
        simp only [Memory.wfFrom, Bool.and_eq_true] at h
        exact h.2
      simp only [Memory.put]
      split
      · rename_i hk
        split
        · rename_i hb
          rw [Memory.get_cons, if_neg (by omega), Memory.get_above m k a ht (by omega), hb]
        · simp [Memory.get]
      · split
        · rename_i hk
          split
          · rename_i hb; rw [Memory.get_above m k a ht (by omega), hb]
          · simp [Memory.get]
        · rename_i h1 h2
          rw [Memory.get_cons, if_neg h2]
          exact ih (some k) ht
  exact key m none h

/-- A byte that a write does not reach. -/
theorem Memory.get_put_ne (m : Memory) (a i : Nat) (b : Byte) (h : i ≠ a) : (m.put a b).get i = m.get i := by
  induction m with
  | nil =>
    simp only [Memory.put]
    split
    · rfl
    · simp [Memory.get, h]
  | cons e m ih =>
    obtain ⟨k, v⟩ := e
    simp only [Memory.put]
    split
    · split
      · rfl
      · rw [Memory.get_cons, if_neg h]
    · split
      · rename_i hk
        subst hk
        split
        · rw [Memory.get_cons, if_neg h]
        · rw [Memory.get_cons, Memory.get_cons, if_neg h, if_neg h]
      · rw [Memory.get_cons, Memory.get_cons, ih]

/-! ## The canonical form -/

theorem Memory.wfFrom_put (m : Memory) (lo : Option Nat) (a : Nat) (b : Byte) (h : Memory.wfFrom lo m = true)
    (ha : ∀ l, lo = some l → l < a) : Memory.wfFrom lo (m.put a b) = true := by
  induction m generalizing lo with
  | nil =>
    simp only [Memory.put]
    split
    · rfl
    · rename_i hb
      cases lo with
      | none => simp [Memory.wfFrom, hb]
      | some l => simp [Memory.wfFrom, hb, ha l rfl]
  | cons e m ih =>
    obtain ⟨k, v⟩ := e
    have ht : Memory.wfFrom (some k) m = true := by
      simp only [Memory.wfFrom, Bool.and_eq_true] at h
      exact h.2
    have hv : (v != Memory.blank) = true := by
      simp only [Memory.wfFrom, Bool.and_eq_true] at h
      exact h.1.2
    simp only [Memory.put]
    split
    · rename_i hk
      split
      · exact h
      · rename_i hb
        have h1 : Memory.wfFrom (some a) ((k, v) :: m) = true := by
          simp only [Memory.wfFrom, Bool.and_eq_true, decide_eq_true_eq]
          exact ⟨⟨hk, hv⟩, ht⟩
        cases lo with
        | none =>
          rw [Memory.wfFrom, h1]; simp [hb]
        | some l =>
          rw [Memory.wfFrom, h1]; simp [hb, ha l rfl]
    · split
      · rename_i hk
        subst hk
        split
        · cases lo with
          | none => exact Memory.wfFrom_none m _ ht
          | some l =>
            simp only [Memory.wfFrom, Bool.and_eq_true, decide_eq_true_eq] at h
            exact Memory.wfFrom_mono m a l ht (by omega)
        · rename_i hb
          cases lo with
          | none => rw [Memory.wfFrom, ht]; simp [hb]
          | some l => rw [Memory.wfFrom, ht]; simp [hb, ha l rfl]
      · rename_i h1 h2
        have ih' := ih (some k) ht (by intro l hl; cases hl; omega)
        cases lo with
        | none => rw [Memory.wfFrom, ih', hv]; rfl
        | some l =>
          simp only [Memory.wfFrom, Bool.and_eq_true, decide_eq_true_eq] at h
          rw [Memory.wfFrom, ih', hv]; simp [h.1.1]

/-- One byte written keeps the canonical form. -/
theorem Memory.wf_put (m : Memory) (a : Nat) (b : Byte) (h : m.wf = true) : (m.put a b).wf = true :=
  Memory.wfFrom_put m none a b h (by intro l hl; cases hl)

/-- Bytes written keep the canonical form. -/
theorem Memory.wf_write (m : Memory) (a : Nat) (bs : List Byte) (h : m.wf = true) : (m.write a bs).wf = true := by
  induction bs generalizing m a with
  | nil => exact h
  | cons b bs ih => exact ih (m.put a b) (a + 1) (m.wf_put a b h)

theorem Memory.wf_writeNat (m : Memory) (a n v : Nat) (h : m.wf = true) : (m.writeNat a n v).wf = true := m.wf_write a _ h

theorem Memory.wfFrom_filter (m : Memory) (lo : Option Nat) (f : Host.Cell → Bool) (h : Memory.wfFrom lo m = true) :
    Memory.wfFrom lo (m.filter f) = true := by
  induction m generalizing lo with
  | nil => rfl
  | cons e m ih =>
    obtain ⟨k, v⟩ := e
    have ht : Memory.wfFrom (some k) m = true := by
      simp only [Memory.wfFrom, Bool.and_eq_true] at h
      exact h.2
    rw [List.filter_cons]
    split
    · have ih' := ih (some k) ht
      cases lo with
      | none =>
        simp only [Memory.wfFrom, Bool.and_eq_true] at h
        rw [Memory.wfFrom, ih', h.1.2]; rfl
      | some l =>
        simp only [Memory.wfFrom, Bool.and_eq_true, decide_eq_true_eq] at h
        rw [Memory.wfFrom, ih', h.1.2]; simp [h.1.1]
    · have ih' := ih (some k) ht
      cases lo with
      | none => exact Memory.wfFrom_none _ _ ih'
      | some l =>
        simp only [Memory.wfFrom, Bool.and_eq_true, decide_eq_true_eq] at h
        exact Memory.wfFrom_mono _ k l ih' (by omega)

/-- Bytes cleared keep the canonical form. -/
theorem Memory.wf_clear (m : Memory) (a n : Nat) (h : m.wf = true) : (m.clear a n).wf = true :=
  Memory.wfFrom_filter m none _ h

/-! ## Several bytes -/

@[simp] theorem Memory.length_read (m : Memory) (a n : Nat) : (m.read a n).length = n := by
  induction n generalizing a with
  | zero => rfl
  | succ n ih => simp [Memory.read, ih]

theorem Memory.getElem_read (m : Memory) (a n i : Nat) (h : i < (m.read a n).length) : (m.read a n)[i] = m.get (a + i) := by
  induction n generalizing a i with
  | zero => simp at h
  | succ n ih =>
    cases i with
    | zero => simp [Memory.read]
    | succ i =>
      simp only [Memory.read, List.getElem_cons_succ]
      rw [ih]
      congr 1
      omega

/-- A byte outside those written is as it was. -/
theorem Memory.get_write_out (m : Memory) (a i : Nat) (bs : List Byte) (h : i < a ∨ a + bs.length ≤ i) :
    (m.write a bs).get i = m.get i := by
  induction bs generalizing m a with
  | nil => rfl
  | cons b bs ih =>
    simp only [List.length_cons] at h
    rw [Memory.write, ih (m.put a b) (a + 1) (by omega), Memory.get_put_ne m a i b (by omega)]

/-- A byte written reads as what was written. -/
theorem Memory.get_write_in (m : Memory) (a i : Nat) (bs : List Byte) (hw : m.wf = true) (h : i < bs.length) :
    (m.write a bs).get (a + i) = bs[i] := by
  induction bs generalizing m a i with
  | nil => simp at h
  | cons b bs ih =>
    cases i with
    | zero =>
      show ((m.put a b).write (a + 1) bs).get a = b
      rw [Memory.get_write_out _ (a + 1) a bs (by omega), Memory.get_put_same m a b hw]
    | succ i =>
      have := ih (m.put a b) (a + 1) i (m.wf_put a b hw) (by simpa using h)
      rw [Memory.write, show a + (i + 1) = a + 1 + i by omega, this]
      simp

theorem Memory.read_write_same (m : Memory) (a : Nat) (bs : List Byte) (hw : m.wf = true) :
    (m.write a bs).read a bs.length = bs := by
  apply List.ext_getElem
  · simp
  · intro i h1 h2
    rw [Memory.getElem_read, Memory.get_write_in m a i bs hw h2]

theorem Memory.get_clear (m : Memory) (a n i : Nat) : (m.clear a n).get i = if a ≤ i ∧ i < a + n then Memory.blank else m.get i := by
  induction m with
  | nil => simp [Memory.clear, Memory.get]
  | cons e m ih =>
    obtain ⟨k, v⟩ := e
    simp only [Memory.clear, List.filter_cons] at ih ⊢
    by_cases hk : (decide (k < a) || decide (a + n ≤ k)) = true
    · rw [if_pos hk, Memory.get_cons, ih, Memory.get_cons]
      simp only [Bool.or_eq_true, decide_eq_true_eq] at hk
      by_cases hi : i = k
      · subst hi
        rw [if_pos rfl, if_neg (by omega), if_pos rfl]
      · rw [if_neg hi, if_neg hi]
    · rw [if_neg hk, ih, Memory.get_cons]
      simp only [Bool.or_eq_true, decide_eq_true_eq] at hk
      by_cases hi : i = k
      · subst hi
        rw [if_pos (by omega), if_pos (by omega)]
      · rw [if_neg hi]

/-! ## Little-endian numbers (R4) -/

@[simp] theorem length_leBytes (n v : Nat) : (leBytes n v).length = n := by
  induction n generalizing v with
  | zero => rfl
  | succ n ih => simp [leBytes, ih]

theorem ofLE_leBytes (n v : Nat) : ofLE (leBytes n v) = v % 256 ^ n := by
  induction n generalizing v with
  | zero => simp [leBytes, ofLE, Nat.mod_one]
  | succ n ih =>
    have h : v % 256 ^ (n + 1) = v % 256 + 256 * (v / 256 % 256 ^ n) := by
      rw [Nat.pow_succ, Nat.mul_comm (256 ^ n) 256, Nat.mod_mul]
    rw [leBytes, ofLE, ih, BitVec.toNat_ofNat, h]

/-- A number written reads as itself. -/
theorem Memory.readNat_writeNat (m : Memory) (a n v : Nat) (hw : m.wf = true) :
    (m.writeNat a n v).readNat a n = v % 256 ^ n := by
  have h := Memory.read_write_same m a (leBytes n v) hw
  rw [length_leBytes] at h
  rw [Memory.readNat, Memory.writeNat, h, ofLE_leBytes]

end Sys2Proof.Machine
end

