-- ==== Sys2Proof/Laws/NMap.lean ====
section
/-!
SUPPORT. Laws of sparse maps: a key read after a change of the same key or of another.
-/
namespace Sys2Proof.Machine

variable {α : Type}

@[simp] theorem NMap.get?_nil (i : Nat) : NMap.get? ([] : NMap α) i = none := rfl

theorem NMap.get?_cons (k : Nat) (v : α) (m : NMap α) (i : Nat) :
    NMap.get? ((k, v) :: m) i = if i = k then some v else NMap.get? m i := rfl

/-- The key that was set holds the value. -/
@[simp] theorem NMap.get?_set_same (m : NMap α) (i : Nat) (v : α) : NMap.get? (NMap.set m i v) i = some v := by
  induction m with
  | nil => simp [NMap.set, NMap.get?]
  | cons e m ih =>
    obtain ⟨k, w⟩ := e
    simp only [NMap.set]
    split
    · simp [NMap.get?]
    · split
      · simp [NMap.get?]
      · rename_i h; simp [NMap.get?, h, ih]

/-- Every other key holds what it held. -/
theorem NMap.get?_set_ne (m : NMap α) (i j : Nat) (v : α) (h : j ≠ i) : NMap.get? (NMap.set m i v) j = NMap.get? m j := by
  induction m with
  | nil => simp [NMap.set, NMap.get?, h]
  | cons e m ih =>
    obtain ⟨k, w⟩ := e
    simp only [NMap.set]
    split
    · simp [NMap.get?, h]
    · split
      · rename_i hk; subst hk; simp [NMap.get?, h]
      · simp [NMap.get?, ih]

@[simp] theorem NMap.getD_set_same (m : NMap α) (i : Nat) (v d : α) : NMap.getD (NMap.set m i v) i d = v := by
  simp [NMap.getD]

theorem NMap.getD_set_ne (m : NMap α) (i j : Nat) (v d : α) (h : j ≠ i) :
    NMap.getD (NMap.set m i v) j d = NMap.getD m j d := by
  simp [NMap.getD, NMap.get?_set_ne m i j v h]

/-- A key read after a change, whichever key was changed. -/
theorem NMap.getD_set (m : NMap α) (i j : Nat) (v d : α) :
    NMap.getD (NMap.set m i v) j d = if j = i then v else NMap.getD m j d := by
  split
  · rename_i h; subst h; simp
  · rename_i h; exact NMap.getD_set_ne m i j v d h

/-- A key set to the value it is set to again. -/
theorem NMap.set_set (m : NMap α) (i : Nat) (v w : α) : NMap.set (NMap.set m i v) i w = NMap.set m i w := by
  induction m with
  | nil => simp [NMap.set]
  | cons e m ih =>
    obtain ⟨k, u⟩ := e
    simp only [NMap.set]
    split
    · simp [NMap.set]
    · split
      · simp [NMap.set]
      · rename_i h1 h2; simp [NMap.set, h1, h2, ih]

theorem NMap.get?_erase (m : NMap α) (i j : Nat) : NMap.get? (NMap.erase m i) j = if j = i then none else NMap.get? m j := by
  induction m with
  | nil => simp [NMap.erase, NMap.get?]
  | cons e m ih =>
    obtain ⟨k, w⟩ := e
    simp only [NMap.erase, List.filter_cons] at ih ⊢
    by_cases hk : k = i
    · subst hk
      simp only [beq_self_eq_true, Bool.not_true, if_false, Bool.false_eq_true]
      rw [ih, NMap.get?_cons]
      split <;> simp_all
    · have hb : (k == i) = false := by simp [hk]
      simp only [hb, Bool.not_false, if_true]
      rw [NMap.get?_cons, NMap.get?_cons, ih]
      split
      · rename_i h; subst h; simp [hk]
      · rfl

/-- The key that was put reads v and every other key what it read. -/
theorem NMap.getD_put [DecidableEq α] (m : NMap α) (i j : Nat) (v d : α) :
    NMap.getD (NMap.put m i v d) j d = if j = i then v else NMap.getD m j d := by
  unfold NMap.put
  split
  · rename_i h
    simp only [NMap.getD, NMap.get?_erase]
    split
    · simp [h]
    · rfl
  · exact NMap.getD_set m i j v d

end Sys2Proof.Machine
end

