-- ==== Sys2Proof/Laws/State.lean ====
section
/-!
SUPPORT. What the updates of the state leave alone, one lemma per field per update, and the numbered parts read after a change.
-/
namespace Sys2Proof.Machine

/-! ### setCore -/
@[simp] theorem State.setCore_cyc (s : State) (c : Nat) (k : Core) : (s.setCore c k).cyc = s.cyc := rfl
@[simp] theorem State.setCore_cur (s : State) (c : Nat) (k : Core) : (s.setCore c k).cur = s.cur := rfl
@[simp] theorem State.setCore_freeCtr (s : State) (c : Nat) (k : Core) : (s.setCore c k).freeCtr = s.freeCtr := rfl
@[simp] theorem State.setCore_laned (s : State) (c : Nat) (k : Core) : (s.setCore c k).laned = s.laned := rfl
@[simp] theorem State.setCore_inbox (s : State) (c : Nat) (k : Core) : (s.setCore c k).inbox = s.inbox := rfl
@[simp] theorem State.setCore_mem (s : State) (c : Nat) (k : Core) : (s.setCore c k).mem = s.mem := rfl
@[simp] theorem State.setCore_fut (s : State) (c : Nat) (k : Core) : (s.setCore c k).fut = s.fut := rfl
@[simp] theorem State.setCore_bad (s : State) (c : Nat) (k : Core) : (s.setCore c k).bad = s.bad := rfl
@[simp] theorem State.setCore_clusters (s : State) (c : Nat) (k : Core) : (s.setCore c k).clusters = s.clusters := rfl
@[simp] theorem State.setCore_pairs (s : State) (c : Nat) (k : Core) : (s.setCore c k).pairs = s.pairs := rfl
@[simp] theorem State.setCore_dies (s : State) (c : Nat) (k : Core) : (s.setCore c k).dies = s.dies := rfl
@[simp] theorem State.setCore_parts (s : State) (c : Nat) (k : Core) : (s.setCore c k).parts = s.parts := rfl
@[simp] theorem State.setCore_asids (s : State) (c : Nat) (k : Core) : (s.setCore c k).asids = s.asids := rfl
@[simp] theorem State.setCore_images (s : State) (c : Nat) (k : Core) : (s.setCore c k).images = s.images := rfl
@[simp] theorem State.setCore_link (s : State) (c : Nat) (k : Core) : (s.setCore c k).link = s.link := rfl
@[simp] theorem State.setCore_host (s : State) (c : Nat) (k : Core) : (s.setCore c k).host = s.host := rfl
@[simp] theorem State.setCore_ramvan (s : State) (c : Nat) (k : Core) : (s.setCore c k).ramvan = s.ramvan := rfl

/-! ### updCore -/
@[simp] theorem State.updCore_cyc (s : State) (c : Nat) (f : Core → Core) : (s.updCore c f).cyc = s.cyc := rfl
@[simp] theorem State.updCore_cur (s : State) (c : Nat) (f : Core → Core) : (s.updCore c f).cur = s.cur := rfl
@[simp] theorem State.updCore_freeCtr (s : State) (c : Nat) (f : Core → Core) : (s.updCore c f).freeCtr = s.freeCtr := rfl
@[simp] theorem State.updCore_laned (s : State) (c : Nat) (f : Core → Core) : (s.updCore c f).laned = s.laned := rfl
@[simp] theorem State.updCore_inbox (s : State) (c : Nat) (f : Core → Core) : (s.updCore c f).inbox = s.inbox := rfl
@[simp] theorem State.updCore_mem (s : State) (c : Nat) (f : Core → Core) : (s.updCore c f).mem = s.mem := rfl
@[simp] theorem State.updCore_fut (s : State) (c : Nat) (f : Core → Core) : (s.updCore c f).fut = s.fut := rfl
@[simp] theorem State.updCore_bad (s : State) (c : Nat) (f : Core → Core) : (s.updCore c f).bad = s.bad := rfl
@[simp] theorem State.updCore_clusters (s : State) (c : Nat) (f : Core → Core) : (s.updCore c f).clusters = s.clusters := rfl
@[simp] theorem State.updCore_pairs (s : State) (c : Nat) (f : Core → Core) : (s.updCore c f).pairs = s.pairs := rfl
@[simp] theorem State.updCore_dies (s : State) (c : Nat) (f : Core → Core) : (s.updCore c f).dies = s.dies := rfl
@[simp] theorem State.updCore_parts (s : State) (c : Nat) (f : Core → Core) : (s.updCore c f).parts = s.parts := rfl
@[simp] theorem State.updCore_asids (s : State) (c : Nat) (f : Core → Core) : (s.updCore c f).asids = s.asids := rfl
@[simp] theorem State.updCore_images (s : State) (c : Nat) (f : Core → Core) : (s.updCore c f).images = s.images := rfl
@[simp] theorem State.updCore_link (s : State) (c : Nat) (f : Core → Core) : (s.updCore c f).link = s.link := rfl
@[simp] theorem State.updCore_host (s : State) (c : Nat) (f : Core → Core) : (s.updCore c f).host = s.host := rfl
@[simp] theorem State.updCore_ramvan (s : State) (c : Nat) (f : Core → Core) : (s.updCore c f).ramvan = s.ramvan := rfl

/-! ### setCluster -/
@[simp] theorem State.setCluster_cyc (s : State) (c : Nat) (k : Cluster) : (s.setCluster c k).cyc = s.cyc := rfl
@[simp] theorem State.setCluster_cur (s : State) (c : Nat) (k : Cluster) : (s.setCluster c k).cur = s.cur := rfl
@[simp] theorem State.setCluster_freeCtr (s : State) (c : Nat) (k : Cluster) : (s.setCluster c k).freeCtr = s.freeCtr := rfl
@[simp] theorem State.setCluster_laned (s : State) (c : Nat) (k : Cluster) : (s.setCluster c k).laned = s.laned := rfl
@[simp] theorem State.setCluster_inbox (s : State) (c : Nat) (k : Cluster) : (s.setCluster c k).inbox = s.inbox := rfl
@[simp] theorem State.setCluster_mem (s : State) (c : Nat) (k : Cluster) : (s.setCluster c k).mem = s.mem := rfl
@[simp] theorem State.setCluster_fut (s : State) (c : Nat) (k : Cluster) : (s.setCluster c k).fut = s.fut := rfl
@[simp] theorem State.setCluster_bad (s : State) (c : Nat) (k : Cluster) : (s.setCluster c k).bad = s.bad := rfl
@[simp] theorem State.setCluster_cores (s : State) (c : Nat) (k : Cluster) : (s.setCluster c k).cores = s.cores := rfl
@[simp] theorem State.setCluster_pairs (s : State) (c : Nat) (k : Cluster) : (s.setCluster c k).pairs = s.pairs := rfl
@[simp] theorem State.setCluster_dies (s : State) (c : Nat) (k : Cluster) : (s.setCluster c k).dies = s.dies := rfl
@[simp] theorem State.setCluster_parts (s : State) (c : Nat) (k : Cluster) : (s.setCluster c k).parts = s.parts := rfl
@[simp] theorem State.setCluster_asids (s : State) (c : Nat) (k : Cluster) : (s.setCluster c k).asids = s.asids := rfl
@[simp] theorem State.setCluster_images (s : State) (c : Nat) (k : Cluster) : (s.setCluster c k).images = s.images := rfl
@[simp] theorem State.setCluster_link (s : State) (c : Nat) (k : Cluster) : (s.setCluster c k).link = s.link := rfl
@[simp] theorem State.setCluster_host (s : State) (c : Nat) (k : Cluster) : (s.setCluster c k).host = s.host := rfl
@[simp] theorem State.setCluster_ramvan (s : State) (c : Nat) (k : Cluster) : (s.setCluster c k).ramvan = s.ramvan := rfl

/-! ### updCluster -/
@[simp] theorem State.updCluster_cyc (s : State) (c : Nat) (f : Cluster → Cluster) : (s.updCluster c f).cyc = s.cyc := rfl
@[simp] theorem State.updCluster_cur (s : State) (c : Nat) (f : Cluster → Cluster) : (s.updCluster c f).cur = s.cur := rfl
@[simp] theorem State.updCluster_freeCtr (s : State) (c : Nat) (f : Cluster → Cluster) : (s.updCluster c f).freeCtr = s.freeCtr := rfl
@[simp] theorem State.updCluster_laned (s : State) (c : Nat) (f : Cluster → Cluster) : (s.updCluster c f).laned = s.laned := rfl
@[simp] theorem State.updCluster_inbox (s : State) (c : Nat) (f : Cluster → Cluster) : (s.updCluster c f).inbox = s.inbox := rfl
@[simp] theorem State.updCluster_mem (s : State) (c : Nat) (f : Cluster → Cluster) : (s.updCluster c f).mem = s.mem := rfl
@[simp] theorem State.updCluster_fut (s : State) (c : Nat) (f : Cluster → Cluster) : (s.updCluster c f).fut = s.fut := rfl
@[simp] theorem State.updCluster_bad (s : State) (c : Nat) (f : Cluster → Cluster) : (s.updCluster c f).bad = s.bad := rfl
@[simp] theorem State.updCluster_cores (s : State) (c : Nat) (f : Cluster → Cluster) : (s.updCluster c f).cores = s.cores := rfl
@[simp] theorem State.updCluster_pairs (s : State) (c : Nat) (f : Cluster → Cluster) : (s.updCluster c f).pairs = s.pairs := rfl
@[simp] theorem State.updCluster_dies (s : State) (c : Nat) (f : Cluster → Cluster) : (s.updCluster c f).dies = s.dies := rfl
@[simp] theorem State.updCluster_parts (s : State) (c : Nat) (f : Cluster → Cluster) : (s.updCluster c f).parts = s.parts := rfl
@[simp] theorem State.updCluster_asids (s : State) (c : Nat) (f : Cluster → Cluster) : (s.updCluster c f).asids = s.asids := rfl
@[simp] theorem State.updCluster_images (s : State) (c : Nat) (f : Cluster → Cluster) : (s.updCluster c f).images = s.images := rfl
@[simp] theorem State.updCluster_link (s : State) (c : Nat) (f : Cluster → Cluster) : (s.updCluster c f).link = s.link := rfl
@[simp] theorem State.updCluster_host (s : State) (c : Nat) (f : Cluster → Cluster) : (s.updCluster c f).host = s.host := rfl
@[simp] theorem State.updCluster_ramvan (s : State) (c : Nat) (f : Cluster → Cluster) : (s.updCluster c f).ramvan = s.ramvan := rfl

/-! ### setPair -/
@[simp] theorem State.setPair_cyc (s : State) (p : Nat) (k : Pair) : (s.setPair p k).cyc = s.cyc := rfl
@[simp] theorem State.setPair_cur (s : State) (p : Nat) (k : Pair) : (s.setPair p k).cur = s.cur := rfl
@[simp] theorem State.setPair_freeCtr (s : State) (p : Nat) (k : Pair) : (s.setPair p k).freeCtr = s.freeCtr := rfl
@[simp] theorem State.setPair_laned (s : State) (p : Nat) (k : Pair) : (s.setPair p k).laned = s.laned := rfl
@[simp] theorem State.setPair_inbox (s : State) (p : Nat) (k : Pair) : (s.setPair p k).inbox = s.inbox := rfl
@[simp] theorem State.setPair_mem (s : State) (p : Nat) (k : Pair) : (s.setPair p k).mem = s.mem := rfl
@[simp] theorem State.setPair_fut (s : State) (p : Nat) (k : Pair) : (s.setPair p k).fut = s.fut := rfl
@[simp] theorem State.setPair_bad (s : State) (p : Nat) (k : Pair) : (s.setPair p k).bad = s.bad := rfl
@[simp] theorem State.setPair_cores (s : State) (p : Nat) (k : Pair) : (s.setPair p k).cores = s.cores := rfl
@[simp] theorem State.setPair_clusters (s : State) (p : Nat) (k : Pair) : (s.setPair p k).clusters = s.clusters := rfl
@[simp] theorem State.setPair_dies (s : State) (p : Nat) (k : Pair) : (s.setPair p k).dies = s.dies := rfl
@[simp] theorem State.setPair_parts (s : State) (p : Nat) (k : Pair) : (s.setPair p k).parts = s.parts := rfl
@[simp] theorem State.setPair_asids (s : State) (p : Nat) (k : Pair) : (s.setPair p k).asids = s.asids := rfl
@[simp] theorem State.setPair_images (s : State) (p : Nat) (k : Pair) : (s.setPair p k).images = s.images := rfl
@[simp] theorem State.setPair_link (s : State) (p : Nat) (k : Pair) : (s.setPair p k).link = s.link := rfl
@[simp] theorem State.setPair_host (s : State) (p : Nat) (k : Pair) : (s.setPair p k).host = s.host := rfl
@[simp] theorem State.setPair_ramvan (s : State) (p : Nat) (k : Pair) : (s.setPair p k).ramvan = s.ramvan := rfl

/-! ### setMctx -/
@[simp] theorem State.setMctx_cyc (s : State) (c i : Nat) (x : MCtx) : (s.setMctx c i x).cyc = s.cyc := rfl
@[simp] theorem State.setMctx_cur (s : State) (c i : Nat) (x : MCtx) : (s.setMctx c i x).cur = s.cur := rfl
@[simp] theorem State.setMctx_freeCtr (s : State) (c i : Nat) (x : MCtx) : (s.setMctx c i x).freeCtr = s.freeCtr := rfl
@[simp] theorem State.setMctx_laned (s : State) (c i : Nat) (x : MCtx) : (s.setMctx c i x).laned = s.laned := rfl
@[simp] theorem State.setMctx_inbox (s : State) (c i : Nat) (x : MCtx) : (s.setMctx c i x).inbox = s.inbox := rfl
@[simp] theorem State.setMctx_mem (s : State) (c i : Nat) (x : MCtx) : (s.setMctx c i x).mem = s.mem := rfl
@[simp] theorem State.setMctx_fut (s : State) (c i : Nat) (x : MCtx) : (s.setMctx c i x).fut = s.fut := rfl
@[simp] theorem State.setMctx_bad (s : State) (c i : Nat) (x : MCtx) : (s.setMctx c i x).bad = s.bad := rfl
@[simp] theorem State.setMctx_cores (s : State) (c i : Nat) (x : MCtx) : (s.setMctx c i x).cores = s.cores := rfl
@[simp] theorem State.setMctx_clusters (s : State) (c i : Nat) (x : MCtx) : (s.setMctx c i x).clusters = s.clusters := rfl
@[simp] theorem State.setMctx_dies (s : State) (c i : Nat) (x : MCtx) : (s.setMctx c i x).dies = s.dies := rfl
@[simp] theorem State.setMctx_parts (s : State) (c i : Nat) (x : MCtx) : (s.setMctx c i x).parts = s.parts := rfl
@[simp] theorem State.setMctx_asids (s : State) (c i : Nat) (x : MCtx) : (s.setMctx c i x).asids = s.asids := rfl
@[simp] theorem State.setMctx_images (s : State) (c i : Nat) (x : MCtx) : (s.setMctx c i x).images = s.images := rfl
@[simp] theorem State.setMctx_link (s : State) (c i : Nat) (x : MCtx) : (s.setMctx c i x).link = s.link := rfl
@[simp] theorem State.setMctx_host (s : State) (c i : Nat) (x : MCtx) : (s.setMctx c i x).host = s.host := rfl
@[simp] theorem State.setMctx_ramvan (s : State) (c i : Nat) (x : MCtx) : (s.setMctx c i x).ramvan = s.ramvan := rfl

/-! ### setDie -/
@[simp] theorem State.setDie_cyc (s : State) (d : Nat) (k : Die) : (s.setDie d k).cyc = s.cyc := rfl
@[simp] theorem State.setDie_cur (s : State) (d : Nat) (k : Die) : (s.setDie d k).cur = s.cur := rfl
@[simp] theorem State.setDie_freeCtr (s : State) (d : Nat) (k : Die) : (s.setDie d k).freeCtr = s.freeCtr := rfl
@[simp] theorem State.setDie_laned (s : State) (d : Nat) (k : Die) : (s.setDie d k).laned = s.laned := rfl
@[simp] theorem State.setDie_inbox (s : State) (d : Nat) (k : Die) : (s.setDie d k).inbox = s.inbox := rfl
@[simp] theorem State.setDie_mem (s : State) (d : Nat) (k : Die) : (s.setDie d k).mem = s.mem := rfl
@[simp] theorem State.setDie_fut (s : State) (d : Nat) (k : Die) : (s.setDie d k).fut = s.fut := rfl
@[simp] theorem State.setDie_bad (s : State) (d : Nat) (k : Die) : (s.setDie d k).bad = s.bad := rfl
@[simp] theorem State.setDie_cores (s : State) (d : Nat) (k : Die) : (s.setDie d k).cores = s.cores := rfl
@[simp] theorem State.setDie_clusters (s : State) (d : Nat) (k : Die) : (s.setDie d k).clusters = s.clusters := rfl
@[simp] theorem State.setDie_pairs (s : State) (d : Nat) (k : Die) : (s.setDie d k).pairs = s.pairs := rfl
@[simp] theorem State.setDie_parts (s : State) (d : Nat) (k : Die) : (s.setDie d k).parts = s.parts := rfl
@[simp] theorem State.setDie_asids (s : State) (d : Nat) (k : Die) : (s.setDie d k).asids = s.asids := rfl
@[simp] theorem State.setDie_images (s : State) (d : Nat) (k : Die) : (s.setDie d k).images = s.images := rfl
@[simp] theorem State.setDie_link (s : State) (d : Nat) (k : Die) : (s.setDie d k).link = s.link := rfl
@[simp] theorem State.setDie_host (s : State) (d : Nat) (k : Die) : (s.setDie d k).host = s.host := rfl
@[simp] theorem State.setDie_ramvan (s : State) (d : Nat) (k : Die) : (s.setDie d k).ramvan = s.ramvan := rfl

/-! ### updDie -/
@[simp] theorem State.updDie_cyc (s : State) (d : Nat) (f : Die → Die) : (s.updDie d f).cyc = s.cyc := rfl
@[simp] theorem State.updDie_cur (s : State) (d : Nat) (f : Die → Die) : (s.updDie d f).cur = s.cur := rfl
@[simp] theorem State.updDie_freeCtr (s : State) (d : Nat) (f : Die → Die) : (s.updDie d f).freeCtr = s.freeCtr := rfl
@[simp] theorem State.updDie_laned (s : State) (d : Nat) (f : Die → Die) : (s.updDie d f).laned = s.laned := rfl
@[simp] theorem State.updDie_inbox (s : State) (d : Nat) (f : Die → Die) : (s.updDie d f).inbox = s.inbox := rfl
@[simp] theorem State.updDie_mem (s : State) (d : Nat) (f : Die → Die) : (s.updDie d f).mem = s.mem := rfl
@[simp] theorem State.updDie_fut (s : State) (d : Nat) (f : Die → Die) : (s.updDie d f).fut = s.fut := rfl
@[simp] theorem State.updDie_bad (s : State) (d : Nat) (f : Die → Die) : (s.updDie d f).bad = s.bad := rfl
@[simp] theorem State.updDie_cores (s : State) (d : Nat) (f : Die → Die) : (s.updDie d f).cores = s.cores := rfl
@[simp] theorem State.updDie_clusters (s : State) (d : Nat) (f : Die → Die) : (s.updDie d f).clusters = s.clusters := rfl
@[simp] theorem State.updDie_pairs (s : State) (d : Nat) (f : Die → Die) : (s.updDie d f).pairs = s.pairs := rfl
@[simp] theorem State.updDie_parts (s : State) (d : Nat) (f : Die → Die) : (s.updDie d f).parts = s.parts := rfl
@[simp] theorem State.updDie_asids (s : State) (d : Nat) (f : Die → Die) : (s.updDie d f).asids = s.asids := rfl
@[simp] theorem State.updDie_images (s : State) (d : Nat) (f : Die → Die) : (s.updDie d f).images = s.images := rfl
@[simp] theorem State.updDie_link (s : State) (d : Nat) (f : Die → Die) : (s.updDie d f).link = s.link := rfl
@[simp] theorem State.updDie_host (s : State) (d : Nat) (f : Die → Die) : (s.updDie d f).host = s.host := rfl
@[simp] theorem State.updDie_ramvan (s : State) (d : Nat) (f : Die → Die) : (s.updDie d f).ramvan = s.ramvan := rfl

/-! ### setPart -/
@[simp] theorem State.setPart_cyc (s : State) (p : Nat) (k : Partition) : (s.setPart p k).cyc = s.cyc := rfl
@[simp] theorem State.setPart_cur (s : State) (p : Nat) (k : Partition) : (s.setPart p k).cur = s.cur := rfl
@[simp] theorem State.setPart_freeCtr (s : State) (p : Nat) (k : Partition) : (s.setPart p k).freeCtr = s.freeCtr := rfl
@[simp] theorem State.setPart_laned (s : State) (p : Nat) (k : Partition) : (s.setPart p k).laned = s.laned := rfl
@[simp] theorem State.setPart_inbox (s : State) (p : Nat) (k : Partition) : (s.setPart p k).inbox = s.inbox := rfl
@[simp] theorem State.setPart_mem (s : State) (p : Nat) (k : Partition) : (s.setPart p k).mem = s.mem := rfl
@[simp] theorem State.setPart_fut (s : State) (p : Nat) (k : Partition) : (s.setPart p k).fut = s.fut := rfl
@[simp] theorem State.setPart_bad (s : State) (p : Nat) (k : Partition) : (s.setPart p k).bad = s.bad := rfl
@[simp] theorem State.setPart_cores (s : State) (p : Nat) (k : Partition) : (s.setPart p k).cores = s.cores := rfl
@[simp] theorem State.setPart_clusters (s : State) (p : Nat) (k : Partition) : (s.setPart p k).clusters = s.clusters := rfl
@[simp] theorem State.setPart_pairs (s : State) (p : Nat) (k : Partition) : (s.setPart p k).pairs = s.pairs := rfl
@[simp] theorem State.setPart_dies (s : State) (p : Nat) (k : Partition) : (s.setPart p k).dies = s.dies := rfl
@[simp] theorem State.setPart_asids (s : State) (p : Nat) (k : Partition) : (s.setPart p k).asids = s.asids := rfl
@[simp] theorem State.setPart_images (s : State) (p : Nat) (k : Partition) : (s.setPart p k).images = s.images := rfl
@[simp] theorem State.setPart_link (s : State) (p : Nat) (k : Partition) : (s.setPart p k).link = s.link := rfl
@[simp] theorem State.setPart_host (s : State) (p : Nat) (k : Partition) : (s.setPart p k).host = s.host := rfl
@[simp] theorem State.setPart_ramvan (s : State) (p : Nat) (k : Partition) : (s.setPart p k).ramvan = s.ramvan := rfl

/-! ### updPart -/
@[simp] theorem State.updPart_cyc (s : State) (p : Nat) (f : Partition → Partition) : (s.updPart p f).cyc = s.cyc := rfl
@[simp] theorem State.updPart_cur (s : State) (p : Nat) (f : Partition → Partition) : (s.updPart p f).cur = s.cur := rfl
@[simp] theorem State.updPart_freeCtr (s : State) (p : Nat) (f : Partition → Partition) : (s.updPart p f).freeCtr = s.freeCtr := rfl
@[simp] theorem State.updPart_laned (s : State) (p : Nat) (f : Partition → Partition) : (s.updPart p f).laned = s.laned := rfl
@[simp] theorem State.updPart_inbox (s : State) (p : Nat) (f : Partition → Partition) : (s.updPart p f).inbox = s.inbox := rfl
@[simp] theorem State.updPart_mem (s : State) (p : Nat) (f : Partition → Partition) : (s.updPart p f).mem = s.mem := rfl
@[simp] theorem State.updPart_fut (s : State) (p : Nat) (f : Partition → Partition) : (s.updPart p f).fut = s.fut := rfl
@[simp] theorem State.updPart_bad (s : State) (p : Nat) (f : Partition → Partition) : (s.updPart p f).bad = s.bad := rfl
@[simp] theorem State.updPart_cores (s : State) (p : Nat) (f : Partition → Partition) : (s.updPart p f).cores = s.cores := rfl
@[simp] theorem State.updPart_clusters (s : State) (p : Nat) (f : Partition → Partition) : (s.updPart p f).clusters = s.clusters := rfl
@[simp] theorem State.updPart_pairs (s : State) (p : Nat) (f : Partition → Partition) : (s.updPart p f).pairs = s.pairs := rfl
@[simp] theorem State.updPart_dies (s : State) (p : Nat) (f : Partition → Partition) : (s.updPart p f).dies = s.dies := rfl
@[simp] theorem State.updPart_asids (s : State) (p : Nat) (f : Partition → Partition) : (s.updPart p f).asids = s.asids := rfl
@[simp] theorem State.updPart_images (s : State) (p : Nat) (f : Partition → Partition) : (s.updPart p f).images = s.images := rfl
@[simp] theorem State.updPart_link (s : State) (p : Nat) (f : Partition → Partition) : (s.updPart p f).link = s.link := rfl
@[simp] theorem State.updPart_host (s : State) (p : Nat) (f : Partition → Partition) : (s.updPart p f).host = s.host := rfl
@[simp] theorem State.updPart_ramvan (s : State) (p : Nat) (f : Partition → Partition) : (s.updPart p f).ramvan = s.ramvan := rfl

/-! ### setLaunch -/
@[simp] theorem State.setLaunch_cyc (s : State) (p : Nat) (l : Launch) : (s.setLaunch p l).cyc = s.cyc := rfl
@[simp] theorem State.setLaunch_cur (s : State) (p : Nat) (l : Launch) : (s.setLaunch p l).cur = s.cur := rfl
@[simp] theorem State.setLaunch_freeCtr (s : State) (p : Nat) (l : Launch) : (s.setLaunch p l).freeCtr = s.freeCtr := rfl
@[simp] theorem State.setLaunch_laned (s : State) (p : Nat) (l : Launch) : (s.setLaunch p l).laned = s.laned := rfl
@[simp] theorem State.setLaunch_inbox (s : State) (p : Nat) (l : Launch) : (s.setLaunch p l).inbox = s.inbox := rfl
@[simp] theorem State.setLaunch_mem (s : State) (p : Nat) (l : Launch) : (s.setLaunch p l).mem = s.mem := rfl
@[simp] theorem State.setLaunch_fut (s : State) (p : Nat) (l : Launch) : (s.setLaunch p l).fut = s.fut := rfl
@[simp] theorem State.setLaunch_bad (s : State) (p : Nat) (l : Launch) : (s.setLaunch p l).bad = s.bad := rfl
@[simp] theorem State.setLaunch_cores (s : State) (p : Nat) (l : Launch) : (s.setLaunch p l).cores = s.cores := rfl
@[simp] theorem State.setLaunch_clusters (s : State) (p : Nat) (l : Launch) : (s.setLaunch p l).clusters = s.clusters := rfl
@[simp] theorem State.setLaunch_pairs (s : State) (p : Nat) (l : Launch) : (s.setLaunch p l).pairs = s.pairs := rfl
@[simp] theorem State.setLaunch_dies (s : State) (p : Nat) (l : Launch) : (s.setLaunch p l).dies = s.dies := rfl
@[simp] theorem State.setLaunch_asids (s : State) (p : Nat) (l : Launch) : (s.setLaunch p l).asids = s.asids := rfl
@[simp] theorem State.setLaunch_images (s : State) (p : Nat) (l : Launch) : (s.setLaunch p l).images = s.images := rfl
@[simp] theorem State.setLaunch_link (s : State) (p : Nat) (l : Launch) : (s.setLaunch p l).link = s.link := rfl
@[simp] theorem State.setLaunch_host (s : State) (p : Nat) (l : Launch) : (s.setLaunch p l).host = s.host := rfl
@[simp] theorem State.setLaunch_ramvan (s : State) (p : Nat) (l : Launch) : (s.setLaunch p l).ramvan = s.ramvan := rfl

/-! ### setFrame -/
@[simp] theorem State.setFrame_cyc (s : State) (c h : Nat) (f : Frame) : (s.setFrame c h f).cyc = s.cyc := rfl
@[simp] theorem State.setFrame_cur (s : State) (c h : Nat) (f : Frame) : (s.setFrame c h f).cur = s.cur := rfl
@[simp] theorem State.setFrame_freeCtr (s : State) (c h : Nat) (f : Frame) : (s.setFrame c h f).freeCtr = s.freeCtr := rfl
@[simp] theorem State.setFrame_laned (s : State) (c h : Nat) (f : Frame) : (s.setFrame c h f).laned = s.laned := rfl
@[simp] theorem State.setFrame_inbox (s : State) (c h : Nat) (f : Frame) : (s.setFrame c h f).inbox = s.inbox := rfl
@[simp] theorem State.setFrame_mem (s : State) (c h : Nat) (f : Frame) : (s.setFrame c h f).mem = s.mem := rfl
@[simp] theorem State.setFrame_fut (s : State) (c h : Nat) (f : Frame) : (s.setFrame c h f).fut = s.fut := rfl
@[simp] theorem State.setFrame_bad (s : State) (c h : Nat) (f : Frame) : (s.setFrame c h f).bad = s.bad := rfl
@[simp] theorem State.setFrame_clusters (s : State) (c h : Nat) (f : Frame) : (s.setFrame c h f).clusters = s.clusters := rfl
@[simp] theorem State.setFrame_pairs (s : State) (c h : Nat) (f : Frame) : (s.setFrame c h f).pairs = s.pairs := rfl
@[simp] theorem State.setFrame_dies (s : State) (c h : Nat) (f : Frame) : (s.setFrame c h f).dies = s.dies := rfl
@[simp] theorem State.setFrame_parts (s : State) (c h : Nat) (f : Frame) : (s.setFrame c h f).parts = s.parts := rfl
@[simp] theorem State.setFrame_asids (s : State) (c h : Nat) (f : Frame) : (s.setFrame c h f).asids = s.asids := rfl
@[simp] theorem State.setFrame_images (s : State) (c h : Nat) (f : Frame) : (s.setFrame c h f).images = s.images := rfl
@[simp] theorem State.setFrame_link (s : State) (c h : Nat) (f : Frame) : (s.setFrame c h f).link = s.link := rfl
@[simp] theorem State.setFrame_host (s : State) (c h : Nat) (f : Frame) : (s.setFrame c h f).host = s.host := rfl
@[simp] theorem State.setFrame_ramvan (s : State) (c h : Nat) (f : Frame) : (s.setFrame c h f).ramvan = s.ramvan := rfl

/-! ### updEng -/
@[simp] theorem State.updEng_cyc (s : State) (c : Nat) (f : CoreEngines → CoreEngines) : (s.updEng c f).cyc = s.cyc := rfl
@[simp] theorem State.updEng_cur (s : State) (c : Nat) (f : CoreEngines → CoreEngines) : (s.updEng c f).cur = s.cur := rfl
@[simp] theorem State.updEng_freeCtr (s : State) (c : Nat) (f : CoreEngines → CoreEngines) : (s.updEng c f).freeCtr = s.freeCtr := rfl
@[simp] theorem State.updEng_laned (s : State) (c : Nat) (f : CoreEngines → CoreEngines) : (s.updEng c f).laned = s.laned := rfl
@[simp] theorem State.updEng_inbox (s : State) (c : Nat) (f : CoreEngines → CoreEngines) : (s.updEng c f).inbox = s.inbox := rfl
@[simp] theorem State.updEng_mem (s : State) (c : Nat) (f : CoreEngines → CoreEngines) : (s.updEng c f).mem = s.mem := rfl
@[simp] theorem State.updEng_fut (s : State) (c : Nat) (f : CoreEngines → CoreEngines) : (s.updEng c f).fut = s.fut := rfl
@[simp] theorem State.updEng_bad (s : State) (c : Nat) (f : CoreEngines → CoreEngines) : (s.updEng c f).bad = s.bad := rfl
@[simp] theorem State.updEng_clusters (s : State) (c : Nat) (f : CoreEngines → CoreEngines) : (s.updEng c f).clusters = s.clusters := rfl
@[simp] theorem State.updEng_pairs (s : State) (c : Nat) (f : CoreEngines → CoreEngines) : (s.updEng c f).pairs = s.pairs := rfl
@[simp] theorem State.updEng_dies (s : State) (c : Nat) (f : CoreEngines → CoreEngines) : (s.updEng c f).dies = s.dies := rfl
@[simp] theorem State.updEng_parts (s : State) (c : Nat) (f : CoreEngines → CoreEngines) : (s.updEng c f).parts = s.parts := rfl
@[simp] theorem State.updEng_asids (s : State) (c : Nat) (f : CoreEngines → CoreEngines) : (s.updEng c f).asids = s.asids := rfl
@[simp] theorem State.updEng_images (s : State) (c : Nat) (f : CoreEngines → CoreEngines) : (s.updEng c f).images = s.images := rfl
@[simp] theorem State.updEng_link (s : State) (c : Nat) (f : CoreEngines → CoreEngines) : (s.updEng c f).link = s.link := rfl
@[simp] theorem State.updEng_host (s : State) (c : Nat) (f : CoreEngines → CoreEngines) : (s.updEng c f).host = s.host := rfl
@[simp] theorem State.updEng_ramvan (s : State) (c : Nat) (f : CoreEngines → CoreEngines) : (s.updEng c f).ramvan = s.ramvan := rfl

/-! ### putTrain -/
@[simp] theorem State.putTrain_cyc (s : State) (c : Nat) (t : Train) : (s.putTrain c t).cyc = s.cyc := rfl
@[simp] theorem State.putTrain_cur (s : State) (c : Nat) (t : Train) : (s.putTrain c t).cur = s.cur := rfl
@[simp] theorem State.putTrain_freeCtr (s : State) (c : Nat) (t : Train) : (s.putTrain c t).freeCtr = s.freeCtr := rfl
@[simp] theorem State.putTrain_laned (s : State) (c : Nat) (t : Train) : (s.putTrain c t).laned = s.laned := rfl
@[simp] theorem State.putTrain_inbox (s : State) (c : Nat) (t : Train) : (s.putTrain c t).inbox = s.inbox := rfl
@[simp] theorem State.putTrain_mem (s : State) (c : Nat) (t : Train) : (s.putTrain c t).mem = s.mem := rfl
@[simp] theorem State.putTrain_fut (s : State) (c : Nat) (t : Train) : (s.putTrain c t).fut = s.fut := rfl
@[simp] theorem State.putTrain_bad (s : State) (c : Nat) (t : Train) : (s.putTrain c t).bad = s.bad := rfl
@[simp] theorem State.putTrain_clusters (s : State) (c : Nat) (t : Train) : (s.putTrain c t).clusters = s.clusters := rfl
@[simp] theorem State.putTrain_pairs (s : State) (c : Nat) (t : Train) : (s.putTrain c t).pairs = s.pairs := rfl
@[simp] theorem State.putTrain_dies (s : State) (c : Nat) (t : Train) : (s.putTrain c t).dies = s.dies := rfl
@[simp] theorem State.putTrain_parts (s : State) (c : Nat) (t : Train) : (s.putTrain c t).parts = s.parts := rfl
@[simp] theorem State.putTrain_asids (s : State) (c : Nat) (t : Train) : (s.putTrain c t).asids = s.asids := rfl
@[simp] theorem State.putTrain_images (s : State) (c : Nat) (t : Train) : (s.putTrain c t).images = s.images := rfl
@[simp] theorem State.putTrain_link (s : State) (c : Nat) (t : Train) : (s.putTrain c t).link = s.link := rfl
@[simp] theorem State.putTrain_host (s : State) (c : Nat) (t : Train) : (s.putTrain c t).host = s.host := rfl
@[simp] theorem State.putTrain_ramvan (s : State) (c : Nat) (t : Train) : (s.putTrain c t).ramvan = s.ramvan := rfl

/-! ### retire -/
@[simp] theorem State.retire_cyc (s : State) (c : Nat) (t : Train) : (s.retire c t).cyc = s.cyc := rfl
@[simp] theorem State.retire_cur (s : State) (c : Nat) (t : Train) : (s.retire c t).cur = s.cur := rfl
@[simp] theorem State.retire_freeCtr (s : State) (c : Nat) (t : Train) : (s.retire c t).freeCtr = s.freeCtr := rfl
@[simp] theorem State.retire_laned (s : State) (c : Nat) (t : Train) : (s.retire c t).laned = s.laned := rfl
@[simp] theorem State.retire_inbox (s : State) (c : Nat) (t : Train) : (s.retire c t).inbox = s.inbox := rfl
@[simp] theorem State.retire_mem (s : State) (c : Nat) (t : Train) : (s.retire c t).mem = s.mem := rfl
@[simp] theorem State.retire_fut (s : State) (c : Nat) (t : Train) : (s.retire c t).fut = s.fut := rfl
@[simp] theorem State.retire_bad (s : State) (c : Nat) (t : Train) : (s.retire c t).bad = s.bad := rfl
@[simp] theorem State.retire_clusters (s : State) (c : Nat) (t : Train) : (s.retire c t).clusters = s.clusters := rfl
@[simp] theorem State.retire_pairs (s : State) (c : Nat) (t : Train) : (s.retire c t).pairs = s.pairs := rfl
@[simp] theorem State.retire_dies (s : State) (c : Nat) (t : Train) : (s.retire c t).dies = s.dies := rfl
@[simp] theorem State.retire_parts (s : State) (c : Nat) (t : Train) : (s.retire c t).parts = s.parts := rfl
@[simp] theorem State.retire_asids (s : State) (c : Nat) (t : Train) : (s.retire c t).asids = s.asids := rfl
@[simp] theorem State.retire_images (s : State) (c : Nat) (t : Train) : (s.retire c t).images = s.images := rfl
@[simp] theorem State.retire_link (s : State) (c : Nat) (t : Train) : (s.retire c t).link = s.link := rfl
@[simp] theorem State.retire_host (s : State) (c : Nat) (t : Train) : (s.retire c t).host = s.host := rfl
@[simp] theorem State.retire_ramvan (s : State) (c : Nat) (t : Train) : (s.retire c t).ramvan = s.ramvan := rfl

/-! ### endOp -/
@[simp] theorem State.endOp_cyc (s : State) (c id : Nat) : (s.endOp c id).cyc = s.cyc := rfl
@[simp] theorem State.endOp_cur (s : State) (c id : Nat) : (s.endOp c id).cur = s.cur := rfl
@[simp] theorem State.endOp_freeCtr (s : State) (c id : Nat) : (s.endOp c id).freeCtr = s.freeCtr := rfl
@[simp] theorem State.endOp_laned (s : State) (c id : Nat) : (s.endOp c id).laned = s.laned := rfl
@[simp] theorem State.endOp_inbox (s : State) (c id : Nat) : (s.endOp c id).inbox = s.inbox := rfl
@[simp] theorem State.endOp_mem (s : State) (c id : Nat) : (s.endOp c id).mem = s.mem := rfl
@[simp] theorem State.endOp_fut (s : State) (c id : Nat) : (s.endOp c id).fut = s.fut := rfl
@[simp] theorem State.endOp_bad (s : State) (c id : Nat) : (s.endOp c id).bad = s.bad := rfl
@[simp] theorem State.endOp_clusters (s : State) (c id : Nat) : (s.endOp c id).clusters = s.clusters := rfl
@[simp] theorem State.endOp_pairs (s : State) (c id : Nat) : (s.endOp c id).pairs = s.pairs := rfl
@[simp] theorem State.endOp_dies (s : State) (c id : Nat) : (s.endOp c id).dies = s.dies := rfl
@[simp] theorem State.endOp_parts (s : State) (c id : Nat) : (s.endOp c id).parts = s.parts := rfl
@[simp] theorem State.endOp_asids (s : State) (c id : Nat) : (s.endOp c id).asids = s.asids := rfl
@[simp] theorem State.endOp_images (s : State) (c id : Nat) : (s.endOp c id).images = s.images := rfl
@[simp] theorem State.endOp_link (s : State) (c id : Nat) : (s.endOp c id).link = s.link := rfl
@[simp] theorem State.endOp_host (s : State) (c id : Nat) : (s.endOp c id).host = s.host := rfl
@[simp] theorem State.endOp_ramvan (s : State) (c id : Nat) : (s.endOp c id).ramvan = s.ramvan := rfl

/-! ### startOp -/
@[simp] theorem State.startOp_cyc (s : State) (c uid wbit path id : Nat) : (s.startOp c uid wbit path id).cyc = s.cyc := rfl
@[simp] theorem State.startOp_cur (s : State) (c uid wbit path id : Nat) : (s.startOp c uid wbit path id).cur = s.cur := rfl
@[simp] theorem State.startOp_freeCtr (s : State) (c uid wbit path id : Nat) : (s.startOp c uid wbit path id).freeCtr = s.freeCtr := rfl
@[simp] theorem State.startOp_laned (s : State) (c uid wbit path id : Nat) : (s.startOp c uid wbit path id).laned = s.laned := rfl
@[simp] theorem State.startOp_inbox (s : State) (c uid wbit path id : Nat) : (s.startOp c uid wbit path id).inbox = s.inbox := rfl
@[simp] theorem State.startOp_mem (s : State) (c uid wbit path id : Nat) : (s.startOp c uid wbit path id).mem = s.mem := rfl
@[simp] theorem State.startOp_fut (s : State) (c uid wbit path id : Nat) : (s.startOp c uid wbit path id).fut = s.fut := rfl
@[simp] theorem State.startOp_bad (s : State) (c uid wbit path id : Nat) : (s.startOp c uid wbit path id).bad = s.bad := rfl
@[simp] theorem State.startOp_clusters (s : State) (c uid wbit path id : Nat) : (s.startOp c uid wbit path id).clusters = s.clusters := rfl
@[simp] theorem State.startOp_pairs (s : State) (c uid wbit path id : Nat) : (s.startOp c uid wbit path id).pairs = s.pairs := rfl
@[simp] theorem State.startOp_dies (s : State) (c uid wbit path id : Nat) : (s.startOp c uid wbit path id).dies = s.dies := rfl
@[simp] theorem State.startOp_parts (s : State) (c uid wbit path id : Nat) : (s.startOp c uid wbit path id).parts = s.parts := rfl
@[simp] theorem State.startOp_asids (s : State) (c uid wbit path id : Nat) : (s.startOp c uid wbit path id).asids = s.asids := rfl
@[simp] theorem State.startOp_images (s : State) (c uid wbit path id : Nat) : (s.startOp c uid wbit path id).images = s.images := rfl
@[simp] theorem State.startOp_link (s : State) (c uid wbit path id : Nat) : (s.startOp c uid wbit path id).link = s.link := rfl
@[simp] theorem State.startOp_host (s : State) (c uid wbit path id : Nat) : (s.startOp c uid wbit path id).host = s.host := rfl
@[simp] theorem State.startOp_ramvan (s : State) (c uid wbit path id : Nat) : (s.startOp c uid wbit path id).ramvan = s.ramvan := rfl

/-! ### updHost -/
@[simp] theorem State.updHost_cyc (s : State) (f : HostIf → HostIf) : (s.updHost f).cyc = s.cyc := rfl
@[simp] theorem State.updHost_cur (s : State) (f : HostIf → HostIf) : (s.updHost f).cur = s.cur := rfl
@[simp] theorem State.updHost_freeCtr (s : State) (f : HostIf → HostIf) : (s.updHost f).freeCtr = s.freeCtr := rfl
@[simp] theorem State.updHost_laned (s : State) (f : HostIf → HostIf) : (s.updHost f).laned = s.laned := rfl
@[simp] theorem State.updHost_inbox (s : State) (f : HostIf → HostIf) : (s.updHost f).inbox = s.inbox := rfl
@[simp] theorem State.updHost_mem (s : State) (f : HostIf → HostIf) : (s.updHost f).mem = s.mem := rfl
@[simp] theorem State.updHost_fut (s : State) (f : HostIf → HostIf) : (s.updHost f).fut = s.fut := rfl
@[simp] theorem State.updHost_bad (s : State) (f : HostIf → HostIf) : (s.updHost f).bad = s.bad := rfl
@[simp] theorem State.updHost_cores (s : State) (f : HostIf → HostIf) : (s.updHost f).cores = s.cores := rfl
@[simp] theorem State.updHost_clusters (s : State) (f : HostIf → HostIf) : (s.updHost f).clusters = s.clusters := rfl
@[simp] theorem State.updHost_pairs (s : State) (f : HostIf → HostIf) : (s.updHost f).pairs = s.pairs := rfl
@[simp] theorem State.updHost_dies (s : State) (f : HostIf → HostIf) : (s.updHost f).dies = s.dies := rfl
@[simp] theorem State.updHost_parts (s : State) (f : HostIf → HostIf) : (s.updHost f).parts = s.parts := rfl
@[simp] theorem State.updHost_asids (s : State) (f : HostIf → HostIf) : (s.updHost f).asids = s.asids := rfl
@[simp] theorem State.updHost_images (s : State) (f : HostIf → HostIf) : (s.updHost f).images = s.images := rfl
@[simp] theorem State.updHost_link (s : State) (f : HostIf → HostIf) : (s.updHost f).link = s.link := rfl
@[simp] theorem State.updHost_ramvan (s : State) (f : HostIf → HostIf) : (s.updHost f).ramvan = s.ramvan := rfl

/-! ### setReply -/
@[simp] theorem State.setReply_cyc (s : State) (l : List Byte) : (s.setReply l).cyc = s.cyc := rfl
@[simp] theorem State.setReply_cur (s : State) (l : List Byte) : (s.setReply l).cur = s.cur := rfl
@[simp] theorem State.setReply_freeCtr (s : State) (l : List Byte) : (s.setReply l).freeCtr = s.freeCtr := rfl
@[simp] theorem State.setReply_laned (s : State) (l : List Byte) : (s.setReply l).laned = s.laned := rfl
@[simp] theorem State.setReply_inbox (s : State) (l : List Byte) : (s.setReply l).inbox = s.inbox := rfl
@[simp] theorem State.setReply_mem (s : State) (l : List Byte) : (s.setReply l).mem = s.mem := rfl
@[simp] theorem State.setReply_fut (s : State) (l : List Byte) : (s.setReply l).fut = s.fut := rfl
@[simp] theorem State.setReply_bad (s : State) (l : List Byte) : (s.setReply l).bad = s.bad := rfl
@[simp] theorem State.setReply_cores (s : State) (l : List Byte) : (s.setReply l).cores = s.cores := rfl
@[simp] theorem State.setReply_clusters (s : State) (l : List Byte) : (s.setReply l).clusters = s.clusters := rfl
@[simp] theorem State.setReply_pairs (s : State) (l : List Byte) : (s.setReply l).pairs = s.pairs := rfl
@[simp] theorem State.setReply_dies (s : State) (l : List Byte) : (s.setReply l).dies = s.dies := rfl
@[simp] theorem State.setReply_parts (s : State) (l : List Byte) : (s.setReply l).parts = s.parts := rfl
@[simp] theorem State.setReply_asids (s : State) (l : List Byte) : (s.setReply l).asids = s.asids := rfl
@[simp] theorem State.setReply_images (s : State) (l : List Byte) : (s.setReply l).images = s.images := rfl
@[simp] theorem State.setReply_link (s : State) (l : List Byte) : (s.setReply l).link = s.link := rfl
@[simp] theorem State.setReply_ramvan (s : State) (l : List Byte) : (s.setReply l).ramvan = s.ramvan := rfl

/-! ### updRamvan -/
@[simp] theorem State.updRamvan_cyc (s : State) (f : Ramvan → Ramvan) : (s.updRamvan f).cyc = s.cyc := rfl
@[simp] theorem State.updRamvan_cur (s : State) (f : Ramvan → Ramvan) : (s.updRamvan f).cur = s.cur := rfl
@[simp] theorem State.updRamvan_freeCtr (s : State) (f : Ramvan → Ramvan) : (s.updRamvan f).freeCtr = s.freeCtr := rfl
@[simp] theorem State.updRamvan_laned (s : State) (f : Ramvan → Ramvan) : (s.updRamvan f).laned = s.laned := rfl
@[simp] theorem State.updRamvan_inbox (s : State) (f : Ramvan → Ramvan) : (s.updRamvan f).inbox = s.inbox := rfl
@[simp] theorem State.updRamvan_mem (s : State) (f : Ramvan → Ramvan) : (s.updRamvan f).mem = s.mem := rfl
@[simp] theorem State.updRamvan_fut (s : State) (f : Ramvan → Ramvan) : (s.updRamvan f).fut = s.fut := rfl
@[simp] theorem State.updRamvan_bad (s : State) (f : Ramvan → Ramvan) : (s.updRamvan f).bad = s.bad := rfl
@[simp] theorem State.updRamvan_cores (s : State) (f : Ramvan → Ramvan) : (s.updRamvan f).cores = s.cores := rfl
@[simp] theorem State.updRamvan_clusters (s : State) (f : Ramvan → Ramvan) : (s.updRamvan f).clusters = s.clusters := rfl
@[simp] theorem State.updRamvan_pairs (s : State) (f : Ramvan → Ramvan) : (s.updRamvan f).pairs = s.pairs := rfl
@[simp] theorem State.updRamvan_dies (s : State) (f : Ramvan → Ramvan) : (s.updRamvan f).dies = s.dies := rfl
@[simp] theorem State.updRamvan_parts (s : State) (f : Ramvan → Ramvan) : (s.updRamvan f).parts = s.parts := rfl
@[simp] theorem State.updRamvan_asids (s : State) (f : Ramvan → Ramvan) : (s.updRamvan f).asids = s.asids := rfl
@[simp] theorem State.updRamvan_images (s : State) (f : Ramvan → Ramvan) : (s.updRamvan f).images = s.images := rfl
@[simp] theorem State.updRamvan_link (s : State) (f : Ramvan → Ramvan) : (s.updRamvan f).link = s.link := rfl
@[simp] theorem State.updRamvan_host (s : State) (f : Ramvan → Ramvan) : (s.updRamvan f).host = s.host := rfl

/-! ### orFlags -/
@[simp] theorem State.orFlags_cyc (s : State) (c h : Nat) (fl : Flags) : (s.orFlags c h fl).cyc = s.cyc := rfl
@[simp] theorem State.orFlags_cur (s : State) (c h : Nat) (fl : Flags) : (s.orFlags c h fl).cur = s.cur := rfl
@[simp] theorem State.orFlags_freeCtr (s : State) (c h : Nat) (fl : Flags) : (s.orFlags c h fl).freeCtr = s.freeCtr := rfl
@[simp] theorem State.orFlags_laned (s : State) (c h : Nat) (fl : Flags) : (s.orFlags c h fl).laned = s.laned := rfl
@[simp] theorem State.orFlags_inbox (s : State) (c h : Nat) (fl : Flags) : (s.orFlags c h fl).inbox = s.inbox := rfl
@[simp] theorem State.orFlags_mem (s : State) (c h : Nat) (fl : Flags) : (s.orFlags c h fl).mem = s.mem := rfl
@[simp] theorem State.orFlags_fut (s : State) (c h : Nat) (fl : Flags) : (s.orFlags c h fl).fut = s.fut := rfl
@[simp] theorem State.orFlags_bad (s : State) (c h : Nat) (fl : Flags) : (s.orFlags c h fl).bad = s.bad := rfl
@[simp] theorem State.orFlags_clusters (s : State) (c h : Nat) (fl : Flags) : (s.orFlags c h fl).clusters = s.clusters := rfl
@[simp] theorem State.orFlags_pairs (s : State) (c h : Nat) (fl : Flags) : (s.orFlags c h fl).pairs = s.pairs := rfl
@[simp] theorem State.orFlags_dies (s : State) (c h : Nat) (fl : Flags) : (s.orFlags c h fl).dies = s.dies := rfl
@[simp] theorem State.orFlags_parts (s : State) (c h : Nat) (fl : Flags) : (s.orFlags c h fl).parts = s.parts := rfl
@[simp] theorem State.orFlags_asids (s : State) (c h : Nat) (fl : Flags) : (s.orFlags c h fl).asids = s.asids := rfl
@[simp] theorem State.orFlags_images (s : State) (c h : Nat) (fl : Flags) : (s.orFlags c h fl).images = s.images := rfl
@[simp] theorem State.orFlags_link (s : State) (c h : Nat) (fl : Flags) : (s.orFlags c h fl).link = s.link := rfl
@[simp] theorem State.orFlags_host (s : State) (c h : Nat) (fl : Flags) : (s.orFlags c h fl).host = s.host := rfl
@[simp] theorem State.orFlags_ramvan (s : State) (c h : Nat) (fl : Flags) : (s.orFlags c h fl).ramvan = s.ramvan := rfl

/-! ### holdTrain -/
@[simp] theorem State.holdTrain_cyc (s : State) (c : Nat) (t : Train) (h : Hold) : (s.holdTrain c t h).cyc = s.cyc := rfl
@[simp] theorem State.holdTrain_cur (s : State) (c : Nat) (t : Train) (h : Hold) : (s.holdTrain c t h).cur = s.cur := rfl
@[simp] theorem State.holdTrain_freeCtr (s : State) (c : Nat) (t : Train) (h : Hold) : (s.holdTrain c t h).freeCtr = s.freeCtr := rfl
@[simp] theorem State.holdTrain_laned (s : State) (c : Nat) (t : Train) (h : Hold) : (s.holdTrain c t h).laned = s.laned := rfl
@[simp] theorem State.holdTrain_inbox (s : State) (c : Nat) (t : Train) (h : Hold) : (s.holdTrain c t h).inbox = s.inbox := rfl
@[simp] theorem State.holdTrain_mem (s : State) (c : Nat) (t : Train) (h : Hold) : (s.holdTrain c t h).mem = s.mem := rfl
@[simp] theorem State.holdTrain_fut (s : State) (c : Nat) (t : Train) (h : Hold) : (s.holdTrain c t h).fut = s.fut := rfl
@[simp] theorem State.holdTrain_bad (s : State) (c : Nat) (t : Train) (h : Hold) : (s.holdTrain c t h).bad = s.bad := rfl
@[simp] theorem State.holdTrain_clusters (s : State) (c : Nat) (t : Train) (h : Hold) : (s.holdTrain c t h).clusters = s.clusters := rfl
@[simp] theorem State.holdTrain_pairs (s : State) (c : Nat) (t : Train) (h : Hold) : (s.holdTrain c t h).pairs = s.pairs := rfl
@[simp] theorem State.holdTrain_dies (s : State) (c : Nat) (t : Train) (h : Hold) : (s.holdTrain c t h).dies = s.dies := rfl
@[simp] theorem State.holdTrain_parts (s : State) (c : Nat) (t : Train) (h : Hold) : (s.holdTrain c t h).parts = s.parts := rfl
@[simp] theorem State.holdTrain_asids (s : State) (c : Nat) (t : Train) (h : Hold) : (s.holdTrain c t h).asids = s.asids := rfl
@[simp] theorem State.holdTrain_images (s : State) (c : Nat) (t : Train) (h : Hold) : (s.holdTrain c t h).images = s.images := rfl
@[simp] theorem State.holdTrain_link (s : State) (c : Nat) (t : Train) (h : Hold) : (s.holdTrain c t h).link = s.link := rfl
@[simp] theorem State.holdTrain_host (s : State) (c : Nat) (t : Train) (h : Hold) : (s.holdTrain c t h).host = s.host := rfl
@[simp] theorem State.holdTrain_ramvan (s : State) (c : Nat) (t : Train) (h : Hold) : (s.holdTrain c t h).ramvan = s.ramvan := rfl

/-! ### remote -/
@[simp] theorem State.remote_cyc (s : State) (q : RemoteReq) : (s.remote q).cyc = s.cyc := rfl
@[simp] theorem State.remote_cur (s : State) (q : RemoteReq) : (s.remote q).cur = s.cur := rfl
@[simp] theorem State.remote_freeCtr (s : State) (q : RemoteReq) : (s.remote q).freeCtr = s.freeCtr := rfl
@[simp] theorem State.remote_laned (s : State) (q : RemoteReq) : (s.remote q).laned = s.laned := rfl
@[simp] theorem State.remote_inbox (s : State) (q : RemoteReq) : (s.remote q).inbox = s.inbox := rfl
@[simp] theorem State.remote_mem (s : State) (q : RemoteReq) : (s.remote q).mem = s.mem := rfl
@[simp] theorem State.remote_fut (s : State) (q : RemoteReq) : (s.remote q).fut = s.fut := rfl
@[simp] theorem State.remote_bad (s : State) (q : RemoteReq) : (s.remote q).bad = s.bad := rfl
@[simp] theorem State.remote_cores (s : State) (q : RemoteReq) : (s.remote q).cores = s.cores := rfl
@[simp] theorem State.remote_clusters (s : State) (q : RemoteReq) : (s.remote q).clusters = s.clusters := rfl
@[simp] theorem State.remote_pairs (s : State) (q : RemoteReq) : (s.remote q).pairs = s.pairs := rfl
@[simp] theorem State.remote_dies (s : State) (q : RemoteReq) : (s.remote q).dies = s.dies := rfl
@[simp] theorem State.remote_parts (s : State) (q : RemoteReq) : (s.remote q).parts = s.parts := rfl
@[simp] theorem State.remote_asids (s : State) (q : RemoteReq) : (s.remote q).asids = s.asids := rfl
@[simp] theorem State.remote_images (s : State) (q : RemoteReq) : (s.remote q).images = s.images := rfl
@[simp] theorem State.remote_host (s : State) (q : RemoteReq) : (s.remote q).host = s.host := rfl
@[simp] theorem State.remote_ramvan (s : State) (q : RemoteReq) : (s.remote q).ramvan = s.ramvan := rfl

/-! ### emit -/
@[simp] theorem State.emit_cyc (s : State) (p : OutPkt) : (s.emit p).cyc = s.cyc := rfl
@[simp] theorem State.emit_cur (s : State) (p : OutPkt) : (s.emit p).cur = s.cur := rfl
@[simp] theorem State.emit_freeCtr (s : State) (p : OutPkt) : (s.emit p).freeCtr = s.freeCtr := rfl
@[simp] theorem State.emit_laned (s : State) (p : OutPkt) : (s.emit p).laned = s.laned := rfl
@[simp] theorem State.emit_inbox (s : State) (p : OutPkt) : (s.emit p).inbox = s.inbox := rfl
@[simp] theorem State.emit_mem (s : State) (p : OutPkt) : (s.emit p).mem = s.mem := rfl
@[simp] theorem State.emit_fut (s : State) (p : OutPkt) : (s.emit p).fut = s.fut := rfl
@[simp] theorem State.emit_bad (s : State) (p : OutPkt) : (s.emit p).bad = s.bad := rfl
@[simp] theorem State.emit_cores (s : State) (p : OutPkt) : (s.emit p).cores = s.cores := rfl
@[simp] theorem State.emit_clusters (s : State) (p : OutPkt) : (s.emit p).clusters = s.clusters := rfl
@[simp] theorem State.emit_pairs (s : State) (p : OutPkt) : (s.emit p).pairs = s.pairs := rfl
@[simp] theorem State.emit_dies (s : State) (p : OutPkt) : (s.emit p).dies = s.dies := rfl
@[simp] theorem State.emit_parts (s : State) (p : OutPkt) : (s.emit p).parts = s.parts := rfl
@[simp] theorem State.emit_asids (s : State) (p : OutPkt) : (s.emit p).asids = s.asids := rfl
@[simp] theorem State.emit_images (s : State) (p : OutPkt) : (s.emit p).images = s.images := rfl
@[simp] theorem State.emit_host (s : State) (p : OutPkt) : (s.emit p).host = s.host := rfl
@[simp] theorem State.emit_ramvan (s : State) (p : OutPkt) : (s.emit p).ramvan = s.ramvan := rfl

/-! ### pathWrite -/
@[simp] theorem State.pathWrite_cyc (s : State) (pa : Nat) (bs : List Byte) : (s.pathWrite pa bs).cyc = s.cyc := rfl
@[simp] theorem State.pathWrite_cur (s : State) (pa : Nat) (bs : List Byte) : (s.pathWrite pa bs).cur = s.cur := rfl
@[simp] theorem State.pathWrite_freeCtr (s : State) (pa : Nat) (bs : List Byte) : (s.pathWrite pa bs).freeCtr = s.freeCtr := rfl
@[simp] theorem State.pathWrite_laned (s : State) (pa : Nat) (bs : List Byte) : (s.pathWrite pa bs).laned = s.laned := rfl
@[simp] theorem State.pathWrite_inbox (s : State) (pa : Nat) (bs : List Byte) : (s.pathWrite pa bs).inbox = s.inbox := rfl
@[simp] theorem State.pathWrite_fut (s : State) (pa : Nat) (bs : List Byte) : (s.pathWrite pa bs).fut = s.fut := rfl
@[simp] theorem State.pathWrite_cores (s : State) (pa : Nat) (bs : List Byte) : (s.pathWrite pa bs).cores = s.cores := rfl
@[simp] theorem State.pathWrite_clusters (s : State) (pa : Nat) (bs : List Byte) : (s.pathWrite pa bs).clusters = s.clusters := rfl
@[simp] theorem State.pathWrite_pairs (s : State) (pa : Nat) (bs : List Byte) : (s.pathWrite pa bs).pairs = s.pairs := rfl
@[simp] theorem State.pathWrite_dies (s : State) (pa : Nat) (bs : List Byte) : (s.pathWrite pa bs).dies = s.dies := rfl
@[simp] theorem State.pathWrite_parts (s : State) (pa : Nat) (bs : List Byte) : (s.pathWrite pa bs).parts = s.parts := rfl
@[simp] theorem State.pathWrite_asids (s : State) (pa : Nat) (bs : List Byte) : (s.pathWrite pa bs).asids = s.asids := rfl
@[simp] theorem State.pathWrite_images (s : State) (pa : Nat) (bs : List Byte) : (s.pathWrite pa bs).images = s.images := rfl
@[simp] theorem State.pathWrite_link (s : State) (pa : Nat) (bs : List Byte) : (s.pathWrite pa bs).link = s.link := rfl
@[simp] theorem State.pathWrite_host (s : State) (pa : Nat) (bs : List Byte) : (s.pathWrite pa bs).host = s.host := rfl
@[simp] theorem State.pathWrite_ramvan (s : State) (pa : Nat) (bs : List Byte) : (s.pathWrite pa bs).ramvan = s.ramvan := rfl

/-! ### draw -/
@[simp] theorem State.draw_cyc (s : State) : s.draw.2.cyc = s.cyc := rfl
@[simp] theorem State.draw_cur (s : State) : s.draw.2.cur = s.cur := rfl
@[simp] theorem State.draw_laned (s : State) : s.draw.2.laned = s.laned := rfl
@[simp] theorem State.draw_inbox (s : State) : s.draw.2.inbox = s.inbox := rfl
@[simp] theorem State.draw_mem (s : State) : s.draw.2.mem = s.mem := rfl
@[simp] theorem State.draw_fut (s : State) : s.draw.2.fut = s.fut := rfl
@[simp] theorem State.draw_bad (s : State) : s.draw.2.bad = s.bad := rfl
@[simp] theorem State.draw_cores (s : State) : s.draw.2.cores = s.cores := rfl
@[simp] theorem State.draw_clusters (s : State) : s.draw.2.clusters = s.clusters := rfl
@[simp] theorem State.draw_pairs (s : State) : s.draw.2.pairs = s.pairs := rfl
@[simp] theorem State.draw_dies (s : State) : s.draw.2.dies = s.dies := rfl
@[simp] theorem State.draw_parts (s : State) : s.draw.2.parts = s.parts := rfl
@[simp] theorem State.draw_asids (s : State) : s.draw.2.asids = s.asids := rfl
@[simp] theorem State.draw_images (s : State) : s.draw.2.images = s.images := rfl
@[simp] theorem State.draw_link (s : State) : s.draw.2.link = s.link := rfl
@[simp] theorem State.draw_host (s : State) : s.draw.2.host = s.host := rfl
@[simp] theorem State.draw_ramvan (s : State) : s.draw.2.ramvan = s.ramvan := rfl

/-! ### Numbered parts -/

@[simp] theorem State.core_setCore_same (s : State) (i : Nat) (k : Core) : (s.setCore i k).core i = k := by simp [State.core, State.setCore]

theorem State.core_setCore_ne (s : State) (i j : Nat) (k : Core) (h : j ≠ i) : (s.setCore i k).core j = s.core j := by
  simp [State.core, State.setCore, NMap.getD_set_ne _ _ _ _ _ h]

@[simp] theorem State.core_updCore_same (s : State) (i : Nat) (f : Core → Core) : (s.updCore i f).core i = f (s.core i) := by
  simp [State.updCore]

theorem State.core_updCore_ne (s : State) (i j : Nat) (f : Core → Core) (h : j ≠ i) : (s.updCore i f).core j = s.core j :=
  s.core_setCore_ne i j _ h

@[simp] theorem State.cluster_setCluster_same (s : State) (i : Nat) (k : Cluster) : (s.setCluster i k).cluster i = k := by simp [State.cluster, State.setCluster]

theorem State.cluster_setCluster_ne (s : State) (i j : Nat) (k : Cluster) (h : j ≠ i) : (s.setCluster i k).cluster j = s.cluster j := by
  simp [State.cluster, State.setCluster, NMap.getD_set_ne _ _ _ _ _ h]

@[simp] theorem State.cluster_updCluster_same (s : State) (i : Nat) (f : Cluster → Cluster) : (s.updCluster i f).cluster i = f (s.cluster i) := by
  simp [State.updCluster]

theorem State.cluster_updCluster_ne (s : State) (i j : Nat) (f : Cluster → Cluster) (h : j ≠ i) : (s.updCluster i f).cluster j = s.cluster j :=
  s.cluster_setCluster_ne i j _ h

@[simp] theorem State.pair_setPair_same (s : State) (i : Nat) (k : Pair) : (s.setPair i k).pair i = k := by simp [State.pair, State.setPair]

theorem State.pair_setPair_ne (s : State) (i j : Nat) (k : Pair) (h : j ≠ i) : (s.setPair i k).pair j = s.pair j := by
  simp [State.pair, State.setPair, NMap.getD_set_ne _ _ _ _ _ h]

@[simp] theorem State.die_setDie_same (s : State) (i : Nat) (k : Die) : (s.setDie i k).die i = k := by simp [State.die, State.setDie]

theorem State.die_setDie_ne (s : State) (i j : Nat) (k : Die) (h : j ≠ i) : (s.setDie i k).die j = s.die j := by
  simp [State.die, State.setDie, NMap.getD_set_ne _ _ _ _ _ h]

@[simp] theorem State.die_updDie_same (s : State) (i : Nat) (f : Die → Die) : (s.updDie i f).die i = f (s.die i) := by
  simp [State.updDie]

theorem State.die_updDie_ne (s : State) (i j : Nat) (f : Die → Die) (h : j ≠ i) : (s.updDie i f).die j = s.die j :=
  s.die_setDie_ne i j _ h

@[simp] theorem State.part_setPart_same (s : State) (i : Nat) (k : Partition) : (s.setPart i k).part i = k := by simp [State.part, State.setPart]

theorem State.part_setPart_ne (s : State) (i j : Nat) (k : Partition) (h : j ≠ i) : (s.setPart i k).part j = s.part j := by
  simp [State.part, State.setPart, NMap.getD_set_ne _ _ _ _ _ h]

@[simp] theorem State.part_updPart_same (s : State) (i : Nat) (f : Partition → Partition) : (s.updPart i f).part i = f (s.part i) := by
  simp [State.updPart]

theorem State.part_updPart_ne (s : State) (i j : Nat) (f : Partition → Partition) (h : j ≠ i) : (s.updPart i f).part j = s.part j :=
  s.part_setPart_ne i j _ h

/-! ### Parts that another part's change leaves alone -/
@[simp] theorem State.cluster_setCore (s : State) (c : Nat) (k : Core) (n : Nat) : (s.setCore c k).cluster n = s.cluster n := rfl
@[simp] theorem State.pair_setCore (s : State) (c : Nat) (k : Core) (n : Nat) : (s.setCore c k).pair n = s.pair n := rfl
@[simp] theorem State.die_setCore (s : State) (c : Nat) (k : Core) (n : Nat) : (s.setCore c k).die n = s.die n := rfl
@[simp] theorem State.part_setCore (s : State) (c : Nat) (k : Core) (n : Nat) : (s.setCore c k).part n = s.part n := rfl
@[simp] theorem State.launch_setCore (s : State) (c : Nat) (k : Core) (r : LaunchRef) : (s.setCore c k).launch? r = s.launch? r := rfl
@[simp] theorem State.cluster_updCore (s : State) (c : Nat) (f : Core → Core) (n : Nat) : (s.updCore c f).cluster n = s.cluster n := rfl
@[simp] theorem State.pair_updCore (s : State) (c : Nat) (f : Core → Core) (n : Nat) : (s.updCore c f).pair n = s.pair n := rfl
@[simp] theorem State.die_updCore (s : State) (c : Nat) (f : Core → Core) (n : Nat) : (s.updCore c f).die n = s.die n := rfl
@[simp] theorem State.part_updCore (s : State) (c : Nat) (f : Core → Core) (n : Nat) : (s.updCore c f).part n = s.part n := rfl
@[simp] theorem State.launch_updCore (s : State) (c : Nat) (f : Core → Core) (r : LaunchRef) : (s.updCore c f).launch? r = s.launch? r := rfl
@[simp] theorem State.core_setCluster (s : State) (c : Nat) (k : Cluster) (n : Nat) : (s.setCluster c k).core n = s.core n := rfl
@[simp] theorem State.pair_setCluster (s : State) (c : Nat) (k : Cluster) (n : Nat) : (s.setCluster c k).pair n = s.pair n := rfl
@[simp] theorem State.die_setCluster (s : State) (c : Nat) (k : Cluster) (n : Nat) : (s.setCluster c k).die n = s.die n := rfl
@[simp] theorem State.part_setCluster (s : State) (c : Nat) (k : Cluster) (n : Nat) : (s.setCluster c k).part n = s.part n := rfl
@[simp] theorem State.launch_setCluster (s : State) (c : Nat) (k : Cluster) (r : LaunchRef) : (s.setCluster c k).launch? r = s.launch? r := rfl
@[simp] theorem State.core_updCluster (s : State) (c : Nat) (f : Cluster → Cluster) (n : Nat) : (s.updCluster c f).core n = s.core n := rfl
@[simp] theorem State.pair_updCluster (s : State) (c : Nat) (f : Cluster → Cluster) (n : Nat) : (s.updCluster c f).pair n = s.pair n := rfl
@[simp] theorem State.die_updCluster (s : State) (c : Nat) (f : Cluster → Cluster) (n : Nat) : (s.updCluster c f).die n = s.die n := rfl
@[simp] theorem State.part_updCluster (s : State) (c : Nat) (f : Cluster → Cluster) (n : Nat) : (s.updCluster c f).part n = s.part n := rfl
@[simp] theorem State.launch_updCluster (s : State) (c : Nat) (f : Cluster → Cluster) (r : LaunchRef) : (s.updCluster c f).launch? r = s.launch? r := rfl
@[simp] theorem State.core_setPair (s : State) (p : Nat) (k : Pair) (n : Nat) : (s.setPair p k).core n = s.core n := rfl
@[simp] theorem State.cluster_setPair (s : State) (p : Nat) (k : Pair) (n : Nat) : (s.setPair p k).cluster n = s.cluster n := rfl
@[simp] theorem State.die_setPair (s : State) (p : Nat) (k : Pair) (n : Nat) : (s.setPair p k).die n = s.die n := rfl
@[simp] theorem State.part_setPair (s : State) (p : Nat) (k : Pair) (n : Nat) : (s.setPair p k).part n = s.part n := rfl
@[simp] theorem State.launch_setPair (s : State) (p : Nat) (k : Pair) (r : LaunchRef) : (s.setPair p k).launch? r = s.launch? r := rfl
@[simp] theorem State.core_setMctx (s : State) (c i : Nat) (x : MCtx) (n : Nat) : (s.setMctx c i x).core n = s.core n := rfl
@[simp] theorem State.cluster_setMctx (s : State) (c i : Nat) (x : MCtx) (n : Nat) : (s.setMctx c i x).cluster n = s.cluster n := rfl
@[simp] theorem State.die_setMctx (s : State) (c i : Nat) (x : MCtx) (n : Nat) : (s.setMctx c i x).die n = s.die n := rfl
@[simp] theorem State.part_setMctx (s : State) (c i : Nat) (x : MCtx) (n : Nat) : (s.setMctx c i x).part n = s.part n := rfl
@[simp] theorem State.launch_setMctx (s : State) (c i : Nat) (x : MCtx) (r : LaunchRef) : (s.setMctx c i x).launch? r = s.launch? r := rfl
@[simp] theorem State.core_setDie (s : State) (d : Nat) (k : Die) (n : Nat) : (s.setDie d k).core n = s.core n := rfl
@[simp] theorem State.cluster_setDie (s : State) (d : Nat) (k : Die) (n : Nat) : (s.setDie d k).cluster n = s.cluster n := rfl
@[simp] theorem State.pair_setDie (s : State) (d : Nat) (k : Die) (n : Nat) : (s.setDie d k).pair n = s.pair n := rfl
@[simp] theorem State.part_setDie (s : State) (d : Nat) (k : Die) (n : Nat) : (s.setDie d k).part n = s.part n := rfl
@[simp] theorem State.launch_setDie (s : State) (d : Nat) (k : Die) (r : LaunchRef) : (s.setDie d k).launch? r = s.launch? r := rfl
@[simp] theorem State.core_updDie (s : State) (d : Nat) (f : Die → Die) (n : Nat) : (s.updDie d f).core n = s.core n := rfl
@[simp] theorem State.cluster_updDie (s : State) (d : Nat) (f : Die → Die) (n : Nat) : (s.updDie d f).cluster n = s.cluster n := rfl
@[simp] theorem State.pair_updDie (s : State) (d : Nat) (f : Die → Die) (n : Nat) : (s.updDie d f).pair n = s.pair n := rfl
@[simp] theorem State.part_updDie (s : State) (d : Nat) (f : Die → Die) (n : Nat) : (s.updDie d f).part n = s.part n := rfl
@[simp] theorem State.launch_updDie (s : State) (d : Nat) (f : Die → Die) (r : LaunchRef) : (s.updDie d f).launch? r = s.launch? r := rfl
@[simp] theorem State.core_setPart (s : State) (p : Nat) (k : Partition) (n : Nat) : (s.setPart p k).core n = s.core n := rfl
@[simp] theorem State.cluster_setPart (s : State) (p : Nat) (k : Partition) (n : Nat) : (s.setPart p k).cluster n = s.cluster n := rfl
@[simp] theorem State.pair_setPart (s : State) (p : Nat) (k : Partition) (n : Nat) : (s.setPart p k).pair n = s.pair n := rfl
@[simp] theorem State.die_setPart (s : State) (p : Nat) (k : Partition) (n : Nat) : (s.setPart p k).die n = s.die n := rfl
@[simp] theorem State.core_updPart (s : State) (p : Nat) (f : Partition → Partition) (n : Nat) : (s.updPart p f).core n = s.core n := rfl
@[simp] theorem State.cluster_updPart (s : State) (p : Nat) (f : Partition → Partition) (n : Nat) : (s.updPart p f).cluster n = s.cluster n := rfl
@[simp] theorem State.pair_updPart (s : State) (p : Nat) (f : Partition → Partition) (n : Nat) : (s.updPart p f).pair n = s.pair n := rfl
@[simp] theorem State.die_updPart (s : State) (p : Nat) (f : Partition → Partition) (n : Nat) : (s.updPart p f).die n = s.die n := rfl
@[simp] theorem State.core_setLaunch (s : State) (p : Nat) (l : Launch) (n : Nat) : (s.setLaunch p l).core n = s.core n := rfl
@[simp] theorem State.cluster_setLaunch (s : State) (p : Nat) (l : Launch) (n : Nat) : (s.setLaunch p l).cluster n = s.cluster n := rfl
@[simp] theorem State.pair_setLaunch (s : State) (p : Nat) (l : Launch) (n : Nat) : (s.setLaunch p l).pair n = s.pair n := rfl
@[simp] theorem State.die_setLaunch (s : State) (p : Nat) (l : Launch) (n : Nat) : (s.setLaunch p l).die n = s.die n := rfl
@[simp] theorem State.cluster_setFrame (s : State) (c h : Nat) (f : Frame) (n : Nat) : (s.setFrame c h f).cluster n = s.cluster n := rfl
@[simp] theorem State.pair_setFrame (s : State) (c h : Nat) (f : Frame) (n : Nat) : (s.setFrame c h f).pair n = s.pair n := rfl
@[simp] theorem State.die_setFrame (s : State) (c h : Nat) (f : Frame) (n : Nat) : (s.setFrame c h f).die n = s.die n := rfl
@[simp] theorem State.part_setFrame (s : State) (c h : Nat) (f : Frame) (n : Nat) : (s.setFrame c h f).part n = s.part n := rfl
@[simp] theorem State.launch_setFrame (s : State) (c h : Nat) (f : Frame) (r : LaunchRef) : (s.setFrame c h f).launch? r = s.launch? r := rfl
@[simp] theorem State.cluster_updEng (s : State) (c : Nat) (f : CoreEngines → CoreEngines) (n : Nat) : (s.updEng c f).cluster n = s.cluster n := rfl
@[simp] theorem State.pair_updEng (s : State) (c : Nat) (f : CoreEngines → CoreEngines) (n : Nat) : (s.updEng c f).pair n = s.pair n := rfl
@[simp] theorem State.die_updEng (s : State) (c : Nat) (f : CoreEngines → CoreEngines) (n : Nat) : (s.updEng c f).die n = s.die n := rfl
@[simp] theorem State.part_updEng (s : State) (c : Nat) (f : CoreEngines → CoreEngines) (n : Nat) : (s.updEng c f).part n = s.part n := rfl
@[simp] theorem State.launch_updEng (s : State) (c : Nat) (f : CoreEngines → CoreEngines) (r : LaunchRef) : (s.updEng c f).launch? r = s.launch? r := rfl
@[simp] theorem State.cluster_putTrain (s : State) (c : Nat) (t : Train) (n : Nat) : (s.putTrain c t).cluster n = s.cluster n := rfl
@[simp] theorem State.pair_putTrain (s : State) (c : Nat) (t : Train) (n : Nat) : (s.putTrain c t).pair n = s.pair n := rfl
@[simp] theorem State.die_putTrain (s : State) (c : Nat) (t : Train) (n : Nat) : (s.putTrain c t).die n = s.die n := rfl
@[simp] theorem State.part_putTrain (s : State) (c : Nat) (t : Train) (n : Nat) : (s.putTrain c t).part n = s.part n := rfl
@[simp] theorem State.launch_putTrain (s : State) (c : Nat) (t : Train) (r : LaunchRef) : (s.putTrain c t).launch? r = s.launch? r := rfl
@[simp] theorem State.cluster_retire (s : State) (c : Nat) (t : Train) (n : Nat) : (s.retire c t).cluster n = s.cluster n := rfl
@[simp] theorem State.pair_retire (s : State) (c : Nat) (t : Train) (n : Nat) : (s.retire c t).pair n = s.pair n := rfl
@[simp] theorem State.die_retire (s : State) (c : Nat) (t : Train) (n : Nat) : (s.retire c t).die n = s.die n := rfl
@[simp] theorem State.part_retire (s : State) (c : Nat) (t : Train) (n : Nat) : (s.retire c t).part n = s.part n := rfl
@[simp] theorem State.launch_retire (s : State) (c : Nat) (t : Train) (r : LaunchRef) : (s.retire c t).launch? r = s.launch? r := rfl
@[simp] theorem State.cluster_endOp (s : State) (c id : Nat) (n : Nat) : (s.endOp c id).cluster n = s.cluster n := rfl
@[simp] theorem State.pair_endOp (s : State) (c id : Nat) (n : Nat) : (s.endOp c id).pair n = s.pair n := rfl
@[simp] theorem State.die_endOp (s : State) (c id : Nat) (n : Nat) : (s.endOp c id).die n = s.die n := rfl
@[simp] theorem State.part_endOp (s : State) (c id : Nat) (n : Nat) : (s.endOp c id).part n = s.part n := rfl
@[simp] theorem State.launch_endOp (s : State) (c id : Nat) (r : LaunchRef) : (s.endOp c id).launch? r = s.launch? r := rfl
@[simp] theorem State.cluster_startOp (s : State) (c uid wbit path id : Nat) (n : Nat) : (s.startOp c uid wbit path id).cluster n = s.cluster n := rfl
@[simp] theorem State.pair_startOp (s : State) (c uid wbit path id : Nat) (n : Nat) : (s.startOp c uid wbit path id).pair n = s.pair n := rfl
@[simp] theorem State.die_startOp (s : State) (c uid wbit path id : Nat) (n : Nat) : (s.startOp c uid wbit path id).die n = s.die n := rfl
@[simp] theorem State.part_startOp (s : State) (c uid wbit path id : Nat) (n : Nat) : (s.startOp c uid wbit path id).part n = s.part n := rfl
@[simp] theorem State.launch_startOp (s : State) (c uid wbit path id : Nat) (r : LaunchRef) : (s.startOp c uid wbit path id).launch? r = s.launch? r := rfl
@[simp] theorem State.core_updHost (s : State) (f : HostIf → HostIf) (n : Nat) : (s.updHost f).core n = s.core n := rfl
@[simp] theorem State.cluster_updHost (s : State) (f : HostIf → HostIf) (n : Nat) : (s.updHost f).cluster n = s.cluster n := rfl
@[simp] theorem State.pair_updHost (s : State) (f : HostIf → HostIf) (n : Nat) : (s.updHost f).pair n = s.pair n := rfl
@[simp] theorem State.die_updHost (s : State) (f : HostIf → HostIf) (n : Nat) : (s.updHost f).die n = s.die n := rfl
@[simp] theorem State.part_updHost (s : State) (f : HostIf → HostIf) (n : Nat) : (s.updHost f).part n = s.part n := rfl
@[simp] theorem State.launch_updHost (s : State) (f : HostIf → HostIf) (r : LaunchRef) : (s.updHost f).launch? r = s.launch? r := rfl
@[simp] theorem State.core_setReply (s : State) (l : List Byte) (n : Nat) : (s.setReply l).core n = s.core n := rfl
@[simp] theorem State.cluster_setReply (s : State) (l : List Byte) (n : Nat) : (s.setReply l).cluster n = s.cluster n := rfl
@[simp] theorem State.pair_setReply (s : State) (l : List Byte) (n : Nat) : (s.setReply l).pair n = s.pair n := rfl
@[simp] theorem State.die_setReply (s : State) (l : List Byte) (n : Nat) : (s.setReply l).die n = s.die n := rfl
@[simp] theorem State.part_setReply (s : State) (l : List Byte) (n : Nat) : (s.setReply l).part n = s.part n := rfl
@[simp] theorem State.launch_setReply (s : State) (l : List Byte) (r : LaunchRef) : (s.setReply l).launch? r = s.launch? r := rfl
@[simp] theorem State.core_updRamvan (s : State) (f : Ramvan → Ramvan) (n : Nat) : (s.updRamvan f).core n = s.core n := rfl
@[simp] theorem State.cluster_updRamvan (s : State) (f : Ramvan → Ramvan) (n : Nat) : (s.updRamvan f).cluster n = s.cluster n := rfl
@[simp] theorem State.pair_updRamvan (s : State) (f : Ramvan → Ramvan) (n : Nat) : (s.updRamvan f).pair n = s.pair n := rfl
@[simp] theorem State.die_updRamvan (s : State) (f : Ramvan → Ramvan) (n : Nat) : (s.updRamvan f).die n = s.die n := rfl
@[simp] theorem State.part_updRamvan (s : State) (f : Ramvan → Ramvan) (n : Nat) : (s.updRamvan f).part n = s.part n := rfl
@[simp] theorem State.launch_updRamvan (s : State) (f : Ramvan → Ramvan) (r : LaunchRef) : (s.updRamvan f).launch? r = s.launch? r := rfl
@[simp] theorem State.cluster_orFlags (s : State) (c h : Nat) (fl : Flags) (n : Nat) : (s.orFlags c h fl).cluster n = s.cluster n := rfl
@[simp] theorem State.pair_orFlags (s : State) (c h : Nat) (fl : Flags) (n : Nat) : (s.orFlags c h fl).pair n = s.pair n := rfl
@[simp] theorem State.die_orFlags (s : State) (c h : Nat) (fl : Flags) (n : Nat) : (s.orFlags c h fl).die n = s.die n := rfl
@[simp] theorem State.part_orFlags (s : State) (c h : Nat) (fl : Flags) (n : Nat) : (s.orFlags c h fl).part n = s.part n := rfl
@[simp] theorem State.launch_orFlags (s : State) (c h : Nat) (fl : Flags) (r : LaunchRef) : (s.orFlags c h fl).launch? r = s.launch? r := rfl
@[simp] theorem State.cluster_holdTrain (s : State) (c : Nat) (t : Train) (h : Hold) (n : Nat) : (s.holdTrain c t h).cluster n = s.cluster n := rfl
@[simp] theorem State.pair_holdTrain (s : State) (c : Nat) (t : Train) (h : Hold) (n : Nat) : (s.holdTrain c t h).pair n = s.pair n := rfl
@[simp] theorem State.die_holdTrain (s : State) (c : Nat) (t : Train) (h : Hold) (n : Nat) : (s.holdTrain c t h).die n = s.die n := rfl
@[simp] theorem State.part_holdTrain (s : State) (c : Nat) (t : Train) (h : Hold) (n : Nat) : (s.holdTrain c t h).part n = s.part n := rfl
@[simp] theorem State.launch_holdTrain (s : State) (c : Nat) (t : Train) (h : Hold) (r : LaunchRef) : (s.holdTrain c t h).launch? r = s.launch? r := rfl
@[simp] theorem State.core_remote (s : State) (q : RemoteReq) (n : Nat) : (s.remote q).core n = s.core n := rfl
@[simp] theorem State.cluster_remote (s : State) (q : RemoteReq) (n : Nat) : (s.remote q).cluster n = s.cluster n := rfl
@[simp] theorem State.pair_remote (s : State) (q : RemoteReq) (n : Nat) : (s.remote q).pair n = s.pair n := rfl
@[simp] theorem State.die_remote (s : State) (q : RemoteReq) (n : Nat) : (s.remote q).die n = s.die n := rfl
@[simp] theorem State.part_remote (s : State) (q : RemoteReq) (n : Nat) : (s.remote q).part n = s.part n := rfl
@[simp] theorem State.launch_remote (s : State) (q : RemoteReq) (r : LaunchRef) : (s.remote q).launch? r = s.launch? r := rfl
@[simp] theorem State.core_emit (s : State) (p : OutPkt) (n : Nat) : (s.emit p).core n = s.core n := rfl
@[simp] theorem State.cluster_emit (s : State) (p : OutPkt) (n : Nat) : (s.emit p).cluster n = s.cluster n := rfl
@[simp] theorem State.pair_emit (s : State) (p : OutPkt) (n : Nat) : (s.emit p).pair n = s.pair n := rfl
@[simp] theorem State.die_emit (s : State) (p : OutPkt) (n : Nat) : (s.emit p).die n = s.die n := rfl
@[simp] theorem State.part_emit (s : State) (p : OutPkt) (n : Nat) : (s.emit p).part n = s.part n := rfl
@[simp] theorem State.launch_emit (s : State) (p : OutPkt) (r : LaunchRef) : (s.emit p).launch? r = s.launch? r := rfl
@[simp] theorem State.core_pathWrite (s : State) (pa : Nat) (bs : List Byte) (n : Nat) : (s.pathWrite pa bs).core n = s.core n := rfl
@[simp] theorem State.cluster_pathWrite (s : State) (pa : Nat) (bs : List Byte) (n : Nat) : (s.pathWrite pa bs).cluster n = s.cluster n := rfl
@[simp] theorem State.pair_pathWrite (s : State) (pa : Nat) (bs : List Byte) (n : Nat) : (s.pathWrite pa bs).pair n = s.pair n := rfl
@[simp] theorem State.die_pathWrite (s : State) (pa : Nat) (bs : List Byte) (n : Nat) : (s.pathWrite pa bs).die n = s.die n := rfl
@[simp] theorem State.part_pathWrite (s : State) (pa : Nat) (bs : List Byte) (n : Nat) : (s.pathWrite pa bs).part n = s.part n := rfl
@[simp] theorem State.launch_pathWrite (s : State) (pa : Nat) (bs : List Byte) (r : LaunchRef) : (s.pathWrite pa bs).launch? r = s.launch? r := rfl

/-! ### Frames and trains -/

@[simp] theorem State.frame_setFrame_same (s : State) (c h : Nat) (f : Frame) : (s.setFrame c h f).frame c h = f := by
  simp [State.frame, State.setFrame]

theorem State.frame_setFrame_ne (s : State) (c h j : Nat) (f : Frame) (hj : j ≠ h) : (s.setFrame c h f).frame c j = s.frame c j := by
  simp [State.frame, State.setFrame, NMap.getD_set_ne _ _ _ _ _ hj]

theorem State.frame_setFrame_core (s : State) (c d h j : Nat) (f : Frame) (hd : d ≠ c) : (s.setFrame c h f).frame d j = s.frame d j := by
  simp [State.frame, State.setFrame, State.core_updCore_ne _ _ _ _ hd]

end Sys2Proof.Machine
end

