-- ==== Sys2Proof/Laws/Ops.lean ====
section
/-!
SUPPORT. What the shared operations can do: the current train, retirement, slots, operations outstanding, flags, events, and the writes to
HBM, which keep its canonical form.
-/
namespace Sys2Proof.Machine

/-! ## The current train -/

/-- An instruction with a current train acts on it; without one it stops. -/
theorem withTrain_some (s : State) (t : Train) (f : Nat → Train → Host.Outcome State Fault Refusal) (h : s.train? = some t) :
    withTrain s f = f s.cur.1 t := by simp [withTrain, h]

theorem withTrain_none (s : State) (f : Nat → Train → Host.Outcome State Fault Refusal) (h : s.train? = none) :
    withTrain s f = .fault .noTrain := by simp [withTrain, h]

/-- What `withTrain` can come to: the instruction's own outcome on the current train, or the fault noTrain. -/
theorem withTrain_cases (s : State) (f : Nat → Train → Host.Outcome State Fault Refusal) :
    (∃ t, s.train? = some t ∧ withTrain s f = f s.cur.1 t) ∨ (s.train? = none ∧ withTrain s f = .fault .noTrain) := by
  cases h : s.train? with
  | some t => exact .inl ⟨t, rfl, withTrain_some s t f h⟩
  | none => exact .inr ⟨rfl, withTrain_none s f h⟩

/-- An event happens when its cause is present, and otherwise is not enabled. -/
theorem eventStep_next (r : Option State) (s' : State) : eventStep r = .next s' ↔ r = some s' := by
  cases r <;> simp [eventStep]

theorem eventStep_cases (r : Option State) : (∃ s', r = some s' ∧ eventStep r = .next s') ∨ (r = none ∧ eventStep r = .fault .notEnabled) := by
  cases r with
  | some s' => exact .inl ⟨s', rfl, rfl⟩
  | none => exact .inr ⟨rfl, rfl⟩

/-! ## Trains of a core -/

@[simp] theorem Core.setTrain_outst (k : Core) (t : Train) : (k.setTrain t).outst = k.outst := rfl
@[simp] theorem Core.setTrain_frames (k : Core) (t : Train) : (k.setTrain t).frames = k.frames := rfl
@[simp] theorem Core.setTrain_late (k : Core) (t : Train) : (k.setTrain t).late = k.late := rfl
@[simp] theorem Core.setTrain_ops (k : Core) (t : Train) : (k.setTrain t).ops = k.ops := rfl
@[simp] theorem Core.setTrain_sq (k : Core) (t : Train) : (k.setTrain t).sq = k.sq := rfl
@[simp] theorem Core.setTrain_windows (k : Core) (t : Train) : (k.setTrain t).windows = k.windows := rfl
@[simp] theorem Core.setTrain_eng (k : Core) (t : Train) : (k.setTrain t).eng = k.eng := rfl
@[simp] theorem Core.setTrain_held (k : Core) (t : Train) : (k.setTrain t).held = k.held := rfl
@[simp] theorem Core.setTrain_flights (k : Core) (t : Train) : (k.setTrain t).flights = k.flights := rfl
@[simp] theorem Core.setTrain_waiters (k : Core) (t : Train) : (k.setTrain t).waiters = k.waiters := rfl
@[simp] theorem Core.setTrain_flushes (k : Core) (t : Train) : (k.setTrain t).flushes = k.flushes := rfl
@[simp] theorem Core.setTrain_regWaits (k : Core) (t : Train) : (k.setTrain t).regWaits = k.regWaits := rfl
@[simp] theorem Core.setTrain_walks (k : Core) (t : Train) : (k.setTrain t).walks = k.walks := rfl
@[simp] theorem Core.setTrain_plats (k : Core) (t : Train) : (k.setTrain t).plats = k.plats := rfl
@[simp] theorem Core.setTrain_entries (k : Core) (t : Train) : (k.setTrain t).entries = k.entries := rfl
@[simp] theorem Core.setTrain_sends (k : Core) (t : Train) : (k.setTrain t).sends = k.sends := rfl
@[simp] theorem Core.setTrain_ramBad (k : Core) (t : Train) : (k.setTrain t).ramBad = k.ramBad := rfl
@[simp] theorem Core.setTrain_queues (k : Core) (t : Train) : (k.setTrain t).queues = k.queues := rfl

/-! ## Slots -/

@[simp] theorem Train.deliver_seats (t : Train) (n g : Nat) (v : Word) : (t.deliver n g v).seats = t.seats := by
  unfold Train.deliver; split <;> rfl
@[simp] theorem Train.deliver_uid (t : Train) (n g : Nat) (v : Word) : (t.deliver n g v).uid = t.uid := by
  unfold Train.deliver; split <;> rfl
@[simp] theorem Train.deliver_pc (t : Train) (n g : Nat) (v : Word) : (t.deliver n g v).pc = t.pc := by
  unfold Train.deliver; split <;> rfl
@[simp] theorem Train.deliver_launch (t : Train) (n g : Nat) (v : Word) : (t.deliver n g v).launch = t.launch := by
  unfold Train.deliver; split <;> rfl
@[simp] theorem Train.deliver_words (t : Train) (n g : Nat) (v : Word) : (t.deliver n g v).words = t.words := by
  unfold Train.deliver; split <;> rfl
@[simp] theorem Train.deliver_pend (t : Train) (n g : Nat) (v : Word) : (t.deliver n g v).pend = t.pend := by
  unfold Train.deliver; split <;> rfl

/-- A value sent to no target changes nothing (R51). -/
theorem Train.deliver_noTarget (t : Train) (n g : Nat) (v : Word) (h : g < 4) : t.deliver n g v = t := by simp [Train.deliver, h]

/-- R52: the slot that a target names holds the value. -/
theorem Train.slots_deliver_same (t : Train) (n g : Nat) (v : Word) (h : 4 ≤ g) :
    NMap.getD (t.deliver n g v).slots (n * 256 + g) 0 = v := by
  have : ¬ g < 4 := by omega
  simp [Train.deliver, this]

/-- Every other slot holds what it held. -/
theorem Train.slots_deliver_ne (t : Train) (n g key : Nat) (v : Word) (h : key ≠ n * 256 + g) :
    NMap.getD (t.deliver n g v).slots key 0 = NMap.getD t.slots key 0 := by
  unfold Train.deliver
  split
  · rfl
  · exact NMap.getD_set_ne _ _ _ _ _ h

/-! ## MODE words of a cycle (R88) -/

/-- No flags leave a MODE word as it is. -/
@[simp] theorem modeOrFlags_zero (m : Word) : modeOrFlags m 0 = m := by simp [modeOrFlags]

/-- R88: the end of the cycle leaves the word that the cycle's write and flags come to. -/
@[simp] theorem Frame.endCycle_mode (f : Frame) : f.endCycle.mode = f.modeNow := by
  unfold Frame.endCycle
  split
  · next h =>
    simp only [Bool.and_eq_true, Option.isNone_iff_eq_none, beq_iff_eq] at h
    simp only [Frame.modeNow, h.1.1, h.1.2, Option.getD_none]
    exact (modeOrFlags_zero f.mode).symm
  · rfl

@[simp] theorem Frame.endCycle_modeNext (f : Frame) : f.endCycle.modeNext = none := by
  unfold Frame.endCycle
  split
  · next h =>
    simp only [Bool.and_eq_true, Option.isNone_iff_eq_none] at h
    exact h.1.1
  · rfl

@[simp] theorem Frame.endCycle_raised (f : Frame) : f.endCycle.raised = 0 := by
  unfold Frame.endCycle
  split
  · next h =>
    simp only [Bool.and_eq_true, beq_iff_eq] at h
    exact h.1.2
  · rfl

/-- What settles at the end of a cycle is no register's value. -/
theorem Frame.endCycle_reg (f : Frame) (g : Nat) : f.endCycle.reg g = f.reg g := by
  unfold Frame.endCycle; split <;> rfl

theorem Frame.endCycle_full (f : Frame) (g : Nat) : f.endCycle.full g = f.full g := by
  unfold Frame.endCycle; split <;> rfl

/-! ## Passes of a wide team (R32) -/

theorem Train.sweeps_plain (t : Train) (h : t.team = false) : t.sweeps = false := by simp [Train.sweeps, h]

/-- A train that is no team's executes with the seats that it has. -/
theorem Train.inWord_plain (t : Train) (h : t.team = false) : t.inWord = t := by simp [Train.inWord, Train.sweeps_plain t h]

theorem Train.nextPass_plain (t old : Train) (h : old.team = false) : t.nextPass old = t := by
  simp [Train.nextPass, Train.sweeps_plain old h]

/-! ## Write entries -/

/-- Without a write entry for the next instruction nothing is prepared (R192). -/
theorem State.prepare_noEntry (s : State) (c : Nat) (t : Train) (h : t.writeRegs = []) : s.prepare c t = .go s t := by
  simp [State.prepare, h]

/-! ## Operations outstanding -/

/-- An operation that has ended is outstanding no more. -/
theorem State.endOp_gone (s : State) (c id : Nat) : ∀ o ∈ ((s.endOp c id).core c).outst, o.id ≠ id := by
  intro o ho
  simp [State.endOp] at ho
  exact ho.2

/-- A new operation is outstanding behind those that were. -/
theorem State.startOp_outst (s : State) (c uid wbit path id : Nat) :
    ((s.startOp c uid wbit path id).core c).outst = (s.core c).outst ++ [⟨uid, wbit, path, id⟩] := by
  simp [State.startOp]

theorem State.endOp_core_ne (s : State) (c d id : Nat) (h : d ≠ c) : (s.endOp c id).core d = s.core d := by
  simp [State.endOp, State.core_updCore_ne _ _ _ _ h]

/-- The number of a new operation is above every number the core has given. -/
theorem State.newOp_fresh (s : State) (c : Nat) : (s.newOp c).1 = (s.core c).ops + 1 ∧ ((s.newOp c).2.core c).ops = (s.core c).ops + 1 := by
  simp [State.newOp]

/-! ## The store queue (R114) -/

/-- Entries go behind the core's queued accesses, each with the cycle from which on it drains. -/
theorem State.enqueue_sq (s : State) (c : Nat) (es : List SQEntry) :
    ((s.enqueue c es).core c).sq = (s.core c).sq ++ es.map (fun e => { e with due := s.cyc.toNat + Config.latency s.draw.1 }) := by
  unfold State.enqueue
  rw [State.core_updCore_same]
  rfl

theorem State.enqueue_core_ne (s : State) (c d : Nat) (es : List SQEntry) (h : d ≠ c) : (s.enqueue c es).core d = s.core d := by
  unfold State.enqueue
  rw [State.core_updCore_ne _ _ _ _ h]
  rfl

/-- Queued accesses do nothing until they drain. -/
@[simp] theorem State.enqueue_mem (s : State) (c : Nat) (es : List SQEntry) : (s.enqueue c es).mem = s.mem := rfl

/-- A train without queued writes and without writes under way at a peer goes on (R116, R117). -/
theorem State.queued_none (s : State) (c : Nat) (t : Train) (mask : Nat) (hq : (s.core c).sq = []) (hr : s.link.reqs = []) :
    s.queued c t mask = false := by
  simp [State.queued, hq, hr]

/-- With an empty queue nothing drains. -/
theorem State.drainPaths_nil (s : State) (c : Nat) (t : Train) (mask : Nat) (hq : (s.core c).sq = []) : s.drainPaths c t mask = s := by
  unfold State.drainPaths
  split
  · rfl
  · rw [hq]; rfl

/-- With nothing queued and nothing under way the instruction acts at once. -/
theorem afterWrites_go (s : State) (c : Nat) (t : Train) (mask : Nat) (f : State → Host.Outcome State Fault Refusal)
    (hq : (s.core c).sq = []) (hr : s.link.reqs = []) : afterWrites s c t mask f = f s := by
  simp [afterWrites, State.drainPaths_nil s c t mask hq, State.queued_none s c t mask hq hr]

/-! ## HBM -/

/-- A write by a path keeps HBM canonical. -/
theorem State.pathWrite_wf (s : State) (pa : Nat) (bs : List Byte) (h : s.mem.wf = true) : (s.pathWrite pa bs).mem.wf = true :=
  s.mem.wf_write pa bs h

theorem State.physWrite_wf (s : State) (pa n v : Nat) (h : s.mem.wf = true) : (s.physWrite pa n v).mem.wf = true := by
  unfold State.physWrite
  split
  · exact s.mem.wf_writeNat pa n v h
  · exact h

/-- The window of a launch after a write to it. -/
theorem State.updWindow_mem (s : State) (r : LaunchRef) (c : Nat) (f : Window → Window) : (s.updWindow r c f).mem = s.mem := rfl

/-- HBM after reset is canonical. -/
theorem reset_mem_wf : State.reset.mem.wf = true := rfl

end Sys2Proof.Machine
end

