-- ==== Sys2Proof/Laws/PerInstr.lean ====
section
/-!
SUPPORT. What is true of every instruction as syntax, one lemma per constructor.
-/

/-- The fixed low bits and the fields of an instruction's word stay below its opcode byte (R58): no field reaches bits 31 to 24. -/
def Sys2Proof.Laws.FieldsBelowOpcode.Statement (i : Sys2Proof.Instr) : Prop :=
  Sys2Proof.placed i.layout.2 + i.layout.1 % 2 ^ 24 < 2 ^ 24

namespace Sys2Proof.Laws.FieldsBelowOpcode

set_option Elab.async false

theorem iadd (a : BitVec 8) (b : BitVec 8) (t : BitVec 3) (s : BitVec 1) : Statement (.iadd a b t s) := by
  simp only [Statement, Instr.layout, placed]; have := a.isLt; have := b.isLt; have := t.isLt; have := s.isLt; omega
theorem isub (a : BitVec 8) (b : BitVec 8) (t : BitVec 3) (s : BitVec 1) : Statement (.isub a b t s) := by
  simp only [Statement, Instr.layout, placed]; have := a.isLt; have := b.isLt; have := t.isLt; have := s.isLt; omega
theorem imul (a : BitVec 8) (b : BitVec 8) (t : BitVec 3) (s : BitVec 1) : Statement (.imul a b t s) := by
  simp only [Statement, Instr.layout, placed]; have := a.isLt; have := b.isLt; have := t.isLt; have := s.isLt; omega
theorem imulh (a : BitVec 8) (b : BitVec 8) (t : BitVec 2) : Statement (.imulh a b t) := by
  simp only [Statement, Instr.layout, placed]; have := a.isLt; have := b.isLt; have := t.isLt; omega
theorem imad (a : BitVec 8) (b : BitVec 8) (t : BitVec 3) (s : BitVec 1) : Statement (.imad a b t s) := by
  simp only [Statement, Instr.layout, placed]; have := a.isLt; have := b.isLt; have := t.isLt; have := s.isLt; omega
theorem imin (a : BitVec 8) (b : BitVec 8) (t : BitVec 3) : Statement (.imin a b t) := by
  simp only [Statement, Instr.layout, placed]; have := a.isLt; have := b.isLt; have := t.isLt; omega
theorem imax (a : BitVec 8) (b : BitVec 8) (t : BitVec 3) : Statement (.imax a b t) := by
  simp only [Statement, Instr.layout, placed]; have := a.isLt; have := b.isLt; have := t.isLt; omega
theorem iabs (a : BitVec 8) (b : BitVec 8) (t : BitVec 2) (s : BitVec 1) : Statement (.iabs a b t s) := by
  simp only [Statement, Instr.layout, placed]; have := a.isLt; have := b.isLt; have := t.isLt; have := s.isLt; omega
theorem ineg (a : BitVec 8) (b : BitVec 8) (t : BitVec 2) (s : BitVec 1) : Statement (.ineg a b t s) := by
  simp only [Statement, Instr.layout, placed]; have := a.isLt; have := b.isLt; have := t.isLt; have := s.isLt; omega
theorem iand (a : BitVec 8) (b : BitVec 8) (t : BitVec 1) : Statement (.iand a b t) := by
  simp only [Statement, Instr.layout, placed]; have := a.isLt; have := b.isLt; have := t.isLt; omega
theorem ior (a : BitVec 8) (b : BitVec 8) (t : BitVec 1) : Statement (.ior a b t) := by
  simp only [Statement, Instr.layout, placed]; have := a.isLt; have := b.isLt; have := t.isLt; omega
theorem ixor (a : BitVec 8) (b : BitVec 8) (t : BitVec 1) : Statement (.ixor a b t) := by
  simp only [Statement, Instr.layout, placed]; have := a.isLt; have := b.isLt; have := t.isLt; omega
theorem andn (a : BitVec 8) (b : BitVec 8) (t : BitVec 1) : Statement (.andn a b t) := by
  simp only [Statement, Instr.layout, placed]; have := a.isLt; have := b.isLt; have := t.isLt; omega
theorem inot (a : BitVec 8) (b : BitVec 8) (t : BitVec 1) : Statement (.inot a b t) := by
  simp only [Statement, Instr.layout, placed]; have := a.isLt; have := b.isLt; have := t.isLt; omega
theorem shl (a : BitVec 8) (b : BitVec 8) (t : BitVec 2) : Statement (.shl a b t) := by
  simp only [Statement, Instr.layout, placed]; have := a.isLt; have := b.isLt; have := t.isLt; omega
theorem shr (a : BitVec 8) (b : BitVec 8) (t : BitVec 2) : Statement (.shr a b t) := by
  simp only [Statement, Instr.layout, placed]; have := a.isLt; have := b.isLt; have := t.isLt; omega
theorem sar (a : BitVec 8) (b : BitVec 8) (t : BitVec 2) : Statement (.sar a b t) := by
  simp only [Statement, Instr.layout, placed]; have := a.isLt; have := b.isLt; have := t.isLt; omega
theorem rot (a : BitVec 8) (b : BitVec 8) (t : BitVec 2) : Statement (.rot a b t) := by
  simp only [Statement, Instr.layout, placed]; have := a.isLt; have := b.isLt; have := t.isLt; omega
theorem bfx (a : BitVec 8) (b : BitVec 8) (t : BitVec 2) : Statement (.bfx a b t) := by
  simp only [Statement, Instr.layout, placed]; have := a.isLt; have := b.isLt; have := t.isLt; omega
theorem bfi (a : BitVec 8) (b : BitVec 8) (t : BitVec 1) : Statement (.bfi a b t) := by
  simp only [Statement, Instr.layout, placed]; have := a.isLt; have := b.isLt; have := t.isLt; omega
theorem popc (a : BitVec 8) (b : BitVec 8) (t : BitVec 1) : Statement (.popc a b t) := by
  simp only [Statement, Instr.layout, placed]; have := a.isLt; have := b.isLt; have := t.isLt; omega
theorem clz (a : BitVec 8) (b : BitVec 8) (t : BitVec 1) : Statement (.clz a b t) := by
  simp only [Statement, Instr.layout, placed]; have := a.isLt; have := b.isLt; have := t.isLt; omega
theorem brev (a : BitVec 8) (b : BitVec 8) (t : BitVec 1) : Statement (.brev a b t) := by
  simp only [Statement, Instr.layout, placed]; have := a.isLt; have := b.isLt; have := t.isLt; omega
theorem icmp (a : BitVec 8) (b : BitVec 8) (t : BitVec 3) (c : BitVec 4) : Statement (.icmp a b t c) := by
  simp only [Statement, Instr.layout, placed]; have := a.isLt; have := b.isLt; have := t.isLt; have := c.isLt; omega
theorem sel (a : BitVec 8) (b : BitVec 8) (t : BitVec 2) : Statement (.sel a b t) := by
  simp only [Statement, Instr.layout, placed]; have := a.isLt; have := b.isLt; have := t.isLt; omega
theorem mov (a : BitVec 8) (b : BitVec 8) : Statement (.mov a b) := by
  simp only [Statement, Instr.layout, placed]; have := a.isLt; have := b.isLt; omega
theorem addx (a : BitVec 8) (b : BitVec 8) (t : BitVec 2) (x : BitVec 4) : Statement (.addx a b t x) := by
  simp only [Statement, Instr.layout, placed]; have := a.isLt; have := b.isLt; have := t.isLt; have := x.isLt; omega
theorem const (a : BitVec 8) (i : BitVec 16) : Statement (.const a i) := by
  simp only [Statement, Instr.layout, placed]; have := a.isLt; have := i.isLt; omega
theorem consh (a : BitVec 8) (i : BitVec 16) : Statement (.consh a i) := by
  simp only [Statement, Instr.layout, placed]; have := a.isLt; have := i.isLt; omega
theorem consw (a : BitVec 8) (i : BitVec 16) : Statement (.consw a i) := by
  simp only [Statement, Instr.layout, placed]; have := a.isLt; have := i.isLt; omega
theorem iaddi (a : BitVec 8) (i : BitVec 16) : Statement (.iaddi a i) := by
  simp only [Statement, Instr.layout, placed]; have := a.isLt; have := i.isLt; omega
theorem iaddPred (a : BitVec 8) (b : BitVec 8) (t : BitVec 3) (s : BitVec 1) : Statement (.iaddPred a b t s) := by
  simp only [Statement, Instr.layout, placed]; have := a.isLt; have := b.isLt; have := t.isLt; have := s.isLt; omega
theorem isubPred (a : BitVec 8) (b : BitVec 8) (t : BitVec 3) (s : BitVec 1) : Statement (.isubPred a b t s) := by
  simp only [Statement, Instr.layout, placed]; have := a.isLt; have := b.isLt; have := t.isLt; have := s.isLt; omega
theorem imulPred (a : BitVec 8) (b : BitVec 8) (t : BitVec 3) (s : BitVec 1) : Statement (.imulPred a b t s) := by
  simp only [Statement, Instr.layout, placed]; have := a.isLt; have := b.isLt; have := t.isLt; have := s.isLt; omega
theorem imulhPred (a : BitVec 8) (b : BitVec 8) (t : BitVec 2) : Statement (.imulhPred a b t) := by
  simp only [Statement, Instr.layout, placed]; have := a.isLt; have := b.isLt; have := t.isLt; omega
theorem imadPred (a : BitVec 8) (b : BitVec 8) (t : BitVec 3) (s : BitVec 1) : Statement (.imadPred a b t s) := by
  simp only [Statement, Instr.layout, placed]; have := a.isLt; have := b.isLt; have := t.isLt; have := s.isLt; omega
theorem iminPred (a : BitVec 8) (b : BitVec 8) (t : BitVec 3) : Statement (.iminPred a b t) := by
  simp only [Statement, Instr.layout, placed]; have := a.isLt; have := b.isLt; have := t.isLt; omega
theorem imaxPred (a : BitVec 8) (b : BitVec 8) (t : BitVec 3) : Statement (.imaxPred a b t) := by
  simp only [Statement, Instr.layout, placed]; have := a.isLt; have := b.isLt; have := t.isLt; omega
theorem iabsPred (a : BitVec 8) (b : BitVec 8) (t : BitVec 2) (s : BitVec 1) : Statement (.iabsPred a b t s) := by
  simp only [Statement, Instr.layout, placed]; have := a.isLt; have := b.isLt; have := t.isLt; have := s.isLt; omega
theorem inegPred (a : BitVec 8) (b : BitVec 8) (t : BitVec 2) (s : BitVec 1) : Statement (.inegPred a b t s) := by
  simp only [Statement, Instr.layout, placed]; have := a.isLt; have := b.isLt; have := t.isLt; have := s.isLt; omega
theorem iandPred (a : BitVec 8) (b : BitVec 8) (t : BitVec 1) : Statement (.iandPred a b t) := by
  simp only [Statement, Instr.layout, placed]; have := a.isLt; have := b.isLt; have := t.isLt; omega
theorem iorPred (a : BitVec 8) (b : BitVec 8) (t : BitVec 1) : Statement (.iorPred a b t) := by
  simp only [Statement, Instr.layout, placed]; have := a.isLt; have := b.isLt; have := t.isLt; omega
theorem ixorPred (a : BitVec 8) (b : BitVec 8) (t : BitVec 1) : Statement (.ixorPred a b t) := by
  simp only [Statement, Instr.layout, placed]; have := a.isLt; have := b.isLt; have := t.isLt; omega
theorem andnPred (a : BitVec 8) (b : BitVec 8) (t : BitVec 1) : Statement (.andnPred a b t) := by
  simp only [Statement, Instr.layout, placed]; have := a.isLt; have := b.isLt; have := t.isLt; omega
theorem inotPred (a : BitVec 8) (b : BitVec 8) (t : BitVec 1) : Statement (.inotPred a b t) := by
  simp only [Statement, Instr.layout, placed]; have := a.isLt; have := b.isLt; have := t.isLt; omega
theorem shlPred (a : BitVec 8) (b : BitVec 8) (t : BitVec 2) : Statement (.shlPred a b t) := by
  simp only [Statement, Instr.layout, placed]; have := a.isLt; have := b.isLt; have := t.isLt; omega
theorem shrPred (a : BitVec 8) (b : BitVec 8) (t : BitVec 2) : Statement (.shrPred a b t) := by
  simp only [Statement, Instr.layout, placed]; have := a.isLt; have := b.isLt; have := t.isLt; omega
theorem sarPred (a : BitVec 8) (b : BitVec 8) (t : BitVec 2) : Statement (.sarPred a b t) := by
  simp only [Statement, Instr.layout, placed]; have := a.isLt; have := b.isLt; have := t.isLt; omega
theorem rotPred (a : BitVec 8) (b : BitVec 8) (t : BitVec 2) : Statement (.rotPred a b t) := by
  simp only [Statement, Instr.layout, placed]; have := a.isLt; have := b.isLt; have := t.isLt; omega
theorem bfxPred (a : BitVec 8) (b : BitVec 8) (t : BitVec 2) : Statement (.bfxPred a b t) := by
  simp only [Statement, Instr.layout, placed]; have := a.isLt; have := b.isLt; have := t.isLt; omega
theorem bfiPred (a : BitVec 8) (b : BitVec 8) (t : BitVec 1) : Statement (.bfiPred a b t) := by
  simp only [Statement, Instr.layout, placed]; have := a.isLt; have := b.isLt; have := t.isLt; omega
theorem popcPred (a : BitVec 8) (b : BitVec 8) (t : BitVec 1) : Statement (.popcPred a b t) := by
  simp only [Statement, Instr.layout, placed]; have := a.isLt; have := b.isLt; have := t.isLt; omega
theorem clzPred (a : BitVec 8) (b : BitVec 8) (t : BitVec 1) : Statement (.clzPred a b t) := by
  simp only [Statement, Instr.layout, placed]; have := a.isLt; have := b.isLt; have := t.isLt; omega
theorem brevPred (a : BitVec 8) (b : BitVec 8) (t : BitVec 1) : Statement (.brevPred a b t) := by
  simp only [Statement, Instr.layout, placed]; have := a.isLt; have := b.isLt; have := t.isLt; omega
theorem icmpPred (a : BitVec 8) (b : BitVec 8) (t : BitVec 3) (c : BitVec 4) : Statement (.icmpPred a b t c) := by
  simp only [Statement, Instr.layout, placed]; have := a.isLt; have := b.isLt; have := t.isLt; have := c.isLt; omega
theorem movPred (a : BitVec 8) (b : BitVec 8) : Statement (.movPred a b) := by
  simp only [Statement, Instr.layout, placed]; have := a.isLt; have := b.isLt; omega
theorem addxPred (a : BitVec 8) (b : BitVec 8) (t : BitVec 2) (x : BitVec 4) : Statement (.addxPred a b t x) := by
  simp only [Statement, Instr.layout, placed]; have := a.isLt; have := b.isLt; have := t.isLt; have := x.isLt; omega
theorem constPred (a : BitVec 8) (i : BitVec 16) : Statement (.constPred a i) := by
  simp only [Statement, Instr.layout, placed]; have := a.isLt; have := i.isLt; omega
theorem conshPred (a : BitVec 8) (i : BitVec 16) : Statement (.conshPred a i) := by
  simp only [Statement, Instr.layout, placed]; have := a.isLt; have := i.isLt; omega
theorem conswPred (a : BitVec 8) (i : BitVec 16) : Statement (.conswPred a i) := by
  simp only [Statement, Instr.layout, placed]; have := a.isLt; have := i.isLt; omega
theorem iaddiPred (a : BitVec 8) (i : BitVec 16) : Statement (.iaddiPred a i) := by
  simp only [Statement, Instr.layout, placed]; have := a.isLt; have := i.isLt; omega
theorem fadd (a : BitVec 8) (b : BitVec 8) (r : BitVec 3) (t : BitVec 2) : Statement (.fadd a b r t) := by
  simp only [Statement, Instr.layout, placed]; have := a.isLt; have := b.isLt; have := r.isLt; have := t.isLt; omega
theorem fsub (a : BitVec 8) (b : BitVec 8) (r : BitVec 3) (t : BitVec 2) : Statement (.fsub a b r t) := by
  simp only [Statement, Instr.layout, placed]; have := a.isLt; have := b.isLt; have := r.isLt; have := t.isLt; omega
theorem fmul (a : BitVec 8) (b : BitVec 8) (r : BitVec 3) (t : BitVec 2) : Statement (.fmul a b r t) := by
  simp only [Statement, Instr.layout, placed]; have := a.isLt; have := b.isLt; have := r.isLt; have := t.isLt; omega
theorem ffma (a : BitVec 8) (b : BitVec 8) (r : BitVec 3) (t : BitVec 2) : Statement (.ffma a b r t) := by
  simp only [Statement, Instr.layout, placed]; have := a.isLt; have := b.isLt; have := r.isLt; have := t.isLt; omega
theorem fmin (a : BitVec 8) (b : BitVec 8) (r : BitVec 3) (t : BitVec 2) : Statement (.fmin a b r t) := by
  simp only [Statement, Instr.layout, placed]; have := a.isLt; have := b.isLt; have := r.isLt; have := t.isLt; omega
theorem fmax (a : BitVec 8) (b : BitVec 8) (r : BitVec 3) (t : BitVec 2) : Statement (.fmax a b r t) := by
  simp only [Statement, Instr.layout, placed]; have := a.isLt; have := b.isLt; have := r.isLt; have := t.isLt; omega
theorem fabs (a : BitVec 8) (b : BitVec 8) (r : BitVec 3) (t : BitVec 2) : Statement (.fabs a b r t) := by
  simp only [Statement, Instr.layout, placed]; have := a.isLt; have := b.isLt; have := r.isLt; have := t.isLt; omega
theorem fneg (a : BitVec 8) (b : BitVec 8) (r : BitVec 3) (t : BitVec 2) : Statement (.fneg a b r t) := by
  simp only [Statement, Instr.layout, placed]; have := a.isLt; have := b.isLt; have := r.isLt; have := t.isLt; omega
theorem fcmp (a : BitVec 8) (b : BitVec 8) (r : BitVec 3) (t : BitVec 2) (c : BitVec 3) : Statement (.fcmp a b r t c) := by
  simp only [Statement, Instr.layout, placed]; have := a.isLt; have := b.isLt; have := r.isLt; have := t.isLt; have := c.isLt; omega
theorem fclass (a : BitVec 8) (b : BitVec 8) (r : BitVec 3) (t : BitVec 2) : Statement (.fclass a b r t) := by
  simp only [Statement, Instr.layout, placed]; have := a.isLt; have := b.isLt; have := r.isLt; have := t.isLt; omega
theorem fdot2 (a : BitVec 8) (b : BitVec 8) (r : BitVec 3) (t : BitVec 1) : Statement (.fdot2 a b r t) := by
  simp only [Statement, Instr.layout, placed]; have := a.isLt; have := b.isLt; have := r.isLt; have := t.isLt; omega
theorem fdot4 (a : BitVec 8) (b : BitVec 8) (r : BitVec 3) (f : BitVec 2) : Statement (.fdot4 a b r f) := by
  simp only [Statement, Instr.layout, placed]; have := a.isLt; have := b.isLt; have := r.isLt; have := f.isLt; omega
theorem faddPred (a : BitVec 8) (b : BitVec 8) (r : BitVec 3) (t : BitVec 2) : Statement (.faddPred a b r t) := by
  simp only [Statement, Instr.layout, placed]; have := a.isLt; have := b.isLt; have := r.isLt; have := t.isLt; omega
theorem fsubPred (a : BitVec 8) (b : BitVec 8) (r : BitVec 3) (t : BitVec 2) : Statement (.fsubPred a b r t) := by
  simp only [Statement, Instr.layout, placed]; have := a.isLt; have := b.isLt; have := r.isLt; have := t.isLt; omega
theorem fmulPred (a : BitVec 8) (b : BitVec 8) (r : BitVec 3) (t : BitVec 2) : Statement (.fmulPred a b r t) := by
  simp only [Statement, Instr.layout, placed]; have := a.isLt; have := b.isLt; have := r.isLt; have := t.isLt; omega
theorem ffmaPred (a : BitVec 8) (b : BitVec 8) (r : BitVec 3) (t : BitVec 2) : Statement (.ffmaPred a b r t) := by
  simp only [Statement, Instr.layout, placed]; have := a.isLt; have := b.isLt; have := r.isLt; have := t.isLt; omega
theorem fminPred (a : BitVec 8) (b : BitVec 8) (r : BitVec 3) (t : BitVec 2) : Statement (.fminPred a b r t) := by
  simp only [Statement, Instr.layout, placed]; have := a.isLt; have := b.isLt; have := r.isLt; have := t.isLt; omega
theorem fmaxPred (a : BitVec 8) (b : BitVec 8) (r : BitVec 3) (t : BitVec 2) : Statement (.fmaxPred a b r t) := by
  simp only [Statement, Instr.layout, placed]; have := a.isLt; have := b.isLt; have := r.isLt; have := t.isLt; omega
theorem fabsPred (a : BitVec 8) (b : BitVec 8) (r : BitVec 3) (t : BitVec 2) : Statement (.fabsPred a b r t) := by
  simp only [Statement, Instr.layout, placed]; have := a.isLt; have := b.isLt; have := r.isLt; have := t.isLt; omega
theorem fnegPred (a : BitVec 8) (b : BitVec 8) (r : BitVec 3) (t : BitVec 2) : Statement (.fnegPred a b r t) := by
  simp only [Statement, Instr.layout, placed]; have := a.isLt; have := b.isLt; have := r.isLt; have := t.isLt; omega
theorem fcmpPred (a : BitVec 8) (b : BitVec 8) (r : BitVec 3) (t : BitVec 2) (c : BitVec 3) : Statement (.fcmpPred a b r t c) := by
  simp only [Statement, Instr.layout, placed]; have := a.isLt; have := b.isLt; have := r.isLt; have := t.isLt; have := c.isLt; omega
theorem fclassPred (a : BitVec 8) (b : BitVec 8) (r : BitVec 3) (t : BitVec 2) : Statement (.fclassPred a b r t) := by
  simp only [Statement, Instr.layout, placed]; have := a.isLt; have := b.isLt; have := r.isLt; have := t.isLt; omega
theorem fdot2Pred (a : BitVec 8) (b : BitVec 8) (r : BitVec 3) (t : BitVec 1) : Statement (.fdot2Pred a b r t) := by
  simp only [Statement, Instr.layout, placed]; have := a.isLt; have := b.isLt; have := r.isLt; have := t.isLt; omega
theorem fdot4Pred (a : BitVec 8) (b : BitVec 8) (r : BitVec 3) (f : BitVec 2) : Statement (.fdot4Pred a b r f) := by
  simp only [Statement, Instr.layout, placed]; have := a.isLt; have := b.isLt; have := r.isLt; have := f.isLt; omega
theorem frcp (a : BitVec 8) (b : BitVec 8) (r : BitVec 3) : Statement (.frcp a b r) := by
  simp only [Statement, Instr.layout, placed]; have := a.isLt; have := b.isLt; have := r.isLt; omega
theorem frsq (a : BitVec 8) (b : BitVec 8) (r : BitVec 3) : Statement (.frsq a b r) := by
  simp only [Statement, Instr.layout, placed]; have := a.isLt; have := b.isLt; have := r.isLt; omega
theorem fsqrt (a : BitVec 8) (b : BitVec 8) (r : BitVec 3) (t : BitVec 1) : Statement (.fsqrt a b r t) := by
  simp only [Statement, Instr.layout, placed]; have := a.isLt; have := b.isLt; have := r.isLt; have := t.isLt; omega
theorem fdiv (a : BitVec 8) (b : BitVec 8) (r : BitVec 3) (t : BitVec 1) : Statement (.fdiv a b r t) := by
  simp only [Statement, Instr.layout, placed]; have := a.isLt; have := b.isLt; have := r.isLt; have := t.isLt; omega
theorem fexp2 (a : BitVec 8) (b : BitVec 8) (r : BitVec 3) : Statement (.fexp2 a b r) := by
  simp only [Statement, Instr.layout, placed]; have := a.isLt; have := b.isLt; have := r.isLt; omega
theorem flog2 (a : BitVec 8) (b : BitVec 8) (r : BitVec 3) : Statement (.flog2 a b r) := by
  simp only [Statement, Instr.layout, placed]; have := a.isLt; have := b.isLt; have := r.isLt; omega
theorem fsin (a : BitVec 8) (b : BitVec 8) (r : BitVec 3) : Statement (.fsin a b r) := by
  simp only [Statement, Instr.layout, placed]; have := a.isLt; have := b.isLt; have := r.isLt; omega
theorem fcos (a : BitVec 8) (b : BitVec 8) (r : BitVec 3) : Statement (.fcos a b r) := by
  simp only [Statement, Instr.layout, placed]; have := a.isLt; have := b.isLt; have := r.isLt; omega
theorem ftanh (a : BitVec 8) (b : BitVec 8) (r : BitVec 3) : Statement (.ftanh a b r) := by
  simp only [Statement, Instr.layout, placed]; have := a.isLt; have := b.isLt; have := r.isLt; omega
theorem frint (a : BitVec 8) (b : BitVec 8) (r : BitVec 3) (t : BitVec 2) : Statement (.frint a b r t) := by
  simp only [Statement, Instr.layout, placed]; have := a.isLt; have := b.isLt; have := r.isLt; have := t.isLt; omega
theorem cvt (a : BitVec 8) (b : BitVec 8) (r : BitVec 3) (c : BitVec 5) : Statement (.cvt a b r c) := by
  simp only [Statement, Instr.layout, placed]; have := a.isLt; have := b.isLt; have := r.isLt; have := c.isLt; omega
theorem cvtsc (a : BitVec 8) (b : BitVec 8) (r : BitVec 3) (f : BitVec 3) (j : BitVec 2) : Statement (.cvtsc a b r f j) := by
  simp only [Statement, Instr.layout, placed]; have := a.isLt; have := b.isLt; have := r.isLt; have := f.isLt; have := j.isLt; omega
theorem idiv (a : BitVec 8) (b : BitVec 8) (t : BitVec 2) (s : BitVec 1) : Statement (.idiv a b t s) := by
  simp only [Statement, Instr.layout, placed]; have := a.isLt; have := b.isLt; have := t.isLt; have := s.isLt; omega
theorem irem (a : BitVec 8) (b : BitVec 8) (t : BitVec 2) : Statement (.irem a b t) := by
  simp only [Statement, Instr.layout, placed]; have := a.isLt; have := b.isLt; have := t.isLt; omega
theorem frcpPred (a : BitVec 8) (b : BitVec 8) (r : BitVec 3) : Statement (.frcpPred a b r) := by
  simp only [Statement, Instr.layout, placed]; have := a.isLt; have := b.isLt; have := r.isLt; omega
theorem frsqPred (a : BitVec 8) (b : BitVec 8) (r : BitVec 3) : Statement (.frsqPred a b r) := by
  simp only [Statement, Instr.layout, placed]; have := a.isLt; have := b.isLt; have := r.isLt; omega
theorem fsqrtPred (a : BitVec 8) (b : BitVec 8) (r : BitVec 3) (t : BitVec 1) : Statement (.fsqrtPred a b r t) := by
  simp only [Statement, Instr.layout, placed]; have := a.isLt; have := b.isLt; have := r.isLt; have := t.isLt; omega
theorem fdivPred (a : BitVec 8) (b : BitVec 8) (r : BitVec 3) (t : BitVec 1) : Statement (.fdivPred a b r t) := by
  simp only [Statement, Instr.layout, placed]; have := a.isLt; have := b.isLt; have := r.isLt; have := t.isLt; omega
theorem fexp2Pred (a : BitVec 8) (b : BitVec 8) (r : BitVec 3) : Statement (.fexp2Pred a b r) := by
  simp only [Statement, Instr.layout, placed]; have := a.isLt; have := b.isLt; have := r.isLt; omega
theorem flog2Pred (a : BitVec 8) (b : BitVec 8) (r : BitVec 3) : Statement (.flog2Pred a b r) := by
  simp only [Statement, Instr.layout, placed]; have := a.isLt; have := b.isLt; have := r.isLt; omega
theorem fsinPred (a : BitVec 8) (b : BitVec 8) (r : BitVec 3) : Statement (.fsinPred a b r) := by
  simp only [Statement, Instr.layout, placed]; have := a.isLt; have := b.isLt; have := r.isLt; omega
theorem fcosPred (a : BitVec 8) (b : BitVec 8) (r : BitVec 3) : Statement (.fcosPred a b r) := by
  simp only [Statement, Instr.layout, placed]; have := a.isLt; have := b.isLt; have := r.isLt; omega
theorem ftanhPred (a : BitVec 8) (b : BitVec 8) (r : BitVec 3) : Statement (.ftanhPred a b r) := by
  simp only [Statement, Instr.layout, placed]; have := a.isLt; have := b.isLt; have := r.isLt; omega
theorem frintPred (a : BitVec 8) (b : BitVec 8) (r : BitVec 3) (t : BitVec 2) : Statement (.frintPred a b r t) := by
  simp only [Statement, Instr.layout, placed]; have := a.isLt; have := b.isLt; have := r.isLt; have := t.isLt; omega
theorem cvtPred (a : BitVec 8) (b : BitVec 8) (r : BitVec 3) (c : BitVec 5) : Statement (.cvtPred a b r c) := by
  simp only [Statement, Instr.layout, placed]; have := a.isLt; have := b.isLt; have := r.isLt; have := c.isLt; omega
theorem cvtscPred (a : BitVec 8) (b : BitVec 8) (r : BitVec 3) (f : BitVec 3) (j : BitVec 2) : Statement (.cvtscPred a b r f j) := by
  simp only [Statement, Instr.layout, placed]; have := a.isLt; have := b.isLt; have := r.isLt; have := f.isLt; have := j.isLt; omega
theorem idivPred (a : BitVec 8) (b : BitVec 8) (t : BitVec 2) (s : BitVec 1) : Statement (.idivPred a b t s) := by
  simp only [Statement, Instr.layout, placed]; have := a.isLt; have := b.isLt; have := t.isLt; have := s.isLt; omega
theorem iremPred (a : BitVec 8) (b : BitVec 8) (t : BitVec 2) : Statement (.iremPred a b t) := by
  simp only [Statement, Instr.layout, placed]; have := a.isLt; have := b.isLt; have := t.isLt; omega
theorem shfl (a : BitVec 8) (b : BitVec 8) (f : BitVec 2) : Statement (.shfl a b f) := by
  simp only [Statement, Instr.layout, placed]; have := a.isLt; have := b.isLt; have := f.isLt; omega
theorem shflx (a : BitVec 8) (b : BitVec 8) (f : BitVec 2) : Statement (.shflx a b f) := by
  simp only [Statement, Instr.layout, placed]; have := a.isLt; have := b.isLt; have := f.isLt; omega
theorem shflup (a : BitVec 8) (b : BitVec 8) (f : BitVec 2) : Statement (.shflup a b f) := by
  simp only [Statement, Instr.layout, placed]; have := a.isLt; have := b.isLt; have := f.isLt; omega
theorem shfldn (a : BitVec 8) (b : BitVec 8) (f : BitVec 2) : Statement (.shfldn a b f) := by
  simp only [Statement, Instr.layout, placed]; have := a.isLt; have := b.isLt; have := f.isLt; omega
theorem bcast (a : BitVec 8) (b : BitVec 8) (f : BitVec 2) : Statement (.bcast a b f) := by
  simp only [Statement, Instr.layout, placed]; have := a.isLt; have := b.isLt; have := f.isLt; omega
theorem vote (a : BitVec 8) (b : BitVec 8) (o : BitVec 2) : Statement (.vote a b o) := by
  simp only [Statement, Instr.layout, placed]; have := a.isLt; have := b.isLt; have := o.isLt; omega
theorem reduce (a : BitVec 8) (b : BitVec 8) (o : BitVec 3) (t : BitVec 2) (g : BitVec 1) (m : BitVec 1) : Statement (.reduce a b o t g m) := by
  simp only [Statement, Instr.layout, placed]; have := a.isLt; have := b.isLt; have := o.isLt; have := t.isLt; have := g.isLt; have := m.isLt; omega
theorem scan (a : BitVec 8) (b : BitVec 8) (o : BitVec 3) (t : BitVec 2) (g : BitVec 1) (m : BitVec 1) (x : BitVec 1) : Statement (.scan a b o t g m x) := by
  simp only [Statement, Instr.layout, placed]; have := a.isLt; have := b.isLt; have := o.isLt; have := t.isLt; have := g.isLt; have := m.isLt; have := x.isLt; omega
theorem xmatch (a : BitVec 8) (b : BitVec 8) (w : BitVec 2) : Statement (.xmatch a b w) := by
  simp only [Statement, Instr.layout, placed]; have := a.isLt; have := b.isLt; have := w.isLt; omega
theorem seatid (a : BitVec 8) (b : BitVec 8) (s : BitVec 3) : Statement (.seatid a b s) := by
  simp only [Statement, Instr.layout, placed]; have := a.isLt; have := b.isLt; have := s.isLt; omega
theorem tagord (a : BitVec 8) (b : BitVec 8) (g : BitVec 1) : Statement (.tagord a b g) := by
  simp only [Statement, Instr.layout, placed]; have := a.isLt; have := b.isLt; have := g.isLt; omega
theorem send (d : BitVec 12) (s : BitVec 3) (t : BitVec 1) (w : BitVec 2) (p : BitVec 6) : Statement (.send d s t w p) := by
  simp only [Statement, Instr.layout, placed]; have := d.isLt; have := s.isLt; have := t.isLt; have := w.isLt; have := p.isLt; omega
theorem sendsel (d : BitVec 12) (s : BitVec 3) (t : BitVec 1) (w : BitVec 2) (p : BitVec 6) : Statement (.sendsel d s t w p) := by
  simp only [Statement, Instr.layout, placed]; have := d.isLt; have := s.isLt; have := t.isLt; have := w.isLt; have := p.isLt; omega
theorem switch (d : BitVec 12) (s : BitVec 3) (t : BitVec 1) (w : BitVec 2) (l : BitVec 6) : Statement (.switch d s t w l) := by
  simp only [Statement, Instr.layout, placed]; have := d.isLt; have := s.isLt; have := t.isLt; have := w.isLt; have := l.isLt; omega
theorem spawn (d : BitVec 12) (s : BitVec 3) (t : BitVec 1) (w : BitVec 2) (k : BitVec 5) : Statement (.spawn d s t w k) := by
  simp only [Statement, Instr.layout, placed]; have := d.isLt; have := s.isLt; have := t.isLt; have := w.isLt; have := k.isLt; omega
theorem ret (s : BitVec 3) (w : BitVec 2) (f : BitVec 1) : Statement (.ret s w f) := by
  simp only [Statement, Instr.layout, placed]; have := s.isLt; have := w.isLt; have := f.isLt; omega
theorem free : Statement .free := Nat.lt_of_sub_eq_succ rfl
theorem tag (a : BitVec 8) (b : BitVec 8) (m : BitVec 3) : Statement (.tag a b m) := by
  simp only [Statement, Instr.layout, placed]; have := a.isLt; have := b.isLt; have := m.isLt; omega
theorem futld (a : BitVec 8) (o : BitVec 1) (s : BitVec 3) (p : BitVec 2) (k : BitVec 1) (t : BitVec 1) : Statement (.futld a o s p k t) := by
  simp only [Statement, Instr.layout, placed]; have := a.isLt; have := o.isLt; have := s.isLt; have := p.isLt; have := k.isLt; have := t.isLt; omega
theorem futst (o : BitVec 1) (s : BitVec 3) (p : BitVec 2) (e : BitVec 1) : Statement (.futst o s p e) := by
  simp only [Statement, Instr.layout, placed]; have := o.isLt; have := s.isLt; have := p.isLt; have := e.isLt; omega
theorem yield (y : BitVec 1) : Statement (.yield y) := by
  simp only [Statement, Instr.layout, placed]; have := y.isLt; omega
theorem trapset (d : BitVec 12) (c : BitVec 1) : Statement (.trapset d c) := by
  simp only [Statement, Instr.layout, placed]; have := d.isLt; have := c.isLt; omega
theorem trapret (m : BitVec 2) : Statement (.trapret m) := by
  simp only [Statement, Instr.layout, placed]; have := m.isLt; omega
theorem depart (t : BitVec 1) : Statement (.depart t) := by
  simp only [Statement, Instr.layout, placed]; have := t.isLt; omega
theorem gldx (a : BitVec 8) (b : BitVec 8) : Statement (.gldx a b) := by
  simp only [Statement, Instr.layout, placed]; have := a.isLt; have := b.isLt; omega
theorem gstx : Statement .gstx := Nat.lt_of_sub_eq_succ rfl
theorem gempty : Statement .gempty := Nat.lt_of_sub_eq_succ rfl
theorem gtest (a : BitVec 8) (b : BitVec 8) : Statement (.gtest a b) := by
  simp only [Statement, Instr.layout, placed]; have := a.isLt; have := b.isLt; omega
theorem rcpset (a : BitVec 8) (c : BitVec 8) (g : BitVec 7) : Statement (.rcpset a c g) := by
  simp only [Statement, Instr.layout, placed]; have := a.isLt; have := c.isLt; have := g.isLt; omega
theorem rcpdrop (g : BitVec 7) : Statement (.rcpdrop g) := by
  simp only [Statement, Instr.layout, placed]; have := g.isLt; omega
theorem rcpclr (g : BitVec 7) : Statement (.rcpclr g) := by
  simp only [Statement, Instr.layout, placed]; have := g.isLt; omega
theorem ld (a : BitVec 8) (z : BitVec 3) (o : BitVec 1) (s : BitVec 3) (p : BitVec 2) (g : BitVec 1) : Statement (.ld a z o s p g) := by
  simp only [Statement, Instr.layout, placed]; have := a.isLt; have := z.isLt; have := o.isLt; have := s.isLt; have := p.isLt; have := g.isLt; omega
theorem st (z : BitVec 3) (o : BitVec 1) (s : BitVec 3) (p : BitVec 2) : Statement (.st z o s p) := by
  simp only [Statement, Instr.layout, placed]; have := z.isLt; have := o.isLt; have := s.isLt; have := p.isLt; omega
theorem lds (a : BitVec 8) (z : BitVec 3) (o : BitVec 1) (s : BitVec 3) (g : BitVec 1) : Statement (.lds a z o s g) := by
  simp only [Statement, Instr.layout, placed]; have := a.isLt; have := z.isLt; have := o.isLt; have := s.isLt; have := g.isLt; omega
theorem sts (z : BitVec 3) (o : BitVec 1) (s : BitVec 3) : Statement (.sts z o s) := by
  simp only [Statement, Instr.layout, placed]; have := z.isLt; have := o.isLt; have := s.isLt; omega
theorem atom (a : BitVec 8) (z : BitVec 1) (o : BitVec 3) (s : BitVec 3) (g : BitVec 1) (x : BitVec 3) : Statement (.atom a z o s g x) := by
  simp only [Statement, Instr.layout, placed]; have := a.isLt; have := z.isLt; have := o.isLt; have := s.isLt; have := g.isLt; have := x.isLt; omega
theorem atoms (a : BitVec 8) (z : BitVec 1) (o : BitVec 3) (s : BitVec 3) (g : BitVec 1) (x : BitVec 3) : Statement (.atoms a z o s g x) := by
  simp only [Statement, Instr.layout, placed]; have := a.isLt; have := z.isLt; have := o.isLt; have := s.isLt; have := g.isLt; have := x.isLt; omega
theorem cas (a : BitVec 8) (z : BitVec 1) (o : BitVec 3) (s : BitVec 3) (g : BitVec 1) : Statement (.cas a z o s g) := by
  simp only [Statement, Instr.layout, placed]; have := a.isLt; have := z.isLt; have := o.isLt; have := s.isLt; have := g.isLt; omega
theorem fence (s : BitVec 3) (b : BitVec 6) (c : BitVec 6) : Statement (.fence s b c) := by
  simp only [Statement, Instr.layout, placed]; have := s.isLt; have := b.isLt; have := c.isLt; omega
theorem pref (p : BitVec 2) (n : BitVec 4) : Statement (.pref p n) := by
  simp only [Statement, Instr.layout, placed]; have := p.isLt; have := n.isLt; omega
theorem cflush (p : BitVec 1) : Statement (.cflush p) := by
  simp only [Statement, Instr.layout, placed]; have := p.isLt; omega
theorem cinv (p : BitVec 1) : Statement (.cinv p) := by
  simp only [Statement, Instr.layout, placed]; have := p.isLt; omega
theorem ldmx (a : BitVec 8) (o : BitVec 1) (s : BitVec 3) (p : BitVec 2) (f : BitVec 3) : Statement (.ldmx a o s p f) := by
  simp only [Statement, Instr.layout, placed]; have := a.isLt; have := o.isLt; have := s.isLt; have := p.isLt; have := f.isLt; omega
theorem stmx (o : BitVec 1) (s : BitVec 3) (p : BitVec 2) (f : BitVec 3) : Statement (.stmx o s p f) := by
  simp only [Statement, Instr.layout, placed]; have := o.isLt; have := s.isLt; have := p.isLt; have := f.isLt; omega
theorem talloc (a : BitVec 8) (c : BitVec 8) (p : BitVec 3) : Statement (.talloc a c p) := by
  simp only [Statement, Instr.layout, placed]; have := a.isLt; have := c.isLt; have := p.isLt; omega
theorem tst (z : BitVec 3) : Statement (.tst z) := by
  simp only [Statement, Instr.layout, placed]; have := z.isLt; omega
theorem tseal : Statement .tseal := Nat.lt_of_sub_eq_succ rfl
theorem tld (a : BitVec 8) (c : BitVec 1) (g : BitVec 1) (z : BitVec 3) : Statement (.tld a c g z) := by
  simp only [Statement, Instr.layout, placed]; have := a.isLt; have := c.isLt; have := g.isLt; have := z.isLt; omega
theorem tabandon : Statement .tabandon := Nat.lt_of_sub_eq_succ rfl
theorem tfree : Statement .tfree := Nat.lt_of_sub_eq_succ rfl
theorem tstat (a : BitVec 8) : Statement (.tstat a) := by
  simp only [Statement, Instr.layout, placed]; have := a.isLt; omega
theorem tpart (a : BitVec 8) (p : BitVec 3) : Statement (.tpart a p) := by
  simp only [Statement, Instr.layout, placed]; have := a.isLt; have := p.isLt; omega
theorem cpy (a : BitVec 8) : Statement (.cpy a) := by
  simp only [Statement, Instr.layout, placed]; have := a.isLt; omega
theorem cpys (a : BitVec 8) : Statement (.cpys a) := by
  simp only [Statement, Instr.layout, placed]; have := a.isLt; omega
theorem cpyc : Statement .cpyc := Nat.lt_of_sub_eq_succ rfl
theorem bari : Statement .bari := Nat.lt_of_sub_eq_succ rfl
theorem bara : Statement .bara := Nat.lt_of_sub_eq_succ rfl
theorem barx : Statement .barx := Nat.lt_of_sub_eq_succ rfl
theorem barw (a : BitVec 8) : Statement (.barw a) := by
  simp only [Statement, Instr.layout, placed]; have := a.isLt; omega
theorem crpop (a : BitVec 8) (k : BitVec 2) : Statement (.crpop a k) := by
  simp only [Statement, Instr.layout, placed]; have := a.isLt; have := k.isLt; omega
theorem mma (t : BitVec 4) (k : BitVec 4) (m : BitVec 2) (u : BitVec 1) (c : BitVec 1) (l : BitVec 1) (e : BitVec 1) : Statement (.mma t k m u c l e) := by
  simp only [Statement, Instr.layout, placed]; have := t.isLt; have := k.isLt; have := m.isLt; have := u.isLt; have := c.isLt; have := l.isLt; have := e.isLt; omega
theorem mmax (x : BitVec 3) (y : BitVec 3) (m : BitVec 1) (n : BitVec 1) : Statement (.mmax x y m n) := by
  simp only [Statement, Instr.layout, placed]; have := x.isLt; have := y.isLt; have := m.isLt; have := n.isLt; omega
theorem mctx (a : BitVec 8) (c : BitVec 1) (t : BitVec 2) : Statement (.mctx a c t) := by
  simp only [Statement, Instr.layout, placed]; have := a.isLt; have := c.isLt; have := t.isLt; omega
theorem mwait (a : BitVec 8) (c : BitVec 1) (n : BitVec 1) : Statement (.mwait a c n) := by
  simp only [Statement, Instr.layout, placed]; have := a.isLt; have := c.isLt; have := n.isLt; omega
theorem accz (c : BitVec 1) (l : BitVec 1) : Statement (.accz c l) := by
  simp only [Statement, Instr.layout, placed]; have := c.isLt; have := l.isLt; omega
theorem accld (m : BitVec 2) (c : BitVec 1) (l : BitVec 1) : Statement (.accld m c l) := by
  simp only [Statement, Instr.layout, placed]; have := m.isLt; have := c.isLt; have := l.isLt; omega
theorem accst (f : BitVec 3) (r : BitVec 3) (m : BitVec 2) (c : BitVec 1) (l : BitVec 1) : Statement (.accst f r m c l) := by
  simp only [Statement, Instr.layout, placed]; have := f.isLt; have := r.isLt; have := m.isLt; have := c.isLt; have := l.isLt; omega
theorem accrd (a : BitVec 8) (c : BitVec 1) (l : BitVec 1) : Statement (.accrd a c l) := by
  simp only [Statement, Instr.layout, placed]; have := a.isLt; have := c.isLt; have := l.isLt; omega
theorem bgemv (a : BitVec 8) : Statement (.bgemv a) := by
  simp only [Statement, Instr.layout, placed]; have := a.isLt; omega
theorem bred (a : BitVec 8) : Statement (.bred a) := by
  simp only [Statement, Instr.layout, placed]; have := a.isLt; omega
theorem bfence (s : BitVec 3) : Statement (.bfence s) := by
  simp only [Statement, Instr.layout, placed]; have := s.isLt; omega
theorem bwait (a : BitVec 8) (n : BitVec 1) : Statement (.bwait a n) := by
  simp only [Statement, Instr.layout, placed]; have := a.isLt; have := n.isLt; omega
theorem fjob (a : BitVec 8) : Statement (.fjob a) := by
  simp only [Statement, Instr.layout, placed]; have := a.isLt; omega
theorem fwait (a : BitVec 8) (n : BitVec 1) : Statement (.fwait a n) := by
  simp only [Statement, Instr.layout, placed]; have := a.isLt; have := n.isLt; omega
theorem fcan : Statement .fcan := Nat.lt_of_sub_eq_succ rfl
theorem fpush (e : BitVec 1) (n : BitVec 4) : Statement (.fpush e n) := by
  simp only [Statement, Instr.layout, placed]; have := e.isLt; have := n.isLt; omega
theorem fpull (a : BitVec 8) (n : BitVec 4) : Statement (.fpull a n) := by
  simp only [Statement, Instr.layout, placed]; have := a.isLt; have := n.isLt; omega
theorem scfg : Statement .scfg := Nat.lt_of_sub_eq_succ rfl
theorem sbind (e : BitVec 4) : Statement (.sbind e) := by
  simp only [Statement, Instr.layout, placed]; have := e.isLt; omega
theorem sgo (m : BitVec 16) : Statement (.sgo m) := by
  simp only [Statement, Instr.layout, placed]; have := m.isLt; omega
theorem sbar (m : BitVec 16) : Statement (.sbar m) := by
  simp only [Statement, Instr.layout, placed]; have := m.isLt; omega
theorem sdone : Statement .sdone := Nat.lt_of_sub_eq_succ rfl
theorem sloop (c : BitVec 8) (t : BitVec 8) : Statement (.sloop c t) := by
  simp only [Statement, Instr.layout, placed]; have := c.isLt; have := t.isLt; omega
theorem launch (q : BitVec 3) : Statement (.launch q) := by
  simp only [Statement, Instr.layout, placed]; have := q.isLt; omega
theorem nrec (n : BitVec 6) : Statement (.nrec n) := by
  simp only [Statement, Instr.layout, placed]; have := n.isLt; omega
theorem dsig : Statement .dsig := Nat.lt_of_sub_eq_succ rfl
theorem dpub (q : BitVec 3) : Statement (.dpub q) := by
  simp only [Statement, Instr.layout, placed]; have := q.isLt; omega
theorem qenq (s : BitVec 3) (v : BitVec 1) (k : BitVec 2) : Statement (.qenq s v k) := by
  simp only [Statement, Instr.layout, placed]; have := s.isLt; have := v.isLt; have := k.isLt; omega
theorem qdeq (a : BitVec 8) (s : BitVec 3) (t : BitVec 1) : Statement (.qdeq a s t) := by
  simp only [Statement, Instr.layout, placed]; have := a.isLt; have := s.isLt; have := t.isLt; omega
theorem qpoll (a : BitVec 8) : Statement (.qpoll a) := by
  simp only [Statement, Instr.layout, placed]; have := a.isLt; omega
theorem qmake (a : BitVec 8) : Statement (.qmake a) := by
  simp only [Statement, Instr.layout, placed]; have := a.isLt; omega
theorem qkill (a : BitVec 8) : Statement (.qkill a) := by
  simp only [Statement, Instr.layout, placed]; have := a.isLt; omega
theorem frmput (b : BitVec 3) : Statement (.frmput b) := by
  simp only [Statement, Instr.layout, placed]; have := b.isLt; omega
theorem frmclose (l : BitVec 1) (b : BitVec 3) : Statement (.frmclose l b) := by
  simp only [Statement, Instr.layout, placed]; have := l.isLt; have := b.isLt; omega
theorem trap (i : BitVec 16) : Statement (.trap i) := by
  simp only [Statement, Instr.layout, placed]; have := i.isLt; omega
theorem mode (a : BitVec 8) (b : BitVec 8) (m : BitVec 2) : Statement (.mode a b m) := by
  simp only [Statement, Instr.layout, placed]; have := a.isLt; have := b.isLt; have := m.isLt; omega
theorem clk (a : BitVec 8) (b : BitVec 8) (m : BitVec 2) : Statement (.clk a b m) := by
  simp only [Statement, Instr.layout, placed]; have := a.isLt; have := b.isLt; have := m.isLt; omega
theorem evt (k : BitVec 2) : Statement (.evt k) := by
  simp only [Statement, Instr.layout, placed]; have := k.isLt; omega
theorem brk (i : BitVec 16) : Statement (.brk i) := by
  simp only [Statement, Instr.layout, placed]; have := i.isLt; omega
theorem sregr (a : BitVec 8) (n : BitVec 16) : Statement (.sregr a n) := by
  simp only [Statement, Instr.layout, placed]; have := a.isLt; have := n.isLt; omega
theorem sregw (n : BitVec 16) : Statement (.sregw n) := by
  simp only [Statement, Instr.layout, placed]; have := n.isLt; omega
theorem tokenArrival (core : Nat) (dev : Nat) (flit : Nat) : Statement (.tokenArrival core dev flit) := Nat.lt_of_sub_eq_succ rfl
theorem discardNotice (part : Nat) (id : Nat) (code : Nat) (dest : Nat) (tag : Word) (src : Word) : Statement (.discardNotice part id code dest tag src) := Nat.lt_of_sub_eq_succ rfl
theorem sendAck (core : Nat) (op : Nat) : Statement (.sendAck core op) := Nat.lt_of_sub_eq_succ rfl
theorem departCommandArrival (core : Nat) (dev : Nat) (idx : Nat) (tag : Word) (src : Word) : Statement (.departCommandArrival core dev idx tag src) := Nat.lt_of_sub_eq_succ rfl
theorem departureTimerExpiry (core : Nat) : Statement (.departureTimerExpiry core) := Nat.lt_of_sub_eq_succ rfl
theorem trainDeparture (core : Nat) : Statement (.trainDeparture core) := Nat.lt_of_sub_eq_succ rfl
theorem trainEnd (core : Nat) (uid : Nat) : Statement (.trainEnd core uid) := Nat.lt_of_sub_eq_succ rfl
theorem lateValueLands (core : Nat) : Statement (.lateValueLands core) := Nat.lt_of_sub_eq_succ rfl
theorem recipeReplay (core : Nat) : Statement (.recipeReplay core) := Nat.lt_of_sub_eq_succ rfl
theorem freeCompletion (core : Nat) (handle : Nat) : Statement (.freeCompletion core handle) := Nat.lt_of_sub_eq_succ rfl
theorem compaction (core : Nat) (order : Nat) : Statement (.compaction core order) := Nat.lt_of_sub_eq_succ rfl
theorem storeDrain (core : Nat) : Statement (.storeDrain core) := Nat.lt_of_sub_eq_succ rfl
theorem translationWalk (core : Nat) : Statement (.translationWalk core) := Nat.lt_of_sub_eq_succ rfl
theorem pageResponse (part : Nat) (w : Word) : Statement (.pageResponse part w) := Nat.lt_of_sub_eq_succ rfl
theorem pageRequestTimeout (part : Nat) : Statement (.pageRequestTimeout part) := Nat.lt_of_sub_eq_succ rfl
theorem tlbinv (part : Nat) (w : Word) : Statement (.tlbinv part w) := Nat.lt_of_sub_eq_succ rfl
theorem tlbInvalidationComplete (part : Nat) : Statement (.tlbInvalidationComplete part) := Nat.lt_of_sub_eq_succ rfl
theorem prqctlWrite (part : Nat) (w : Word) : Statement (.prqctlWrite part w) := Nat.lt_of_sub_eq_succ rfl
theorem partitionRegisterWrite (part : Nat) (n : Nat) (w : Word) : Statement (.partitionRegisterWrite part n w) := Nat.lt_of_sub_eq_succ rfl
theorem sslenWrite (part : Nat) (w : Word) : Statement (.sslenWrite part w) := Nat.lt_of_sub_eq_succ rfl
theorem hostDoorbell (part : Nat) (queue : Nat) (w : HostWord) : Statement (.hostDoorbell part queue w) := Nat.lt_of_sub_eq_succ rfl
theorem launchAdmit (part : Nat) : Statement (.launchAdmit part) := Nat.lt_of_sub_eq_succ rfl
theorem gridWordRead (part : Nat) (id : Nat) : Statement (.gridWordRead part id) := Nat.lt_of_sub_eq_succ rfl
theorem launchPlacement (part : Nat) (id : Nat) : Statement (.launchPlacement part id) := Nat.lt_of_sub_eq_succ rfl
theorem launchStall (part : Nat) (id : Nat) : Statement (.launchStall part id) := Nat.lt_of_sub_eq_succ rfl
theorem launchCompletion (part : Nat) (id : Nat) : Statement (.launchCompletion part id) := Nat.lt_of_sub_eq_succ rfl
theorem noticeHeadWrite (part : Nat) (w : HostWord) : Statement (.noticeHeadWrite part w) := Nat.lt_of_sub_eq_succ rfl
theorem sidingReplay (part : Nat) (id : Nat) (die : Nat) : Statement (.sidingReplay part id die) := Nat.lt_of_sub_eq_succ rfl
theorem yardRecordArrival (die : Nat) (yard : Nat) : Statement (.yardRecordArrival die yard) := Nat.lt_of_sub_eq_succ rfl
theorem yardTimerExpiry (die : Nat) (yard : Nat) : Statement (.yardTimerExpiry die yard) := Nat.lt_of_sub_eq_succ rfl
theorem teamPlacement (die : Nat) (yard : Nat) : Statement (.teamPlacement die yard) := Nat.lt_of_sub_eq_succ rfl
theorem endLaunch (part : Nat) (id : Nat) : Statement (.endLaunch part id) := Nat.lt_of_sub_eq_succ rfl
theorem faultedLaunchAutoend (part : Nat) (id : Nat) : Statement (.faultedLaunchAutoend part id) := Nat.lt_of_sub_eq_succ rfl
theorem preempt (part : Nat) : Statement (.preempt part) := Nat.lt_of_sub_eq_succ rfl
theorem restore (part : Nat) : Statement (.restore part) := Nat.lt_of_sub_eq_succ rfl
theorem halt (part : Nat) : Statement (.halt part) := Nat.lt_of_sub_eq_succ rfl
theorem resume (part : Nat) : Statement (.resume part) := Nat.lt_of_sub_eq_succ rfl
theorem drainlimExpiry (part : Nat) : Statement (.drainlimExpiry part) := Nat.lt_of_sub_eq_succ rfl
theorem saveStart (part : Nat) : Statement (.saveStart part) := Nat.lt_of_sub_eq_succ rfl
theorem saveComplete (part : Nat) : Statement (.saveComplete part) := Nat.lt_of_sub_eq_succ rfl
theorem loadComplete (part : Nat) : Statement (.loadComplete part) := Nat.lt_of_sub_eq_succ rfl
theorem haltQuiesced (part : Nat) : Statement (.haltQuiesced part) := Nat.lt_of_sub_eq_succ rfl
theorem timetableStep (core : Nat) : Statement (.timetableStep core) := Nat.lt_of_sub_eq_succ rfl
theorem superstepBoundary (part : Nat) : Statement (.superstepBoundary part) := Nat.lt_of_sub_eq_succ rfl
theorem timetableFreeze (part : Nat) : Statement (.timetableFreeze part) := Nat.lt_of_sub_eq_succ rfl
theorem timetableHalt (part : Nat) : Statement (.timetableHalt part) := Nat.lt_of_sub_eq_succ rfl
theorem copyCompletion (core : Nat) (slot : Nat) : Statement (.copyCompletion core slot) := Nat.lt_of_sub_eq_succ rfl
theorem ringSpaceRetry (kind : Nat) (unit : Nat) (slot : Nat) : Statement (.ringSpaceRetry kind unit slot) := Nat.lt_of_sub_eq_succ rfl
theorem barrierUpdate (core : Nat) : Statement (.barrierUpdate core) := Nat.lt_of_sub_eq_succ rfl
theorem freedSlotNotice (core : Nat) (slot : Nat) : Statement (.freedSlotNotice core slot) := Nat.lt_of_sub_eq_succ rfl
theorem tallocGrant (core : Nat) : Statement (.tallocGrant core) := Nat.lt_of_sub_eq_succ rfl
theorem tileSealComplete (core : Nat) : Statement (.tileSealComplete core) := Nat.lt_of_sub_eq_succ rfl
theorem tfreeComplete (core : Nat) : Statement (.tfreeComplete core) := Nat.lt_of_sub_eq_succ rfl
theorem mctxClaim (pair : Nat) (ctx : Nat) : Statement (.mctxClaim pair ctx) := Nat.lt_of_sub_eq_succ rfl
theorem mctxRelease (pair : Nat) (ctx : Nat) : Statement (.mctxRelease pair ctx) := Nat.lt_of_sub_eq_succ rfl
theorem mtxTileStep (pair : Nat) : Statement (.mtxTileStep pair) := Nat.lt_of_sub_eq_succ rfl
theorem bankOperationComplete (core : Nat) (slot : Nat) : Statement (.bankOperationComplete core slot) := Nat.lt_of_sub_eq_succ rfl
theorem fabCardBind (cluster : Nat) : Statement (.fabCardBind cluster) := Nat.lt_of_sub_eq_succ rfl
theorem fabUnitFire (cluster : Nat) (ctx : Nat) (unit : Nat) : Statement (.fabUnitFire cluster ctx unit) := Nat.lt_of_sub_eq_succ rfl
theorem fabSourceToken (cluster : Nat) (ctx : Nat) (eng : Nat) : Statement (.fabSourceToken cluster ctx eng) := Nat.lt_of_sub_eq_succ rfl
theorem fabSinkCommit (cluster : Nat) (ctx : Nat) (eng : Nat) : Statement (.fabSinkCommit cluster ctx eng) := Nat.lt_of_sub_eq_succ rfl
theorem fabReplay (cluster : Nat) (ctx : Nat) : Statement (.fabReplay cluster ctx) := Nat.lt_of_sub_eq_succ rfl
theorem fabJobComplete (cluster : Nat) (slot : Nat) : Statement (.fabJobComplete cluster slot) := Nat.lt_of_sub_eq_succ rfl
theorem queueEntryArrival (core : Nat) (pkt : List Word) : Statement (.queueEntryArrival core pkt) := Nat.lt_of_sub_eq_succ rfl
theorem queueRefusal (core : Nat) (ser : Nat) (code : Nat) : Statement (.queueRefusal core ser code) := Nat.lt_of_sub_eq_succ rfl
theorem queueAck (core : Nat) (ser : Nat) : Statement (.queueAck core ser) := Nat.lt_of_sub_eq_succ rfl
theorem queueSidingRetry (core : Nat) (queue : Nat) : Statement (.queueSidingRetry core queue) := Nat.lt_of_sub_eq_succ rfl
theorem queueCycleScan : Statement .queueCycleScan := Nat.lt_of_sub_eq_succ rfl
theorem frameFillTimer (core : Nat) (builder : Nat) : Statement (.frameFillTimer core builder) := Nat.lt_of_sub_eq_succ rfl
theorem frameSend (core : Nat) (builder : Nat) : Statement (.frameSend core builder) := Nat.lt_of_sub_eq_succ rfl
theorem rowFrameArrival (core : Nat) (dev : Nat) (part : Nat) (id : Nat) (bytes : List Byte) : Statement (.rowFrameArrival core dev part id bytes) := Nat.lt_of_sub_eq_succ rfl
theorem creditGrant (core : Nat) (dev : Nat) (n : Nat) : Statement (.creditGrant core dev n) := Nat.lt_of_sub_eq_succ rfl
theorem remoteMemoryRequest (dev : Nat) (id : Nat) (pa : Nat) (req : PeerReq) : Statement (.remoteMemoryRequest dev id pa req) := Nat.lt_of_sub_eq_succ rfl
theorem remoteMemoryResponse (id : Nat) (code : Nat) (data : List Byte) : Statement (.remoteMemoryResponse id code data) := Nat.lt_of_sub_eq_succ rfl
theorem routeChange (dev : Nat) (up : Bool) (ports : Nat) (hops : Nat) : Statement (.routeChange dev up ports hops) := Nat.lt_of_sub_eq_succ rfl
theorem flitRetransmit (port : Nat) : Statement (.flitRetransmit port) := Nat.lt_of_sub_eq_succ rfl
theorem featacceptWrite (w : HostWord) : Statement (.featacceptWrite w) := Nat.lt_of_sub_eq_succ rfl
theorem msixIntervalExpiry (vec : Nat) : Statement (.msixIntervalExpiry vec) := Nat.lt_of_sub_eq_succ rfl
theorem mgmtPhysicalAccess (sel : Word) (write : Bool) (off : Nat) (len : Nat) (data : List Byte) : Statement (.mgmtPhysicalAccess sel write off len data) := Nat.lt_of_sub_eq_succ rfl
theorem mgmtRegisterAccess (sel : Word) (write : Bool) (w : HostWord) : Statement (.mgmtRegisterAccess sel write w) := Nat.lt_of_sub_eq_succ rfl
theorem mgmtObjectAccess (sel : Word) (write : Bool) (off : Nat) (len : Nat) (data : List Byte) : Statement (.mgmtObjectAccess sel write off len data) := Nat.lt_of_sub_eq_succ rfl
theorem mgmtFutViewAccess (sel : Word) (write : Bool) (off : Nat) (len : Nat) (data : List Byte) : Statement (.mgmtFutViewAccess sel write off len data) := Nat.lt_of_sub_eq_succ rfl
theorem mgmtAsidEntryAccess (sel : Word) (write : Bool) (off : Nat) (len : Nat) (data : List Byte) : Statement (.mgmtAsidEntryAccess sel write off len data) := Nat.lt_of_sub_eq_succ rfl
theorem powerUp : Statement .powerUp := Nat.lt_of_sub_eq_succ rfl
theorem endpointReset : Statement .endpointReset := Nat.lt_of_sub_eq_succ rfl
theorem setDomain (dev : Nat) (members : List Nat) (routes : List (Nat × Nat × Nat)) : Statement (.setDomain dev members routes) := Nat.lt_of_sub_eq_succ rfl
theorem setPartition (part : Nat) (clusters : List Nat) : Statement (.setPartition part clusters) := Nat.lt_of_sub_eq_succ rfl
theorem setPriv (part : Nat) (v : Bool) : Statement (.setPriv part v) := Nat.lt_of_sub_eq_succ rfl
theorem setPowerCap (watts : Nat) : Statement (.setPowerCap watts) := Nat.lt_of_sub_eq_succ rfl
theorem moduleReset : Statement .moduleReset := Nat.lt_of_sub_eq_succ rfl
theorem activateVersion : Statement .activateVersion := Nat.lt_of_sub_eq_succ rfl
theorem getErrorLog : Statement .getErrorLog := Nat.lt_of_sub_eq_succ rfl
theorem getRouteTable : Statement .getRouteTable := Nat.lt_of_sub_eq_succ rfl
theorem pldmSensorRead (sensor : Nat) : Statement (.pldmSensorRead sensor) := Nat.lt_of_sub_eq_succ rfl
theorem firmwareUpdate (image : List Byte) : Statement (.firmwareUpdate image) := Nat.lt_of_sub_eq_succ rfl
theorem getVersion : Statement .getVersion := Nat.lt_of_sub_eq_succ rfl
theorem getCapabilities : Statement .getCapabilities := Nat.lt_of_sub_eq_succ rfl
theorem negotiateAlgorithms (algs : Nat) : Statement (.negotiateAlgorithms algs) := Nat.lt_of_sub_eq_succ rfl
theorem getDigests : Statement .getDigests := Nat.lt_of_sub_eq_succ rfl
theorem getCertificate (off : Nat) (len : Nat) : Statement (.getCertificate off len) := Nat.lt_of_sub_eq_succ rfl
theorem challenge (nonce : List Byte) : Statement (.challenge nonce) := Nat.lt_of_sub_eq_succ rfl
theorem getMeasurements (index : Nat) : Statement (.getMeasurements index) := Nat.lt_of_sub_eq_succ rfl
theorem powerCapThrottle : Statement .powerCapThrottle := Nat.lt_of_sub_eq_succ rfl
theorem thermalThrottle (die : Nat) : Statement (.thermalThrottle die) := Nat.lt_of_sub_eq_succ rfl
theorem thermalHalt (die : Nat) : Statement (.thermalHalt die) := Nat.lt_of_sub_eq_succ rfl
theorem patrolScrub (granules : List Nat) : Statement (.patrolScrub granules) := Nat.lt_of_sub_eq_succ rfl
theorem controlStateError (core : Nat) (detail : Nat) (told : Bool) : Statement (.controlStateError core detail told) := Nat.lt_of_sub_eq_succ rfl
theorem throttleRelease : Statement .throttleRelease := Nat.lt_of_sub_eq_succ rfl
theorem configurationRequest (write : Bool) (off : Nat) (w : Word) : Statement (.configurationRequest write off w) := Nat.lt_of_sub_eq_succ rfl
theorem flitForward (dev : Nat) (flit : Nat) : Statement (.flitForward dev flit) := Nat.lt_of_sub_eq_succ rfl
theorem statusWrite (w : HostWord) : Statement (.statusWrite w) := Nat.lt_of_sub_eq_succ rfl
theorem mstatWrite (w : HostWord) : Statement (.mstatWrite w) := Nat.lt_of_sub_eq_succ rfl
theorem pldmBaseDiscovery (cmd : Nat) : Statement (.pldmBaseDiscovery cmd) := Nat.lt_of_sub_eq_succ rfl
theorem waitGraphEdgeExchange (edges : List (Nat × Nat)) : Statement (.waitGraphEdgeExchange edges) := Nat.lt_of_sub_eq_succ rfl
theorem flushComplete (core : Nat) (op : Nat) : Statement (.flushComplete core op) := Nat.lt_of_sub_eq_succ rfl

end Sys2Proof.Laws.FieldsBelowOpcode
end

