-- ==== Sys2Proof/Tests/Slice0.lean ====
section
/-!
SUPPORT. Tests of the model: ill-formed terms, words of the spec, single steps with values from the spec, and for every statement with
hypotheses a state that meets them.
-/
namespace Sys2Proof.Tests
open Sys2Proof Sys2Proof.Machine
set_option Elab.async false

/-! ## WellFormed refuses an ill-formed term for each of its checks -/

/-- An event row is no word of a block (R58). -/
theorem test_wf_event : wellFormed .powerUp = false := by decide
/-- R51: 0x03 names no slot. -/
theorem test_wf_target : wellFormed (.iadd 3 0 4 1) = false := by decide
theorem test_wf_target2 : wellFormed (.iadd 4 1 4 1) = false := by decide
/-- R61: rounding code 6. -/
theorem test_wf_rounding : (Instr.fadd 4 0 6 0).fieldError = some .illegalRounding := by decide
/-- R137: comparison code 6 of an integer compare. -/
theorem test_wf_compare : (Instr.icmp 4 0 0 6).fieldError = some .illegalFormat := by decide
theorem test_wf_scale : wellFormed (.addx 4 0 0 5) = false := by decide
theorem test_wf_convert : wellFormed (.cvt 4 0 0 25) = false := by decide
theorem test_wf_block_format : wellFormed (.cvtsc 4 0 0 5 0) = false := by decide
theorem test_wf_shuffle : wellFormed (.shfl 4 0 3) = false := by decide
theorem test_wf_reduce : wellFormed (.reduce 4 0 7 0 0 0) = false ∧ wellFormed (.reduce 4 0 0 3 0 0) = false ∧
    wellFormed (.reduce 4 0 3 2 0 0) = false ∧ wellFormed (.scan 4 0 7 0 0 0 0) = false := by decide
theorem test_wf_match : wellFormed (.xmatch 4 0 2) = false := by decide
theorem test_wf_seatid : wellFormed (.seatid 4 0 6) = false := by decide
theorem test_wf_pwords : wellFormed (.send 0 0 0 3 0) = false ∧ wellFormed (.sendsel 0 0 0 3 0) = false ∧
    wellFormed (.switch 0 0 0 3 0) = false ∧ wellFormed (.ret 0 3 0) = false := by decide
theorem test_wf_spawn : wellFormed (.spawn 0 0 0 3 1) = false ∧ wellFormed (.spawn 0 0 0 1 17) = false := by decide
theorem test_wf_tag : wellFormed (.tag 4 0 5) = false := by decide
/-- R111: a plain access carries no scope. -/
theorem test_wf_scope : wellFormed (.futld 4 0 1 0 0 0) = false ∧ wellFormed (.futst 0 1 0 0) = false ∧
    wellFormed (.st 3 0 1 0) = false ∧ wellFormed (.sts 3 0 1) = false ∧ wellFormed (.lds 4 3 0 1 0) = false := by decide
theorem test_wf_trapset : wellFormed (.trapset 1 1) = false := by decide
theorem test_wf_trapret : wellFormed (.trapret 3) = false := by decide
/-- R212: sizes, sign and the target of a 16-byte load. -/
theorem test_wf_load : wellFormed (.ld 4 5 0 0 0 0) = false ∧ wellFormed (.ld 4 3 0 0 0 1) = false ∧ wellFormed (.ld 4 0 0 1 0 0) = false ∧
    wellFormed (.ld 6 4 0 0 0 0) = false ∧ wellFormed (.st 5 0 0 0) = false ∧ wellFormed (.sts 5 0 0) = false := by decide
/-- R217: an atomic is ordered, a 64-bit one has no sign, and operation 7 is none. -/
theorem test_wf_atomic : wellFormed (.atom 4 0 0 0 0 0) = false ∧ wellFormed (.atom 4 1 1 0 1 0) = false ∧ wellFormed (.atom 4 0 1 0 0 7) = false ∧
    wellFormed (.atoms 4 0 5 0 0 0) = false ∧ wellFormed (.cas 4 0 0 0 0) = false ∧ wellFormed (.cas 4 1 1 0 1) = false := by decide
theorem test_wf_fence : wellFormed (.fence 0 0 1) = false ∧ wellFormed (.fence 0 1 0) = false := by decide
theorem test_wf_blocks : wellFormed (.ldmx 4 0 0 0 5) = false ∧ wellFormed (.stmx 0 0 0 5) = false ∧ wellFormed (.stmx 0 1 0 0) = false := by decide
theorem test_wf_tiles : wellFormed (.tst 5) = false ∧ wellFormed (.tld 4 0 0 5) = false ∧ wellFormed (.tld 7 0 0 4) = false := by decide
theorem test_wf_matrix : wellFormed (.mma 9 0 0 0 0 0 0) = false ∧ wellFormed (.mma 0 0 3 0 0 0 0) = false ∧ wellFormed (.mmax 5 0 0 0) = false ∧
    wellFormed (.mctx 4 0 0) = false ∧ wellFormed (.accld 3 0 0) = false ∧ wellFormed (.accst 5 0 0 0 0) = false ∧
    wellFormed (.accst 0 6 0 0 0) = false ∧ wellFormed (.accst 0 0 3 0 0) = false := by decide
theorem test_wf_loop : wellFormed (.sloop 0 1) = false := by decide
theorem test_wf_queue : wellFormed (.qdeq 7 0 0) = false := by decide
theorem test_wf_system : wellFormed (.mode 4 0 3) = false ∧ wellFormed (.clk 4 0 3) = false := by decide
/-- A well-formed term is let through. -/
theorem test_wf_good : wellFormed (.iadd 0x14 0 4 1) = true := by decide

/-! ## Words written out from the encodings (R58 to R69) -/

theorem test_dec_int : decodeWord 0 0x01140090#32 = .ok (.iadd 0x14 0 4 1) := by rfl
theorem test_dec_flt : decodeWord 1 0x831A0040#32 = .ok (.fmulPred 0x1A 0 2 0) := by rfl
theorem test_dec_sfn : decodeWord 2 0x04102428#32 = .ok (.fdiv 0x10 0x24 1 1) := by rfl
theorem test_dec_xln : decodeWord 3 0x08100011#32 = .ok (.scan 0x10 0 0 2 0 0 1) := by rfl
theorem test_dec_seatid : decodeWord 3 0x0A390001#32 = .ok (.seatid 0x39 0 1) := by rfl
theorem test_dec_fire : decodeWord 4 0x02000200#32 = .ok (.sendsel 0 1 0 0 0) := by rfl
theorem test_dec_carry : decodeWord 5 0x06000009#32 = .ok (.rcpdrop 9) := by rfl
theorem test_dec_gldx : decodeWord 5 0x01480000#32 = .ok (.gldx 0x48 0) := by rfl
theorem test_dec_mem : decodeWord 6 0x010C0008#32 = .ok (.ld 0x0C 0 0 0 0 1) := by rfl
theorem test_dec_atom : decodeWord 6 0x051D7100#32 = .ok (.atom 0x1D 1 4 2 0 0) := by rfl
theorem test_dec_tile : decodeWord 7 0x01100201#32 = .ok (.talloc 0x10 2 1) := by rfl
theorem test_dec_copy : decodeWord 8 0x07240000#32 = .ok (.barw 0x24) := by rfl
theorem test_dec_mtx : decodeWord 9 0x08140018#32 = .ok (.accrd 0x14 1 1) := by rfl
theorem test_dec_bank : decodeWord 10 0x03008000#32 = .ok (.bfence 4) := by rfl
theorem test_dec_fab : decodeWord 11 0x05140003#32 = .ok (.fpull 0x14 3) := by rfl
theorem test_dec_sched : decodeWord 12 0x02000005#32 = .ok (.nrec 5) := by rfl
theorem test_dec_net : decodeWord 13 0x01000025#32 = .ok (.qenq 4 1 1) := by rfl
theorem test_dec_sys : decodeWord 14 0x01000042#32 = .ok (.trap 0x42) := by rfl
theorem test_dec_stream : decodeWord 15 0x86000301#32 = .ok (.sloop 3 1) := by rfl
/-- R58: an opcode that no table lists is refused by name. -/
theorem test_dec_none : decodeWord 0 0x00000000#32 = .error .illegalOpcode := by rfl

/-! ## A small machine

Core 0 with one train of one seat and one frame, a window of 4 KiB, a 1 GiB page of ASID 0 at address 0 in its TLB and in the page table
(R225), an image at 0x100000 (R42) with a block without inputs, one with an input, and 8 destinations. -/

/-- The page table and the image. -/
def tables : Memory :=
  [(0x2000, 0x01), (0x2001, 0x40), (0x200B, 0x80), (0x4000, 0x01), (0x4001, 0x60), (0x400B, 0x80), (0x6000, 0x3F),
   (0x100011, 0x10), (0x100014, 0x40), (0x100018, 2), (0x10001C, 0x80), (0x100020, 8), (0x100041, 1), (0x100044, 0x80), (0x100045, 1),
   (0x100084, 8),
   (0x100102, 0x40), (0x100103, 0xB0), (0x100105, 4), (0x10010B, 0x10), (0x10010C, 0x90), (0x10010F, 1),
   (0x100182, 0x44), (0x100183, 0xB0), (0x100185, 4), (0x100186, 1), (0x100188, 4), (0x10018F, 0x10), (0x100190, 0x90), (0x100193, 1)]

def ref0 : LaunchRef := ⟨0, 1⟩
def inst0 : Inst := { fetchInst with prog := 0x100000 }
def seat0 : Seat := ⟨0, inst0⟩
def frame0 : Frame := { fetchFrame with prog := 0x100000, carryCount := 8 }
def train0 (sl : NMap Word) : Train := { fetchTrainOf 0 0x01140090#32 0 with prog := 0x100000, slots := sl }
  |> fun t => { t with seats := [seat0] }
def part0 : Partition := { Partition.reset with state := .run, clusters := [0], lastId := 1, launches := [(1, fetchLaunch)] }
def tlb0 : TlbEntry := ⟨0, 0, 2 ^ 30, 0x3F⟩
def core0 : Core :=
  { Core.reset with frames := [(0, frame0)], sram := [(0, 0)], uids := 1, tlb := [tlb0], windows := [⟨ref0, 64, 4096, [], [], []⟩] }

/-- The machine with the train's operand slots, core 0 and the rest changed as a test asks. -/
def world (sl : NMap Word) (k : Core → Core) (g : State → State) : State :=
  g { State.reset.placeWord 0 0 with
    cur := (0, 1), mem := tables, asids := [(0, 0x2001)], parts := [(0, part0)], cores := [(0, k { core0 with trains := [train0 sl] })],
    clusters := [(0, { Cluster.reset with tlb := [tlb0] })] }

/-- Operands L, R, T and P of the first instruction. -/
def ops (l r t p : Word) : NMap Word := [(4, l), (5, r), (6, t), (7, p)]

theorem test_train_stands : Issuing (world [] id id) (train0 []) := ⟨by decide, by decide, by decide⟩
/-- What a decision of the parts says of a train that is to issue with nothing outstanding. -/
theorem ready_of (s : State) (t : Train)
    (h : (s.train? = some t ∧ t.writeRegs = [] ∧ (t.seats.map (fun x => x.n)).Nodup) ∧ (s.core s.cur.1).sq = [] ∧ s.mem.wf = true ∧
      (s.core s.cur.1).outst = [] ∧ s.link.reqs = []) :
    Issuing s t ∧ s.storesDone t ∧ s.memOk ∧ ∀ m, s.pathsDone t m := by
  refine ⟨⟨h.1.1, h.1.2.1, h.1.2.2⟩, ⟨?_, ?_⟩, h.2.2.1, ?_⟩
  · intro e he; rw [h.2.1] at he; cases he
  · intro r hr; rw [h.2.2.2.2] at hr; cases hr
  · intro m; unfold State.pathsDone Core.pathsBusy; rw [h.2.2.2.1]; rfl

theorem test_page_walk : (world [] id id).walk 0 0x1234 = .leaf 0 (2 ^ 30) 0x3F := by decide +kernel
theorem test_image_read : (world [] id id).destCount 0 0x100000 = 8 ∧ (world [] id id).imgDest 0 0x100000 1 = some (1, 0) := by decide +kernel

/-! ## For each statement, a state and operands that meet its hypotheses -/

theorem witness_intLanesDeliver : Issuing (world [] id id) (train0 []) ∧ ∃ f, intWord (.iadd 0x14 0 4 1) = some (0x14, 0, f) :=
  ⟨test_train_stands, _, rfl⟩

theorem witness_fltLanesDeliver : Issuing (world [] id id) (train0 []) ∧ ∃ f, fltOut (.fdot4 0x14 0 0 1) = some (0x14, 0, f) :=
  ⟨test_train_stands, _, rfl⟩

theorem witness_predicatedLanesDeliver :
    (Issuing (world [] id id) (train0 []) ∧ plainForm (.iaddPred 0x14 0 4 1) = some (.iadd 0x14 0 4 1) ∧
      ∃ g, intWord (.iadd 0x14 0 4 1) = some (0x14, 0, g)) ∧
    (plainForm (.fmulPred 0x14 0 0 0) = some (.fmul 0x14 0 0 0) ∧ ∃ f, fltOut (.fmul 0x14 0 0 0) = some (0x14, 0, f)) :=
  ⟨⟨test_train_stands, rfl, _, rfl⟩, rfl, _, rfl⟩

theorem witness_sfnLanesAreLate :
    (Issuing (world [] id id) (train0 []) ∧ ∃ f, sfnOut (train0 []) (.cvtsc 0x14 0 0 4 0) = some (0x14, 0, some 6, f)) ∧
    (world [] id id).featOn ref0 6 = true ∧
    plainForm (.idivPred 0x14 0 0 1) = some (.idiv 0x14 0 0 1) ∧ ∃ f, sfnOut (train0 []) (.idiv 0x14 0 0 1) = some (0x14, 0, none, f) :=
  ⟨⟨test_train_stands, _, rfl⟩, by decide, rfl, _, rfl⟩

theorem witness_xlnLanesDeliver : Issuing (world [] id id) (train0 []) ∧
    ∃ f, xlnOut (world [] id id) 0 (train0 []) (.reduce 0x14 0 6 0 0 1) = some (0x14, 0, f) :=
  ⟨test_train_stands, _, rfl⟩

/-- A block with a write entry of register 5 for its instruction (R54). -/
def entryTrain : Train :=
  { train0 [] with words := some [0xB0400400#32, 0x400#32, 0x05040000#32, 0x10000000#32, 0x01140090#32] }

theorem witness_writeEntryTakesTheResult :
    let s := world [] (fun k => { k with trains := [entryTrain] }) id
    s.train? = some entryTrain ∧ entryTrain.seats = [seat0] ∧ (s.frame 0 0).binds = [] ∧ entryTrain.writeRegs = [5] ∧
      (∀ g ∈ entryTrain.writeRegs, g < (s.frame 0 0).carryCount) := by decide +kernel

/-- A load at the last aligned word of the page, ordered; a store and a scratchpad access at the edge of the window. -/
theorem witness_loadsDeliverLate :
    let sl := ops 0x3FFFFFF8 0 0 0
    Issuing (world sl id id) (train0 sl) ∧ (world sl id id).scopeBound (train0 sl) 0 = true ∧
    (world sl id id).access 0 0 [] 0x3FFFFFF8 (2 ^ 3) .read = .ok 0x3FFFFFF8 tlb0 ∧ leafRemote tlb0.leaf = false ∧
    granuleBad (world sl id id).bad 0x3FFFFFF8 8 = false ∧
    (world sl id id).winErr ref0 0 0xFF8 8 = false ∧ (world sl id id).spAccess 0 ref0 0x8000FF8 8 = .ok (0, 0xFF8) :=
  ⟨⟨by decide +kernel, by decide +kernel, by decide +kernel⟩, by decide +kernel, by decide +kernel, by decide +kernel, by decide +kernel,
    by decide +kernel, rfl⟩

theorem witness_storesQueueAndDrain :
    let e := sqEntry (train0 []) seat0 (.glob 0x5000 none [1, 2]) [] [] 0
    let s := world [] (fun k => { k with sq := [e] }) id
    (world [] id id).access 0 0 [] 0 1 .write = .ok 0 tlb0 ∧ (s.core 0).sq = [e] ∧ s.ttCore 0 = false ∧ s.mem.wf = true := by decide +kernel

theorem witness_atomicsActAtTheirHome :
    let t := train0 (ops 0x5000 1 2 0)
    let s := world (ops 0x5000 1 2 0) id id
    (Issuing s t ∧ s.storesDone t ∧ s.memOk ∧ ∀ m, s.pathsDone t m) ∧ t.seats = [seat0] ∧ s.inTT ref0 = false ∧ s.scopeBound t 6 = true ∧
      s.access 0 0 [] 0x5000 8 .rmw = .ok 0x5000 tlb0 ∧ granuleBad s.bad 0x5000 8 = false :=
  ⟨ready_of _ _ (by decide +kernel), by decide +kernel⟩

theorem witness_scratchpadAtomicsActOnTheWindow :
    let t := train0 (ops 0x8000FF8 1 0 0)
    let s := world (ops 0x8000FF8 1 0 0) id id
    (Issuing s t ∧ s.storesDone t ∧ s.memOk ∧ ∀ m, s.pathsDone t m) ∧ s.inTT ref0 = false ∧ s.scopeBound t 0 = true ∧
      s.spAccess 0 ref0 (t.slot 0 1 .l) 8 = .ok (0, 0xFF8) ∧ s.winErr ref0 0 0xFF8 8 = false ∧ ∀ w ∈ (s.core 0).windows, w.mem.wf = true :=
  ⟨ready_of _ _ (by decide +kernel), by decide +kernel, by decide +kernel, by rfl, by decide +kernel⟩

/-- A write of a train on a remote page, sent and not performed. -/
def sentWrite : RemoteReq :=
  { id := 1, peer := 9, pa := 0, va := 0, size := 8, kind := .write [7], core := 0, train := 1, launch := ref0, seat := 0, handle := 0,
    targets := [], regs := [], instr := 1, opId := 0 }

/-- In timetable mode, with scope level 4 bound to the die, a store of another train of the core that waits for the boundary. -/
def ttFence : State :=
  world [] (fun k => { k with sq := [sqEntry { train0 [] with uid := 2 } seat0 (.glob 0x5000 none [1]) [] [] 0] })
    (fun s => { s with parts := [(0, { part0 with tt := some 1, launches := [(1, { fetchLaunch with record := BitVec.ofNat 2048 (2 * 2 ^ 204) })] })] })

/-- A fence that goes on, one that a request on path M holds, one that a remote store holds, and one that the core's buffer holds. -/
theorem witness_fencesWaitForEarlierWork :
    (let s := world [] id id
     (Issuing s (train0 []) ∧ s.storesDone (train0 []) ∧ s.memOk ∧ ∀ m, s.pathsDone (train0 []) m) ∧ s.scopeBound (train0 []) 0 = true ∧
       s.bufferHolds 0 (train0 []) 0 63 = false) ∧
    (let s := world [] (fun k => { k with outst := [⟨1, 21, 2, 5⟩] }) id
     s.train? = some (train0 []) ∧ (s.core 0).sq = [] ∧ s.scopeBound (train0 []) 0 = true ∧ (s.core 0).pathsBusy 1 4 = true ∧
     (s.core 0).pathsBusy 1 3 = false) ∧
    (let s := world [] id (fun s => { s with link := { s.link with reqs := [sentWrite] } })
     s.train? = some (train0 []) ∧ s.inTT ref0 = false ∧ (s.core 0).sq = [] ∧ s.link.reqs = [sentWrite] ∧ sentWrite.kind.writes = true) ∧
    (ttFence.scopeBound (train0 []) 4 = true ∧ ttFence.inTT ref0 = true ∧ 2 ≤ ttFence.extent (train0 []) 4 ∧ (train0 []).moved = 0 ∧
     ∃ e ∈ (ttFence.core 0).sq, (1 : BitVec 6).toNat.testBit e.op.path = true) ∧ (Issuing ttFence (train0 []) ∧ ttFence.storesDone (train0 [])) :=
  ⟨⟨ready_of _ _ (by decide +kernel), by decide +kernel⟩, by decide +kernel, by decide +kernel, by decide +kernel,
    ⟨by decide +kernel, by decide +kernel, by decide +kernel⟩, by decide +kernel, by decide +kernel⟩

theorem witness_prefetchAndFlushNeverFault : Issuing (world (ops 0xFFFFFFFFFFFFFFFF 0 0 0) id id) (train0 (ops 0xFFFFFFFFFFFFFFFF 0 0 0)) :=
  ⟨by decide +kernel, by decide +kernel, by decide +kernel⟩

/-- A FUT page in place of the plain one (R105). -/
def futTlb : TlbEntry := { tlb0 with leaf := 0x13F }
def futWorld (full : List Nat) : State := world (ops 0x5008 7 0 0) (fun k => { k with tlb := [futTlb] }) (fun s => { s with fut := full })

theorem witness_futures :
    let t := train0 (ops 0x5008 7 0 0)
    ∀ full ∈ [[], [0x5008]],
    let s := futWorld full
    ((s.train? = some t ∧ t.writeRegs = [] ∧ (t.seats.map (fun x => x.n)).Nodup) ∧ (s.core s.cur.1).sq = [] ∧ s.mem.wf = true ∧
      (s.core s.cur.1).outst = [] ∧ s.link.reqs = []) ∧ t.seats = [seat0] ∧ t.outwardBefore = false ∧ s.inTT ref0 = false ∧ s.scopeBound t 0 = true ∧
      (∀ n ∈ [Need.read, .write, .rmw], s.futAccess 0 t seat0 n = .ok 0x5008 futTlb) ∧ leafRemote futTlb.leaf = false ∧
      granuleBad s.bad 0x5008 8 = false ∧ s.futFull 0x5008 = !full.isEmpty ∧ (s.core 0).waiters.length < 1024 := by decide +kernel

/-- A page whose scales lie 8 KiB above its blocks (R108): FP6 blocks of 24 bytes at its second block. -/
theorem witness_blockLoadsAndStores :
    let e : TlbEntry := { tlb0 with leaf := 0x3F + 2 ^ 104 }
    let t := train0 (ops 24 0 0 0)
    let s := world (ops 24 0 0 0) (fun k => { k with tlb := [e] }) id
    s.train? = some t ∧ t.writeRegs = [] ∧ t.groups = [0] ∧ t.seat? 0 = some seat0 ∧ s.scopeBound t 0 = true ∧
      s.mxAccess 0 0 [] 24 2 .read = .ok 24 none 8193 none ∧ s.mxAccess 0 0 [] 24 2 .write = .ok 24 none 8193 none ∧
      granuleBad s.bad 24 (mxBytes 2) = false ∧ granuleBad s.bad 8193 1 = false := by decide +kernel

theorem witness_registerReadsDeliverAtOnce :
    let s := world (ops 7 0 0 0) id id
    Issuing s (train0 (ops 7 0 0 0)) ∧ (∃ w, nowOut s 0 (train0 (ops 7 0 0 0)) (.gtest 0x14 0) = some ([0x14, 0], w,
      ∀ x ∈ (train0 (ops 7 0 0 0)).seats, ((train0 (ops 7 0 0 0)).slot x.n 1 .l).toNat < (s.frame 0 x.inst.handle).carryCount)) ∧
    (∀ x ∈ (train0 (ops 7 0 0 0)).seats, ((train0 (ops 7 0 0 0)).slot x.n 1 .l).toNat < (s.frame 0 x.inst.handle).carryCount) ∧
    (∃ w, nowOut s 0 (train0 (ops 7 0 0 0)) (.tag 0x14 0 4) = some ([0x14, 0], w, (4#3).toNat ≤ 4)) ∧ sregReadable 4 = true :=
  ⟨⟨by decide +kernel, by decide +kernel, by decide +kernel⟩, ⟨_, rfl⟩, by decide +kernel, ⟨_, rfl⟩, by decide +kernel⟩

/-- Every bit of the writable mask given, the rounding mode 3 and no saturation; and the end of a cycle with a flag raised in it. -/
theorem witness_modeReadsAndWritesItsWord :
    let t := train0 (ops 3 0xF 0 0)
    let s := world (ops 3 0xF 0 0) id id
    Issuing s t ∧ t.seats = [seat0] ∧ modeRMOk (modeFields (((s.frame 0 0).mode &&& ~~~0xF#64) ||| (3#64 &&& 0xF#64))) = true ∧
      modeSATPOk (modeFields (((s.frame 0 0).mode &&& ~~~0xF#64) ||| (3#64 &&& 0xF#64))) = true ∧
      (world [] (fun k => { k with trains := [], frames := [(0, { frame0 with raised := 16 })] }) (fun s => { s with laned := 1 })).todo = .tick :=
  ⟨⟨by decide +kernel, by decide +kernel, by decide +kernel⟩, by decide +kernel⟩

/-- A privileged partition, and one that is not. -/
theorem witness_registerWritesNeedPrivilege :
    (let s := world [] id (fun s => { s with parts := [(0, { part0 with priv := true })] })
     s.train? = some (train0 []) ∧ (train0 []).seats = [seat0] ∧ (s.part 0).priv = true ∧
     ∀ n ∈ [6, 9, 0x8002, 0x8003, 0x800A, 0x800D, 0x800E, 0x8010], sregWritable n = true) ∧
    (let s := world [] id id
     s.train? = some (train0 []) ∧ (s.part 0).priv = false ∧ sregWritable 6 = true ∧ sregReadable 0x8002 = true) := by decide +kernel

theorem witness_eventsCountAndBreakpointsHalt :
    (let s := world [] id (fun s => { s with parts := [(0, { part0 with evtSel := 1 })] })
     s.train? = some (train0 []) ∧ bits (s.part 0).evtSel 7 0 = 1) ∧
    (world [] id id).train? = some (train0 []) ∧ ((world [] id id).part 0).brkEn = false ∧
    (let s := world [] id (fun s => { s with parts := [(0, { part0 with brkEn := true })] })
     s.train? = some (train0 []) ∧ (s.part 0).brkEn = true ∧ (train0 []).resumed = false ∧ (train0 []).hold ≠ some .brk ∧
     (s.part 0).state = .run ∧ (s.part 0).ttPend = 0 ∧ (s.part 0).tt = none) := by decide +kernel

theorem witness_trapReachesItsHandler :
    (let s := world [] (fun k => { k with frames := [(0, { frame0 with trapValid := true, trapDest := 1 })] }) id
     s.train? = some (train0 []) ∧ (train0 []).seats = [seat0] ∧ (train0 []).outwardBefore = false ∧ (s.frame 0 0).trapValid = true) ∧
    (world [] id id).train? = some (train0 []) ∧ ((world [] id id).frame 0 0).trapValid = false ∧
    (world [] id id).launch? ref0 = some fetchLaunch ∧ fetchLaunch.id = ref0.id := by decide +kernel

/-- The last destination; a `switch` whose selector is its limit. -/
theorem witness_sendersReleaseOneToken :
    let t := train0 (ops 0 0 0 4)
    let s := world (ops 0 0 0 4) id id
    (Issuing s t ∧ s.storesDone t ∧ s.memOk ∧ ∀ m, s.pathsDone t m) ∧ t.seats = [seat0] ∧
    senderOf t seat0 (.send 7 0 0 2 63) = some (7, 0, 0, 2, 63, True) ∧
    senderOf t seat0 (.switch 3 0 0 2 4) = some (7, 0, 0, 2, 0, 4 ≤ 4) ∧ s.scopeBound t 0 = true ∧
    s.crowded 0 (s.tagOf 0 inst0) = false ∧ 7 < s.destCount 0 0x100000 ∧ tagAsid (s.tagOf 0 inst0) = 0 ∧ tagCore (s.tagOf 0 inst0) < 1280 ∧
    s.link.members.contains (tagDevice (s.tagOf 0 inst0)) = true :=
  ⟨ready_of _ _ (by decide +kernel), by decide +kernel, rfl, rfl, by decide +kernel⟩

theorem witness_spawnTakesAFrameOrFallsBack :
    (let s := world [] id id
     (Issuing s (train0 []) ∧ s.storesDone (train0 []) ∧ s.memOk ∧ ∀ m, s.pathsDone (train0 []) m) ∧ s.scopeBound (train0 []) 0 = true ∧
     s.crowded 0 (s.tagOf 0 inst0) = false ∧ 0 < s.destCount 0 0x100000 ∧ freeHandle (s.core 0).frames = some 1 ∧
     s.frameOrder 0 0x100000 (8 * 16) ≤ 8 ∧ (sramFind (s.core 0).sram (s.frameOrder 0 0x100000 (8 * 16))).isSome = true) ∧
    (let s := world [] (fun k => { k with sram := [(0, 9), (512, 9), (1024, 9)] }) id
     s.train? = some (train0 []) ∧ sramFind (s.core 0).sram (s.frameOrder 0 0x100000 0) = none ∧ 6 + 1 < s.destCount 0 0x100000) :=
  ⟨⟨ready_of _ _ (by decide +kernel), by decide +kernel⟩, by decide +kernel⟩

/-- A frame with a continuation; a root whose launch has a completion target. -/
theorem witness_retReturnsToItsContinuation :
    (let s := world [] (fun k => { k with frames := [(0, { frame0 with parentValid := true })] }) id
     (Issuing s (train0 []) ∧ s.storesDone (train0 []) ∧ s.memOk ∧ ∀ m, s.pathsDone (train0 []) m) ∧ s.scopeBound (train0 []) 0 = true ∧
     (s.frame 0 0).parentValid = true ∧ s.crowded 0 (s.frame 0 0).parentTag = false) ∧
    (let s := world [] id (fun s => { s with
       parts := [(0, { part0 with launches := [(1, { fetchLaunch with record := BitVec.ofNat 2048 (0x5000 * 2 ^ 448) })] })] })
     s.train? = some (train0 []) ∧ (s.frame 0 0).parentValid = false ∧ s.resultOf (train0 []) = 0x5000 ∧
     ∀ i < 2, s.access 0 0 [] (s.resultOf (train0 []) + 8 * i) 8 .write = .ok (0x5000 + 8 * i) tlb0) :=
  ⟨⟨ready_of _ _ (by decide +kernel), by decide +kernel⟩, by decide +kernel⟩

theorem witness_freeAndTrapsetMarkTheirFrames : (world [] id id).train? = some (train0 []) := by decide +kernel

def heldEntry : MEntry := ⟨inst0, .held, none, 1, 0⟩

theorem witness_seatsLeaveAndReturn :
    ((world [] id id).train? = some (train0 []) ∧ bit ((train0 []).slot 0 1 .l) 0 = false ∧ bit ((train0 (ops 1 0 0 0)).slot 0 1 .l) 0 = true) ∧
    (let s := world [] (fun k => { k with entries := [heldEntry] }) id
     s.train? = some (train0 []) ∧ (train0 []).outwardBefore = false ∧ heldEntry ∈ (s.core 0).entries ∧
     heldEntry.inst.block = bits ((train0 []).slot 0 1 .l) 63 48 ∧
     ∀ y ∈ (s.core 0).entries, y.state = .held → y.inst.handle = 0 → y.inst.idx = 0 → y.inst.block = heldEntry.inst.block → y = heldEntry) ∧
    (world (ops 7 0 0 0) id id).imgDest 0 0x100000 (bits ((train0 (ops 7 0 0 0)).slot 0 1 .l) 11 0) = some (0, 0) := by decide +kernel

/-- A full and an empty register below CARRY_COUNT, at its edge. -/
theorem witness_carriedRegistersByIndex :
    let t := train0 (ops 7 9 0 0)
    ∀ e ∈ [[], [7]],
    let s := world (ops 7 9 0 0) (fun k => { k with frames := [(0, { frame0 with empties := e })] }) id
    (s.train? = some t ∧ t.writeRegs = [] ∧ (t.seats.map (fun x => x.n)).Nodup) ∧ t.seats = [seat0] ∧
      (t.slot 0 1 .l).toNat < (s.frame 0 0).carryCount ∧ (s.frame 0 0).binds = [] ∧ (s.frame 0 0).full 7 = e.isEmpty ∧
      (s.core 0).regErr (s.frame 0 0) 7 = false := by decide +kernel

/-- The recipe g3 + 5 (R197 to R199). -/
def body0 : List IWord := [0xC0000000#32, 0x00112040#32, 0, 0, 0, 0x20034005#32, 0, 0]

/-- `rcpset`, `rcpdrop` and `rcpclr` of register 7: without a binding, with one that is not dropped, and with a dropped one. -/
theorem witness_recipesBindDropAndClear :
    let s := fun b => world [] (fun k => { k with
      recipes := [⟨0, 0x100000, 9, body0⟩], frames := [(0, { frame0 with regs := [(3, 10)], binds := b })] }) id
    (Issuing (s []) (train0 [])) ∧ (train0 []).seats = [seat0] ∧
    ((s []).frame 0 0).binds = [] ∧ (∀ k ∈ rcpSources body0, k < 8 ∧ ((s []).frame 0 0).full k = true ∧ k ≠ 7) ∧
    (s []).recipeOff ref0 body0 = false ∧ (s []).rcpEval 0 0 [] ((s []).frame 0 0) body0 (((s []).frame 0 0).mode &&& 0xF7#64) = .ok 15 0 ∧
    (∀ d ∈ [false, true], let b : Binding := ⟨7, 9, d, 1, none⟩
      (s [b]).dependants 0 ((s [b]).frame 0 0) 7 = [] ∧ ((s [b]).frame 0 0).binding? 7 = some b ∧
      (s [b]).rebuild 0 0 [] ((s [b]).frame 0 0) ((s [b]).replayOf 0 ((s [b]).frame 0 0) b) = .ok 15 0 ∧
      ((s [b]).core 0).slotFree 0 ((s [b]).frame 0 0) = true) :=
  ⟨⟨by decide +kernel, by decide +kernel, by decide +kernel⟩, by decide +kernel⟩

/-! Tiles: partition 7 of 1 KiB tiles, one tile. -/
def tileOf (st : TState) (count : Nat) : Tile := { Tile.fresh 32 with gen := 5, state := st, count := count }
def poolOf (u : Tile) : TilePart := { launch := ref0, part := 7, tsize := 0, tiles := [u], queue := [], bound := none }
def tileWorld (sl : NMap Word) (u : Tile) : State :=
  world sl (fun k => { k with eng := { k.eng with pool := [poolOf u] } }) id

theorem witness_tilesAreTakenWrittenReadAndEnded :
    (let t := train0 []
     let s := tileWorld [] (tileOf .free 0)
     Issuing s t ∧ t.seats = [seat0] ∧ poolFind (s.core 0).eng.pool ref0 7 = some (poolOf (tileOf .free 0)) ∧
     (poolOf (tileOf .free 0)).which (fun y => y.state == .free) = [0] ∧ (s.core 0).eng.highestHeld ref0 0 0 = none ∧ (255#8).toNat ≠ 0) ∧
    (∀ st ∈ [TState.unsealed, .sealed],
     let h := mkHandle 5 0 7 0 1016
     let t := train0 (ops h 3 0 0)
     let s := tileWorld (ops h 3 0 0) (tileOf st 1)
     (s.train? = some t ∧ t.writeRegs = [] ∧ (t.seats.map (fun x => x.n)).Nodup) ∧ (s.core 0).sq = [] ∧ s.inTT ref0 = false ∧
     tileRef 0 ref0 h (s.poolSeen 0 false) = some (⟨0, ⟨ref0, 7, 0⟩, 5, 1016⟩, 1024, tileOf st 1) ∧
     (∃ r ∈ [(⟨0, ⟨ref0, 7, 0⟩, 5, 1016⟩ : HRef)], ∃ u ∈ [tileOf st 1],
       (match tileRefAt 0 ref0 h 8 (s.poolSeen 0 false) with | .ok q => q == (r, u) | .error _ => false) = true) ∧
     s.link.reqs = [] ∧ (tileOf st 1).pend = [] ∧ s.tileErr 0 (tileOf st 1) 1016 8 = false ∧
     (s.core 0).eng.tileWaits = [] ∧ (poolOf (tileOf st 1)).bound = none ∧ 1016 % 8 = 0 ∧ 1016 + 8 ≤ 1024) ∧
    (∀ i ∈ [Instr.tseal, .tfree], (tileAfter (tileOf .unsealed 1) i).map (·.1) = some .unsealed) ∧
    (tileAfter (tileOf .sealed 1) .tabandon).map (·.1) = some .sealed :=
  ⟨⟨⟨by decide +kernel, by decide +kernel, by decide +kernel⟩, by decide +kernel⟩, by decide +kernel, by decide +kernel, by decide +kernel⟩

/-- A copy of one 4-byte element from 0x7000 to 0x8000 (R331). -/
def copy0 : Nat := 0x4352 + 2 ^ 16 + 2 * 2 ^ 20 + 0x7000 * 2 ^ 64 + 0x8000 * 2 ^ 128 + 2 ^ 768
/-- A stream of 64 16-byte elements into partition 7, a full tile of 1,024 bytes a chunk, read once. -/
def stream0 : Nat := 0x4352 + 2 ^ 16 + 4 * 2 ^ 20 + 3 * 2 ^ 30 + 0x7000 * 2 ^ 64 + (7 + 2 ^ 8 + 64 * 2 ^ 16) * 2 ^ 128 + (64 + 16 * 2 ^ 32) * 2 ^ 768
def copyWorld (recd : Nat) : State := world (ops 0x8000F00 0 0 0) (fun k => { k with
  windows := [⟨ref0, 64, 4096, Memory.writeNat [] 0xF00 256 recd, [], []⟩], eng := { k.eng with pool := [poolOf (tileOf .free 0)] } }) id

/-- Records in the last 256 bytes of the window; a request that `cpyc` names, and one that it does not. -/
theorem witness_copyRequestsTakeASlot :
    (let t := train0 (ops 0x8000F00 0 0 0)
     ∀ q ∈ [(copy0, false), (stream0, true)],
     let s := copyWorld q.1
     (s.train? = some t ∧ t.writeRegs = [] ∧ (t.seats.map (fun x => x.n)).Nodup) ∧ (s.core 0).sq = [] ∧
     (match s.spAccess 0 ref0 (t.slot 0 1 .l) 32 with | .ok y => y == (0, 0xF00) | .error _ => false) = true ∧
     ((s.core 0).window? ref0).map (·.size) = some 4096 ∧
     ofLE (s.seeWin 0 1 false ref0 0 0xF00 256) = q.1 ∧ s.winErr ref0 0 0xF00 256 = false ∧ s.link.reqs = [] ∧
     s.copyFault 0 t q.1 q.2 = none ∧ (s.core 0).eng.copies.length < 512 ∧ (s.core 0).eng.freeSlot = some 0) := by decide +kernel

def copyReq0 (recd : Nat) (stream : Bool) : CopyReq :=
  { slot := 511, seq := 3, info := { FaultInfo.plain 0 0 0 ref0 0 1 with core := 0 }, train := 1, opId := 9, tt := false, recd := recd,
    stream := stream, srcOk := false, mark := 0, pos := 0, bytes := 0, notices := [], ripe := 0, chunk := 0, sealFor := none, open' := [], lost := none, sat := false, nan := false, cancelled := false,
    cancelOps := [], due := 0, fault := none, pageWait := none, reporting := 0, fab := none, fabOut := 0 }

theorem witness_copiesAreCancelled :
    (let w := idWord 0 3 511
     let s := world (ops w 0 0 0) (fun k => { k with eng := { k.eng with copies := [copyReq0 copy0 false] } }) id
     s.train? = some (train0 (ops w 0 0 0)) ∧ (s.core 0).eng.copy? (bits w 8 0) = some (copyReq0 copy0 false) ∧ bits w 42 32 = 0 ∧ bits w 31 16 = 3) ∧
    (let w := idWord 0 2 511
     let s := world (ops w 0 0 0) (fun k => { k with eng := { k.eng with copies := [copyReq0 copy0 false] } }) id
     s.train? = some (train0 (ops w 0 0 0)) ∧ ∀ q ∈ (s.core 0).eng.copies, ¬(bits w 42 32 = 0 ∧ bits w 31 16 = q.seq)) := by decide +kernel

/-- A launch with a ring descriptor table at 0xB000: ring 3 empty, then with one record (R344). -/
def ringWorld (d : Nat) : State := world [] id (fun s => { s with
  mem := Memory.writeNat s.mem 0xB030 16 d,
  parts := [(0, { part0 with launches := [(1, { fetchLaunch with record := BitVec.ofNat 2048 (0xB000 * 2 ^ 640) })] })] })

theorem witness_barriersAndRings :
    (let t := train0 (ops 0x8000FF0 2 0 0)
     let s := world (ops 0x8000FF0 2 0 0) id id
     (Issuing s t ∧ s.storesDone t ∧ s.memOk ∧ ∀ m, s.pathsDone t m) ∧ t.seats = [seat0] ∧ s.inTT ref0 = false ∧
     barrierOf t seat0 .bari = some (.init 2) ∧ barrierOf t seat0 .bara = some .arrive ∧ barrierOf t seat0 .barx = some (.add 2) ∧
     (match s.spAccess 0 ref0 (t.slot 0 1 .l) 16 with | .ok y => y == (0, 0xFF0) | .error _ => false) = true ∧ (s.core 0).eng.barq = [] ∧
     s.barOpen 0 1 false ref0 0 0xFF0 = false ∧ s.winErr ref0 0 0xFF0 16 = false ∧ natBits (ofLE (s.seeWin 0 1 false ref0 0 0xFF0 16)) 119 104 ≠ bits (t.slot 0 1 .r) 15 0) ∧
    (∀ d ∈ [0x4_0000_0000 + 0xC000 * 2 ^ 64, 0x4_0001_0000 + 0xC000 * 2 ^ 64],
     let s := ringWorld d
     (s.train? = some (train0 []) ∧ (train0 []).writeRegs = []) ∧ (s.core 0).sq = [] ∧
     (s.launch? ref0).map (fun l => (l.asid, recRingTab l.record)) = some (0, 0xB000) ∧
     s.engAcc 0 0xB030 16 .rmw = .ok 0xB030 0x3F 0 (2 ^ 30) ∧ leafRemote 0x3F = false ∧ leafIMM 0x3F = false ∧
     s.mem.readNat 0xB030 16 = d ∧ natBits d 120 64 ≠ 0 ∧ s.mem.wf = true) ∧
    (natBits (0x4_0000_0000 + 0xC000 * 2 ^ 64) 15 0 = natBits (0x4_0000_0000 + 0xC000 * 2 ^ 64) 31 16 ∧
     natBits (0x4_0001_0000 + 0xC000 * 2 ^ 64) 15 0 ≠ natBits (0x4_0001_0000 + 0xC000 * 2 ^ 64) 31 16) :=
  ⟨⟨ready_of _ _ (by decide +kernel), by decide +kernel⟩, by decide +kernel, by decide +kernel⟩

/-- A matrix context that the frame owns, and one with a record of a failure. -/
def mctx0 (code : Nat) : MCtx := { MCtx.reset with owner := some (0, 0), launch := ref0, code := code, rowp := 64, chunkp := 3, ops := 2 }
def mtxWorld (sl : NMap Word) (m : MCtx) : State := world sl id (fun s => { s with pairs := [(0, { Pair.reset with ctxs := [(1, m)] })] })

theorem witness_matrixCommandsJoinTheirContext :
    let t := train0 (ops 0x4000 0x8000 (512 + 512 * 2 ^ 32) 0)
    let s := mtxWorld (ops 0x4000 0x8000 (512 + 512 * 2 ^ 32) 0) (mctx0 0)
    (Issuing s t ∧ s.storesDone t ∧ s.memOk ∧ ∀ m, s.pathsDone t m) ∧ t.lowest = some seat0 ∧ t.seats = [seat0] ∧ s.inTT ref0 = false ∧
      mmaFeature s t 0 none = true ∧ s.mmaReason 0 ref0 0 0 0 0x4000 0x8000 (512 + 512 * 2 ^ 32) none = none ∧
      accReason s 0 t seat0 0 4 = none ∧ accReason s 0 t seat0 0 (ofmtBytes 1) = none ∧
      (s.context 1).ownedBy 0 0 = true ∧ (s.context 1).queue.length < 4 :=
  ⟨ready_of _ _ (by decide +kernel), by decide +kernel⟩

/-- A free context; one of another frame; one's own without and with a failure. -/
theorem witness_contextsAreClaimedAndReported :
    (∀ m ∈ [MCtx.reset, { mctx0 0 with owner := some (1, 0) }, mctx0 0, mctx0 0x33],
      let s := mtxWorld [] m
      (s.train? = some (train0 []) ∧ (train0 []).writeRegs = [] ∧ ((train0 []).seats.map (fun x => x.n)).Nodup) ∧ s.inTT ref0 = false ∧
        s.context 1 = m ∧ m.claims = [] ∧ m.releasing = false ∧ m.queue = []) ∧
    (1, 0) ≠ (0, 0) := by decide +kernel

/-- A `bgemv` of one row and 128 columns, and a `bred` of one element (R381, R382). -/
def gemv0 : Nat := 0x4247 + 128 * 2 ^ 32 + 2 ^ 64 + 256 * 2 ^ 96 + 0x7000 * 2 ^ 128 + 0x8000 * 2 ^ 192 + 0x9000 * 2 ^ 256
def bred0 : Nat := 0x4252 + 2 ^ 64 + 0x8000 * 2 ^ 192 + 0x9000 * 2 ^ 256
def bank0 (fault : Option (Nat × Nat)) : BankOp :=
  { slot := 63, seq := 1, info := { FaultInfo.plain 0 0 0 ref0 0 1 with core := 0 }, frame := 0, opId := 9, tt := false, red := true, recd := bred0,
    row := 0, nan := false, inf := false, pageWait := none, fault := fault, done := true, orphan := false, due := 0 }

theorem witness_bankOperationsTakeASlot :
    (let t := train0 (ops 0x8000FC0 0 0 0)
     ∀ q ∈ [(gemv0, false), (bred0, true)],
     let s := world (ops 0x8000FC0 0 0 0) (fun k => { k with windows := [⟨ref0, 64, 4096, Memory.writeNat [] 0xFC0 64 q.1, [], []⟩] }) id
     (s.train? = some t ∧ t.writeRegs = [] ∧ (t.seats.map (fun x => x.n)).Nodup) ∧ (s.core 0).sq = [] ∧
     (match s.spAccess 0 ref0 (t.slot 0 1 .l) 64 with | .ok y => y == (0, 0xFC0) | .error _ => false) = true ∧
     ofLE (s.seeWin 0 1 false ref0 0 0xFC0 64) = q.1 ∧ s.bankFeature ref0 q.1 q.2 = true ∧
     (if q.2 then redReason q.1 else gemvReason q.1) = 0 ∧ s.winErr ref0 0 0xFC0 64 = false ∧ s.link.reqs = [] ∧
     (s.core 0).eng.banks.length < 64 ∧ (s.core 0).eng.freeBank = some 0) ∧
    (world [] id id).bankNamed 0 0 = none ∧
    (∀ f ∈ [none, some (0x33, 0)],
     let w := idWord 0 1 63
     let s := world (ops w 0 0 0) (fun k => { k with eng := { k.eng with banks := [bank0 f] } }) id
     s.train? = some (train0 (ops w 0 0 0)) ∧ s.bankNamed 0 w = some (bank0 f) ∧ (bank0 f).done = true) := by decide +kernel

/-! Fabric: a card at 0x9000 with one buffer entry at 0x9100 (R397, R398). -/
def card0 : Nat := 0x464A + 2 ^ 102 + 0x9100 * 2 ^ 519
def buf0 : Nat := 0x1000 + 3 * 2 ^ 48 + 0x10000 * 2 ^ 64
def fab0 (k : FCard) (x : Option FCtx) : Fabric :=
  { cards := [k], seqs := [(0, 1)], ctxs := match x with | some y => [(0, y)] | none => [] }
def withFab (f : Fabric) (s : State) : State := { s with clusters := [(0, { Cluster.reset with tlb := [tlb0], fab := f })] }
def kcard (st : FStage) (code : Nat) : FCard := { fetchCard 0 with stage := st, code := code, bufs := [buf0] }

theorem witness_fabricJobsArePostedAndReported :
    (let t := train0 (ops 0x9000 0 0 0)
     let s := world (ops 0x9000 0 0 0) id (fun s => { s with mem := (Memory.writeNat s.mem 0x9000 128 card0).writeNat 0x9100 16 buf0 })
     (Issuing s t ∧ s.storesDone t ∧ s.memOk ∧ ∀ m, s.pathsDone t m) ∧ t.seats = [seat0] ∧ s.inTT ref0 = false ∧ t.moved = 0 ∧
     s.cardAccess 0 t seat0 = .ok 0x9000 tlb0 ∧ s.mem.readNat 0x9000 128 = card0 ∧
     (match s.cardBufs 0 0 card0 with | .ok l => l == [buf0] | .error _ => false) = true ∧
     s.cardReason 0 0 0x100000 ref0 false card0 (some [buf0]) = 0 ∧ (s.fab 0).room = true) ∧
    (world [] id id).fabNamed 0 0 = none ∧
    (∀ q ∈ [(FStage.done, 0), (.done, 0x33), (.waiting, 0)],
     let w := fabId 0 1 0
     let s := world (ops w 0 0 0) id (withFab (fab0 (kcard q.1 q.2) none))
     s.train? = some (train0 (ops w 0 0 0)) ∧ s.fabNamed 0 w = some (kcard q.1 q.2) ∧ s.fabJob ref0 w = some (kcard q.1 q.2)) :=
  ⟨⟨ready_of _ _ (by decide +kernel), by decide +kernel⟩, by decide +kernel, by decide +kernel⟩

/-- A port with seven tokens takes one more; a port with a token, and one with END. -/
def port0 (kind : Nat) (toks : List FTok) : FEng := { FEng.fresh 0 (kind * 2 ^ 192) [] with port := toks, running := true }

theorem witness_trainPortsCarryTokens :
    (let w := fabId 0 1 0
     let t := train0 (ops w 7 0 0)
     let g := port0 7 (List.replicate 7 (mkTok [] 1 0))
     let x : FCtx := { fetchCtx 0 with engs := [(15, g)] }
     let s := world (ops w 7 0 0) id (withFab (fab0 (kcard .running 0) (some x)))
     s.train? = some t ∧ t.seats = [seat0] ∧ s.inTT ref0 = false ∧ t.moved = 0 ∧
     s.trainPort ref0 (t.slot 0 1 .l) 15 7 = some (0, kcard .running 0, x, g) ∧ g.port.length + (t.pushToks false).length ≤ 8) ∧
    (∀ tok ∈ [mkTok [5] 1 0, finTok 16],
     let w := fabId 0 1 0
     let t := train0 (ops w 7 0 0)
     let g := port0 8 [tok]
     let x : FCtx := { fetchCtx 0 with engs := [(0, g)] }
     let s := world (ops w 7 0 0) id (withFab (fab0 (kcard .running 0) (some x)))
     (s.train? = some t ∧ t.writeRegs = []) ∧ s.trainPort ref0 (t.slot 0 1 .l) 0 8 = some (0, kcard .running 0, x, g) ∧
     (tok.kind ≠ .fin → tok.data.getD 0 0 < 2 ^ 32)) := by decide +kernel

/-! Commands of a list: a job whose context stands at them. -/
def unit0 : Nat := 2 ^ 24 + 2 ^ 32 + 2 ^ 68
def desc0 : Nat := 0x4642 + 2 ^ 192 + 2 ^ 202 + 2 ^ 240 + 0xA140 * 2 ^ 423
def eng0 : FEng := FEng.fresh 0 desc0 [16 + 4 * 2 ^ 32]
def listWorld (x : FCtx) : State := world [] id (fun s => { withFab (fab0 (kcard .running 0) (some x)) s with
  cur := (0, 0), mem := ((((s.mem.writeNat 0xA000 64 (0x4643 + 2 ^ 16)).writeNat 0xA040 32 unit0).writeNat 0xA100 64 desc0).writeNat 0xA140 16
    (16 + 4 * 2 ^ 32)) })

theorem witness_commandListsRunInOrder :
    (let x : FCtx := { fetchCtx 0 with words := [0x81020000, 0xA000, 0, 96, 0] }
     let s := listWorld x
     s.streamJob = some (0, kcard .running 0, x) ∧ (∀ e ∈ x.engs, e.2.running = false) ∧ x.operand 0 = 0xA000 ∧ x.operand 0 % 64 = 0 ∧
     (match s.fabRead 0 (kcard .running 0) x 0xA000 64 with | .ok b => ofLE b == 0x4643 + 2 ^ 16 | _ => false) = true ∧
     headOk (0x4643 + 2 ^ 16) (x.operand 1) x = true ∧
     (match s.fabRead 0 (kcard .running 0) x 0xA040 32 with | .ok b => ofLE b == unit0 | _ => false) = true ∧
     imageReason (0x4643 + 2 ^ 16) [unit0] = 0) ∧
    (let x : FCtx := { fetchCtx 0 with words := [0x82010000, 0xA100, 0] }
     let s := listWorld x
     s.streamJob = some (0, kcard .running 0, x) ∧ x.operand 0 = 0xA100 ∧
     (match s.fabRead 0 (kcard .running 0) x 0xA100 64 with | .ok b => ofLE b == desc0 | _ => false) = true ∧
     s.bindReason (kcard .running 0) 0 desc0 = 0 ∧ fdKind desc0 ≠ 4 ∧ fdPat desc0 = 0xA140 ∧ fdNdim desc0 = 1 ∧
     (match s.fabRead 0 (kcard .running 0) x 0xA140 16 with | .ok b => ofLE b == 16 + 4 * 2 ^ 32 | _ => false) = true ∧
     s.patReason 0 ref0 [buf0] eng0 = 0 ∧ NMap.get? x.engs 0 = none) ∧
    (let x : FCtx := { fetchCtx 0 with words := [0x83000001], scope := some 0, engs := [(0, eng0)] }
     let s := listWorld x
     s.streamJob = some (0, kcard .running 0, x) ∧ (kcard .running 0).copy = none ∧ maskList 1 = [0] ∧ eng0.running = false ∧ s.goReason (kcard .running 0) x 1 = none) ∧
    (∀ ks ∈ [[5, 6], [5]],
     let k := { kcard .running 0 with copy := some 3 }
     let x : FCtx := { fetchCtx 0 with words := [0x85000000], kinds := ks }
     let s := withFab (fab0 k (some x)) (listWorld x)
     s.streamJob = some (0, k, x) ∧ x.engs = []) ∧
    (∀ l ∈ [none, some (0, 1), some (0, 0), some (9, 1)],
     let x : FCtx := { fetchCtx 0 with words := [0x86000301], left := l }
     (listWorld x).streamJob = some (0, kcard .running 0, x) ∧ x.pc = 0 ∧ x.engs = []) := by decide +kernel

/-! Launches, queues and builders -/

/-- A node of one-record teams: 16-byte records, seats 32, slots 8. -/
def node0 : BitVec 2048 := BitVec.ofNat 2048 (2 ^ 897 * 32 + 2 ^ 908 + 8 * 2 ^ 916 + 0xD000 * 2 ^ 960)
def launchN : Launch := { fetchLaunch with record := BitVec.ofNat 2048 (2 ^ 832), nodes := [node0] }
def yard0 (inq : List YPack) : Yard := { num := 0, launch := ref0, node := 0, inq := inq, forming := Team.empty, formed := [], pageWait := none }

theorem witness_launchInstructionsQueueAndCount :
    let sl := ops 0xE000 3 0xF00 0
    let t := train0 sl
    let s := world sl id id
    let w := ops 0x8000FF0 0 0 0
    let s2 := world w id (fun s => { s with parts := [(0, { part0 with launches := [(1, launchN)] })], dies := [(0, ⟨[yard0 []]⟩)] })
    (Issuing s t ∧ s.storesDone t ∧ s.memOk ∧ ∀ m, s.pathsDone t m) ∧ t.seats = [seat0] ∧ s.inTT ref0 = false ∧
      s.schedAccess 0 t 0xE000 0 256 1 .read = .ok 0xE000 tlb0 ∧ s.engAcc 0 0xE000 256 .read = .ok 0xE000 0x3F 0 (2 ^ 30) ∧
      (s.part 0).recWaiting 15 = false ∧ ((s.part 0).dqueue 15).length < 256 ∧
      s.schedAccess 0 t 0xE000 0 16 1 .rmw = .ok 0xE000 tlb0 ∧ s.schedAccess 0 t 0xE000 0xF00 16 256 .rmw = .ok 0xE000 tlb0 ∧
      (let v := (CtrOp.sig 3).apply (s.mem.readNat 0xE000 16)
       ¬(v.testBit 32 = true ∧ v.testBit 33 = false ∧ toSigned 32 v ≤ 0)) ∧
      (let v := (CtrOp.pub 3 15 0xF00).apply (s.mem.readNat 0xE000 16)
       ¬(v.testBit 32 = true ∧ v.testBit 33 = false ∧ toSigned 32 v ≤ 0)) ∧
      s2.launch? ref0 = some launchN ∧ 0 < recNodes launchN.record ∧
      (match s2.nrecSeat 0 (train0 w) (s2.nodeRec ref0 0) seat0 with | .ok (some b) => b == List.replicate 16 0 | _ => false) = true ∧
      s2.yard? (dieOf 0) ref0 0 = some (yard0 []) :=
  ⟨ready_of _ _ (by decide +kernel), by decide +kernel⟩

/-- A queue descriptor at 0xF000: 4 entries, siding at 0x10000 (R440). -/
def qdesc0 : Nat := 2 * 2 ^ 8 + 0x10000 * 2 ^ 192
def entryOf (d : Word) : QEntry := { data := d, sasid := 0, sender := 0, qseq := 0, spilled := false, dev := 0, core := 0, ser := 1, resv := none }
def queue0 (es : List QEntry) : Queue :=
  { Queue.unused with live := true, gen := 1, launch := ref0, caplog := 2, sbase := 0x10000, resident := es }
def handle0 : Word := mkQHandle 0 0 0 63 1
def queueWorld (es : List QEntry) : State :=
  world (ops handle0 5 0 0) (fun k => { k with queues := [(63, queue0 es)] }) id
/-- A frame descriptor with 16-byte rows, one read and timer class 1, and its builder with one row. -/
def fdesc0 : Nat := 0x4652 + 16 * 2 ^ 400 + 2 ^ 416 + 2 ^ 430
def builder0 : Builder := { Builder.empty with launch := ref0, desc := fdesc0, filling := true, rows := [(9, List.replicate 16 1#8)] }

theorem witness_queuesAndFrameBuilders :
    (∀ es ∈ [[], [entryOf 8]],
     let t := train0 (ops handle0 5 0 0)
     let s := queueWorld es
     ((s.train? = some t ∧ t.writeRegs = [] ∧ (t.seats.map (fun x => x.n)).Nodup) ∧ (s.core 0).sq = [] ∧ (s.core 0).outst = []) ∧
     t.moved ≤ 0 ∧ s.scopeBound t 6 = true ∧ s.handleFault 0 0 ref0 false handle0 = none ∧ (s.core 0).window handle0 < 16 ∧
     s.handleFault 0 0 ref0 true handle0 = none ∧ (s.core 0).current handle0 = some (queue0 es) ∧ (queue0 es).ready = es ∧
     (queue0 es).launch = ref0 ∧ (s.core 0).current (mkQHandle 0 0 0 63 2) = none ∧
     s.handleFault 0 0 ref0 true (mkQHandle 0 0 0 63 2) = none) ∧
    (let t := train0 (ops 0xF000 0 0 0)
     let s := world (ops 0xF000 0 0 0) id (fun s => { s with mem := s.mem.writeNat 0xF000 32 qdesc0 })
     s.train? = some t ∧ s.link.reqs = [] ∧ s.access 0 0 [] 0xF000 32 .read = .ok 0xF000 tlb0 ∧ s.coreAcc 0 0 0xF000 32 .read = .ok 0xF000 0x3F 0 (2 ^ 30) ∧
     queueDescOk (s.mem.readNat 0xF000 32) = true ∧ (List.range 64).find? (fun i => !((s.core 0).queue i).live) = some 0 ∧
     (s.core 0).storeUsed + 2 ^ natBits (s.mem.readNat 0xF000 32) 11 8 ≤ 1024 ∧ (s.makeQueue 0 ref0 0 0 (s.mem.readNat 0xF000 32)).isSome = true) ∧
    (let t := train0 (ops 0 9 0x8000FF0 0)
     let s := world (ops 0 9 0x8000FF0 0) (fun k => { k with builders := [(7, builder0)] }) id
     s.train? = some t ∧ ((s.core 0).builder 7) = builder0 ∧ builder0.rows.length < frameCap (rfTsize fdesc0) (rfRowBytes fdesc0) ∧
     rfTimer fdesc0 ≠ 0 ∧ (match s.frameRow 0 t seat0 16 with | .ok b => b == List.replicate 16 0 | _ => false) = true ∧
     builder0.closed = none ∧ (s.core 0).openBuilders ref0 = [7]) := by decide +kernel

/-- What a step of the machine finds to do: an issue, a command, an event, an act, a fetch. -/
theorem witness_stepRunsTheDecodedInstruction :
    (let s := { State.reset.placeWord 0 0x01140090#32 with cur := (5, 5) }
     s.todo = .issue 0 1 ∧ ((s.core 0).train? 1).isSome = true ∧
     (((s.core 0).train? 1).bind (fun t => t.next?)).map (fun b => (b.cls, b.word)) = some (0, 0x01140090#32) ∧
     (s.core 0).ramBad = [] ∧ ((s.core 0).train? 1).map (·.team) = some false) ∧
    (world [] (fun k => { k with trains := [] }) (fun s => { s with cyc := 1050000, laned := 1050001 })).todo = .act .queueCycleScan ∧
    (State.reset.placeWord 15 0x86000301#32).todo = .command 0 0 (.sloop 3 1) ∧
    { State.reset with inbox := [.powerUp] }.inbox = [.powerUp] := by decide +kernel

/-- A train without its words: the step fetches its block (R45). -/
theorem witness_stepFetches :
    let t := { train0 [] with words := none }
    let s := { world [] (fun k => { k with trains := [t] }) id with cur := (3, 9), laned := 1 }
    s.todo = .fetch 0 1 ∧ (s.core 0).train? 1 = some t ∧
      (match s.fetch t.launch.part t.asid t.prog t.block (t.failed.map (·.1)) with
       | .ok ws => ws == oneBlock 0 0x01000090#32
       | _ => false) = true := by decide +kernel

theorem witness_packedElementsStandAlone : 7 < 8 ∧ (ITy.ofCode 7).n = 4 ∧ (7 ≠ 0 ∧ 7 ≠ 2 ∧ 7 ≠ 3) ∧ 0 < (ITy.ofCode 0).n ∧ 63 < 64 := by decide
theorem witness_shiftsAndBitFields : 1 < (ITy.ofCode 5).n ∧ 15 < (ITy.ofCode 5).w ∧ 63 < (ITy.ofCode 3).w := by decide

theorem witness_nothingIsRefused :
    (world [] id id).train? = some (train0 []) ∧ Instr.cls (.iadd 0x14 0 4 1) = some 0 ∧ Instr.cls (.sloop 3 1) = some 15 ∧
      (State.reset.placeWord 15 0x86000301#32).streamJob.isSome = true ∧ Instr.cls .powerUp = none := by decide +kernel

theorem witness_decodeAndEncodeAgree :
    (Instr.sloop 3 1).cls = some 15 ∧ (Instr.sloop 3 1).fieldError = none ∧ decodeWord 15 0x86000301#32 = .ok (.sloop 3 1) :=
  ⟨by decide, by decide, rfl⟩

theorem witness_stepsKeepMemoryCanonical :
    let s := { State.reset.placeWord 0 0x01140090#32 with mem := tables }
    s.mem.wf = true ∧ (match step s with | .next s' => s'.cur == (0, 1) | _ => false) = true := by
  decide +kernel

/-! Tokens for the second block: its one input slot takes one payload word. -/
def tok0 : Token :=
  { tag := mkTag 0 0 0 0 0, src := 0, dest := 1, scope := 0, pwords := 1, pay0 := 7, pay1 := 0, kind := 0, sided := false, sender := ref0 }
def flight0 (c : Cargo) : Flight := { due := 0, dev := some 0, cargo := c, opId := 3, opCore := 0, ctx := none, acked := false }

theorem witness_tokensAndCommandsArrive :
    (∀ al ∈ [true, false],
     let s := world [] (fun k => { k with flights := [flight0 (.tok tok0)], frames := [(0, { frame0 with alloc := al })] }) id
     s.ttCore 0 = false ∧ (flight0 (.tok tok0)).due ≤ s.cyc.toNat ∧ s.link.device = 0 ∧ s.swappedCore 0 = false ∧ (s.frame 0 0).alloc = al ∧
     s.resolveToken (s.frame 0 0) tok0 = .to 1 0 1 false ∧ (s.core 0).entries = [] ∧ tagAsid tok0.tag = (s.frame 0 0).asid ∧
     (s.core 0).waiting = [] ∧ (s.core 0).stored < 8192 ∧ (flight0 (.tok tok0)).acked = false) ∧
    tagAsid ({ tok0 with tag := mkTag 1 0 0 0 0 } : Token).tag ≠ frame0.asid ∧
    (let tag := mkTag 0 0 0 0 0
     let s := world [] (fun k => { k with flights := [⟨0, some 0, .depart 7 tag 0 ref0, 0, 0, none, false⟩] }) id
     s.ttCore 0 = false ∧ (s.frame 0 (tagFrame tag)).alloc = true ∧ tagAsid tag = (s.frame 0 0).asid ∧
     s.imgDest 0 0x100000 7 = some (0, 0)) ∧
    ((flight0 (.tok tok0)).opId ≠ 0) := by decide +kernel

theorem witness_sendersHearOfTheirTokens :
    (let s := world [] (fun k => { k with outst := [⟨1, 23, 6, 3⟩], builders := [(7, { Builder.empty with flying := true, flyOp := 4 })] }) id
     (∃ o ∈ (s.core 0).outst, o.id = 3 ∧ o.wbit = 23) ∧ (∀ b ∈ (s.core 0).builders, b.2.flying = true ∧ b.2.flyOp = 4)) ∧
    (let s := world [] id (fun s => { s with
       parts := [(0, { part0 with fqAddr := 0x11000 })], mem := s.mem.writeNat 0x11000 16 (4 * 2 ^ 32 + 0x12000 * 2 ^ 64) })
     let f := { FaultInfo.plain DEST_RANGE 9 0 ref0 0 3 with tag := mkTag 0 0 0 0 0, core := 0 }
     (s.part 0).keyOf 1 = 1 ∧ (s.launch? ref0).map (fun l => recFaultQ l.record) = some 0 ∧ (s.part 0).fqAddr ≠ 0 ∧ physOk (s.part 0).fqAddr 16 = true ∧
     (ringAppend s.mem 0x11000 (fun base off => if physOk (base + off) 64 then some (base + off) else none)
       (f.record (s.faultTime f))).map (·.1) = some true) := by decide +kernel

def plat0 (elig : Bool) : Platform :=
  { asid := 0, prog := 0x100000, block := 0, dcount := 0, timer := 1,
    fills := [{ first := 0, stood := 0, elig := elig, since := 0, forced := false, passed := none, latched := false, seats := [inst0] }] }

theorem witness_trainsDepartAndEnd :
    (let s := world [] (fun k => { k with plats := [(0, plat0 false)] }) (fun s => { s with cyc := 100000 })
     s.runCore 0 = true ∧ s.ttCore 0 = false ∧ (timerCycles (plat0 false).timer).any (fun m => decide (m ≤ 100000)) = true) ∧
    (let s := world [] (fun k => { k with plats := [(0, plat0 true)], trains := [] }) id
     s.runCore 0 = true ∧ s.ttCore 0 = false ∧ (s.core 0).departCyc ≠ some 0 ∧ s.instStopped 0 inst0 = false ∧
     (match s.headFor 0 (s.frame 0 0).launch 0 0x100000 0 with | .ok a b => a == 0xB0400000 && b == 0x400 | _ => false) = true ∧ (s.core 0).waiting = [] ∧
     (s.core 0).ramFits (s.frame 0 0).launch (256 * h1Demand 0x400) = true) ∧
    (let t := { train0 [] with pc := 2 }
     let s := world [] (fun k => { k with trains := [t] }) id
     (s.core 0).train? 1 = some t ∧ t.words.isSome = true ∧ t.finished = true ∧ s.undecided 0 1 = false ∧ (s.core 0).queues = []) ∧
    (let f := { frame0 with freePending := true }
     let s := world [] (fun k => { k with frames := [(0, f)], trains := [] }) id
     NMap.get? (s.core 0).frames 0 = some f ∧ f.alloc = true ∧ (s.core 0).frameBusy 0 = false) ∧
    ((world [] (fun k => { k with compactFor := [8] }) id).core 0).compactFor = [8] := by decide +kernel

theorem witness_lateResultsLand :
    (let l : Late := ⟨0, 1, 0, 0, [(255, 7)], [], 0, 0, 3, .own⟩
     let s := world [] (fun k => { k with late := [l] }) id
     (s.core 0).late = [l] ∧ l.due ≤ s.cyc.toNat ∧ (s.core 0).train? l.train = some (train0 []) ∧ ((train0 []).seat? l.seat).isSome = true) ∧
    (let b : Binding := ⟨7, 9, true, 1, none⟩
     let x : Replay := ⟨9, 1, [(3, 10)]⟩
     let w : RegWait := ⟨0, 7, 1, 0, 1, some x, [20], [], 3⟩
     let s := world [] (fun k => { k with
       regWaits := [w], recipes := [⟨0, 0x100000, 9, body0⟩], frames := [(0, { frame0 with regs := [(3, 10)], binds := [b] })] }) id
     (s.core 0).regWaits = [w] ∧ (s.frame 0 0).binding? 7 = some b ∧ s.replayOf 0 (s.frame 0 0) b = x ∧
     s.rebuild 0 0 [] (s.frame 0 0) x = .ok 15 0 ∧ (s.core 0).slotFree 0 (s.frame 0 0) = true) ∧
    ((0, 3) ∈ ((world [] (fun k => { k with flushes := [(0, 3)] }) id).core 0).flushes) := by decide +kernel

/-- A walk that finds its page, one that finds none above 1 GiB, and the partition of its cluster. -/
theorem witness_translationsAreWalkedAndAnswered :
    (let s := world [] (fun k => { k with walks := [⟨0, 0x3FFFFFF8, 1, 0, 1, true⟩, ⟨0, 0x40000000, 1, 0, 1, false⟩] }) id
     s.walk 0 0x3FFFFFF8 = .leaf 0 (2 ^ 30) 0x3F ∧ s.walk 0 0x40000000 = .invalid 3 ∧ s.partOfCluster (clusterOf 0) = some 0 ∧ (s.part 0).early = []) ∧
    (let r : PageReq := { asid := 0, vunit := 2 ^ 44 - 1, seq := 0, record := 0, written := true, since := 0 }
     let s := world [] id (fun s => { s with cyc := 1000000, parts := [(0, { part0 with preqs := [r], prqLim := 100 })], host := { s.host with bars := true } })
     let w := BitVec.ofNat 64 ((2 ^ 44 - 1) * 2 ^ 13)
     (s.part 0).preqs = [r] ∧ s.window1Up = true ∧ bits w 63 57 = 0 ∧ bits w 10 9 = 0 ∧ bits w 12 11 = 0 ∧ bits w 8 0 = r.asid ∧
     bits w 56 13 = r.vunit ∧ s.walk r.asid (r.vunit * 8192) = .invalid 5 ∧ (s.part 0).prqLim ≠ 0 ∧ r.since + 1050 * (s.part 0).prqLim ≤ s.cyc.toNat ∧
     (∀ e ∈ s.cores, e.2.queues = [] ∧ e.2.regWaits = []) ∧ (∀ e ∈ s.parts, e.2.firings = [])) ∧
    (let s := world [] id (fun s => { s with host := { s.host with bars := true }, parts := [(15, { part0 with tlbInv := List.replicate 16 0 })] })
     15 < 16 ∧ s.window1Up = true ∧ bits (2 * 2 ^ 11 : Word) 12 11 < 3 ∧ (s.part 15).tlbInv.length < 17) := by decide +kernel

def hostUp (p : Partition) (s : State) : State := { s with host := { s.host with bars := true, ready := true }, parts := [(0, p)] }

theorem witness_hostWritesReachTheRegisters :
    (let s := world [] id (hostUp { part0 with launches := [] })
     s.window1Up = true ∧ (s.part 0).busy = false ∧ prqFits (s.part 0).prqBase (bits (8 * 2 ^ 32 : Word) 35 32) = true ∧ (s.part 0).tt = none ∧
     16 ≤ (65536 : Word).toNat ∧ (65536 : Word).toNat ≤ 65536) ∧
    (let s := world [] id (hostUp { part0 with state := .off })
     s.windowsUp = true ∧ (∀ e ∈ s.parts, e.2.state = .off) ∧ bit (4 : Word) 2 = true ∧ s.host.ready = true) ∧
    (let s := world [] id (fun s => { hostUp part0 s with host := { s.host with bars := true, ready := true, db := [(7, (65535, 3))] } })
     s.windowsUp = true ∧ (∃ e ∈ s.parts, e.2.state ≠ .off) ∧ (s.part 0).state ≠ .off ∧
     (let d := NMap.getD s.host.db 7 (0, 0)
      let ahead := (bits (255 : Word) 15 0 + 65536 - d.1) % 65536
      (d.2 + 65536 - d.1) % 65536 ≤ ahead ∧ ahead ≤ 256)) := by decide +kernel

theorem witness_commandsMoveThePartition :
    (∀ st ∈ [PState.run, .swapped, .halted],
     let s := world [] id (hostUp { part0 with state := st })
     s.window1Up = true ∧ (s.part 0).tt = none ∧ (s.part 0).ttPend = 0 ∧ (s.part 0).state = st) ∧
    (let l := { fetchLaunch with state := LState.faulted, id := 65535 }
     let s := world [] id (hostUp { part0 with launches := [(65535, l)] })
     s.launch? ⟨0, 65535⟩ = some l ∧ l.id = 65535 ∧ l.state = .faulted ∧
     (s.part 0).launches.find? (fun e => e.1 % 65536 == 65535 && e.2.state == .faulted) = some (65535, l)) ∧
    (let s := world [] id (fun s => { hostUp { part0 with state := .drain } s with cyc := 2048 })
     (s.part 0).state = .drain ∧ s.anyTrain 0 (fun _ _ => true) = true ∧ s.fabJobs 0 = [] ∧ (s.part 0).drainAt + (s.part 0).drainLim ≤ s.cyc.toNat) ∧
    (∀ st ∈ [PState.drain, .save, .load, .halting],
     let s := world [] (fun k => { k with trains := [] }) (hostUp { part0 with state := st })
     (s.part 0).state = st ∧ s.drained 0 = true ∧ (s.part 0).images = [] ∧ (s.part 0).cmdCycle ≤ s.cyc.toNat ∧ (∀ e ∈ s.cores, e.2.queues = []) ∧
     (∀ c ∈ (s.part 0).cores, (s.core c).workLeft 0 = false) ∧ s.packetsFly 0 = false) ∧
    (∀ n ∈ [2, 4],
     let s := world [] id (hostUp { part0 with ttPend := n })
     (s.part 0).ttPend = n ∧ (s.closeAll 0).isNone = true ∧ (s.freezeSend 0).isNone = true ∧ s.lateWrites 0 = false ∧ s.linkLeft 0 = false) := by decide +kernel

/-- A launch record that passes CHECK (R235 to R238): one role of one group and one instance of block 0. -/
def rec0 : Nat := 0x100000 + 0x4C52 * 2 ^ 96 + 2 ^ 128 + 2 ^ 1024 * (4 * 2 ^ 56 + 2 ^ 72 + 2 ^ 88)
def launchR (n : Nat) (st : LState) : Launch := { fetchLaunch with record := BitVec.ofNat 2048 n, state := st }
def launchWorld (n : Nat) (st : LState) (g : State → State) : State :=
  world [] (fun k => { k with trains := [], frames := [] }) (fun s => g { s with
    parts := [(0, { part0 with launches := [(1, launchR n st)] })], images := [(0, 0x100000)] })

theorem witness_launchesAreAdmittedAndChecked :
    (let s := world [] id (fun s => { s with
       parts := [(0, { part0 with launches := [], rrLast := 6 })], host := { s.host with db := [(7, (255, 256))] } })
     s.launchGo 0 = true ∧ s.nextQueue 0 = some 7 ∧ physOk ((s.part 0).lArea + 0x80000 + 0x10000 * 7 + 256 * (255 % 256)) 256 = true) ∧
    (let s := launchWorld rec0 .check id
     s.launchGo 0 = true ∧ (s.part 0).launches = [(1, launchR rec0 .check)] ∧ (launchR rec0 .check).pageWait = none ∧
     (match s.checkLaunch 0 (launchR rec0 .check) with | .pass ns => ns == [] | _ => false) = true ∧
     recIndirect (launchR rec0 .check).record = false ∧ emptyGrid (s.roleGrid 0 (launchR rec0 .check).record) = false) ∧
    (match (launchWorld 0 .check id).checkLaunch 0 (launchR 0 .check) with | .bad c .. => c == ILLEGAL_FORMAT | _ => false) = true := by
  decide +kernel

/-- R243: a grid word of two groups of three instances at a FUT word. -/
theorem witness_gridWordsAreRead :
    let n := rec0 + 0x13000 * 2 ^ 256
    let s := launchWorld n .gridwait (fun s => { s with fut := [0x13000], mem := (s.mem.writeNat 0x13000 8 (2 * 2 ^ 48 + 3)).put 0x6001 1 })
    s.launch? ref0 = some (launchR n .gridwait) ∧
      (match s.gridLook (launchR n .gridwait) with | .word w => w == 2 * 2 ^ 48 + 3 | _ => false) = true := by decide +kernel

theorem witness_launchesArePlacedStalledAndEnded :
    (let l := { launchR rec0 .placing with groups := [(1, 1)] }
     let s := launchWorld rec0 .placing (fun s => { s with parts := [(0, { part0 with launches := [(1, l)], sidBase := 0x20000 })] })
     s.launch? ref0 = some l ∧ recTimetable l.record = false ∧ (s.placeLaunch ref0 l).isSome = true) ∧
    (let l := { launchR (rec0 + 2 ^ 240 + 15 * 2 ^ 228) .placing with groups := [(1, 1)] }
     let s := launchWorld rec0 .placing (fun s => { s with cyc := 1050, parts := [(0, { part0 with launches := [(1, l)], sidBase := 0x20000 })] })
     s.launch? ref0 = some l ∧ l.since = 0 ∧ recStall l.record = 1 ∧ 0 + 1050 * 1 ≤ s.cyc.toNat ∧
     ((s.alone ref0).placeLaunch ref0 l).isNone = true ∧ (launchR 0 .gridwait).state = .gridwait) ∧
    (let s := launchWorld rec0 .faulted (fun s => { s with parts := [(0, { part0 with launches := [(1, launchR rec0 .faulted)], autoEnd := true })] })
     s.launch? ref0 = some (launchR rec0 .faulted) ∧ (s.part 0).autoEnd = true ∧ s.engineBusy ref0 = false) ∧
    (let n := rec0 + 2 ^ 79
     let l := { launchR n .completing with step := 6 }
     let s := launchWorld n .completing (fun s => { s with parts := [(0, { part0 with launches := [(1, l)], noteTail := 65535, noteHead := 65280 })] })
     s.launch? ref0 = some l ∧ s.recordsWait ref0 { l with recSlots := [] } = false ∧ recNotify l.record = true ∧
     ((s.part 0).noteTail + 65536 - (s.part 0).noteHead) % 65536 ≠ 256 ∧
     physOk ((s.part 0).lArea + 0x100000 + 16 * ((s.part 0).noteTail % 256)) 16 = true) := by decide +kernel

/-- A team of one seat. -/
def team0 : Team := { Team.empty with seats := [⟨0, 0, 0, 0⟩], fill := 1 }
def nodeN : BitVec 2048 := BitVec.ofNat 2048 (0x100000 + 2 ^ 72 + 2 ^ 897 * 32 + 2 ^ 908 + 8 * 2 ^ 916 + 0xD000 * 2 ^ 960 + 2 ^ 1024 * (4 * 2 ^ 56))
def launchY : Launch := { fetchLaunch with record := BitVec.ofNat 2048 (rec0 + 2 ^ 832), nodes := [nodeN] }
def yardWorld (y : Yard) : State := world [] (fun k => { k with trains := [] }) (fun s => { s with
  cyc := 100000, parts := [(0, { part0 with launches := [(1, launchY)] })], dies := [(0, ⟨[y]⟩)] })

theorem witness_yardsSeatAndPlaceTeams :
    (let k : YPack := { due := 0, launch := ref0, node := 0, key := 0, recs := [(List.replicate 16 3#8, 0)] }
     let y := yard0 [k]
     let s := yardWorld y
     (s.die 0).yards = [y] ∧ s.launchGo 0 = true ∧ s.launch? ref0 = some launchY ∧ launchY.id = ref0.id ∧ launchY.state = .running ∧
     k.due ≤ s.cyc.toNat ∧ launchY.slots = [] ∧ launchY.freeRecSlot 0 = some 0 ∧ recRagged nodeN = false ∧ recNTimer nodeN ≠ 0 ∧
     y.forming.fill + 1 < recCoal nodeN ∧ (List.replicate 16 3#8).length = recRSize nodeN ∧ recRecBuf nodeN % 8192 + recRSize nodeN ≤ 8192 ∧
     s.engAcc 0 (recRecBuf nodeN + 0 * recRSize nodeN) 16 .write = .ok 0xD000 0x3F 0 (2 ^ 30)) ∧
    (let y := { yard0 [] with forming := team0 }
     (yardWorld y).launchGo 0 = true ∧ (yardWorld y).yardExpired y = true) ∧
    (let y := { yard0 [] with formed := [team0] }
     let s := yardWorld y
     (s.part 0).cores.filter (fun c => dieOf c == 0) = [0, 1, 2, 3, 4, 5, 6, 7] ∧
     ((s.updYard 0 0 (fun y => { y with formed := [] })).placeTeam launchY ref0 0 team0 0).isSome = true) ∧
    (let l := { fetchLaunch with slots := [⟨0, 0, 0, 0, 0, [], [⟨.tok 0 0 tok0, [5]⟩]⟩] }
     let s := world [] id (fun s => { s with parts := [(0, { part0 with launches := [(1, l)] })] })
     (s.part 0).state = .run ∧ (s.part 0).tt = none ∧ s.launch? ref0 = some l ∧ s.swappedCore 0 = false ∧ (s.frame 0 0).alloc = true ∧
     s.resolveToken (s.frame 0 0) tok0 = .to 1 0 1 false ∧ (s.core 0).entries = [] ∧ tagAsid tok0.tag = (s.frame 0 0).asid ∧
     (s.core 0).waiting = [] ∧ (s.core 0).stored < 8192) := by decide +kernel

def ttPart : Partition := { part0 with tt := some 1, ssEnd := 256 }

theorem witness_timetableStepsAndBoundaries :
    (∀ ts ∈ [[], [train0 []]],
     let s := world [] (fun k => { k with trains := ts }) (fun s => { s with parts := [(0, ttPart)] })
     let q := s.core 0
     s.partOfCluster (clusterOf 0) = some 0 ∧ (s.part 0).tt.isSome = true ∧ (s.part 0).state = .run ∧ (s.part 0).bphase = 0 ∧ (s.part 0).ttPend = 0 ∧
     (q.ssDone = false ∧ q.turn = none ∧ q.stepped ≠ s.cyc.toNat + 1 ∧ q.flights = [] ∧ q.starts = [] ∧ q.entries = [] ∧ q.plats = [] ∧ q.waiting = []) ∧
     (∀ t ∈ q.trains, t.words.isSome = true ∧ t.finished = false ∧ t.waits = [] ∧ q.pendOps t = [] ∧ q.clauseOps t = [] ∧
       s.refStopped t.launch = false ∧ s.orderWait 0 t = false ∧ t.heldAt ≠ some s.cyc.toNat)) ∧
    (let s := { world [] id (fun s => { s with parts := [(0, ttPart)] }) with
       cores := (List.range 8).map (fun c => (c, { Core.reset with ssDone := true })) }
     (s.part 0).tt.isSome = true ∧ (s.part 0).state = .run ∧ (s.part 0).bphase = 0 ∧
     (∀ c ∈ (s.part 0).cores, (s.core c).ssDone = true ∧ (s.core c).sq = [] ∧ (s.core c).eng.barq = [])) ∧
    (let l := launchR (rec0 + 2 ^ 78) .running
     let s := world [] id (fun s => { s with parts := [(0, { ttPart with bphase := 3, launches := [(1, l)] })] })
     (s.part 0).launches = [(1, l)] ∧ l.id = 1 ∧ recTimetable l.record = true ∧ l.slots = [] ∧ s.hasFrame ref0 = true ∧
     (s.part 0).firings = [] ∧ (s.part 0).dq = [] ∧ s.dies = [] ∧
     (∀ c ∈ (s.part 0).cores, (s.core c).lhold = [] ∧ (s.core c).sends = [] ∧ (s.core c).held = [] ∧ (s.core c).csends = [] ∧ (s.core c).eng.barq = []) ∧
     (s.boundaryMtx (s.part 0).cores).isNone = true ∧ (s.boundaryFab (s.part 0).cores).isNone = true ∧
     (s.firstOf (s.copyOrder (s.part 0).cores ++ (s.part 0).pairs.flatMap mtxEvents ++ s.bankOrder (s.part 0).cores ++
       (s.part 0).clusters.flatMap (fun cl => s.fabEvents cl (fun _ => true)) ++ (s.part 0).cores.flatMap s.frameEvents)).isNone = true ∧
     (s.listNext (s.part 0).clusters (fun _ => true)).isNone = true ∧ s.boundaryHeld 0 = false) := by decide +kernel

def engWorld (e : CoreEngines → CoreEngines) : State := world [] (fun k => { k with eng := e k.eng }) id

theorem witness_copiesWork :
    (let q := copyReq0 copy0 false
     let s := engWorld (fun e => { e with copies := [q] })
     (s.core 0).eng.copy? 511 = some q ∧ s.modeAt (clusterOf 0) = .run ∧ s.ttCore 0 = false ∧ q.due ≤ s.cyc.toNat ∧ q.reporting = 0 ∧
     (s.core 0).eng.asked (unitCopy 511) = false ∧ crMxMode q.recd = 0 ∧ crSkind q.recd = 0 ∧ crFabv q.recd = false ∧ crBarv q.recd = false ∧
     crTokv q.recd = false ∧ s.mem.wf = true ∧ crDkind q.recd = 0 ∧ crElems q.recd = 1 ∧ crRingv q.recd = false ∧ crArrive q.recd = false ∧
     s.coreAcc 0 0 (crSrc q.recd) (2 ^ crEsize q.recd) .read = .ok 0x7000 0x3F 0 (2 ^ 30) ∧
     s.coreAcc 0 0 (crDst q.recd) (2 ^ crEsize q.recd) .write = .ok 0x8000 0x3F 0 (2 ^ 30)) ∧
    (let n := 0x4352 + 2 ^ 16 + 4 * 2 ^ 20 + 3 * 2 ^ 30 + 0x7000 * 2 ^ 64 + (7 + 2 ^ 8 + 2 ^ 16) * 2 ^ 128 + (64 + 16 * 2 ^ 32) * 2 ^ 768
     let h := mkHandle 5 0 7 0 0
     let q := { copyReq0 n true with notices := [h] }
     let s := engWorld (fun e => { e with copies := [q], pool := [{ poolOf (tileOf .unsealed 0) with bound := some 511 }] })
     (s.core 0).eng.copy? 511 = some q ∧ q.tt = false ∧ (tileOf .unsealed 0).gen = hndGen h ∧ (tileOf .unsealed 0).state = .unsealed ∧ 1 < crElems q.recd ∧ crEsize q.recd = 4 ∧ crChunk q.recd = 16 ∧ (s.core 0).eng.tileWaits = [] ∧
     poolFind (s.core 0).eng.pool ref0 (crPart q.recd) = some { poolOf (tileOf .unsealed 0) with bound := some 511 } ∧
     [tileOf .unsealed 0][hndTile h]? = some (tileOf .unsealed 0) ∧ (tileOf .unsealed 0).pend = [] ∧ q.sealFor = none ∧ crFabv q.recd = false ∧ crBarv q.recd = false ∧ crTokv q.recd = false ∧
     s.coreAcc 0 0 (crSrc q.recd) 16 .read = .ok 0x7000 0x3F 0 (2 ^ 30)) ∧
    (let q := { copyReq0 (copy0 + 2 ^ 34 + 3 * 2 ^ 35) false with reporting := 1 }
     let s := { ringWorld (0x4_0000_0000 + 0xC000 * 2 ^ 64) with cores := (engWorld (fun e => { e with copies := [q] })).cores }
     (s.core 0).eng.copy? 511 = some q ∧ s.modeAt (clusterOf 0) = .run ∧ crRingv q.recd = true ∧ crTokv q.recd = false ∧
     q.pageWait = none ∧ (match s.ringWrite ref0 (crRingk q.recd) 0 [] with | .full => false | _ => true) = true ∧
     (match s.ringWrite ref0 (crRingk q.recd) (q.ringRecord ((s.core 0).eng.lastOf q)) [] with | .ok _ => true | _ => false) = true) := by decide +kernel

theorem witness_barriersTilesAndContextsWork :
    (let u : BarUpd := ⟨ref0, 0xFF0, .arrive, 0, 0, 0⟩
     let s := engWorld (fun e => { e with barq := [u] })
     (s.core 0).eng.barq = [u] ∧ (s.core 0).window? ref0 = some ⟨ref0, 64, 4096, [], [], []⟩ ∧
     (⟨ref0, 64, 4096, [], [], []⟩ : Window).barOpen 0xFF0 = false) ∧
    (let w : TallocReq := ⟨1, 20, [(0, 3)]⟩
     let q := { poolOf (tileOf .free 0) with queue := [w] }
     let s := engWorld (fun e => { e with pool := [q] })
     s.ttCore 0 = false ∧ s.runCore 0 = true ∧ (s.core 0).eng.pool = [q] ∧ (s.core 0).train? 1 = some (train0 []) ∧ (train0 []).seats = [seat0] ∧
     s.inTT ref0 = false ∧ q.which (fun y => y.state == .free) = [0]) ∧
    (∀ fr ∈ [false, true],
     let w : SealWait := { key := ⟨ref0, 7, 0⟩, gen := 5, free := fr, waitFor := [], core := 0, opId := 3 }
     let s := engWorld (fun e => { e with pool := [poolOf (tileOf .unsealed 1)], seals := [w] })
     (s.core 0).eng.seals = [w] ∧ s.tile? 0 w.key = some (tileOf .unsealed 1) ∧ (tileOf .unsealed 1).gen = w.gen ∧ (s.core 0).eng.tileWaits = [] ∧
     (tileOf .unsealed 1).pend = [] ∧ poolFind (s.core 0).eng.pool ref0 7 = some (poolOf (tileOf .unsealed 1)) ∧
     (poolOf (tileOf .unsealed 1)).bound = none) ∧
    (let x := { MCtx.reset with claims := [⟨0, 1, 0⟩] }
     let s := mtxWorld [] x
     s.modeAt (clusterOf 0) = .run ∧ (s.pair 0).ctx 1 = x ∧ (s.core 0).train? 1 = some (train0 [])) ∧
    (let x := { mctx0 0 with releasing := true }
     let s := mtxWorld [] x
     s.modeAt (clusterOf 0) = .run ∧ (s.pair 0).ctx 1 = x ∧ x.queue = [] ∧ x.code = 0) := by decide +kernel

/-- An accumulator cleared, and a step of an FP8 `mma` over two 128-byte tables. -/
def mcmd (k : MKind) : MCmd :=
  { kind := k, ctx := 1, info := { FaultInfo.plain 0 0 0 ref0 0 1 with core := 0 }, train := 1, frame := 0, opId := 3, seq := 1, started := true,
    okA := true, okB := true, nan := false, inf := false, pageWait := none, fault := none }

theorem witness_matrixStepsWork :
    (∀ k ∈ [MKind.accz 1, .mma 4 0 0 true 1 0x8000 0xA000 (128 + 128 * 2 ^ 32) none],
     let x := { mctx0 0 with queue := [mcmd k], rowp := 0, chunkp := 0 }
     let s := mtxWorld [] x
     s.modeAt (clusterOf 0) = .run ∧ s.ttCore 0 = false ∧ (s.pair 0).stepCyc ≠ some s.cyc.toNat ∧ ((s.pair 0).ctx 1).queue = [mcmd k] ∧
     ((s.pair 0).ctx 0).queue = [] ∧ (s.core 0).eng.asked (unitMtx 1) = false ∧ x.badRows 1 x.rowp = false) ∧
    (let m := mcmd (.mma 4 0 0 true 1 0x8000 0xA000 (128 + 128 * 2 ^ 32) none)
     let s := { mtxWorld [] (mctx0 0) with mem := tables.take 7 }
     (match s.mmaStepData m (unitMtx 1) 4 0 0 0 0 0x8000 0xA000 (128 + 128 * 2 ^ 32) none with | .ok _ => true | _ => false) = true) := by
  decide +kernel

theorem witness_banksWork :
    let b := { bank0 none with done := false }
    let s := engWorld (fun e => { e with banks := [b] })
    (s.core 0).eng.bank? 63 = some b ∧ bkRows b.recd = 1 ∧ s.modeAt (clusterOf 0) = .run ∧ s.ttCore 0 = false ∧
      (match s.redElem 0 0 b.recd 0 with | .ok v => v == (0, false) | .error _ => false) = true ∧
      s.clusterAcc 0 0 (bkYaddr b.recd) 4 .write = .ok 0x9000 0x3F 0 (2 ^ 30) := by decide +kernel

def fabWorld (f : Fabric) (g : State → State) : State := world [] id (fun s => g (withFab f s))
def list0 : Nat := card0 + 0x14000 * 2 ^ 455

theorem witness_cardsBind :
    let k := { kcard .waiting 0 with card := list0 }
    let s := fabWorld (fab0 k none) (fun s => { s with mem := s.mem.writeNat 0x14000 4 0x85000000 })
    (s.fab 0).waiting = [k] ∧ s.modeAt 0 = .run ∧ s.ttCore 0 = false ∧ (s.fab 0).grant k.card = some (0, [0], 0, 0) ∧
      (match s.readList k with | .ok w => w == [0x85000000] | .error _ => false) = true ∧ listOk [0x85000000] 2 0 0 false = true := by
  decide +kernel

/-- A pass-through unit with a token and one without a place for its result; a source of 16 elements at its first token and at its end; a sink
with one valid element; a phase with a running engine; a job that has ended. -/
theorem witness_fabricWorks :
    (let t := mkTok (List.replicate 16 5) 0xFFFF 0
     let u := { FUnit.fresh unit0 with ports := [[t], [], []] }
     let x : FCtx := { fetchCtx 0 with units := [u] }
     let s := fabWorld (fab0 (kcard .running 0) (some x)) id
     s.fabJobAt 0 0 = some (kcard .running 0, x) ∧ s.modeAt 0 = .run ∧ u.ended = false ∧ u.streamPorts = [0] ∧
     (∀ p ∈ u.streamPorts, ((u.ports.getD p []).head?).map (·.kind) = some .data) ∧
     (u.take [some t, none, none]).out.isSome = true ∧ x.busRoom (fuSends u.entry) .data = true) ∧
    (∀ n ∈ [0, 1],
     let g := { eng0 with running := true, pos := n }
     let x : FCtx := { fetchCtx 0 with engs := [(0, g)] }
     let s := fabWorld (fab0 (kcard .running 0) (some x)) id
     s.fabJobAt 0 0 = some (kcard .running 0, x) ∧ fdKind g.desc = 1 ∧ g.count = 16 ∧ g.running = true ∧ x.dataRoom [fdLabelOf g.desc g.pos] = true ∧
     x.busRoom (dedup (fdSends g.desc)) .fin = true ∧
     ∀ i < 16, (match s.fabRead 0 (kcard .running 0) x ((fbBase buf0 : Int) + g.addr + patDisp g.pats i).toNat 4 with
       | .ok _ => true | _ => false) = true) ∧
    (let g := { eng0 with desc := desc0 + 2 ^ 192, running := true, queue := [mkTok [5] 1 0] }
     let x : FCtx := { fetchCtx 0 with engs := [(0, g)] }
     let s := fabWorld (fab0 (kcard .running 0) (some x)) id
     s.fabJobAt 0 0 = some (kcard .running 0, x) ∧ fdKind g.desc = 2 ∧ g.commit ≤ 16 * g.pos ∧ 16 * g.pos + 16 ≤ g.count ∧ s.mem.wf = true ∧
     s.clusterAcc 0 0 ((fbBase buf0 : Int) + g.addr + patDisp g.pats 0).toNat 4 .write = .ok 0x10000 0x3F 0 (2 ^ 30)) ∧
    (let ck : FCheck := ⟨[FUnit.fresh unit0], 0, [0]⟩
     let x : FCtx := { fetchCtx 0 with engs := [(0, { eng0 with running := true })], check := some ck }
     let s := fabWorld (fab0 (kcard .running 0) (some x)) id
     s.fabJobAt 0 0 = some (kcard .running 0, x) ∧ x.engs.any (fun e => ck.engs.contains e.1 && e.2.running) = true ∧
     x.engs.any (fun e => ck.engs.contains e.1 && fdKind e.2.desc == 7) = false) ∧
    (let s := fabWorld (fab0 (kcard .ended 0) none) id
     (s.fab 0).card? 0 = some (kcard .ended 0) ∧ s.modeAt 0 = .run ∧ fcRingv (kcard .ended 0).card = false ∧
     fcTokv (kcard .ended 0).card = false) := by decide +kernel

/-! The link engine. A row frame of 16-byte rows for the frame of core 0, tile partition 7 (R446). -/
def head0 : Nat := 0x4652 + 16 * 2 ^ 400 + 2 ^ 384 + 96 * 2 ^ 352 + 2 ^ 416 + 7 * 2 ^ 424 + 2 ^ 430 + 2 ^ 436
def rframe0 : RowFrame := { bytes := leBytes 64 head0 ++ List.replicate 32 1#8, sender := ref0, core := 0, builder := 7, dev := 0, sided := false }

theorem witness_linksCarryEntries :
    (let f : QFlight := ⟨0, handle0, entryOf 8⟩
     let s := world [] (fun k => { k with queues := [(63, queue0 (List.replicate 3 (entryOf 1)))], qin := [f] }) id
     let q := queue0 (List.replicate 3 (entryOf 1))
     s.ttCore 0 = false ∧ (s.core 0).qin = [f] ∧ f.due ≤ s.cyc.toNat ∧ (s.core 0).current f.handle = some q ∧ f.entry.sasid = q.oasid ∧
     q.scount = 0 ∧ q.buffer = [] ∧ q.resident.length < q.cap ∧ s.swappedCore 0 = false ∧ f.entry.dev = s.link.device) ∧
    (∀ code ∈ [0, 0x53],
     let r : QReply := ⟨0, 1, code⟩
     let q : QSent := { ser := 1, handle := handle0, data := 5, src := 0, ring := some 3, info := { FaultInfo.plain 0 0 0 ref0 0 1 with core := 0 }, opId := 3, page := none, pageFail := false }
     let s := { ringWorld (0x4_0000_0000 + 0xC000 * 2 ^ 64) with
       cores := (world [] (fun k => { k with qback := [r], qsent := [q] }) id).cores }
     s.ttCore 0 = false ∧ (s.core 0).qback = [r] ∧ r.due ≤ s.cyc.toNat ∧ (s.core 0).qsent = [q] ∧ q.page = none ∧ q.pageFail = false ∧
     (match (s.updCore 0 (fun m => { m with qback := [] })).ringWrite ref0 3 (q.ringRecord code) [] with | .ok _ => true | _ => false) = true) ∧
    (let q := { queue0 [] with spillFail := true, held := true, buffer := [entryOf 8] }
     let s := world [] (fun k => { k with queues := [(63, q)] }) id
     (s.core 0).queue 63 = q ∧ q.pageWait = none ∧ s.inTT q.launch = false ∧ q.retryAt ≤ s.cyc.toNat ∧ q.scount = 0 ∧ q.resident.length < q.cap ∧
     s.swappedCore 0 = false ∧ (entryOf 8).dev = s.link.device) ∧
    (let s := world [] id (fun s => { s with cyc := 1050000 })
     s.link.scanAt ≤ s.cyc.toNat ∧ s.link.onCycle = []) := by decide +kernel

theorem witness_linksCarryFrames :
    (let x : FrFlight := ⟨0, 0, rframe0, none⟩
     let s := world [] (fun k => { k with frin := [x], eng := { k.eng with pool := [poolOf (tileOf .free 0)] } }) id
     s.ttCore 0 = false ∧ (s.core 0).frin = [x] ∧ x.due ≤ s.cyc.toNat ∧ (s.frame 0 (tagFrame (rfTag rframe0.head))).alloc = true ∧ tagAsid (rfTag rframe0.head) = frame0.asid ∧
     s.frameSided ref0 (dieOf 0) = false ∧ s.inTT ref0 = false ∧ rfPart rframe0.head = 7 ∧
     (poolOf (tileOf .free 0)).tsize = rfTsize rframe0.head ∧ (poolOf (tileOf .free 0)).which (fun t => t.state == .free) = [0] ∧
     rframe0.dev = s.link.device) ∧
    (let s := world [] (fun k => { k with builders := [(7, builder0)] }) (fun s => { s with cyc := 1000000 })
     s.runCore 0 = true ∧ (timerCycles (rfTimer builder0.desc)).any (fun n => decide (builder0.firstAt + n ≤ s.clock 0 (s.inTT ref0))) = true ∧
     builder0.closed = none) ∧
    (let x := { builder0 with filling := false, rows := [], closed := some rframe0 }
     let s := world [] (fun k => { k with builders := [(7, x)] }) id
     s.modeAt (clusterOf 0) = .run ∧ (s.core 0).builder 7 = x ∧ x.flying = false ∧ x.ops = [] ∧ tagDevice (rfTag rframe0.head) = s.link.device ∧
     s.inTT ref0 = false ∧ (s.frame 0 0).alloc = true ∧
     ((s.setBuilder 0 7 { x with closed := none, flying := true }).takeCredit ref0 (dieOf 0) rframe0.entries).isSome = true) ∧
    (let f := { rframe0 with bytes := leBytes 64 (head0 + (mkTag 0 9 0 0 0).toNat * 2 ^ 448) ++ List.replicate 32 1#8 }
     let s := world [] id (fun s => { s with link := { s.link with members := [0, 9], routes := [(9, ⟨1, 1, true⟩)], owners := [(tagHandle (rfTag f.head), ref0)], credits := [(creditKey 0 9 ref0, 256)] } })
     tagDevice (rfTag f.head) = 9 ∧ s.routed 9 = true ∧ s.link.wait = [] ∧ (s.peerCtx (rfTag f.head)).isSome = true ∧
     f.entries ≤ s.peerCredit 0 (rfTag f.head)) := by decide +kernel

theorem witness_linksCarryRequests :
    (let s := world [] id (fun s => { s with link := { s.link with members := [0, 9] } })
     s.isPeer 9 = true ∧ (9 ≠ s.link.device) ∧ (s.core 0).held = [] ∧ physOk (physSize - 64) 64 = true ∧
     granuleBad s.bad (physSize - 64) 64 = false) ∧
    (let q : RemoteReq :=
       { id := 1, peer := 9, pa := 0, va := 0, size := 8, kind := .read false, core := 0, train := 1, launch := ref0, seat := 0,
         handle := 0, targets := [20], regs := [], instr := 1, opId := 3 }
     let s := world [] id (fun s => { s with link := { s.link with reqs := [q] } })
     s.link.reqs = [q] ∧ s.unsent q = false) ∧
    (let n := 256 + 1 * 2 ^ 24 + 5 * 2 ^ 44 + 4095 * 2 ^ 55
     0 < n ∧ tagDevice (mkTag 0 9 5 4095 0) = 9 ∧ tagCore (mkTag 0 9 5 4095 0) = natBits n 54 44 ∧ tagFrame (mkTag 0 9 5 4095 0) = natBits n 66 55) ∧
    (1 ≤ 8 % 2 ^ 8 ∧ 8 % 2 ^ 8 ≤ 8 ∧ Nat.testBit 8 8 = false) := by decide +kernel

def hostWorld : State := { State.reset with host := { HostIf.reset with bars := true, ready := true }, ramvan := { Ramvan.reset with powerGood := true } }

theorem witness_hostAndControllerAct :
    hostWorld.window1Up = true ∧
    (let sel : Word := BitVec.ofNat 64 (0xBFFFFF * 2 ^ 16)
     selClean sel = true ∧ selKind sel = 0 ∧ apertureOk 65472 64 = true ∧ physOk (bits sel 51 16 * 65536 + 65472) 64 = true) ∧
    (let sel : Word := 0x10F0000080190000
     selClean sel = true ∧ selKind sel = 1 ∧ bits sel 59 56 = 0 ∧ bits sel 51 32 = 0 ∧ isSreg (bits sel 31 16) = true ∧ coreReg (bits sel 31 16) = false ∧
     (⟨4, 0, 1⟩ : HostWord).fits = false) ∧
    (let sel : Word := 0x2000000000000000
     let s := (world [] id (fun s => { hostUp part0 s with parts := [(0, { part0 with state := .halted })] })).updHost (fun h => { h with msel := sel })
     selClean sel = true ∧ selKind sel = 2 ∧ (match s.object (bits sel 59 52) (bits sel 51 36) (bits sel 35 16) with | .found .. => true | _ => false) = true) ∧
    (let sel : Word := 0x3000000000008000
     selClean sel = true ∧ selKind sel = 3 ∧ physOk (bits sel 51 16 * 65536 + 32768 * b2n (bit sel 15)) 32768 = true ∧ 4095 < 4096) ∧
    (let sel : Word := 0x40000000001F0000
     selClean sel = true ∧ selKind sel = 4 ∧ bits sel 51 25 = 0 ∧ asidValid (hostWorld.asidEntry (bits sel 24 16)) = false) ∧
    (let s := { hostWorld with host := { hostWorld.host with vecs := [(7, { Vec.reset with busyTo := some 0, pending := true })] } }
     (NMap.getD s.host.vecs 7 Vec.reset).busyTo = some 0 ∧ 0 ≤ s.cyc.toNat) ∧
    State.reset.ramvan.powerGood = false ∧ hostWorld.ramvan.powerGood = true ∧ hostWorld.ramvan.halted = false ∧
    fwAccepted [] hostWorld.ramvan.minSec = false := by decide +kernel

theorem witness_controllerCommandsAct :
    (hostWorld.firmwareUp = true ∧ hostWorld.anyBusy = false) ∧
    ((hostWorld.part 15).state = .off ∧ (hostWorld.part 15).busy = false ∧ ∀ e ∈ hostWorld.parts, e.1 ≠ 15 → e.2.state = .off) ∧
    (let s := { hostWorld with parts := [(3, { part0 with launches := [] })] }
     s.firmwareUp = true ∧ (s.part 3).state ≠ .off ∧ (s.part 3).busy = false ∧ (s.part 3).ttPend = 0 ∧ (s.part 3).tt = none) ∧
    (1200 ≤ 1200 ∧ 1200 ≤ 2800 ∧ ¬(1200 ≤ 2801 ∧ 2801 ≤ 2800)) ∧
    (let s := world [] (fun k => { k with entries := [heldEntry] }) (hostUp part0)
     s.firmwareUp = true ∧ s.structOwners 0 1 = [ref0] ∧ s.launch? ref0 = some fetchLaunch ∧ fetchLaunch.state.live = true) ∧
    (let s := { hostWorld with host := { hostWorld.host with throttle := true }, link := { Link.reset with members := [0, 9] } }
     s.host.throttle = true ∧ s.isPeer 9 = true ∧ s.routed 9 = false ∧ physOk 64 32 = true) := by decide +kernel

/-! ## Single steps, with values from the worked examples and tables of the spec -/

/-- One step of a machine whose train of core 0 has the seats and operand slots given and stands at a word. -/
def stepOf (cls : Nat) (w : IWord) (seats : List Seat) (sl : NMap Word) : Option State :=
  let s := { State.reset.placeWord cls w with
    cores := [(0, { core0 with frames := [(0, { fetchFrame with carryCount := 8 })], trains := [{ fetchTrainOf cls w 0 with seats := seats, slots := sl }] })] }
  match step s with
  | .next s' => some s'
  | _ => none

/-- What a step leaves in a slot of the train. -/
def slotAfter (cls : Nat) (w : IWord) (seats : List Seat) (sl : NMap Word) (seat target : Nat) : Option Word :=
  (stepOf cls w seats sl).bind (fun s => ((s.core 0).train? 1).map (fun t => t.at seat target))

def one : List Seat := [⟨0, fetchInst⟩]

/-- The example of 05_lanes.md: saturating 16-bit sums. -/
theorem test_iadd_saturates : slotAfter 0 0x01140090#32 one (ops 0x7FF00005 0x0020FFFE 0 0) 0 0x14 = some 0x7FFF0003#64 := by decide +kernel
/-- The example of 05_lanes.md: a predicated `fmul` whose P bit 0 is clear delivers L and sets no flag. -/
theorem test_fmul_predicate_clear :
    slotAfter 1 0x831A0040#32 one (ops 0x7F7FFFFF 0x7F7FFFFF 0 2) 0 0x1A = some 0x7F7FFFFF#64 ∧
    ((stepOf 1 0x831A0040#32 one (ops 0x7F7FFFFF 0x7F7FFFFF 0 2)).map (fun s => (s.frame 0 0).modeNow)) = some 1 := by decide +kernel
/-- With the bit set the product overflows: RTZ gives the largest value, and OF and IX are set (R84, R88). -/
theorem test_fmul_overflow_rtz :
    slotAfter 1 0x831A0040#32 one (ops 0x7F7FFFFF 0x7F7FFFFF 0 1) 0 0x1A = some 0x7F7FFFFF#64 := by decide +kernel
/-- The example of 05_lanes.md: `consw` shifts halfwords in. -/
theorem test_consw_chain : slotAfter 0 (encode (.consw 0x14 0x9ABC)) one (ops 0x12345678 0 0 0) 0 0x14 = some 0x123456789ABC#64 := by decide +kernel
/-- R135: a shift count is taken modulo the width. -/
theorem test_shl_by_width : slotAfter 0 (encode (.shl 0x14 0 0)) one (ops 5 33 0 0) 0 0x14 = some 10#64 := by decide +kernel
/-- The field order of an `s32` result: bits 63 to 32 copy bit 31 (R133). -/
theorem test_s32_result_extends : slotAfter 0 (encode (.isub 0x14 0 0 0)) one (ops 0 1 0 0) 0 0x14 = some 0xFFFFFFFFFFFFFFFF#64 := by decide +kernel

def five : List Seat := (List.range 5).map (fun n => ⟨n, { fetchInst with idx := n }⟩)
def fiveSlots : NMap Word := (List.range 5).flatMap (fun n => [(256 * n + 4, BitVec.ofNat 64 (10 + n)), (256 * n + 5, 1)])

/-- The examples of 05_lanes.md: `shflup.fl` and `shfldn.fz` by one among five seats. -/
theorem test_shuffles :
    (List.range 5).map (fun n => slotAfter 3 (encode (.shflup 0x14 0 1)) five fiveSlots n 0x14) = [some 10, some 10, some 11, some 12, some 13] ∧
    (List.range 5).map (fun n => slotAfter 3 (encode (.shfldn 0x14 0 0)) five fiveSlots n 0x14) = [some 11, some 12, some 13, some 14, some 0] := by
  decide +kernel

def four : List Seat := [⟨0, { fetchInst with idx := 9 }⟩, ⟨1, { fetchInst with idx := 2 }⟩, ⟨2, { fetchInst with idx := 5 }⟩, ⟨3, { fetchInst with idx := 7 }⟩]
def fourSlots : NMap Word := [(4, 0x4B800000), (260, 0x3F800000), (516, 0x3F800000), (772, 0x3F800000)]

/-- The example of 05_lanes.md: an f32 sum folds in tag order. -/
theorem test_reduce_in_tag_order :
    slotAfter 3 0x070C0010#32 four fourSlots 2 0x0C = some 0x84B800002#64 ∧
    ((stepOf 3 0x070C0010#32 four fourSlots).map (fun s => (s.frame 0 0).modeNow &&& 0x007F0000#64)) = some 0x100000#64 := by decide +kernel
/-- The example of 05_lanes.md: the exclusive scan of the same seats. -/
theorem test_scan_status_words :
    (List.range 4).map (fun n => slotAfter 3 0x08100011#32 four fourSlots n 0x10) =
      [some 0x640400000#64, some 0x100000000#64, some 0x23F800000#64, some 0x440000000#64] := by decide +kernel

/-- R149: the E8M0 scale of 6.0 for E2M1 is 0x7F, of NaN 0xFF and of zero 0x00. -/
theorem test_block_scales : (cvtV 1 23 ⟨0x40C00000, 0, 0, 0, 1⟩).val = 0x7F ∧ (cvtV 1 23 ⟨0x7FC00000, 0, 0, 0, 1⟩).val = 0xFF ∧
    (cvtV 1 23 ⟨0, 0, 0, 0, 1⟩).val = 0 := by decide +kernel
/-- The example of 03_numbers.md: 5.0, 0.3 and -6.0 in E2M1 under scale 0x7F. -/
theorem test_block_elements : (cvtscV 1 4 0x7F ⟨0x3E99999A40A00000, 0xC0C00000, 0, 0, 1⟩).val = 0x0F16 := by decide +kernel

/-- R117: a gap in alignment stops the seat, and the launch is FAULTED with MISALIGNED (R182, R223). -/
theorem test_load_misaligned :
    ((stepOf 6 (encode (.ld 0x14 3 0 0 0 0)) one (ops 0x5004 0 0 0)).bind (fun s => s.launch? ref0)).map (fun l => (l.state, l.code)) =
      some (.faulted, MISALIGNED) := by decide +kernel
/-- R114: a store waits in the queue with its bytes, lowest first. -/
theorem test_store_queued :
    ((stepOf 6 (encode (.st 1 0 0 0)) one (ops 0x5002 0x1234 0 0)).map (fun s => (s.core 0).sq.map (·.op))) =
      some [.glob 0x5002 none [0x34, 0x12]] := by decide +kernel
/-- R273: `sregw` in a partition without PRIV faults with PRIVILEGED. -/
theorem test_sregw_needs_privilege :
    ((stepOf 14 (encode (.sregw 6)) one (ops 1 0 0 0)).bind (fun s => s.launch? ref0)).map (fun l => l.code) = some PRIVILEGED := by decide +kernel
/-- The example of 06_firing.md: the cause word of SWITCH_RANGE at seat 13 and instruction 9 of GEN 1. -/
theorem test_cause_word :
    causeWord { FaultInfo.plain 8 0x2000 0 ref0 0 0 with seat := 13, instr := 9, gen := 1 } = 0x00000001240D0008#64 := by decide +kernel
/-- R172: a `switch` whose selector is beyond LEN sends nothing and faults. -/
theorem test_switch_range :
    ((stepOf 4 0x03006244#32 one (ops 0 0 0 5)).bind (fun s => s.launch? ref0)).map (fun l => l.code) = some 8 := by decide +kernel

/-- R176, R280: the frame's own tag and the partition's number. -/
theorem test_own_tag : slotAfter 4 (encode (.tag 0x14 0 0)) one [] 0 0x14 = some 0#64 := by decide +kernel
/-- R191, R194: `gstx` fills register 7, `gempty` empties it. -/
theorem test_gstx_gempty :
    ((stepOf 5 (encode .gstx) one (ops 7 9 0 0)).map (fun s => ((s.frame 0 0).reg 7, (s.frame 0 0).full 7))) = some (9, true) ∧
    ((stepOf 5 (encode .gempty) one (ops 7 0 0 0)).map (fun s => (s.frame 0 0).full 7)) = some false := by decide +kernel

/-- The cases of 12_copy.md: the last arrival with the last bytes, and without them. -/
theorem test_barrier_phase :
    (let b := BarOp.apply (BarOp.apply (BarOp.apply (mkBar 0 5 1 1 0 0) (.add 64)) (.bytes 64)) .arrive
     barPhase (barCheck b) = 6 ∧ barArr (barCheck b) = 1 ∧ barErr (barCheck b) = 0) ∧
    (let b := BarOp.apply (BarOp.apply (mkBar 0 5 1 1 0 0) (.add 64)) .arrive
     barPhase (barCheck b) = 5 ∧ barErr (barCheck (BarOp.apply b .arrive)) = 0x21) := by decide +kernel
/-- The example of 13_matrix.md: the second rounding of 2 + 448 times the scale product 2^-31. -/
theorem test_promotion_rounds_once :
    (promote 0x40000000 [(.fin false 448 0, .fin false 1 0)] (.fin false 1 (-31)) oneVal).acc = 0x40000001 := by decide +kernel
/-- The example of 15_fabric.md: the key of the score 7. -/
theorem test_keycap : keycap 0x40E00000 0xEE = 0xC0E000EE := by decide +kernel
/-- The example of 16_network.md: CAP and ROWOFF of 256-byte rows in 16 KiB tiles. -/
theorem test_frame_geometry : frameCap 4 256 = 62 ∧ frameRowOff 62 = 320 := by decide +kernel
/-- R259, R250: a counter armed and not fired fires as it reaches zero. -/
theorem test_counter_reaches_zero :
    (let v := (CtrOp.sig 1).apply (1 + 2 ^ 32); toSigned 32 v = 0 ∧ v.testBit 32 = true) := by decide +kernel
/-- R310: the handle of the first tile taken. -/
theorem test_first_handle : mkHandle 1 0 3 0 0 = 0x8000800600000000#64 := by decide +kernel
/-- R349: a plain store leaves a barrier's outcomes undefined until the next `bari`. -/
theorem test_plain_store_spoils_barrier :
    (let w : Window := ⟨ref0, 64, 4096, [], [0xFF0], []⟩
     let v := w.store 0xFF8 [1]
     w.barOpen 0xFF0 = false ∧ v.barOpen 0xFF0 = true ∧ (v.setBar 0xFF0 [1] false).barOpen 0xFF0 = true ∧
     (v.setBar 0xFF0 [1] true).barOpen 0xFF0 = false ∧ (w.store 0xFE8 [1, 1, 1, 1, 1, 1, 1, 1]).barOpen 0xFF0 = false) := by decide +kernel

end Sys2Proof.Tests
end

section
namespace Sys2Proof.Machine

/-!
# O47: every step keeps HBM in canonical form

HBM is one field of the state. The model writes it through `Memory.write` and `Memory.writeNat`, which keep it canonical, or starts it empty. So each
operation that a step is made of keeps it: one lemma `f_memOk` says so for each operation `f` that answers a state, in the order in which the
model defines them. An operation answers its state in one of several wrappings (an option, an outcome, a pair, a result of its own); the
predicates below say that the state inside is canonical, where there is one.
-/

/-! ## HBM in what an operation answers -/

/-- An outcome's next state, where it has one, has HBM in canonical form. -/
def NextOk : Host.Outcome State Fault Refusal → Prop
  | .next s => s.memOk
  | _ => True

/-- A state that is answered has HBM in canonical form. -/
def SomeOk : Option State → Prop
  | some s => s.memOk
  | none => True

/-- A state that is answered with something else has HBM in canonical form. -/
def SomeFstOk {α : Type} : Option (State × α) → Prop
  | some r => r.1.memOk
  | none => True

/-- A state that is answered after something else has HBM in canonical form. -/
def SomeSndOk {α : Type} : Option (α × State) → Prop
  | some r => r.2.memOk
  | none => True

/-- A state that is answered where there is no error has HBM in canonical form. -/
def ValueOk {ε : Type} : Except ε State → Prop
  | .ok s => s.memOk
  | .error _ => True

/-- A state that is answered with something else where there is no error has HBM in canonical form. -/
def ValueFstOk {ε α : Type} : Except ε (State × α) → Prop
  | .ok r => r.1.memOk
  | .error _ => True

/-- The state of a read that waits, where there is a read, has HBM in canonical form. -/
def SomeGetOk : Option FGet → Prop
  | some (.wait s) => s.memOk
  | _ => True

/-- The state in a `PreRes`, where it holds one, has HBM in canonical form. -/
def PreRes.memOk : PreRes → Prop
  | .hold s => s.memOk
  | .go s _ => s.memOk

/-- The state in a `SeatRes`, where it holds one, has HBM in canonical form. -/
def SeatRes.memOk : SeatRes → Prop
  | .done s _ => s.memOk
  | _ => True

/-- The state in a `FrameRes`, where it holds one, has HBM in canonical form. -/
def FrameRes.memOk : FrameRes → Prop
  | .done s _ => s.memOk
  | _ => True

/-- The state in a `EPut`, where it holds one, has HBM in canonical form. -/
def EPut.memOk : EPut → Prop
  | .ok s => s.memOk
  | _ => True

/-- The state in a `RingRes`, where it holds one, has HBM in canonical form. -/
def RingRes.memOk : RingRes → Prop
  | .ok s => s.memOk
  | _ => True

/-- The state in a `ElemRes`, where it holds one, has HBM in canonical form. -/
def ElemRes.memOk : ElemRes → Prop
  | .ok s .. => s.memOk
  | _ => True

/-- The state in a `FGet`, where it holds one, has HBM in canonical form. -/
def FGet.memOk : FGet → Prop
  | .wait s => s.memOk
  | _ => True

/-- The state in a `Gathered`, where it holds one, has HBM in canonical form. -/
def Gathered.memOk : Gathered → Prop
  | .wait s => s.memOk
  | _ => True

/-- The state in a `SinkRes`, where it holds one, has HBM in canonical form. -/
def SinkRes.memOk : SinkRes → Prop
  | .ok s => s.memOk
  | .wait s => s.memOk
  | _ => True

/-- The state in a `FrameDel`, where it holds one, has HBM in canonical form. -/
def FrameDel.memOk : FrameDel → Prop
  | .gone s => s.memOk
  | _ => True

/-- The state in a `Accept`, where it holds one, has HBM in canonical form. -/
def Accept.memOk : Accept → Prop
  | .taken s => s.memOk
  | .discarded s => s.memOk
  | _ => True

/-- The state in a `HeadRes`, where it holds one, has HBM in canonical form. -/
def HeadRes.memOk : HeadRes → Prop
  | .wait o => SomeOk o
  | _ => True

/-- The state in a `PieceRes`, where it holds one, has HBM in canonical form. -/
def PieceRes.memOk : PieceRes → Prop
  | .ok s => s.memOk
  | _ => True

/-- The state in a `YardRes`, where it holds one, has HBM in canonical form. -/
def YardRes.memOk : YardRes → Prop
  | .seated s => s.memOk
  | _ => True

/-- The state in a `WinRes`, where it holds one, has HBM in canonical form. -/
def WinRes.memOk : WinRes → Prop
  | .ok s _ => s.memOk
  | _ => True

/-! ## The state in an answer -/

theorem NextOk.next {o : Host.Outcome State Fault Refusal} {s : State} (e : o = .next s) (h : NextOk o) : s.memOk := by rwa [e] at h
theorem SomeOk.some {o : Option State} {s : State} (e : o = .some s) (h : SomeOk o) : s.memOk := by rwa [e] at h
theorem SomeFstOk.some {α : Type} {o : Option (State × α)} {s : State} {x : α} (e : o = .some (s, x)) (h : SomeFstOk o) : s.memOk := by
  rwa [e] at h
theorem SomeFstOk.fst {α : Type} {o : Option (State × α)} {r : State × α} (e : o = .some r) (h : SomeFstOk o) : r.1.memOk := by rwa [e] at h
theorem SomeSndOk.some {α : Type} {o : Option (α × State)} {s : State} {x : α} (e : o = .some (x, s)) (h : SomeSndOk o) : s.memOk := by
  rwa [e] at h
theorem ValueOk.ok {ε : Type} {o : Except ε State} {s : State} (e : o = .ok s) (h : ValueOk o) : s.memOk := by rwa [e] at h
theorem ValueFstOk.ok {ε α : Type} {o : Except ε (State × α)} {s : State} {x : α} (e : o = .ok (s, x)) (h : ValueFstOk o) : s.memOk := by
  rwa [e] at h
theorem PreRes.memOk.hold {r : PreRes} {s : State} (e : r = .hold s) (h : r.memOk) : s.memOk := by rwa [e] at h
theorem PreRes.memOk.go {r : PreRes} {s : State} {t : Train} (e : r = .go s t) (h : r.memOk) : s.memOk := by rwa [e] at h
theorem SeatRes.memOk.done {r : SeatRes} {s : State} {o : LaneOut} (e : r = .done s o) (h : r.memOk) : s.memOk := by rwa [e] at h
theorem FrameRes.memOk.done {r : FrameRes} {s : State} {o : LaneOut} (e : r = .done s o) (h : r.memOk) : s.memOk := by rwa [e] at h
theorem EPut.memOk.ok {r : EPut} {s : State} (e : r = .ok s) (h : r.memOk) : s.memOk := by rwa [e] at h
theorem RingRes.memOk.ok {r : RingRes} {s : State} (e : r = .ok s) (h : r.memOk) : s.memOk := by rwa [e] at h
theorem ElemRes.memOk.ok {r : ElemRes} {s : State} {n : Nat} {a b : Bool} (e : r = .ok s n a b) (h : r.memOk) : s.memOk := by rwa [e] at h
theorem FGet.memOk.wait {r : FGet} {s : State} (e : r = .wait s) (h : r.memOk) : s.memOk := by rwa [e] at h
theorem SomeGetOk.wait {o : Option FGet} {s : State} (e : o = some (.wait s)) (h : SomeGetOk o) : s.memOk := by rwa [e] at h
theorem Gathered.memOk.wait {r : Gathered} {s : State} (e : r = .wait s) (h : r.memOk) : s.memOk := by rwa [e] at h
theorem SinkRes.memOk.ok {r : SinkRes} {s : State} (e : r = .ok s) (h : r.memOk) : s.memOk := by rwa [e] at h
theorem SinkRes.memOk.wait {r : SinkRes} {s : State} (e : r = .wait s) (h : r.memOk) : s.memOk := by rwa [e] at h
theorem FrameDel.memOk.gone {r : FrameDel} {s : State} (e : r = .gone s) (h : r.memOk) : s.memOk := by rwa [e] at h
theorem Accept.memOk.taken {r : Accept} {s : State} (e : r = .taken s) (h : r.memOk) : s.memOk := by rwa [e] at h
theorem Accept.memOk.discarded {r : Accept} {s : State} (e : r = .discarded s) (h : r.memOk) : s.memOk := by rwa [e] at h
theorem HeadRes.memOk.wait {r : HeadRes} {o : Option State} (e : r = .wait o) (h : r.memOk) : SomeOk o := by rwa [e] at h
theorem PieceRes.memOk.ok {r : PieceRes} {s : State} (e : r = .ok s) (h : r.memOk) : s.memOk := by rwa [e] at h
theorem YardRes.memOk.seated {r : YardRes} {s : State} (e : r = .seated s) (h : r.memOk) : s.memOk := by rwa [e] at h
theorem WinRes.memOk.ok {r : WinRes} {s : State} {d : List Byte} (e : r = .ok s d) (h : r.memOk) : s.memOk := by rwa [e] at h

theorem memOk_of_eq_fst {α : Type} {p : State × α} {s : State} {x : α} (e : p = (s, x)) (h : p.1.memOk) : s.memOk := by rwa [e] at h

/-! ## Operations that pass a state on -/

section Passing
variable {α β : Type}

theorem foldl_memOk {f : State → α → State} {l : List α} {s : State} (hs : s.memOk)
    (hf : ∀ s x, s.memOk → (f s x).memOk) : (l.foldl f s).memOk :=
  List.foldlRecOn (motive := fun s => s.memOk) l f hs (fun s hs x _ => hf s x hs)

theorem foldl_fst_memOk {f : State × β → α → State × β} {l : List α} {p : State × β} (hp : p.1.memOk)
    (hf : ∀ p x, p.1.memOk → (f p x).1.memOk) : (l.foldl f p).1.memOk :=
  List.foldlRecOn (motive := fun p => p.1.memOk) l f hp (fun p hp x _ => hf p x hp)

theorem foldl_fst_fst_memOk {γ : Type} {f : (State × β) × γ → α → (State × β) × γ} {l : List α} {p : (State × β) × γ} (hp : p.1.1.memOk)
    (hf : ∀ p x, p.1.1.memOk → (f p x).1.1.memOk) : (l.foldl f p).1.1.memOk :=
  List.foldlRecOn (motive := fun p => p.1.1.memOk) l f hp (fun p hp x _ => hf p x hp)

theorem foldl_elem_memOk {f : ElemRes → α → ElemRes} {l : List α} {r : ElemRes} (hr : r.memOk)
    (hf : ∀ r x, r.memOk → (f r x).memOk) : (l.foldl f r).memOk :=
  List.foldlRecOn (motive := fun r => r.memOk) l f hr (fun r hr x _ => hf r x hr)

theorem foldl_wf {f : Memory → α → Memory} {l : List α} {m : Memory} (hm : m.wf = true)
    (hf : ∀ m x, m.wf = true → (f m x).wf = true) : (l.foldl f m).wf = true :=
  List.foldlRecOn (motive := fun m => m.wf = true) l f hm (fun m hm x _ => hf m x hm)

theorem foldl_held_memOk {f : Held → α → Held} {l : List α} {h : Held} (hh : h.s.memOk)
    (hf : ∀ h x, h.s.memOk → (f h x).s.memOk) : (l.foldl f h).s.memOk :=
  List.foldlRecOn (motive := fun h => h.s.memOk) l f hh (fun h hh x _ => hf h x hh)

theorem foldl_some_memOk {f : Option State → α → Option State} {l : List α} {o : Option State} (ho : SomeOk o)
    (hf : ∀ o x, SomeOk o → SomeOk (f o x)) : SomeOk (l.foldl f o) :=
  List.foldlRecOn (motive := SomeOk) l f ho (fun o ho x _ => hf o x ho)

theorem ite_memOk {p : Prop} [Decidable p] {a b : State} (ha : a.memOk) (hb : b.memOk) : (if p then a else b).memOk := by
  split
  next => exact ha
  next => exact hb

theorem ite_fst_memOk {p : Prop} [Decidable p] {a b : State × α} (ha : a.1.memOk) (hb : b.1.memOk) : (if p then a else b).1.memOk := by
  split
  next => exact ha
  next => exact hb

theorem NextOk.ite {p : Prop} [Decidable p] {a b : Host.Outcome State Fault Refusal} (ha : NextOk a) (hb : NextOk b) :
    NextOk (if p then a else b) := by
  split
  next => exact ha
  next => exact hb

theorem Accept.memOk.ite {p : Prop} [Decidable p] {a b : Accept} (ha : a.memOk) (hb : b.memOk) : (if p then a else b).memOk := by
  split
  next => exact ha
  next => exact hb

theorem SomeOk.ite {p : Prop} [Decidable p] {a b : Option State} (ha : SomeOk a) (hb : SomeOk b) : SomeOk (if p then a else b) := by
  split
  next => exact ha
  next => exact hb

theorem SomeOk.getD {o : Option State} {d : State} (h : SomeOk o) (hd : d.memOk) : (o.getD d).memOk := by
  cases o with
  | none => exact hd
  | some s => exact h

theorem SomeOk.or {a b : Option State} (ha : SomeOk a) (hb : SomeOk b) : SomeOk (a.or b) := by
  cases a with
  | none => exact hb
  | some s => exact ha

theorem SomeOk.orElse {a : Option State} {b : Unit → Option State} (ha : SomeOk a) (hb : SomeOk (b ())) : SomeOk (a.orElse b) := by
  cases a with
  | none => exact hb
  | some s => exact ha

theorem SomeOk.map {o : Option α} {f : α → State} (hf : ∀ x, (f x).memOk) : SomeOk (o.map f) := by
  cases o with
  | none => trivial
  | some x => exact hf x

theorem SomeOk.mapState {o : Option State} {f : State → State} (ho : SomeOk o) (hf : ∀ s, s.memOk → (f s).memOk) : SomeOk (o.map f) := by
  cases o with
  | none => trivial
  | some s => exact hf s ho

theorem SomeOk.mapFst {o : Option (State × β)} {f : State × β → State} (ho : SomeFstOk o) (hf : ∀ p, p.1.memOk → (f p).memOk) :
    SomeOk (o.map f) := by
  cases o with
  | none => trivial
  | some p => exact hf p ho

theorem SomeFstOk.mapFst {γ : Type} {o : Option (State × β)} {f : State × β → State × γ} (ho : SomeFstOk o) (hf : ∀ p, p.1.memOk → (f p).1.memOk) :
    SomeFstOk (o.map f) := by
  cases o with
  | none => trivial
  | some p => exact hf p ho

theorem SomeFstOk.mapState {o : Option State} {f : State → State × β} (ho : SomeOk o) (hf : ∀ s, s.memOk → (f s).1.memOk) :
    SomeFstOk (o.map f) := by
  cases o with
  | none => trivial
  | some s => exact hf s ho

theorem SomeOk.bindFst {o : Option (State × β)} {f : State × β → Option State} (ho : SomeFstOk o) (hf : ∀ p, p.1.memOk → SomeOk (f p)) :
    SomeOk (o.bind f) := by
  cases o with
  | none => trivial
  | some p => exact hf p ho

theorem SomeOk.bind {o : Option α} {f : α → Option State} (hf : ∀ x, SomeOk (f x)) : SomeOk (o.bind f) := by
  cases o with
  | none => trivial
  | some x => exact hf x

theorem SomeOk.bindState {o : Option State} {f : State → Option State} (ho : SomeOk o) (hf : ∀ s, s.memOk → SomeOk (f s)) :
    SomeOk (o.bind f) := by
  cases o with
  | none => trivial
  | some s => exact hf s ho

theorem SomeOk.findSome {l : List α} {f : α → Option State} (hf : ∀ x, SomeOk (f x)) : SomeOk (l.findSome? f) := by
  induction l with
  | nil => trivial
  | cons x l ih =>
    rw [List.findSome?_cons]
    split
    next s h => exact SomeOk.some h (hf x)
    next => exact ih

theorem SomeFstOk.findSome {l : List α} {f : α → Option (State × β)} (hf : ∀ x, SomeFstOk (f x)) : SomeFstOk (l.findSome? f) := by
  induction l with
  | nil => trivial
  | cons x l ih =>
    rw [List.findSome?_cons]
    split
    next r h => exact SomeFstOk.fst h (hf x)
    next => exact ih

end Passing

/-- HBM is the one part of the state that counts. -/
theorem State.mk_memOk {cyc : Word} {cur : Nat × Nat} {freeCtr laned : Nat} {inbox : List Instr} {mem : Memory} {fut bad : List Nat}
    {cores : NMap Core} {clusters : NMap Cluster} {pairs : NMap Pair} {dies : NMap Die} {parts : NMap Partition} {asids : NMap Nat}
    {images : List (Nat × Nat)} {link : Link} {host : HostIf} {ramvan : Ramvan} (h : mem.wf = true) :
    State.memOk ⟨cyc, cur, freeCtr, laned, inbox, mem, fut, bad, cores, clusters, pairs, dies, parts, asids, images, link, host, ramvan⟩ := h

theorem Memory.write_wf {m : Memory} {a : Nat} {bs : List Byte} (h : m.wf = true) : (m.write a bs).wf = true := m.wf_write a bs h
theorem Memory.writeNat_wf {m : Memory} {a n v : Nat} (h : m.wf = true) : (m.writeNat a n v).wf = true := m.wf_writeNat a n v h

theorem SomeGetOk.of_memOk {r : FGet} (h : r.memOk) : SomeGetOk (some r) := by
  cases r with
  | wait s => exact h
  | _ => trivial

theorem putEntries_wf {m : Memory} {base : Nat} {bs : List Byte} {is : List Nat} (h : m.wf = true) : (putEntries m base bs is).wf = true := by
  induction is generalizing m bs with
  | nil => exact h
  | cons i is ih => exact ih (Memory.write_wf h)

/-! ## The ports of the link (Machine/Ports.lean) -/

theorem State.emit_memOk {s : State} {p : OutPkt} (hs : s.memOk) : (s.emit p).memOk := hs

/-! ## Named operations over the state (Machine/Ops.lean) -/

theorem State.setCore_memOk {s : State} {c : Nat} {k : Core} (hs : s.memOk) : (s.setCore c k).memOk := hs

theorem State.updCore_memOk {s : State} {c : Nat} {f : Core → Core} (hs : s.memOk) : (s.updCore c f).memOk := hs

theorem State.updCluster_memOk {s : State} {c : Nat} {f : Cluster → Cluster} (hs : s.memOk) : (s.updCluster c f).memOk := hs

theorem State.setPair_memOk {s : State} {p : Nat} {k : Pair} (hs : s.memOk) : (s.setPair p k).memOk := hs

theorem State.setPart_memOk {s : State} {p : Nat} {k : Partition} (hs : s.memOk) : (s.setPart p k).memOk := hs

theorem State.updPart_memOk {s : State} {p : Nat} {f : Partition → Partition} (hs : s.memOk) : (s.updPart p f).memOk := hs

theorem State.updLaunch_memOk {s : State} {r : LaunchRef} {f : Launch → Launch} (hs : s.memOk) : (s.updLaunch r f).memOk := by
  unfold State.updLaunch
  split <;> exact hs

theorem State.draw_memOk {s : State} (hs : s.memOk) : s.draw.2.memOk := hs

theorem withTrain_memOk {s : State} {f : Nat → Train → Host.Outcome State Fault Refusal} (hf : ∀ c t, NextOk (f c t)) :
    NextOk (withTrain s f) := by
  unfold withTrain
  split
  next => exact hf _ _
  next => trivial

theorem State.orFlags_memOk {s : State} {c h : Nat} {fl : Flags} (hs : s.memOk) : (s.orFlags c h fl).memOk := hs

theorem State.updEng_memOk {s : State} {c : Nat} {f : CoreEngines → CoreEngines} (hs : s.memOk) : (s.updEng c f).memOk := hs

theorem State.orphanJobs_memOk {s : State} {c h : Nat} (hs : s.memOk) : (s.orphanJobs c h).memOk := by
  unfold State.orphanJobs
  split <;> exact hs

theorem State.completeFree_memOk {s : State} {c h : Nat} (hs : s.memOk) : (s.completeFree c h).memOk := by
  unfold State.completeFree
  dsimp only
  split
  next => exact State.orphanJobs_memOk hs
  next => exact State.updLaunch_memOk (State.orphanJobs_memOk hs)

theorem State.retire_memOk {s : State} {c : Nat} {t : Train} (hs : s.memOk) : (s.retire c t).memOk := hs

theorem State.holdTrain_memOk {s : State} {c : Nat} {t : Train} {h : Hold} (hs : s.memOk) : (s.holdTrain c t h).memOk := hs

theorem State.physWrite_memOk {s : State} {pa n v : Nat} (hs : s.memOk) : (s.physWrite pa n v).memOk := by
  unfold State.physWrite
  split
  next => exact State.mk_memOk (Memory.writeNat_wf hs)
  next => exact hs

theorem State.pathWrite_memOk {s : State} {pa : Nat} {bs : List Byte} (hs : s.memOk) : (s.pathWrite pa bs).memOk :=
  State.mk_memOk (Memory.write_wf hs)

theorem State.newOp_memOk {s : State} {c : Nat} (hs : s.memOk) : (s.newOp c).2.memOk := hs

theorem State.startOp_memOk {s : State} {c uid wbit path id : Nat} (hs : s.memOk) : (s.startOp c uid wbit path id).memOk := hs

theorem State.endOp_memOk {s : State} {c id : Nat} (hs : s.memOk) : (s.endOp c id).memOk := hs

theorem State.failOp_memOk {s : State} {c id : Nat} (hs : s.memOk) : (s.failOp c id).memOk := hs

theorem State.updSlot_memOk {s : State} {r : LaunchRef} {die : Nat} {f : SidSlot → SidSlot} (hs : s.memOk) : (s.updSlot r die f).memOk :=
  State.updLaunch_memOk hs

theorem State.takeCredit_memOk {s : State} {r : LaunchRef} {die n : Nat} (hs : s.memOk) : SomeFstOk (s.takeCredit r die n) := by
  unfold State.takeCredit
  split
  next => exact hs
  next =>
    split
    next => trivial
    next => exact State.updSlot_memOk hs

theorem State.takeLent_memOk {s : State} {r : LaunchRef} {die n dev core : Nat} (hs : s.memOk) : SomeFstOk (s.takeLent r die n dev core) := by
  unfold State.takeLent
  split
  next => exact hs
  next =>
    dsimp only
    split
    next => trivial
    next => exact State.updSlot_memOk hs

theorem State.giveCredit_memOk {s : State} {r : Option LaunchRef} {die n dev : Nat} {src tag : Word} (hs : s.memOk) :
    (s.giveCredit r die n dev src tag).memOk := by
  unfold State.giveCredit
  split
  next => exact hs
  next =>
    split
    next => exact State.updSlot_memOk hs
    next => exact State.emit_memOk (State.updSlot_memOk hs)

theorem State.fly_memOk {s : State} {a b : Nat} {cargo : Cargo} {opId : Nat} {ctx : Option LaunchRef} (hs : s.memOk) :
    (s.fly a b cargo opId ctx).memOk :=
  hs

theorem State.charge_memOk {s : State} {a b : Nat} {cargo : Cargo} {opId : Nat} {go : State → Option LaunchRef → State} (hs : s.memOk)
    (hgo : ∀ s r, s.memOk → (go s r).memOk) : (s.charge a b cargo opId go).memOk := by
  unfold State.charge
  split
  next => exact hgo _ _ hs
  next =>
    split
    next h2 => exact hgo _ _ (SomeFstOk.some h2 (State.takeCredit_memOk hs))
    next => exact hs

theorem State.post_memOk {s : State} {a b : Nat} {tt : Bool} {cargo : Cargo} {opId : Nat} (hs : s.memOk) : (s.post a b tt cargo opId).memOk := by
  unfold State.post
  split
  next =>
    split
    next => exact State.charge_memOk hs (fun _ _ h3 => h3)
    next => exact hs
  next => exact State.charge_memOk hs (fun _ _ h2 => h2)

theorem State.notify_memOk {s : State} {v : Nat} (hs : s.memOk) : (s.notify v).memOk := hs

theorem countLost_wf {m : Memory} {d : Nat} (h : m.wf = true) : (countLost m d).wf = true := by
  unfold countLost
  dsimp only
  split
  next => exact Memory.writeNat_wf h
  next => exact h

/-- A ring after an append is canonical where the memory before was. -/
theorem ringAppend_wf {m : Memory} {d : Nat} {place : Nat → Nat → Option Nat} {mk : Nat → Nat} {r : Bool × Memory}
    (e : ringAppend m d place mk = some r) (h : m.wf = true) : r.2.wf = true := by
  unfold ringAppend at e
  dsimp only at e
  split at e
  next => exact absurd e (by simp)
  next =>
    split at e
    next =>
      rw [← Option.some.inj e]
      exact countLost_wf h
    next =>
      split at e
      next => exact absurd e (by simp)
      next =>
        rw [← Option.some.inj e]
        dsimp only
        exact Memory.writeNat_wf (Memory.writeNat_wf h)

theorem State.appended_memOk {s : State} {p : Nat} {r : Bool × Memory} (hr : r.2.wf = true) : (s.appended p r).memOk := by
  unfold State.appended
  dsimp only
  split <;> exact hr

theorem State.partQueue_memOk {s : State} {p : Nat} {mk : Nat → Nat} (hs : s.memOk) : (s.partQueue p mk).memOk := by
  unfold State.partQueue
  dsimp only
  split
  next => exact hs
  next =>
    split
    next h2 => exact State.appended_memOk (ringAppend_wf h2 hs)
    next => exact State.mk_memOk (countLost_wf hs)

theorem State.launchQueue_memOk {s : State} {r : LaunchRef} {mk : Nat → Nat} (hs : s.memOk) : (s.launchQueue r mk).memOk := by
  unfold State.launchQueue
  split
  next => exact State.partQueue_memOk hs
  next =>
    dsimp only
    split
    next => exact State.partQueue_memOk hs
    next =>
      split
      next =>
        split
        next h4 => exact State.appended_memOk (ringAppend_wf h4 hs)
        next => exact State.partQueue_memOk hs
      next => exact State.partQueue_memOk hs

theorem State.faultRecord_memOk {s : State} {f : FaultInfo} (hs : s.memOk) : (s.faultRecord f).memOk := State.launchQueue_memOk hs

theorem State.partFaultRecord_memOk {s : State} {f : FaultInfo} (hs : s.memOk) : (s.partFaultRecord f).memOk := State.partQueue_memOk hs

theorem State.physFault_memOk {s : State} {r : LaunchRef} {pa source : Nat} (hs : s.memOk) : (s.physFault r pa source).memOk :=
  State.partFaultRecord_memOk hs

theorem State.physPut_memOk {s : State} {r : LaunchRef} {pa n v source : Nat} (hs : s.memOk) : (s.physPut r pa n v source).memOk := by
  unfold State.physPut
  split
  next => exact State.physWrite_memOk hs
  next => exact State.physFault_memOk hs

theorem State.faultLaunch_memOk {s : State} {r : LaunchRef} {code : Nat} (hs : s.memOk) : (s.faultLaunch r code).memOk := State.updLaunch_memOk hs

theorem State.faultNow_memOk {s : State} {f : FaultInfo} (hs : s.memOk) : (s.faultNow f).memOk :=
  State.faultLaunch_memOk (State.faultRecord_memOk hs)

theorem State.takeFault_memOk {s : State} {c : Nat} {t : Train} {x : Seat} {code sub detail addr instr : Nat} (hs : s.memOk) :
    (s.takeFault c t x code sub detail addr instr).1.memOk := by
  unfold State.takeFault
  dsimp only
  split
  next => exact State.post_memOk hs
  next => exact State.faultNow_memOk hs

theorem State.takeFaults_memOk {s : State} {c : Nat} {t : Train} {code instr : Nat} {xs : List (Seat × Nat × Nat)} (hs : s.memOk) :
    (s.takeFaults c t code instr xs).1.memOk :=
  foldl_fst_memOk hs (fun _ _ h1 => State.takeFault_memOk h1)

theorem State.faultAll_memOk {s : State} {c : Nat} {t : Train} {code detail : Nat} (hs : s.memOk) : (s.faultAll c t code detail).memOk :=
  State.retire_memOk (State.takeFaults_memOk hs)

theorem State.countEvt_memOk {s : State} {c code n : Nat} (hs : s.memOk) : (s.countEvt c code n).memOk := by
  unfold State.countEvt
  split
  next => exact hs
  next =>
    refine foldl_memOk hs ?_
    intro _ _ h2
    split <;> exact h2

theorem State.tlbFill_memOk {s : State} {c asid : Nat} {vas : List Nat} (hs : s.memOk) : (s.tlbFill c asid vas).memOk := by
  refine foldl_memOk hs ?_
  intro _ _ h1
  split
  next => exact State.countEvt_memOk h1
  next => exact h1

theorem State.missHold_memOk {s : State} {c : Nat} {t : Train} {misses : List (Nat × Nat × Nat)} (hs : s.memOk) : (s.missHold c t misses).memOk := by
  unfold State.missHold
  dsimp only
  split
  next => exact hs
  next => exact State.holdTrain_memOk (State.countEvt_memOk hs)

theorem State.flushPreqs_memOk {s : State} {p : Nat} {rs done : List PageReq} (hs : s.memOk) : (s.flushPreqs p rs done).memOk := by
  induction rs generalizing s done with
  | nil => exact hs
  | cons r rs ih =>
    unfold State.flushPreqs
    dsimp only
    split
    next => exact ih hs
    next => exact ih (State.notify_memOk (State.updPart_memOk (State.mk_memOk (Memory.writeNat_wf hs))))

theorem State.raisePage_memOk {s : State} {c p launch asid va kind path level : Nat} (hs : s.memOk) :
    (s.raisePage c p launch asid va kind path level).memOk := by
  unfold State.raisePage
  split
  next => exact hs
  next => exact State.countEvt_memOk (State.flushPreqs_memOk hs)

theorem State.engMiss_memOk {s : State} {c asid va kind path launch : Nat} {own : Bool} (hs : s.memOk) :
    (s.engMiss c asid va kind path launch own).memOk := by
  unfold State.engMiss
  split
  next =>
    split
    next => exact State.countEvt_memOk hs
    next => exact State.updCore_memOk (State.countEvt_memOk hs)
  next =>
    split <;> exact hs

/-! ## Packets for peer devices (Machine/LinkOut.lean) -/

theorem State.spendCredit_memOk {s : State} {c n : Nat} {tag : Word} (hs : s.memOk) : SomeOk (s.spendCredit c n tag) := by
  unfold State.spendCredit
  split
  next => trivial
  next =>
    split
    next => trivial
    next => exact hs

theorem State.sendRemote_memOk {s : State} {c dev : Nat} {cargo : Cargo} {opId : Nat} (hs : s.memOk) : SomeOk (s.sendRemote c dev cargo opId) := by
  unfold State.sendRemote
  split
  next => trivial
  next =>
    refine SomeOk.mapState ?_ (fun _ h2 => h2)
    split
    next => exact State.spendCredit_memOk hs
    next => exact hs

theorem State.postRemote_memOk {s : State} {c dev : Nat} {cargo : Cargo} {opId : Nat} (hs : s.memOk) : (s.postRemote c dev cargo opId).memOk :=
  SomeOk.getD (State.sendRemote_memOk hs) hs

/-! ## Recipes, bindings and writes to carried registers (Machine/CarryOps.lean) -/

theorem State.setPrepared_memOk {s : State} {c h : Nat} {f : Frame} {n : Nat} (hs : s.memOk) : (s.setPrepared c h f n).memOk := by
  unfold State.setPrepared
  split
  next => exact hs
  next => exact State.countEvt_memOk hs

theorem State.writeReg_memOk {s : State} {c h g : Nat} {v : Word} (hs : s.memOk) : (s.writeReg c h g v).memOk := hs

theorem State.noteWrite_memOk {s : State} {c : Nat} {t : Train} {h g : Nat} (hs : s.memOk) : (s.noteWrite c t h g).memOk := by
  unfold State.noteWrite
  split <;> exact hs

theorem State.issueWrite_memOk {s : State} {c : Nat} {t : Train} {h g : Nat} {v : Word} (hs : s.memOk) : (s.issueWrite c t h g v).memOk := by
  unfold State.issueWrite
  split
  next => exact hs
  next => exact State.noteWrite_memOk hs

theorem State.pendReg_memOk {s : State} {c : Nat} {t : Train} {x : Seat} {g op : Nat} (hs : s.memOk) : (s.pendReg c t x g op).memOk := by
  unfold State.pendReg
  split
  next => exact hs
  next => exact State.noteWrite_memOk hs

theorem State.landReg_memOk {s : State} {c h g op : Nat} {v : Word} (hs : s.memOk) : (s.landReg c h g op v).memOk := by
  unfold State.landReg
  split <;> exact hs

/-! ## How a lane instruction executes (Machine/Lane.lean) -/

theorem State.putTrain_memOk {s : State} {c : Nat} {t : Train} (hs : s.memOk) : (s.putTrain c t).memOk := hs

theorem State.retireUid_memOk {s : State} {c uid : Nat} (hs : s.memOk) : (s.retireUid c uid).memOk := by
  unfold State.retireUid
  split <;> exact hs

theorem State.prepSeats_memOk {s : State} {c : Nat} {t : Train} {regs : List Nat} {xs : List Seat} (hs : s.memOk) :
    (s.prepSeats c t regs xs).memOk := by
  induction xs generalizing s t with
  | nil => exact hs
  | cons x xs ih =>
    unfold State.prepSeats
    dsimp only
    split
    next => exact ih (State.takeFault_memOk hs)
    next =>
      split
      next => exact ih (State.setPrepared_memOk hs)
      next => exact State.missHold_memOk hs
      next => exact hs
      next => exact ih (State.takeFault_memOk hs)

theorem State.prepare_memOk {s : State} {c : Nat} {t : Train} (hs : s.memOk) : (s.prepare c t).memOk := by
  unfold State.prepare
  dsimp only
  split
  next => exact hs
  next => exact State.prepSeats_memOk hs

theorem State.finishLanes_memOk {s : State} {c : Nat} {t : Train} {targets : List Nat} {outs : List (Seat × LaneOut)} (hs : s.memOk) :
    (s.finishLanes c t targets outs).memOk := by
  refine State.retireUid_memOk ?_
  refine ite_memOk ?_ ?_
  · refine foldl_memOk hs ?_
    intro _ _ h1
    split <;> exact h1
  · refine foldl_memOk ?_ ?_
    · refine foldl_memOk hs ?_
      intro _ _ h1
      split <;> exact h1
    · intro _ _ h1
      split
      next => exact foldl_memOk h1 (fun _ _ h3 => State.issueWrite_memOk h3)
      next => exact h1

theorem laneNow_memOk {s : State} {targets : List Nat} {f : Train → Nat → Seat → LaneOut} (hs : s.memOk) : NextOk (laneNow s targets f) := by
  refine withTrain_memOk ?_
  intro _ _
  split
  next h1 => exact PreRes.memOk.hold h1 (State.prepare_memOk hs)
  next h1 => exact State.finishLanes_memOk (PreRes.memOk.go h1 (State.prepare_memOk hs))

theorem laneInstr_memOk {s : State} {a b : BitVec 8} {f : LaneIn → LaneOut} (hs : s.memOk) : NextOk (laneInstr s a b f) := laneNow_memOk hs

theorem State.issueLate_memOk {s : State} {c : Nat} {t : Train} {x : Seat} {targets : List Nat} {vals : List (Nat × Word)} {v : Word} {fl : Flags}
    {wbit path : Nat} {kind : LateKind} (hs : s.memOk) :
    (s.issueLate c t x targets vals v fl wbit path kind).1.memOk :=
  foldl_memOk hs (fun _ _ h1 => State.pendReg_memOk h1)

theorem State.issueLates_memOk {s : State} {c : Nat} {t : Train} {targets : List Nat} {wbit path : Nat} {kind : LateKind}
    {outs : List (Seat × LaneOut)} (hs : s.memOk) :
    (s.issueLates c t targets wbit path kind outs).memOk := by
  refine State.retireUid_memOk ?_
  refine State.putTrain_memOk ?_
  refine foldl_fst_memOk hs ?_
  intro _ _ h1
  split
  next => exact State.issueLate_memOk h1
  next => exact h1

theorem State.giveSeat_memOk {s : State} {c : Nat} {t : Train} {x : Seat} {a : Nat} {v : Word} {wbit : Nat} (hs : s.memOk) :
    (s.giveSeat c t x a v wbit).1.memOk := by
  unfold State.giveSeat
  split
  next => exact foldl_memOk hs (fun _ _ h2 => h2)
  next => exact State.issueLate_memOk hs

theorem State.lateFault_memOk {s : State} {c : Nat} {info : FaultInfo} {train : Nat} {ops : List Nat} {code detail addr : Nat} (hs : s.memOk) :
    (s.lateFault c info train ops code detail addr).memOk := by
  unfold State.lateFault
  dsimp only
  split
  next => exact State.faultNow_memOk (foldl_memOk hs (fun _ _ h2 => h2))
  next =>
    split
    next => exact State.putTrain_memOk (State.takeFault_memOk (foldl_memOk hs (fun _ _ h3 => h3)))
    next => exact State.putTrain_memOk (State.faultNow_memOk (foldl_memOk hs (fun _ _ h3 => h3)))

theorem State.giveSeats_memOk {s : State} {c : Nat} {t : Train} {a : Nat} {outs : List (Seat × LaneOut)} (hs : s.memOk) :
    (s.giveSeats c t a outs).memOk := by
  unfold State.giveSeats
  split
  next => exact State.finishLanes_memOk hs
  next => exact State.issueLates_memOk hs

theorem lateLane_memOk {s : State} {a b : BitVec 8} {off : LaneIn → Bool} {f : Train → Nat → Seat → LaneIn → LaneOut} (hs : s.memOk) :
    NextOk (lateLane s a b off f) := by
  refine withTrain_memOk ?_
  intro _ _
  split
  next h1 => exact PreRes.memOk.hold h1 (State.prepare_memOk hs)
  next h1 => exact State.issueLates_memOk (State.takeFaults_memOk (PreRes.memOk.go h1 (State.prepare_memOk hs)))

theorem lateInstr_memOk {s : State} {a b : BitVec 8} {f : LaneIn → LaneOut} (hs : s.memOk) : NextOk (lateInstr s a b f) := lateLane_memOk hs

theorem xlnInstr_memOk {s : State} {a b : BitVec 8} {f : Nat → Nat → List XSeat → XSeat → LaneOut} (hs : s.memOk) : NextOk (xlnInstr s a b f) :=
  laneNow_memOk hs

/-! ## Accesses to tiles at their home (Machine/TileMem.lean) -/

theorem State.tileFault_memOk {s : State} {info : FaultInfo} {code : Nat} (hs : s.memOk) : (s.tileFault info code).memOk := State.faultNow_memOk hs

theorem State.landTile_memOk {s : State} {c uid : Nat} {x : TileSeat} {v : Word} (hs : s.memOk) : (s.landTile c uid x v).memOk := hs

theorem State.waitLeave_memOk {s : State} {c uid : Nat} {x : TileSeat} {info : FaultInfo} (hs : s.memOk) : (s.waitLeave c uid x info).memOk :=
  State.failOp_memOk (State.updCore_memOk (State.faultNow_memOk hs))

theorem State.waitFault_memOk {s : State} {c uid : Nat} {x : TileSeat} {code : Nat} (hs : s.memOk) : (s.waitFault c uid x code).memOk :=
  State.waitLeave_memOk hs

theorem State.tileWrite_memOk {s : State} {home : Nat} {key : TileKey} {off : Nat} {bs : List Byte} (hs : s.memOk) :
    (s.tileWrite home key off bs).memOk := by
  unfold State.tileWrite
  split <;> exact hs

theorem State.tileResume_memOk {s : State} {home : Nat} {w : TileWait} (hs : s.memOk) : (s.tileResume home w).1.memOk := by
  unfold State.tileResume
  split
  next => exact hs
  next =>
    extract_lets s1 s2
    have h1 : s1.memOk := by
      refine foldl_memOk hs ?_
      intro _ _ h
      refine ite_memOk h (ite_memOk (State.waitLeave_memOk h) ?_)
      exact State.updCore_memOk h
    have h2 : s2.memOk := ite_memOk (State.updEng_memOk h1) h1
    split
    next => exact hs
    next => exact State.endOp_memOk h2
    next => exact State.endOp_memOk h2
    next => exact State.endOp_memOk (foldl_memOk hs (fun _ _ h => State.waitFault_memOk h))
    next => exact State.endOp_memOk (foldl_memOk hs (fun _ _ h => State.waitFault_memOk h))

theorem State.tileWake_memOk {s : State} {home : Nat} (hs : s.memOk) : (s.tileWake home).memOk := by
  unfold State.tileWake
  dsimp only
  split
  next => exact hs
  next => exact State.updEng_memOk (foldl_fst_memOk hs (fun _ _ h2 => State.tileResume_memOk h2))

theorem State.actFault_memOk {s : State} {a : TileAct} {infos : List FaultInfo} {code src opId : Nat} (hs : s.memOk) :
    (s.actFault a infos code src opId).memOk := by
  unfold State.actFault
  split
  next => exact hs
  next => exact State.endOp_memOk (foldl_memOk hs (fun _ _ h2 => State.tileFault_memOk h2))

theorem State.countTile_memOk {s : State} {h : HRef} {t : Tile} (hs : s.memOk) : (s.countTile h t).memOk := by
  unfold State.countTile
  split
  next => exact State.tileWake_memOk hs
  next => exact hs

theorem State.tileAct_memOk {s : State} {home : Nat} {key : TileKey} {gen : Nat} {a : TileAct} {infos : List FaultInfo} {src opId : Nat}
    (hs : s.memOk) :
    (s.tileAct home key gen a infos src opId).memOk := by
  unfold State.tileAct
  split
  next => exact hs
  next =>
    split
    next => exact State.actFault_memOk hs
    next => exact State.actFault_memOk hs
    next => exact hs
    next => exact hs
    next =>
      split
      next => exact hs
      next => exact State.endOp_memOk (State.tileWake_memOk hs)
      next =>
        split
        next => exact State.endOp_memOk (State.tileWake_memOk hs)
        next => exact hs
      next =>
        split
        next => exact State.endOp_memOk (State.tileWake_memOk hs)
        next => exact hs
      next => exact hs

/-! ## The L path (Machine/MemOps.lean) -/

theorem State.updWindow_memOk {s : State} {r : LaunchRef} {core : Nat} {f : Window → Window} (hs : s.memOk) : (s.updWindow r core f).memOk := hs

theorem State.futSet_memOk {s : State} {pa : Nat} (hs : s.memOk) : (s.futSet pa).memOk := hs

theorem State.futClear_memOk {s : State} {pa : Nat} (hs : s.memOk) : (s.futClear pa).memOk := hs

theorem State.futWake_memOk {s : State} {pa : Nat} (hs : s.memOk) : (s.futWake pa).memOk := hs

theorem State.futFill_memOk {s : State} {pa : Nat} {v : Word} (hs : s.memOk) : (s.futFill pa v).memOk :=
  State.futWake_memOk (State.futSet_memOk (State.mk_memOk (Memory.writeNat_wf hs)))

theorem State.remote_memOk {s : State} {q : RemoteReq} (hs : s.memOk) : (s.remote q).memOk := hs

theorem State.follow_memOk {s : State} {q : RemoteReq} (hs : s.memOk) : (s.follow q).memOk := hs

theorem State.sendFreed_memOk {s s1 : State} (h2 : s1.memOk) : (s.sendFreed s1).memOk := foldl_memOk h2 (fun _ _ h1 => h1)

theorem State.landNext_memOk {s : State} {c : Nat} {e : SQEntry} {v : Word} (hs : s.memOk) : (s.landNext c e v).memOk := hs

theorem State.park_memOk {s : State} {c : Nat} {t : Train} {x : Seat} {pa : Nat} (hs : s.memOk) : (s.park c t x pa).1.memOk := hs

theorem State.futMiss_memOk {s : State} {c uid seat pa va : Nat} {trap : Bool} {instr opId : Nat} (hs : s.memOk) :
    (s.futMiss c uid seat pa va trap instr opId).memOk := by
  unfold State.futMiss
  split
  next => exact State.failOp_memOk (State.putTrain_memOk (ite_fst_memOk (State.takeFault_memOk hs) hs))
  next => exact hs

theorem State.popRing_memOk {s : State} {pa : Nat} (hs : s.memOk) : (s.popRing pa).2.memOk := by
  unfold State.popRing
  dsimp only
  split
  next => exact hs
  next => exact State.mk_memOk (Memory.writeNat_wf hs)

theorem State.perform_memOk {s : State} {c : Nat} {e : SQEntry} (hs : s.memOk) : (s.perform c e).memOk := by
  unfold State.perform
  generalize e.op = op
  cases op with
  | glob pa peer d =>
    cases peer with
    | none => exact State.mk_memOk (Memory.write_wf hs)
    | some p => exact hs
  | mx pa peer d sp speer x =>
    cases peer with
    | none =>
      cases speer with
      | none => exact State.mk_memOk (Memory.write_wf (Memory.write_wf hs))
      | some p => exact hs
    | some p => exact hs
  | tile home key gen a infos => exact State.tileAct_memOk hs
  | rmw pa peer size op sgn r t =>
    cases peer with
    | none => exact State.landNext_memOk (State.mk_memOk (Memory.writeNat_wf hs))
    | some p => exact hs
  | fut pa peer fill =>
    cases peer with
    | none =>
      cases fill with
      | none => exact hs
      | some v => exact State.endOp_memOk (State.futFill_memOk hs)
    | some p => exact hs
  | futTake pa va peer trap i =>
    cases peer with
    | none =>
      dsimp only
      split
      next => exact hs
      next => exact State.futMiss_memOk hs
    | some p => exact hs
  | crpop pa => exact State.landNext_memOk (State.popRing_memOk hs)
  | win | bar | barSet | wrmw | remoteRead | remoteFut | remoteMx => exact hs

theorem State.drainOne_memOk {s : State} {c : Nat} (hs : s.memOk) : (s.drainOne c).memOk := by
  unfold State.drainOne
  split
  next => exact hs
  next =>
    split
    next => exact hs
    next =>
      split
      next => exact State.perform_memOk hs
      next => exact hs

theorem State.answered_memOk {s : State} {c id : Nat} (hs : s.memOk) : (s.answered c id).memOk := by
  unfold State.answered
  split
  next => exact hs
  next =>
    split <;> exact hs

theorem State.notDone_memOk {s : State} {c id : Nat} (hs : s.memOk) : (s.notDone c id).memOk := hs

theorem State.drainN_memOk {s : State} {c n : Nat} (hs : s.memOk) : (s.drainN c n).memOk := by
  induction n generalizing s with
  | zero => exact hs
  | succ n ih => exact ih (State.drainOne_memOk hs)

theorem State.drainPaths_memOk {s : State} {c : Nat} {t : Train} {mask : Nat} (hs : s.memOk) : (s.drainPaths c t mask).memOk := by
  unfold State.drainPaths
  split
  next => exact hs
  next => exact State.drainN_memOk hs

theorem State.drainTrain_memOk {s : State} {c : Nat} {t : Train} (hs : s.memOk) : (s.drainTrain c t).memOk := State.drainPaths_memOk hs

theorem afterWrites_memOk {s : State} {c : Nat} {t : Train} {mask : Nat} {f : State → Host.Outcome State Fault Refusal} (hs : s.memOk)
    (hf : ∀ s, s.memOk → NextOk (f s)) : NextOk (afterWrites s c t mask f) := by
  unfold afterWrites
  dsimp only
  split
  next => exact State.holdTrain_memOk (State.drainPaths_memOk hs)
  next => exact hf _ (State.drainPaths_memOk hs)

theorem State.enqueue_memOk {s : State} {c : Nat} {es : List SQEntry} (hs : s.memOk) : (s.enqueue c es).memOk := hs

/-! ## Class MEM (Machine/Mem.lean) -/

theorem State.looked_memOk {s : State} {c : Nat} {t : Train} (hs : s.memOk) : (s.looked c t).memOk := State.tlbFill_memOk hs

theorem State.failSeats_memOk {s : State} {c : Nat} {t : Train} {n : Nat} {reads : Bool} {cs : List (Seat × Acc)} (hs : s.memOk) :
    (s.failSeats c t n reads cs).1.memOk := by
  refine foldl_fst_memOk hs ?_
  intro _ _ h1
  split
  next => exact State.takeFault_memOk h1
  next =>
    split
    next => exact State.takeFault_memOk h1
    next => exact h1
  next => exact h1

theorem withScope_memOk {s : State} {ordered : Bool} {level : Nat} {f : Nat → Train → Host.Outcome State Fault Refusal} (hs : s.memOk)
    (hf : ∀ c t, NextOk (f c t)) : NextOk (withScope s ordered level f) := by
  refine withTrain_memOk ?_
  intro _ _
  split
  next => exact State.faultAll_memOk hs
  next => exact hf _ _

theorem State.memLate_memOk {s : State} {c : Nat} {t : Train} {x : Seat} {a z : Nat} {sgn : Bool} {v wbit : Nat} {kind : LateKind} (hs : s.memOk) :
    (s.memLate c t x a z sgn v wbit kind).1.memOk :=
  State.issueLate_memOk hs

theorem State.openOp_memOk {s : State} {c : Nat} {t : Train} {x : Seat} {targets : List Nat} {wbit path : Nat} (hs : s.memOk) :
    (s.openOp c t x targets wbit path).2.1.memOk :=
  foldl_memOk hs (fun _ _ h1 => State.pendReg_memOk h1)

theorem State.loadSeat_memOk {s : State} {c : Nat} {t : Train} {a z : Nat} {sgn acq : Bool} {x : Seat} {pa : Nat} {e : TlbEntry} (hs : s.memOk) :
    (s.loadSeat c t a z sgn acq x pa e).1.memOk := by
  unfold State.loadSeat
  split
  next => exact State.memLate_memOk hs
  next =>
    dsimp only
    split
    next => exact State.enqueue_memOk (State.openOp_memOk hs)
    next => exact State.remote_memOk (State.openOp_memOk hs)

theorem State.actSeats_memOk {α : Type} {s : State} {c : Nat} {t : Train} {xs : List (Seat × α)} {f : State → Train → Seat → α → State × Train}
    (hs : s.memOk) (hf : ∀ s t x a, s.memOk → (f s t x a).1.memOk) : (s.actSeats c t xs f).1.memOk := by
  unfold State.actSeats
  dsimp only
  split
  next => exact foldl_fst_memOk hs (fun _ _ h2 => hf _ _ _ _ h2)
  next =>
    refine foldl_memOk ?_ ?_
    · refine foldl_fst_fst_memOk hs ?_
      intro _ _ h2
      split <;> exact hf _ _ _ _ h2
    · intro _ _ h2
      split
      next => exact foldl_memOk h2 (fun _ _ h4 => h4)
      next => exact h2

theorem globInstr_memOk {s : State} {ordered : Bool} {level n : Nat} {need : Need} {reads : Bool}
    {f : Nat → State → Train → List (Seat × Nat × TlbEntry) → State × Train} (hs : s.memOk)
    (hf : ∀ c s t xs, s.memOk → (f c s t xs).1.memOk) : NextOk (globInstr s ordered level n need reads f) := by
  refine withScope_memOk hs ?_
  intro _ _
  split
  next h1 => exact PreRes.memOk.hold h1 (State.prepare_memOk hs)
  next h1 =>
    dsimp only
    split
    next =>
      refine afterWrites_memOk ?_ ?_
      · exact State.looked_memOk (PreRes.memOk.go h1 (State.prepare_memOk hs))
      · exact fun _ h3 => State.retireUid_memOk (State.putTrain_memOk (hf _ _ _ _ (State.failSeats_memOk h3)))
    next => exact State.missHold_memOk (PreRes.memOk.go h1 (State.prepare_memOk hs))

theorem spInstr_memOk {s : State} {ordered : Bool} {level n : Nat} {reads atomic : Bool}
    {f : Nat → State → Train → List (Seat × Nat × Nat) → State × Train} (hs : s.memOk)
    (hf : ∀ c s t xs, s.memOk → (f c s t xs).1.memOk) : NextOk (spInstr s ordered level n reads atomic f) := by
  refine withScope_memOk hs ?_
  intro _ _
  split
  next h1 => exact PreRes.memOk.hold h1 (State.prepare_memOk hs)
  next h1 =>
    refine afterWrites_memOk (PreRes.memOk.go h1 (State.prepare_memOk hs)) ?_
    intro _ h2
    refine State.retireUid_memOk ?_
    refine State.putTrain_memOk ?_
    refine hf _ _ _ _ ?_
    refine foldl_fst_memOk h2 ?_
    intro _ _ h3
    split
    next => exact State.takeFault_memOk h3
    next => exact h3

theorem State.atomLate_memOk {s : State} {c : Nat} {t : Train} {x : Seat} {a n : Nat} {sgn : Bool} {old : Nat} {kind : LateKind} (hs : s.memOk) :
    (s.atomLate c t x a n sgn old kind).1.memOk := by
  unfold State.atomLate
  split
  next => exact hs
  next => exact State.issueLate_memOk hs

theorem State.rmwSeat_memOk {s : State} {c : Nat} {t : Train} {a n op : Nat} {sgn acq : Bool} {x : Seat} {pa : Nat} {e : TlbEntry} (hs : s.memOk) :
    (s.rmwSeat c t a n op sgn acq x pa e).1.memOk := by
  unfold State.rmwSeat
  split
  next => exact State.enqueue_memOk (State.openOp_memOk hs)
  next =>
    split
    next => exact State.remote_memOk (State.openOp_memOk hs)
    next => exact State.atomLate_memOk (State.mk_memOk (Memory.writeNat_wf hs))

theorem atomInstr_memOk {s : State} {level n op a : Nat} {sgn acq : Bool} (hs : s.memOk) : NextOk (atomInstr s level n op a sgn acq) :=
  globInstr_memOk hs (fun _ _ _ _ h1 => foldl_fst_memOk h1 (fun _ _ h2 => State.rmwSeat_memOk h2))

theorem State.spRmwSeat_memOk {s : State} {c : Nat} {t : Train} {a n op : Nat} {sgn acq : Bool} {x : Seat} {core off : Nat} (hs : s.memOk) :
    (s.spRmwSeat c t a n op sgn acq x core off).1.memOk := by
  unfold State.spRmwSeat
  split
  next =>
    dsimp only
    split
    next => exact State.enqueue_memOk (State.openOp_memOk hs)
    next => exact State.atomLate_memOk (ite_memOk hs hs)
  next =>
    dsimp only
    split
    next => exact State.enqueue_memOk (State.openOp_memOk hs)
    next => exact State.atomLate_memOk (ite_memOk hs hs)

theorem execAtoms_memOk {a : BitVec 8} {z : BitVec 1} {o sc : BitVec 3} {g : BitVec 1} {x : BitVec 3} {s : State} (hs : s.memOk) :
    NextOk (execAtoms a z o sc g x s) := by
  unfold execAtoms
  exact spInstr_memOk hs (fun _ _ _ _ h1 => foldl_fst_memOk h1 (fun _ _ h2 => State.spRmwSeat_memOk h2))

theorem fenceInstr_memOk {s : State} {level mask : Nat} (hs : s.memOk) : NextOk (fenceInstr s level mask) := by
  refine withScope_memOk hs ?_
  intro _ _
  refine afterWrites_memOk hs ?_
  intro _ h1
  split
  next => exact h1
  next =>
    split <;> exact h1

theorem State.quietWalk_memOk {s : State} {c asid va : Nat} (hs : s.memOk) : (s.quietWalk c asid va).memOk := by
  unfold State.quietWalk
  split
  next => exact hs
  next =>
    split <;> exact State.countEvt_memOk hs

theorem State.quietWalks_memOk {s : State} {c : Nat} {t : Train} (hs : s.memOk) : (s.quietWalks c t).memOk :=
  foldl_memOk hs (fun _ _ h1 => State.quietWalk_memOk h1)

theorem flushInstr_memOk {s : State} (hs : s.memOk) : NextOk (flushInstr s) := by
  refine withTrain_memOk ?_
  intro _ _
  refine State.retire_memOk ?_
  exact State.updCore_memOk (State.startOp_memOk (State.newOp_memOk (State.draw_memOk (State.quietWalks_memOk hs))))

theorem mxInstr_memOk {s : State} {ordered : Bool} {level f : Nat} {need : Need}
    {act : Nat → State → Train → List (Nat × Seat × MxAcc) → State × Train} (hs : s.memOk)
    (hact : ∀ c s t gs, s.memOk → (act c s t gs).1.memOk) : NextOk (mxInstr s ordered level f need act) := by
  refine withScope_memOk hs ?_
  intro _ _
  split
  next h1 => exact PreRes.memOk.hold h1 (State.prepare_memOk hs)
  next h1 =>
    dsimp only
    split
    next =>
      refine afterWrites_memOk (State.tlbFill_memOk (State.looked_memOk (PreRes.memOk.go h1 (State.prepare_memOk hs)))) ?_
      intro _ h3
      refine State.retireUid_memOk ?_
      refine State.putTrain_memOk ?_
      refine hact _ _ _ _ ?_
      refine foldl_fst_memOk h3 ?_
      intro _ _ h4
      split
      next => exact State.takeFault_memOk h4
      next =>
        split
        next => exact State.takeFault_memOk h4
        next => exact h4
    next => exact State.missHold_memOk (PreRes.memOk.go h1 (State.prepare_memOk hs))

theorem State.mxFar_memOk {s : State} {c : Nat} {t : Train} {acq : Bool} {xs : List Seat} {f a pa : Nat} {peer : Option Nat} {sp : Nat}
    {speer : Option Nat} (hs : s.memOk) : (s.mxFar c t acq xs f a pa peer sp speer).1.memOk := by
  unfold State.mxFar
  extract_lets r
  have hr : r.1.memOk := by
    refine foldl_fst_memOk hs ?_
    intro _ _ h
    dsimp only
    exact State.openOp_memOk h
  clear_value r
  split
  next =>
    refine ite_fst_memOk (State.enqueue_memOk hr) ?_
    split
    next => exact State.remote_memOk hr
    next => exact hr
  next => exact hr

theorem execLdmx_memOk {a : BitVec 8} {o : BitVec 1} {sc : BitVec 3} {_p : BitVec 2} {f : BitVec 3} {s : State} (hs : s.memOk) :
    NextOk (execLdmx a o sc _p f s) := by
  refine mxInstr_memOk hs ?_
  intro _ _ _ _ h1
  refine foldl_fst_memOk ?_ ?_
  · refine State.actSeats_memOk h1 ?_
    intro _ _ _ _ h2
    split <;> exact State.issueLate_memOk h2
  · intro _ _ h2
    split
    next =>
      split
      next => exact State.mxFar_memOk h2
      next => exact h2
    next => exact h2

/-! ## Class FIRE (Machine/Fire.lean) -/

theorem State.sendCargo_memOk {s : State} {c : Nat} {tt : Bool} {tag : Word} {cargo : Cargo} {opId : Nat} (hs : s.memOk) :
    (s.sendCargo c tt tag cargo opId).memOk := by
  unfold State.sendCargo
  split
  next => exact State.post_memOk hs
  next =>
    split
    next => exact hs
    next => exact State.postRemote_memOk hs

theorem State.release_memOk {s : State} {c : Nat} {t : Train} {tok : Token} (hs : s.memOk) : (s.release c t tok).memOk := State.sendCargo_memOk hs

theorem State.sendSeat_memOk {s : State} {c : Nat} {t : Train} {x : Seat} {dest scope pwords : Nat} {tsrc : Bool} {dcount : Nat} (hs : s.memOk) :
    (s.sendSeat c t x dest scope pwords tsrc dcount).1.memOk := by
  unfold State.sendSeat
  split
  next => exact State.takeFault_memOk hs
  next =>
    dsimp only
    split
    next => exact State.takeFault_memOk hs
    next => exact State.release_memOk hs

theorem sendInstr_memOk {s : State} {scope paths : Nat} {tags : Nat → Train → List Word} {f : Nat → State → Train → State × Train} (hs : s.memOk)
    (hf : ∀ c s t, s.memOk → (f c s t).1.memOk) : NextOk (sendInstr s scope paths tags f) := by
  refine withScope_memOk hs ?_
  intro _ _
  refine afterWrites_memOk hs ?_
  intro _ h1
  split
  next => exact h1
  next =>
    split
    next => exact h1
    next => exact State.retireUid_memOk (State.putTrain_memOk (State.draw_memOk (hf _ _ _ h1)))

theorem execSwitch_memOk {d : BitVec 12} {sc : BitVec 3} {t : BitVec 1} {w : BitVec 2} {l : BitVec 6} {s : State} (hs : s.memOk) :
    NextOk (execSwitch d sc t w l s) := by
  refine sendInstr_memOk hs ?_
  intro _ _ _ h1
  dsimp only
  split
  next => exact foldl_fst_memOk h1 (fun _ _ h3 => State.sendSeat_memOk h3)
  next => exact State.takeFaults_memOk h1

theorem State.allocSpawn_memOk {s : State} {c : Nat} {par : Frame} {carry : Nat} {ptag : Word} {pdest : Nat} (hs : s.memOk) :
    SomeSndOk (s.allocSpawn c par carry ptag pdest) := by
  unfold State.allocSpawn
  dsimp only
  split
  next =>
    split
    next => exact hs
    next => trivial
  next => trivial

theorem State.askCompact_memOk {s : State} {c ord : Nat} (hs : s.memOk) : (s.askCompact c ord).memOk := hs

theorem State.spawnSeat_memOk {s : State} {c : Nat} {t : Train} {x : Seat} {dest scope pwords kgran : Nat} {tsrc : Bool} {dcount : Nat}
    (hs : s.memOk) : (s.spawnSeat c t x dest scope pwords kgran tsrc dcount).1.memOk := by
  unfold State.spawnSeat
  extract_lets p cont own ptag f s1
  clear_value ptag
  refine ite_fst_memOk (State.takeFault_memOk hs) ?_
  generalize (if tsrc then s.tagFault t.asid ptag else none) = fault
  cases fault with
  | some => exact State.takeFault_memOk hs
  | none =>
    dsimp only
    split
    next h => exact State.release_memOk (SomeSndOk.some h (State.allocSpawn_memOk hs))
    next =>
      have h1 : s1.memOk := State.askCompact_memOk hs
      exact ite_fst_memOk (State.takeFault_memOk h1) (State.release_memOk h1)

theorem State.freeFrame_memOk {s : State} {c h : Nat} (hs : s.memOk) : (s.freeFrame c h).memOk := hs

theorem State.retSeat_memOk {s : State} {c : Nat} {t : Train} {x : Seat} {scope pwords : Nat} {fr : Bool} (hs : s.memOk) :
    (s.retSeat c t x scope pwords fr).1.memOk := by
  unfold State.retSeat
  split
  next =>
    dsimp only
    split
    next => exact State.freeFrame_memOk (State.release_memOk hs)
    next =>
      split
      next => exact State.takeFault_memOk hs
      next => exact hs
  next =>
    dsimp only
    split
    next => exact State.release_memOk hs
    next =>
      split
      next => exact State.takeFault_memOk hs
      next => exact hs

theorem execRet_memOk {sc : BitVec 3} {w : BitVec 2} {f : BitVec 1} {s : State} (hs : s.memOk) : NextOk (execRet sc w f s) := by
  refine withScope_memOk hs ?_
  intro _ _
  dsimp only
  split
  next => exact sendInstr_memOk hs (fun _ _ _ h2 => foldl_fst_memOk h2 (fun _ _ h3 => State.retSeat_memOk h3))
  next => exact State.missHold_memOk hs

theorem withPlacement_memOk {s : State} {f : Nat → Train → Host.Outcome State Fault Refusal} (hs : s.memOk)
    (hf : ∀ c t, NextOk (f c t)) : NextOk (withPlacement s f) := by
  refine withTrain_memOk ?_
  intro _ _
  split
  next => exact State.faultAll_memOk hs
  next => exact hf _ _

theorem State.futldSeat_memOk {s : State} {c : Nat} {t : Train} {a : Nat} {take trap acq : Bool} {x : Seat} {pa : Nat} {e : TlbEntry} (hs : s.memOk) :
    (s.futldSeat c t a take trap acq x pa e).1.memOk := by
  unfold State.futldSeat
  extract_lets va tt
  cases leafHome e.leaf with
  | some peer =>
    refine ite_fst_memOk ?_ (State.remote_memOk (State.openOp_memOk hs))
    exact State.enqueue_memOk (State.openOp_memOk hs)
  | none =>
    refine ite_fst_memOk (State.enqueue_memOk (State.openOp_memOk hs)) ?_
    refine ite_fst_memOk (State.landNext_memOk (State.openOp_memOk hs)) ?_
    refine ite_fst_memOk (State.issueLate_memOk (ite_memOk (State.futClear_memOk hs) hs)) ?_
    exact ite_fst_memOk (State.takeFault_memOk hs) (State.park_memOk hs)

theorem execFutld_memOk {a : BitVec 8} {o : BitVec 1} {sc : BitVec 3} {_p : BitVec 2} {k t : BitVec 1} {s : State} (hs : s.memOk) :
    NextOk (execFutld a o sc _p k t s) := by
  refine withPlacement_memOk hs ?_
  intro _ _
  refine withScope_memOk hs ?_
  intro _ _
  split
  next h1 => exact PreRes.memOk.hold h1 (State.prepare_memOk hs)
  next h1 =>
    split
    next =>
      dsimp only
      split
      next =>
        refine afterWrites_memOk (State.looked_memOk (PreRes.memOk.go h1 (State.prepare_memOk hs))) ?_
        intro _ h4
        refine State.retireUid_memOk ?_
        exact State.putTrain_memOk (foldl_fst_memOk (State.failSeats_memOk h4) (fun _ _ h5 => State.futldSeat_memOk h5))
      next => exact State.missHold_memOk (PreRes.memOk.go h1 (State.prepare_memOk hs))
    next =>
      dsimp only
      split
      next =>
        refine afterWrites_memOk (State.looked_memOk (PreRes.memOk.go h1 (State.prepare_memOk hs))) ?_
        intro _ h4
        refine State.retireUid_memOk ?_
        exact State.putTrain_memOk (foldl_fst_memOk (State.failSeats_memOk h4) (fun _ _ h5 => State.futldSeat_memOk h5))
      next => exact State.missHold_memOk (PreRes.memOk.go h1 (State.prepare_memOk hs))

theorem State.futstSeat_memOk {s : State} {c : Nat} {t : Train} {empty : Bool} {x : Seat} {pa : Nat} {e : TlbEntry} (hs : s.memOk) :
    (s.futstSeat c t empty x pa e).memOk := by
  unfold State.futstSeat
  split
  next =>
    split
    next =>
      dsimp only
      split <;> exact hs
    next =>
      dsimp only
      split <;> exact hs
  next =>
    split
    next =>
      dsimp only
      split <;> exact hs
    next =>
      dsimp only
      split
      next => exact hs
      next => exact State.futFill_memOk hs

theorem execFutst_memOk {o : BitVec 1} {sc : BitVec 3} {_p : BitVec 2} {e : BitVec 1} {s : State} (hs : s.memOk) :
    NextOk (execFutst o sc _p e s) := by
  refine withScope_memOk hs ?_
  intro _ _
  dsimp only
  split
  next =>
    refine afterWrites_memOk (State.looked_memOk hs) ?_
    intro _ h2
    refine State.retireUid_memOk ?_
    exact State.putTrain_memOk (foldl_memOk (State.failSeats_memOk h2) (fun _ _ h3 => State.futstSeat_memOk h3))
  next => exact State.missHold_memOk hs

theorem State.yieldSeats_memOk {s : State} {c : Nat} {t : Train} {xs : List Seat} (hs : s.memOk) : (s.yieldSeats c t xs).1.memOk :=
  foldl_fst_memOk hs (fun _ _ h1 => h1)

theorem State.trapretSeat_memOk {s : State} {c : Nat} {t : Train} {m : Nat} {x : Seat} (hs : s.memOk) : (s.trapretSeat c t m x).1.memOk := by
  unfold State.trapretSeat
  split
  next =>
    dsimp only
    split
    next => exact State.takeFault_memOk hs
    next => exact hs
  next =>
    dsimp only
    split
    next => exact State.takeFault_memOk hs
    next => exact hs

theorem execTrapret_memOk {m : BitVec 2} {s : State} (hs : s.memOk) : NextOk (execTrapret m s) := by
  refine withTrain_memOk ?_
  intro _ _
  split
  next => exact State.faultAll_memOk hs
  next => exact State.retireUid_memOk (State.putTrain_memOk (foldl_fst_memOk hs (fun _ _ h2 => State.trapretSeat_memOk h2)))

theorem State.departSeat_memOk {s : State} {c : Nat} {t : Train} {x : Seat} {far : Bool} (hs : s.memOk) : (s.departSeat c t x far).1.memOk := by
  unfold State.departSeat
  split
  next =>
    dsimp only
    split
    next => exact State.takeFault_memOk hs
    next =>
      split
      next => exact State.takeFault_memOk hs
      next => exact State.sendCargo_memOk hs
  next =>
    dsimp only
    split
    next => exact State.takeFault_memOk hs
    next => exact hs

theorem execDepart_memOk {t : BitVec 1} {s : State} (hs : s.memOk) : NextOk (execDepart t s) := by
  refine withTrain_memOk ?_
  intro _ _
  refine State.retireUid_memOk ?_
  exact State.putTrain_memOk (State.draw_memOk (foldl_fst_memOk hs (fun _ _ h1 => State.departSeat_memOk h1)))

/-! ## What the engines share (Machine/EngOps.lean) -/

theorem State.engAsk_memOk {s : State} {c unit : Nat} {r : LaunchRef} {peer pa n va : Nat} {kind : RKind} (hs : s.memOk) :
    (s.engAsk c unit r peer pa n va kind).memOk :=
  hs

theorem State.engWrite_memOk {s : State} {c unit : Nat} {r : LaunchRef} {asid va : Nat} {bs : List Byte} (hs : s.memOk) :
    (s.engWrite c unit r asid va bs).memOk := by
  unfold State.engWrite
  split
  next => trivial
  next => trivial
  next =>
    split
    next => exact hs
    next => exact State.pathWrite_memOk hs

theorem State.engBlockWrite_memOk {s : State} {c unit : Nat} {r : LaunchRef} {asid va : Nat} {bs : List Byte} {sv : Nat} {x : Byte} (hs : s.memOk) :
    (s.engBlockWrite c unit r asid va bs sv x).memOk := by
  unfold State.engBlockWrite
  split
  next =>
    split
    next => exact State.pathWrite_memOk (State.pathWrite_memOk hs)
    next => exact hs
    next => exact hs
    next => exact hs
  next => trivial
  next => trivial
  next => trivial
  next => trivial

theorem State.ringWrite_memOk {s : State} {r : LaunchRef} {k record : Nat} {failed : List Nat} (hs : s.memOk) :
    (s.ringWrite r k record failed).memOk := by
  unfold State.ringWrite
  split
  next => trivial
  next => trivial
  next =>
    split
    next => trivial
    next =>
      dsimp only
      split
      next => trivial
      next =>
        split
        next =>
          split
          next => trivial
          next => exact State.mk_memOk (Memory.writeNat_wf (Memory.writeNat_wf (State.pathWrite_memOk hs)))
        next =>
          split <;> trivial
        next => trivial

theorem State.ringPage_memOk {s : State} {c : Nat} {r : LaunchRef} {asid va kind level : Nat} (hs : s.memOk) :
    (s.ringPage c r asid va kind level).memOk :=
  State.raisePage_memOk hs

theorem State.engToken_memOk {s : State} {c : Nat} {tt : Bool} {tok : Token} (hs : s.memOk) : (s.engToken c tt tok).memOk := by
  unfold State.engToken
  split
  next => exact hs
  next => exact State.draw_memOk (State.sendCargo_memOk hs)

theorem State.engPage_memOk {s : State} {c : Nat} {r : LaunchRef} {asid va kind path : Nat} (hs : s.memOk) :
    (s.engPage c r asid va kind path).memOk :=
  State.engMiss_memOk hs

/-! ## Class TILE (Machine/Tile.lean) -/

theorem State.tileFaults_memOk {s : State} {c : Nat} {t : Train} {rs : List (Seat × TileRes)} (hs : s.memOk) : (s.tileFaults c t rs).1.memOk := by
  refine foldl_fst_memOk hs ?_
  intro _ _ h1
  split
  next => exact State.takeFault_memOk h1
  next => exact h1

theorem State.sendAct_memOk {s : State} {c : Nat} {t : Train} {xs : List Seat} {r : HRef} {a : TileAct} {wbit : Nat} (hs : s.memOk) :
    (s.sendAct c t xs r a wbit).memOk := by
  unfold State.sendAct
  split
  next => exact hs
  next => exact State.tileAct_memOk hs

theorem State.regTiles_memOk {s : State} {c : Nat} {t : Train} {x : Seat} {rs : List HRef} (hs : s.memOk) : (s.regTiles c t x rs).1.memOk := by
  refine foldl_memOk hs ?_
  intro _ _ h1
  split <;> exact h1

theorem State.tallocGrant_memOk {s : State} {c : Nat} {r : LaunchRef} {p : Nat} (hs : s.memOk) : SomeOk (s.tallocGrant c r p) := by
  unfold State.tallocGrant
  split
  next => trivial
  next =>
    split
    next => trivial
    next =>
      split
      next => exact hs
      next =>
        split
        next => trivial
        next => exact State.giveSeats_memOk hs

theorem execTalloc_memOk {a k : BitVec 8} {p : BitVec 3} {s : State} (hs : s.memOk) : NextOk (execTalloc a k p s) := by
  refine withTrain_memOk ?_
  intro _ _
  split
  next h => exact PreRes.memOk.hold h (State.prepare_memOk hs)
  next h =>
    have h0 := PreRes.memOk.go h (State.prepare_memOk hs)
    dsimp only
    split
    next => exact State.faultAll_memOk h0
    next =>
      split
      next =>
        split
        next h1 =>
          split
          next => exact SomeOk.some h1 (State.tallocGrant_memOk h0)
          next => exact State.holdTrain_memOk h0
        next => exact State.holdTrain_memOk h0
      next =>
        split
        next => exact State.faultAll_memOk h0
        next =>
          split
          next => exact State.faultAll_memOk h0
          next =>
            split
            next =>
              split
              next =>
                split
                next h3 => exact SomeOk.some h3 (State.tallocGrant_memOk (State.putTrain_memOk (State.updEng_memOk h0)))
                next => exact State.holdTrain_memOk (State.putTrain_memOk (State.updEng_memOk h0))
              next => exact State.holdTrain_memOk (State.putTrain_memOk (State.updEng_memOk h0))
            next =>
              refine State.retireUid_memOk (State.putTrain_memOk ?_)
              exact foldl_fst_memOk h0 (fun _ _ h => State.takeFault_memOk h)

theorem execTst_memOk {z : BitVec 3} {s : State} (hs : s.memOk) : NextOk (execTst z s) := by
  refine withTrain_memOk ?_
  intro _ _
  refine State.retireUid_memOk ?_
  refine State.putTrain_memOk ?_
  refine foldl_memOk ?_ ?_
  · refine foldl_fst_memOk hs ?_
    intro _ _ h1
    split
    next => exact State.takeFault_memOk h1
    next => exact h1
  · intro _ _ h1
    split
    next => exact h1
    next =>
      split
      next => exact State.tileAct_memOk h1
      next => exact h1

theorem tileAccess_memOk {s : State} {acc : TAccess} {act : TileAct} (hs : s.memOk) : NextOk (tileAccess s acc act) := by
  refine withTrain_memOk ?_
  intro _ _
  dsimp only
  split
  next => exact State.holdTrain_memOk (State.drainPaths_memOk hs)
  next =>
    refine State.retireUid_memOk ?_
    refine State.putTrain_memOk ?_
    refine foldl_memOk ?_ (fun _ _ h2 => h2)
    exact foldl_memOk (State.tileFaults_memOk (State.drainPaths_memOk hs)) (fun _ _ h2 => State.sendAct_memOk h2)

theorem execTfree_memOk {s : State} (hs : s.memOk) : NextOk (execTfree s) := by
  refine withTrain_memOk ?_
  intro _ _
  refine State.retireUid_memOk ?_
  refine State.putTrain_memOk ?_
  refine foldl_fst_memOk (State.drainPaths_memOk hs) ?_
  intro _ _ h1
  split
  next => exact State.takeFault_memOk h1
  next => exact State.sendAct_memOk h1
  next => exact h1

theorem State.tldSeat_memOk {s : State} {c : Nat} {t : Train} {a z : Nat} {sgn : Bool} {x : Seat} {r : HRef} {u : Tile} (hs : s.memOk) :
    (s.tldSeat c t a z sgn x r u).1.memOk :=
  State.memLate_memOk hs

theorem State.tldWait_memOk {s : State} {c : Nat} {t : Train} {a z : Nat} {sgn cnt : Bool} {w : HRef} {xs : List (Seat × HRef)} (hs : s.memOk) :
    (s.tldWait c t a z sgn cnt w xs).1.memOk := by
  refine State.updEng_memOk ?_
  refine foldl_fst_memOk hs ?_
  intro _ _ h1
  dsimp only
  exact State.openOp_memOk h1

theorem execTld_memOk {a : BitVec 8} {c g : BitVec 1} {z : BitVec 3} {s : State} (hs : s.memOk) : NextOk (execTld a c g z s) := by
  refine withTrain_memOk ?_
  intro _ _
  split
  next h1 => exact PreRes.memOk.hold h1 (State.prepare_memOk hs)
  next h1 =>
    refine afterWrites_memOk (PreRes.memOk.go h1 (State.prepare_memOk hs)) ?_
    intro _ h2
    split
    next =>
      dsimp only
      split
      next => exact h2
      next =>
        refine State.retireUid_memOk ?_
        refine State.putTrain_memOk ?_
        refine foldl_memOk ?_ ?_
        · refine foldl_fst_memOk ?_ (fun _ _ h5 => State.tldWait_memOk h5)
          exact State.actSeats_memOk (State.tileFaults_memOk h2) (fun _ _ _ _ h5 => State.tldSeat_memOk h5)
        · intro _ _ h5
          split
          next => exact h5
          next => exact State.tileAct_memOk h5
    next =>
      dsimp only
      split
      next => exact h2
      next =>
        refine State.retireUid_memOk ?_
        refine State.putTrain_memOk ?_
        refine foldl_fst_memOk ?_ (fun _ _ h5 => State.tldWait_memOk h5)
        exact State.actSeats_memOk (State.tileFaults_memOk h2) (fun _ _ _ _ h5 => State.tldSeat_memOk h5)

theorem execTstat_memOk {a : BitVec 8} {s : State} (hs : s.memOk) : NextOk (execTstat a s) := by
  refine withTrain_memOk ?_
  intro _ _
  split
  next h1 => exact PreRes.memOk.hold h1 (State.prepare_memOk hs)
  next h1 =>
    refine afterWrites_memOk (PreRes.memOk.go h1 (State.prepare_memOk hs)) ?_
    intro _ h2
    refine State.issueLates_memOk ?_
    refine foldl_fst_memOk h2 ?_
    intro _ _ h3
    split
    next => exact State.takeFault_memOk h3
    next => exact h3

/-! ## Class COPY and the copy engine (Machine/Copy.lean) -/

theorem State.placeWrite_memOk {s : State} {c unit asid : Nat} {r : LaunchRef} {p : Place} {bs : List Byte} (hs : s.memOk) :
    (s.placeWrite c unit asid r p bs).memOk := by
  unfold State.placeWrite
  split
  next =>
    split
    next => trivial
    next => exact State.engWrite_memOk hs
  next =>
    split
    next => trivial
    next =>
      split
      next => trivial
      next => exact hs
  next =>
    split
    next => trivial
    next =>
      split
      next => exact State.tileWrite_memOk hs
      next => trivial
      next => trivial
      next => trivial
  next => trivial

theorem ElemRes.ofGet_memOk {g : EGet} : (ElemRes.ofGet g).memOk := by
  unfold ElemRes.ofGet
  split <;> trivial

theorem State.writeAll_memOk {s : State} {c unit asid : Nat} {r : LaunchRef} {ws : List (Place × List Byte)} (hs : s.memOk) :
    (s.writeAll c unit asid r ws).memOk := by
  refine foldl_elem_memOk hs ?_
  intro _ _ h1
  split
  next =>
    split
    next h2 => exact EPut.memOk.ok h2 (State.placeWrite_memOk h1)
    next => trivial
    next => trivial
  next => exact h1

theorem State.writeBlock_memOk {s : State} {c unit asid : Nat} {r : LaunchRef} {p sp : Place} {bs : List Byte} {x : Byte} (hs : s.memOk) :
    (s.writeBlock c unit asid r p sp bs x).memOk := by
  unfold State.writeBlock
  split
  next =>
    split
    next => trivial
    next =>
      split
      next h2 => exact EPut.memOk.ok h2 (State.engBlockWrite_memOk hs)
      next => trivial
      next => trivial
  next => exact State.writeAll_memOk hs

theorem State.copyElem_memOk {s : State} {c unit asid : Nat} {r : LaunchRef} {recd e : Nat} (hs : s.memOk) :
    (s.copyElem c unit asid r recd e).memOk := by
  unfold State.copyElem
  split
  next => exact ElemRes.ofGet_memOk
  next =>
    dsimp only
    split
    next =>
      split
      next h3 => exact ElemRes.memOk.ok h3 (State.writeAll_memOk hs)
      next => exact State.writeAll_memOk hs
    next =>
      split
      next =>
        split
        next => trivial
        next => exact ElemRes.ofGet_memOk
      next =>
        split
        next h4 => exact ElemRes.memOk.ok h4 (State.writeBlock_memOk hs)
        next => exact State.writeBlock_memOk hs

theorem State.elemFill_memOk {s : State} {c asid : Nat} {r : LaunchRef} {recd e : Nat} {stream : Bool} (hs : s.memOk) :
    (s.elemFill c asid r recd e stream).memOk :=
  State.tlbFill_memOk hs

theorem State.streamElem_memOk {s : State} {c unit asid : Nat} {r : LaunchRef} {recd e : Nat} {key : TileKey} {gen size off j : Nat} (hs : s.memOk) :
    (s.streamElem c unit asid r recd e key gen size off j).memOk := by
  unfold State.streamElem
  split
  next => exact ElemRes.ofGet_memOk
  next =>
    dsimp only
    split
    next h2 => exact ElemRes.memOk.ok h2 (State.writeAll_memOk hs)
    next => exact State.writeAll_memOk hs

theorem State.setCopy_memOk {s : State} {c : Nat} {q : CopyReq} (hs : s.memOk) : (s.setCopy c q).memOk := hs

theorem State.submitCopy_memOk {s s' : State} {c : Nat} {t : Train} {x : Seat} {recd : Nat} {stream : Bool} {v : Word} (hs : s.memOk)
    (h : s.submitCopy c t x recd stream = some (s', v)) : s'.memOk := by
  refine SomeFstOk.some h ?_
  unfold State.submitCopy
  split
  next => trivial
  next =>
    extract_lets seq n d ts g reg q s1 part s3 s2
    have hd : d.2.memOk := State.draw_memOk (State.startOp_memOk (State.newOp_memOk hs))
    have hreg : reg.1.memOk := by
      unfold reg
      split
      next => exact hd
      next => exact ite_fst_memOk hd (State.regTiles_memOk hd)
    have h1 : s1.memOk := State.updEng_memOk hreg
    have h3 : s3.memOk := State.updEng_memOk h1
    have h2 : s2.memOk := by
      refine ite_memOk ?_ h1
      split
      next => exact h1
      next => exact foldl_memOk h3 (fun _ _ h => State.updEng_memOk h)
    exact h2

theorem State.copySeat_memOk {s : State} {c : Nat} {t : Train} {stream : Bool} {a : Nat} {x : Seat} (hs : s.memOk) :
    (s.copySeat c t stream a x).1.memOk := by
  unfold State.copySeat
  split
  next => exact State.takeFault_memOk hs
  next =>
    split
    next => exact State.takeFault_memOk hs
    next =>
      split
      next => exact hs
      next h => exact State.giveSeat_memOk (State.submitCopy_memOk hs h)

theorem copyInstr_memOk {s : State} {stream : Bool} {a : Nat} (hs : s.memOk) : NextOk (copyInstr s stream a) := by
  refine withTrain_memOk ?_
  intro _ _
  split
  next h1 => exact PreRes.memOk.hold h1 (State.prepare_memOk hs)
  next h1 =>
    refine afterWrites_memOk (PreRes.memOk.go h1 (State.prepare_memOk hs)) ?_
    intro _ h2
    split
    next =>
      dsimp only
      split
      next => exact State.missHold_memOk h2
      next => exact h2
    next =>
      dsimp only
      split
      next => exact State.missHold_memOk h2
      next =>
        refine State.retireUid_memOk ?_
        exact State.putTrain_memOk (State.actSeats_memOk h2 (fun _ _ _ _ h5 => State.copySeat_memOk h5))

theorem State.cancelSeat_memOk {s : State} {c : Nat} {t : Train} {x : Seat} (hs : s.memOk) : (s.cancelSeat c t x).memOk := by
  unfold State.cancelSeat
  dsimp only
  split
  next =>
    split <;> exact hs
  next => exact hs

theorem State.barUpdate_memOk {s : State} {home : Nat} {r : LaunchRef} {off : Nat} (hs : s.memOk) : (s.barUpdate home r off).memOk := by
  refine State.updEng_memOk ?_
  refine State.updWindow_memOk ?_
  split
  next =>
    split <;> exact hs
  next =>
    split <;> exact hs

theorem State.barSee_memOk {s : State} {c uid : Nat} {tt : Bool} {r : LaunchRef} {core off : Nat} (hs : s.memOk) :
    (s.barSee c uid tt r core off).2.memOk := by
  unfold State.barSee
  split <;> exact hs

theorem State.setBar_memOk {s : State} {c : Nat} {t : Train} {x : Seat} {off : Nat} {ops : List BarOp} (hs : s.memOk) :
    (s.setBar c t x off ops).memOk := by
  refine State.enqueue_memOk ?_
  split
  next => exact hs
  next => exact State.barSee_memOk hs

theorem State.sendBars_memOk {s : State} {c : Nat} {t : Train} {xs : List (Seat × Nat × Nat × BarOp)} (hs : s.memOk) :
    (s.sendBars c t xs).memOk := by
  refine foldl_memOk hs ?_
  intro _ _ h1
  dsimp only
  split
  next => exact State.setBar_memOk h1
  next => exact h1

theorem barInstr_memOk {s : State} {op : Train → Seat → Except Nat BarOp} (hs : s.memOk) : NextOk (barInstr s op) := by
  refine withTrain_memOk ?_
  intro _ _
  refine State.retireUid_memOk ?_
  refine State.putTrain_memOk ?_
  refine State.sendBars_memOk ?_
  refine foldl_fst_fst_memOk hs ?_
  intro _ _ h1
  split
  next => exact State.takeFault_memOk h1
  next =>
    split
    next => exact h1
    next => exact State.takeFault_memOk h1

theorem execBarw_memOk {a : BitVec 8} {s : State} (hs : s.memOk) : NextOk (execBarw a s) := by
  refine withTrain_memOk ?_
  intro c t0
  split
  next h => exact PreRes.memOk.hold h (State.prepare_memOk hs)
  next s0 t h =>
    extract_lets s1 cs p r queued
    have h1 : s1.memOk := State.drainTrain_memOk (PreRes.memOk.go h (State.prepare_memOk hs))
    have hp : p.1.memOk := by
      refine foldl_fst_memOk h1 ?_
      intro _ _ h
      split
      next => exact State.takeFault_memOk h
      next => exact h
    have hr : r.1.memOk := by
      refine foldl_fst_memOk hp ?_
      intro _ _ h
      split
      next => exact State.barSee_memOk h
      next => exact h
    exact NextOk.ite (State.holdTrain_memOk (State.putTrain_memOk hr)) (State.giveSeats_memOk hr)

theorem State.crpopSeat_memOk {s : State} {c : Nat} {t : Train} {k a : Nat} {x : Seat} (hs : s.memOk) : (s.crpopSeat c t k a x).1.memOk := by
  unfold State.crpopSeat
  split
  next => exact hs
  next =>
    split
    next =>
      dsimp only
      split
      next => exact State.issueLate_memOk hs
      next =>
        split
        next => exact State.takeFault_memOk hs
        next => exact State.takeFault_memOk hs
        next =>
          split
          next => exact State.takeFault_memOk hs
          next => exact State.enqueue_memOk (State.openOp_memOk hs)
    next =>
      dsimp only
      split
      next => exact State.issueLate_memOk hs
      next =>
        split
        next => exact State.takeFault_memOk hs
        next => exact State.takeFault_memOk hs
        next =>
          split
          next => exact State.takeFault_memOk hs
          next => exact State.issueLate_memOk (State.popRing_memOk hs)

theorem execCrpop_memOk {a : BitVec 8} {r : BitVec 2} {s : State} (hs : s.memOk) : NextOk (execCrpop a r s) := by
  refine withTrain_memOk ?_
  intro _ _
  split
  next h1 => exact PreRes.memOk.hold h1 (State.prepare_memOk hs)
  next h1 =>
    dsimp only
    split
    next =>
      split
      next => exact State.faultAll_memOk (State.drainTrain_memOk (PreRes.memOk.go h1 (State.prepare_memOk hs)))
      next => exact State.missHold_memOk (State.drainTrain_memOk (PreRes.memOk.go h1 (State.prepare_memOk hs)))
    next =>
      refine State.retireUid_memOk ?_
      refine State.putTrain_memOk ?_
      refine State.actSeats_memOk ?_ ?_
      · exact State.drainTrain_memOk (PreRes.memOk.go h1 (State.prepare_memOk hs))
      · exact fun _ _ _ _ h3 => State.crpopSeat_memOk h3

/-! ## The copy engine at work (Machine/CopyRun.lean) -/

theorem State.takeElem_memOk {s : State} {c : Nat} {q : CopyReq} {r : ElemRes} (hs : s.memOk) (h2 : r.memOk) : (s.takeElem c q r).1.memOk := by
  unfold State.takeElem
  split
  next => exact State.elemFill_memOk h2
  next => exact hs
  next => exact State.engPage_memOk hs
  next => exact hs

theorem State.runElems_memOk {s : State} {c : Nat} {q : CopyReq} {n : Nat} (hs : s.memOk) : (s.runElems c q n).1.memOk := by
  induction n generalizing s q with
  | zero => exact hs
  | succ n ih =>
    unfold State.runElems
    split
    next h1 => exact ih (memOk_of_eq_fst h1 (State.takeElem_memOk hs (State.copyElem_memOk hs)))
    next => exact State.takeElem_memOk hs (State.copyElem_memOk hs)

theorem State.runChunk_memOk {s : State} {c : Nat} {q : CopyReq} {key : TileKey} {gen size n j : Nat} (hs : s.memOk) :
    (s.runChunk c q key gen size n j).1.memOk := by
  induction n generalizing s q j with
  | zero => exact hs
  | succ n ih =>
    unfold State.runChunk
    dsimp only
    split
    next h1 => exact ih (memOk_of_eq_fst h1 (State.takeElem_memOk hs (State.streamElem_memOk hs)))
    next => exact State.takeElem_memOk hs (State.streamElem_memOk hs)

theorem State.copyBar_memOk {s : State} {q : CopyReq} {op : BarOp} (hs : s.memOk) : (s.copyBar q op).memOk := hs

theorem State.countBytes_memOk {s : State} {q : CopyReq} {n : Nat} (hs : s.memOk) : (s.countBytes q n).memOk := by
  unfold State.countBytes
  split <;> exact hs

theorem State.copyAnswered_memOk {s : State} {c slot id code va : Nat} (hs : s.memOk) : (s.copyAnswered c slot id code va).memOk := by
  unfold State.copyAnswered
  split
  next => exact hs
  next =>
    split
    next => exact hs
    next =>
      split
      next => exact hs
      next =>
        dsimp only
        split
        next => exact hs
        next => exact State.countBytes_memOk hs

theorem State.copySend_memOk {s : State} {c : Nat} {q : CopyReq} {k : Nat} {tok : Token} (hs : s.memOk) : (s.copySend c q k tok).memOk := by
  unfold State.copySend
  split
  next => exact hs
  next => exact State.engToken_memOk hs

theorem State.copyReport_memOk {s : State} {c : Nat} {q : CopyReq} (hs : s.memOk) : (s.copyReport c q).memOk := by
  unfold State.copyReport
  extract_lets last record tok finish _ bad
  have hf {st : State} (h : st.memOk) : (finish st).memOk := by
    refine foldl_memOk ?_ (fun _ _ h => State.endOp_memOk h)
    refine State.endOp_memOk (State.updEng_memOk ?_)
    split
    next => exact State.updCluster_memOk (ite_memOk (State.copySend_memOk h) h)
    next => exact ite_memOk (State.copySend_memOk h) h
  have hbad : bad.memOk := hf (State.faultRecord_memOk hs)
  clear_value bad finish
  refine ite_memOk (ite_memOk hbad ?_) (hf hs)
  split
  next h => exact hf (RingRes.memOk.ok h (State.ringWrite_memOk hs))
  next => exact State.setCopy_memOk hs
  next => exact hbad
  next => exact State.setCopy_memOk (State.ringPage_memOk hs)

theorem State.copyEnd_memOk {s : State} {c : Nat} {q : CopyReq} (hs : s.memOk) : (s.copyEnd c q).memOk := by
  unfold State.copyEnd
  extract_lets r s1 s2 rest s3 s4 s5 _ s6
  have h1 : s1.memOk := ite_memOk hs (foldl_memOk hs (fun _ _ h => State.tileWake_memOk (State.updEng_memOk h)))
  have h2 : s2.memOk := ite_memOk (foldl_memOk h1 (fun _ _ h => State.countTile_memOk h)) h1
  have h3 : s3.memOk := State.countBytes_memOk h2
  have h4 : s4.memOk := by
    unfold s4
    split
    next => exact ite_memOk (State.copyBar_memOk h3) h3
    next => exact h3
  have h5 : s5.memOk := ite_memOk (State.copyBar_memOk h4) h4
  have h6 : s6.memOk := by
    unfold s6
    split
    next => exact ite_memOk (State.faultNow_memOk h5) h5
    next => exact h5
  exact State.copyReport_memOk h6

theorem State.copyComplete_memOk {s : State} {c slot : Nat} (hs : s.memOk) : SomeOk (s.copyComplete c slot) := by
  unfold State.copyComplete
  split
  next => trivial
  next =>
    split
    next => trivial
    next =>
      split
      next => exact State.copyEnd_memOk hs
      next =>
        split
        next => trivial
        next =>
          split
          next => exact State.copyEnd_memOk hs
          next =>
            split
            next h6 => exact State.countBytes_memOk (State.setCopy_memOk (memOk_of_eq_fst h6 (State.runElems_memOk hs)))
            next h7 =>
              dsimp only
              split
              next => exact State.countBytes_memOk (State.setCopy_memOk (memOk_of_eq_fst h7 (State.runElems_memOk hs)))
              next =>
                refine State.copyEnd_memOk ?_
                exact State.countBytes_memOk (State.setCopy_memOk (memOk_of_eq_fst h7 (State.runElems_memOk hs)))

theorem State.ringRetry_memOk {s : State} {c slot : Nat} (hs : s.memOk) : SomeOk (s.ringRetry c slot) := by
  unfold State.ringRetry
  split
  next =>
    split
    next => trivial
    next =>
      split
      next =>
        split
        next => exact State.copyReport_memOk hs
        next => trivial
      next => exact State.copyReport_memOk hs
  next => trivial

theorem State.streamEnd_memOk {s : State} {c : Nat} {q : CopyReq} (hs : s.memOk) : (s.streamEnd c q).memOk := State.copyEnd_memOk hs

theorem State.sealChunk_memOk {s : State} {c : Nat} {q : CopyReq} {key : TileKey} {h : Word} {bytes : Nat} {last : Bool} (hs : s.memOk) :
    (s.sealChunk c q key h bytes last).memOk := by
  unfold State.sealChunk
  split
  next => exact State.copySend_memOk (State.tileWake_memOk (State.countBytes_memOk hs))
  next => exact State.tileWake_memOk (State.countBytes_memOk hs)

theorem State.streamNotice_memOk {s : State} {c slot : Nat} (hs : s.memOk) : SomeOk (s.streamNotice c slot) := by
  unfold State.streamNotice
  split
  next => trivial
  next =>
    refine SomeOk.ite trivial (SomeOk.ite (State.streamEnd_memOk hs) ?_)
    split
    next => trivial
    next =>
      refine SomeOk.ite (State.streamEnd_memOk hs) ?_
      split
      next => trivial
      next =>
        dsimp only
        split
        next h => exact State.setCopy_memOk (memOk_of_eq_fst h (State.runChunk_memOk hs))
        next h => exact State.streamEnd_memOk (State.setCopy_memOk (memOk_of_eq_fst h (State.runChunk_memOk hs)))
        next h =>
          have hrun := memOk_of_eq_fst h (State.runChunk_memOk hs)
          refine SomeOk.ite (SomeOk.ite trivial (State.setCopy_memOk hrun)) ?_
          split
          next => exact State.streamEnd_memOk (State.setCopy_memOk hrun)
          next =>
            split
            next => exact SomeOk.ite (State.streamEnd_memOk (State.sealChunk_memOk hrun)) (State.sealChunk_memOk hrun)
            next => exact State.sealChunk_memOk hrun

/-! ## Class MTX (Machine/Mtx.lean) -/

theorem State.setMctx_memOk {s : State} {c i : Nat} {x : MCtx} (hs : s.memOk) : (s.setMctx c i x).memOk := hs

theorem State.releaseCtx_memOk {s : State} {c i : Nat} (hs : s.memOk) : (s.releaseCtx c i).memOk := by
  unfold State.releaseCtx
  dsimp only
  split
  next => exact hs
  next => exact State.faultNow_memOk hs

theorem withLowest_memOk {s : State} {f : Nat → Train → Seat → Host.Outcome State Fault Refusal} (hs : s.memOk)
    (hf : ∀ c t x, NextOk (f c t x)) : NextOk (withLowest s f) := by
  refine withTrain_memOk ?_
  intro _ _
  split
  next => exact hs
  next => exact hf _ _ _

theorem State.lowFault_memOk {s : State} {c : Nat} {t : Train} {x : Seat} {code detail addr : Nat} (hs : s.memOk) :
    (s.lowFault c t x code detail addr).memOk :=
  State.retireUid_memOk (State.putTrain_memOk (State.takeFault_memOk hs))

theorem State.pushCmd_memOk {s : State} {c : Nat} {t : Train} {m : MCmd} (hs : s.memOk) : (s.pushCmd c t m).memOk := by
  unfold State.pushCmd
  split <;> exact hs

theorem mtxIssue_memOk {s : State} {ctx : Nat} {feature : State → Train → Seat → Bool}
    {reason : State → Nat → Train → Seat → Option (Nat × Word)} {kind : State → Nat → Train → Seat → State × MKind} (hs : s.memOk)
    (hk : ∀ s c t x, s.memOk → (kind s c t x).1.memOk) : NextOk (mtxIssue s ctx feature reason kind) := by
  refine withLowest_memOk hs ?_
  intro _ _ _
  split
  next => exact State.lowFault_memOk hs
  next =>
    split
    next => exact State.lowFault_memOk hs
    next =>
      split
      next => exact State.lowFault_memOk hs
      next =>
        refine afterWrites_memOk hs ?_
        intro _ h4
        split
        next => exact h4
        next => exact State.retire_memOk (State.pushCmd_memOk (State.startOp_memOk (State.newOp_memOk (hk _ _ _ _ h4))))

theorem execAccst_memOk {f r : BitVec 3} {m : BitVec 2} {c l : BitVec 1} {s : State} (hs : s.memOk) : NextOk (execAccst f r m c l s) := by
  refine mtxIssue_memOk hs ?_
  intro _ _ _ _ h1
  split
  next =>
    dsimp only
    split
    next =>
      split
      next =>
        split
        next => exact State.regTiles_memOk h1
        next => exact h1
      next => exact h1
    next => exact h1
  next =>
    dsimp only
    split
    next =>
      split
      next =>
        split
        next => exact State.regTiles_memOk h1
        next => exact h1
      next => exact h1
    next => exact h1

theorem State.accrdSeats_memOk {s : State} {c : Nat} {t : Train} {targets : List Nat} {wbit : Nat} {xs : List Seat} {acc : List TileSeat}
    (hs : s.memOk) : (s.accrdSeats c t targets wbit xs acc).1.memOk := by
  induction xs generalizing s t acc with
  | nil => exact hs
  | cons x xs ih => exact ih (State.openOp_memOk hs)

theorem execAccrd_memOk {a : BitVec 8} {c l : BitVec 1} {s : State} (hs : s.memOk) : NextOk (execAccrd a c l s) := by
  refine withLowest_memOk hs ?_
  intro _ _ _
  split
  next => exact State.lowFault_memOk hs
  next =>
    split
    next h2 => exact PreRes.memOk.hold h2 (State.prepare_memOk hs)
    next h2 =>
      split
      next =>
        dsimp only
        split
        next => exact State.holdTrain_memOk (State.drainTrain_memOk (PreRes.memOk.go h2 (State.prepare_memOk hs)))
        next =>
          refine State.retireUid_memOk ?_
          refine State.putTrain_memOk ?_
          refine State.pushCmd_memOk ?_
          exact State.accrdSeats_memOk (State.drainTrain_memOk (PreRes.memOk.go h2 (State.prepare_memOk hs)))
      next =>
        dsimp only
        split
        next => exact State.holdTrain_memOk (State.drainTrain_memOk (PreRes.memOk.go h2 (State.prepare_memOk hs)))
        next =>
          refine State.retireUid_memOk ?_
          refine State.putTrain_memOk ?_
          refine State.pushCmd_memOk ?_
          exact State.accrdSeats_memOk (State.drainTrain_memOk (PreRes.memOk.go h2 (State.prepare_memOk hs)))

theorem mctxGet_memOk {s : State} {c : Nat} {t : Train} {x : Seat} {ctx : Nat} (hs : s.memOk) : (mctxGet s c t x ctx).memOk := by
  unfold mctxGet
  split
  next =>
    dsimp only
    split
    next => exact hs
    next => exact State.holdTrain_memOk (ite_memOk hs (State.pushCmd_memOk hs))
  next =>
    dsimp only
    split
    next => exact hs
    next =>
      split
      next => exact hs
      next => exact State.holdTrain_memOk (ite_memOk hs hs)

theorem mctxTry_memOk {s : State} {c : Nat} {t : Train} {x : Seat} {ctx a : Nat} (hs : s.memOk) : (mctxTry s c t x ctx a).memOk := by
  unfold mctxTry
  split
  next => exact State.retireUid_memOk (State.putTrain_memOk (State.pushCmd_memOk (State.accrdSeats_memOk hs)))
  next =>
    dsimp only
    split
    next => exact State.giveSeats_memOk hs
    next =>
      split <;> exact State.giveSeats_memOk hs

theorem mctxPut_memOk {s : State} {c : Nat} {t : Train} {x : Seat} {ctx : Nat} (hs : s.memOk) : (mctxPut s c t x ctx).memOk := by
  unfold mctxPut
  split
  next =>
    dsimp only
    split
    next => exact State.lowFault_memOk hs
    next => exact State.retire_memOk (State.pushCmd_memOk hs)
  next =>
    dsimp only
    split
    next => exact State.lowFault_memOk hs
    next => exact State.retire_memOk (ite_memOk (State.releaseCtx_memOk hs) hs)

theorem mctxAddr_memOk {s : State} {c : Nat} {t : Train} {x : Seat} {ctx a : Nat} (hs : s.memOk) : (mctxAddr s c t x ctx a).memOk := by
  unfold mctxAddr
  split
  next => exact State.retireUid_memOk (State.putTrain_memOk (State.pushCmd_memOk (State.accrdSeats_memOk hs)))
  next => exact State.giveSeats_memOk hs

theorem execMctx_memOk {a : BitVec 8} {c : BitVec 1} {t : BitVec 2} {s : State} (hs : s.memOk) : NextOk (execMctx a c t s) := by
  refine withLowest_memOk hs ?_
  intro _ _ _
  split
  next h1 => exact PreRes.memOk.hold h1 (State.prepare_memOk hs)
  next h1 =>
    split
    next => exact mctxGet_memOk (PreRes.memOk.go h1 (State.prepare_memOk hs))
    next => exact mctxTry_memOk (PreRes.memOk.go h1 (State.prepare_memOk hs))
    next => exact mctxPut_memOk (PreRes.memOk.go h1 (State.prepare_memOk hs))
    next => exact mctxAddr_memOk (PreRes.memOk.go h1 (State.prepare_memOk hs))

theorem State.mwaitReport_memOk {s : State} {c : Nat} {t : Train} {ctx a : Nat} {nf : Bool} (hs : s.memOk) : (s.mwaitReport c t ctx a nf).memOk := by
  unfold State.mwaitReport
  split
  next =>
    dsimp only
    split
    next => exact State.lowFault_memOk hs
    next => exact State.giveSeats_memOk hs
  next => exact hs

theorem execMwait_memOk {a : BitVec 8} {c n : BitVec 1} {s : State} (hs : s.memOk) : NextOk (execMwait a c n s) := by
  refine withLowest_memOk hs ?_
  intro co t0 x
  refine NextOk.ite (State.lowFault_memOk hs) ?_
  split
  next h => exact PreRes.memOk.hold h (State.prepare_memOk hs)
  next h =>
    have h0 := PreRes.memOk.go h (State.prepare_memOk hs)
    refine NextOk.ite (State.holdTrain_memOk (ite_memOk h0 (State.pushCmd_memOk h0))) ?_
    refine NextOk.ite (State.holdTrain_memOk (State.setMctx_memOk h0)) ?_
    exact State.mwaitReport_memOk (State.putTrain_memOk h0)

/-! ## The matrix engine at work (Machine/MtxRun.lean) -/

theorem State.countHandle_memOk {s : State} {c : Nat} {r : LaunchRef} {base : Word} {passed : Bool} (hs : s.memOk) :
    (s.countHandle c r base passed).memOk := by
  unfold State.countHandle
  split
  next =>
    split
    next => exact State.countTile_memOk hs
    next => exact hs
  next => exact hs

theorem State.settleCmd_memOk {s : State} {m : MCmd} (hs : s.memOk) : (s.settleCmd m).memOk := by
  unfold State.settleCmd
  split
  next => exact State.countHandle_memOk (State.countHandle_memOk hs)
  next => exact State.countHandle_memOk hs
  next =>
    split
    next => exact hs
    next =>
      dsimp only
      split
      next => exact State.tileWake_memOk hs
      next => exact hs
  next => exact hs

theorem State.popCmd_memOk {s : State} {c ctx : Nat} {m : MCmd} (hs : s.memOk) : (s.popCmd c ctx m).memOk :=
  State.endOp_memOk (State.updEng_memOk (State.settleCmd_memOk hs))

theorem State.cmdDone_memOk {s : State} {c ctx : Nat} {m : MCmd} (hs : s.memOk) : (s.cmdDone c ctx m).memOk := State.popCmd_memOk hs

theorem State.cmdFailed_memOk {s : State} {c ctx : Nat} {m : MCmd} {code addr : Nat} (hs : s.memOk) : (s.cmdFailed c ctx m code addr).memOk :=
  State.popCmd_memOk hs

theorem State.cmdBlocked_memOk {s : State} {c ctx : Nat} {m : MCmd} {write : Bool} {g : EGet} (hs : s.memOk) :
    (s.cmdBlocked c ctx m write g).memOk := by
  unfold State.cmdBlocked
  split
  next => exact hs
  next => exact State.cmdFailed_memOk hs
  next => exact State.setMctx_memOk (State.engPage_memOk hs)
  next => exact hs

theorem State.mmaStep_memOk {s : State} {c ctx : Nat} {m : MCmd} {ty kc mc tile : Nat} {a b st : Word} {e : Option MExt} (hs : s.memOk) :
    (s.mmaStep c ctx m ty kc mc tile a b st e).memOk := by
  unfold State.mmaStep
  dsimp only
  split
  next => exact State.cmdFailed_memOk hs
  next =>
    split
    next => exact State.cmdBlocked_memOk hs
    next =>
      split
      next =>
        split
        next => exact State.cmdDone_memOk (State.setMctx_memOk (State.tlbFill_memOk hs))
        next => exact State.setMctx_memOk (State.tlbFill_memOk hs)
      next =>
        split
        next => exact State.cmdDone_memOk (State.setMctx_memOk (State.tlbFill_memOk hs))
        next => exact State.setMctx_memOk (State.tlbFill_memOk hs)

theorem State.accldStep_memOk {s : State} {c ctx : Nat} {m : MCmd} {tile mc : Nat} {base : Word} {stride : Nat} (hs : s.memOk) :
    (s.accldStep c ctx m tile mc base stride).memOk := by
  unfold State.accldStep
  split
  next =>
    dsimp only
    split
    next => exact State.cmdBlocked_memOk hs
    next =>
      split
      next => exact State.cmdDone_memOk (State.setMctx_memOk (State.tlbFill_memOk hs))
      next => exact State.setMctx_memOk (State.setMctx_memOk (State.tlbFill_memOk hs))
  next =>
    dsimp only
    split
    next => exact State.cmdBlocked_memOk hs
    next =>
      split
      next => exact State.cmdDone_memOk (State.setMctx_memOk (State.tlbFill_memOk hs))
      next => exact State.setMctx_memOk (State.setMctx_memOk (State.tlbFill_memOk hs))

theorem State.writeRows_memOk {s : State} {c unit asid : Nat} {r : LaunchRef} {base : Word} {rows : List (Nat × List Byte)} (hs : s.memOk) :
    ValueOk (s.writeRows c unit asid r base rows) := by
  unfold State.writeRows
  split
  next =>
    split
    next => trivial
    next =>
      split
      next => exact foldl_memOk hs (fun _ _ h4 => State.tileWrite_memOk h4)
      next => trivial
      next => trivial
  next =>
    dsimp only
    split
    next => trivial
    next =>
      refine foldl_memOk hs ?_
      intro _ _ h3
      split
      next h4 => exact EPut.memOk.ok h4 (State.engWrite_memOk h3)
      next => exact h3

theorem State.accstStep_memOk {s : State} {c ctx : Nat} {m : MCmd} {tile mc ofmt rm : Nat} {satp : Bool} {base : Word} {stride : Nat} (hs : s.memOk) :
    (s.accstStep c ctx m tile mc ofmt rm satp base stride).memOk := by
  unfold State.accstStep
  extract_lets x m1 s1
  have h1 : s1.memOk := State.setMctx_memOk hs
  refine ite_memOk (State.cmdDone_memOk h1) (ite_memOk (State.cmdFailed_memOk h1) ?_)
  split
  next => exact State.cmdBlocked_memOk h1
  next h =>
    have h2 := ValueOk.ok h (State.writeRows_memOk h1)
    refine ite_memOk (State.cmdDone_memOk ?_) ?_
    · exact State.setMctx_memOk (State.tlbFill_memOk h2)
    · exact State.setMctx_memOk (State.tlbFill_memOk h2)

theorem State.accrdStep_memOk {s : State} {c ctx : Nat} {m : MCmd} {tile : Nat} {seats : List (TileSeat × Nat)} (hs : s.memOk) :
    (s.accrdStep c ctx m tile seats).memOk := by
  refine State.popCmd_memOk ?_
  exact ite_memOk (State.setMctx_memOk (foldl_memOk hs (fun _ _ h1 => h1))) (foldl_memOk hs (fun _ _ h1 => h1))

theorem State.runStep_memOk {s : State} {c ctx : Nat} {m0 : MCmd} (hs : s.memOk) : (s.runStep c ctx m0).memOk := by
  unfold State.runStep
  split
  next =>
    dsimp only
    split
    next => exact State.popCmd_memOk hs
    next => exact State.cmdFailed_memOk hs
  next =>
    dsimp only
    split
    next => exact State.popCmd_memOk hs
    next =>
      split
      next => exact State.cmdFailed_memOk hs
      next =>
        split
        next => exact State.mmaStep_memOk hs
        next => exact State.cmdDone_memOk hs
        next => exact State.accldStep_memOk hs
        next => exact State.accstStep_memOk hs
        next => exact State.accrdStep_memOk hs
        next => exact State.popCmd_memOk hs

theorem State.tileStep_memOk {s : State} {p : Nat} (hs : s.memOk) : SomeOk (s.tileStep p) := by
  unfold State.tileStep
  split
  next => trivial
  next => exact State.setPair_memOk (State.runStep_memOk hs)

theorem State.serveClaim_memOk {s : State} {p i : Nat} (hs : s.memOk) : SomeOk (s.serveClaim p i) := by
  unfold State.serveClaim
  dsimp only
  split
  next =>
    split <;> exact hs
  next => trivial

theorem State.serveRelease_memOk {s : State} {p i : Nat} (hs : s.memOk) : SomeOk (s.serveRelease p i) := by
  unfold State.serveRelease
  dsimp only
  split
  next => exact State.releaseCtx_memOk hs
  next => trivial

theorem State.drainCtx_memOk {s : State} {c i n : Nat} (hs : s.memOk) : (s.drainCtx c i n).memOk := by
  induction n generalizing s with
  | zero => exact hs
  | succ n ih =>
    unfold State.drainCtx
    split
    next => exact ih (State.runStep_memOk hs)
    next => exact hs

theorem State.boundaryCmd_memOk {s : State} {c : Nat} {m : MCmd} (hs : s.memOk) : (s.boundaryCmd c m).memOk := by
  unfold State.boundaryCmd
  extract_lets x land _
  refine ite_memOk ?_ ?_
  · split
    next => exact hs
    next => exact State.lateFault_memOk hs
  · have hland {st : State} {seats : List TileSeat} {v : Word} (h : st.memOk) : (land st seats v).memOk :=
      foldl_memOk h (fun _ _ h => State.landTile_memOk h)
    clear_value land
    generalize m.kind = kind
    cases kind with
    | claim => exact ite_memOk hs (ite_memOk (State.setMctx_memOk hs) (State.setMctx_memOk hs))
    | tryClaim => exact ite_memOk (hland hs) (ite_memOk (hland (State.setMctx_memOk hs)) (hland hs))
    | put => exact SomeOk.getD (State.serveClaim_memOk (State.releaseCtx_memOk hs)) (State.releaseCtx_memOk hs)
    | addr => exact hland hs
    | wait =>
      dsimp only
      split
      next => exact State.mwaitReport_memOk hs
      next => exact hs
    | _ => exact State.drainCtx_memOk (State.setMctx_memOk hs)

/-! ## Class BANK and the bank engines (Machine/Bank.lean) -/

theorem State.setBank_memOk {s : State} {c : Nat} {b : BankOp} (hs : s.memOk) : (s.setBank c b).memOk := hs

theorem State.bankSeat_memOk {s : State} {c : Nat} {t : Train} {red : Bool} {a : Nat} {x : Seat} (hs : s.memOk) :
    (s.bankSeat c t red a x).1.memOk := by
  unfold State.bankSeat
  extract_lets w
  generalize s.spAccess c t.launch w 64 = access
  obtain _ | ⟨k, off⟩ := access
  · exact State.takeFault_memOk hs
  · dsimp only
    generalize s.winGet c t k off 64 = got
    obtain _ | bs := got
    · exact State.takeFault_memOk hs
    · refine ite_fst_memOk (State.takeFault_memOk hs) (ite_fst_memOk (State.takeFault_memOk hs) ?_)
      split
      next => exact hs
      next => exact State.giveSeat_memOk (State.updEng_memOk (State.draw_memOk (State.startOp_memOk (State.newOp_memOk hs))))

theorem bankInstr_memOk {s : State} {red : Bool} {a : Nat} (hs : s.memOk) : NextOk (bankInstr s red a) := by
  refine withTrain_memOk ?_
  intro _ _
  split
  next h1 => exact PreRes.memOk.hold h1 (State.prepare_memOk hs)
  next h1 =>
    refine afterWrites_memOk (PreRes.memOk.go h1 (State.prepare_memOk hs)) ?_
    intro _ h2
    split
    next => exact h2
    next =>
      refine State.retireUid_memOk ?_
      exact State.putTrain_memOk (State.actSeats_memOk h2 (fun _ _ _ _ h4 => State.bankSeat_memOk h4))

theorem State.bwaitSeat_memOk {s : State} {c : Nat} {t : Train} {nf : Bool} {a : Nat} {x : Seat} (hs : s.memOk) :
    (s.bwaitSeat c t nf a x).1.memOk := by
  unfold State.bwaitSeat
  split
  next => exact State.giveSeat_memOk hs
  next =>
    split
    next =>
      split
      next => exact State.giveSeat_memOk hs
      next => exact State.takeFault_memOk hs
    next => exact State.giveSeat_memOk hs

theorem execBwait_memOk {a : BitVec 8} {n : BitVec 1} {s : State} (hs : s.memOk) : NextOk (execBwait a n s) := by
  refine withTrain_memOk ?_
  intro _ _
  split
  next h1 => exact PreRes.memOk.hold h1 (State.prepare_memOk hs)
  next h1 =>
    dsimp only
    split
    next => exact State.holdTrain_memOk (PreRes.memOk.go h1 (State.prepare_memOk hs))
    next =>
      refine State.retireUid_memOk ?_
      refine State.putTrain_memOk ?_
      refine State.actSeats_memOk ?_ ?_
      · exact PreRes.memOk.go h1 (State.prepare_memOk hs)
      · exact fun _ _ _ _ h3 => State.bwaitSeat_memOk h3

theorem State.bankWrite_memOk {s : State} {c asid va v : Nat} (hs : s.memOk) : ValueOk (s.bankWrite c asid va v) := by
  unfold State.bankWrite
  split
  next => trivial
  next => trivial
  next =>
    split
    next => trivial
    next => exact State.mk_memOk (Memory.writeNat_wf hs)

theorem State.bankRow_memOk {s : State} {c : Nat} {b : BankOp} {res : Except EGet (Nat × Bool)} (hs : s.memOk) : (s.bankRow c b res).1.memOk := by
  unfold State.bankRow
  split
  next =>
    dsimp only
    split
    next => exact hs
    next => exact State.engPage_memOk hs
    next => exact hs
  next =>
    split
    next =>
      dsimp only
      split
      next => exact hs
      next => exact State.engPage_memOk hs
      next => exact hs
    next h1 => exact ValueOk.ok h1 (State.bankWrite_memOk hs)

theorem State.bankRun_memOk {s : State} {c : Nat} {b : BankOp} {x : Option BankX} {n : Nat} (hs : s.memOk) : (s.bankRun c b x n).1.memOk := by
  induction n generalizing s b with
  | zero => exact hs
  | succ n ih =>
    unfold State.bankRun
    split
    next =>
      dsimp only
      split
      next h1 => exact ih (memOk_of_eq_fst h1 (State.bankRow_memOk hs))
      next => exact State.bankRow_memOk hs
    next =>
      dsimp only
      split
      next h1 => exact ih (memOk_of_eq_fst h1 (State.bankRow_memOk hs))
      next => exact State.bankRow_memOk hs

theorem State.bankCollect_memOk {s : State} {c : Nat} {b : BankOp} (hs : s.memOk) : (s.bankCollect c b).memOk := by
  unfold State.bankCollect
  split
  next => exact State.faultNow_memOk hs
  next => exact hs

theorem State.bankComplete_memOk {s : State} {c slot : Nat} (hs : s.memOk) : SomeOk (s.bankComplete c slot) := by
  unfold State.bankComplete
  split
  next => trivial
  next =>
    extract_lets finish
    have hf {r : State × BankOp × RunEnd} (h : r.1.memOk) : (finish r).memOk :=
      ite_memOk (State.endOp_memOk (State.setBank_memOk h)) (State.setBank_memOk h)
    clear_value finish
    refine SomeOk.ite (SomeOk.ite (State.bankCollect_memOk hs) trivial) (SomeOk.ite trivial ?_)
    refine SomeOk.ite (hf hs) (SomeOk.ite (hf (State.bankRun_memOk hs)) ?_)
    split
    next => exact hf (State.bankRun_memOk hs)
    next => exact hf hs
    next => exact hf (State.engPage_memOk hs)
    next => trivial

/-! ## Class CARRY (Machine/Carry.lean) -/

theorem State.raiseSeats_memOk {s : State} {c : Nat} {t : Train} {fs : List SeatFault} (hs : s.memOk) : (s.raiseSeats c t fs).1.memOk :=
  foldl_fst_memOk hs (fun _ _ h1 => State.takeFault_memOk h1)

theorem State.eachSeat_memOk {s : State} {c : Nat} {t : Train} {f : State → Seat → SeatRes} {xs : List Seat} {outs : List (Seat × LaneOut)}
    {ms : List (Option Nat)} {fs : List SeatFault} (hs : s.memOk) (hf : ∀ s x, s.memOk → (f s x).memOk) :
    (s.eachSeat c t f xs outs ms fs).1.memOk := by
  induction xs generalizing s outs ms fs with
  | nil => exact State.raiseSeats_memOk hs
  | cons x xs ih =>
    unfold State.eachSeat
    split
    next h1 => exact ih (SeatRes.memOk.done h1 (hf _ _ hs))
    next => exact ih hs
    next => exact ih hs
    next => exact ih hs

theorem State.carryHold_memOk {s : State} {c : Nat} {t : Train} {ms : List (Option Nat)} (hs : s.memOk) : (s.carryHold c t ms).memOk := by
  unfold State.carryHold
  dsimp only
  split
  next => exact hs
  next => exact State.missHold_memOk hs

theorem State.gldxSeat_memOk {s : State} {c : Nat} {t : Train} {x : Seat} {g : Nat} {targets : List Nat} (hs : s.memOk) :
    (s.gldxSeat c t x g targets).1.memOk := by
  unfold State.gldxSeat
  split
  next => exact State.issueLate_memOk (State.setPrepared_memOk hs)
  next => exact foldl_memOk hs (fun _ _ h2 => State.pendReg_memOk h2)

theorem execGldx_memOk {a b : BitVec 8} {s : State} (hs : s.memOk) : NextOk (execGldx a b s) := by
  refine withTrain_memOk ?_
  intro _ _
  split
  next h1 => exact PreRes.memOk.hold h1 (State.prepare_memOk hs)
  next h1 =>
    refine State.retireUid_memOk ?_
    refine State.putTrain_memOk ?_
    refine foldl_fst_memOk ?_ ?_
    · refine State.eachSeat_memOk (PreRes.memOk.go h1 (State.prepare_memOk hs)) ?_
      intro _ _ h2
      split
      next => trivial
      next =>
        split
        next => trivial
        next => trivial
        next => exact h2
    · intro _ _ h2
      split
      next => exact State.gldxSeat_memOk h2
      next => exact h2

theorem indexedWrite_memOk {c : Nat} {t : Train} {w : State → Seat → Nat → State} {s : State} {x : Seat} (hs : s.memOk)
    (hw : ∀ s x g, s.memOk → (w s x g).memOk) : (indexedWrite c t w s x).memOk := by
  unfold indexedWrite
  split
  next => trivial
  next =>
    split
    next => trivial
    next => trivial
    next => trivial
    next => exact hw _ _ _ (State.setPrepared_memOk hs)

theorem writeInstr_memOk {s : State} {f : Nat → Train → State → Seat → SeatRes} (hs : s.memOk)
    (hf : ∀ c t s x, s.memOk → (f c t s x).memOk) : NextOk (writeInstr s f) := by
  refine withTrain_memOk ?_
  intro _ _
  dsimp only
  split
  next => exact State.retireUid_memOk (State.putTrain_memOk (State.eachSeat_memOk hs (fun _ _ h2 => hf _ _ _ _ h2)))
  next => exact State.carryHold_memOk hs

theorem State.emptyReg_memOk {s : State} {c : Nat} {t : Train} {h g : Nat} (hs : s.memOk) : (s.emptyReg c t h g).memOk := by
  unfold State.emptyReg
  split
  next => exact hs
  next => exact State.noteWrite_memOk hs

theorem execGtest_memOk {a b : BitVec 8} {s : State} (hs : s.memOk) : NextOk (execGtest a b s) := by
  refine withTrain_memOk ?_
  intro _ _
  split
  next h1 => exact PreRes.memOk.hold h1 (State.prepare_memOk hs)
  next h1 =>
    refine State.finishLanes_memOk ?_
    refine State.eachSeat_memOk (PreRes.memOk.go h1 (State.prepare_memOk hs)) ?_
    intro _ _ h2
    split
    next => trivial
    next => exact h2

theorem State.rcpsetFrame_memOk {s : State} {c : Nat} {t : Train} {rcp g h : Nat} (hs : s.memOk) : (s.rcpsetFrame c t rcp g h).memOk := by
  unfold State.rcpsetFrame
  extract_lets f body srcs mode
  clear_value body
  split
  next => trivial
  next =>
    split
    next => trivial
    next =>
      split
      next => trivial
      next =>
        split
        next => trivial
        next =>
          split
          next => trivial
          next =>
            split
            next => trivial
            next =>
              split
              next => trivial
              next => trivial
              next => trivial
              next =>
                generalize s.prepWrite c h t.failed f g true = prep
                cases prep with
                | ok => exact State.issueWrite_memOk (State.setPrepared_memOk hs)
                | _ => trivial

theorem State.eachFrame_memOk {s : State} {c : Nat} {t : Train} {f : State → Nat → FrameRes} {hs' : List Nat} {outs : List (Nat × LaneOut)}
    {fs : List SeatFault} (hs : s.memOk) (hf : ∀ s h, s.memOk → (f s h).memOk) : ValueFstOk (s.eachFrame c t f hs' outs fs) := by
  induction hs' generalizing s outs fs with
  | nil => exact State.raiseSeats_memOk hs
  | cons x xs ih =>
    unfold State.eachFrame
    split
    next h1 => exact ih (FrameRes.memOk.done h1 (hf _ _ hs))
    next => exact ih hs
    next => trivial
    next => trivial

theorem frameInstr_memOk {s : State} {f : Nat → Train → State → Nat → FrameRes} {fin : Nat → State → Train → List (Nat × LaneOut) → State}
    (hs : s.memOk) (hf : ∀ c t s h, s.memOk → (f c t s h).memOk) (hfin : ∀ c s t outs, s.memOk → (fin c s t outs).memOk) :
    NextOk (frameInstr s f fin) := by
  refine withTrain_memOk ?_
  intro _ _
  split
  next h1 => exact PreRes.memOk.hold h1 (State.prepare_memOk hs)
  next h1 =>
    split
    next => exact State.missHold_memOk (PreRes.memOk.go h1 (State.prepare_memOk hs))
    next => exact State.holdTrain_memOk (PreRes.memOk.go h1 (State.prepare_memOk hs))
    next h2 =>
      refine hfin _ _ _ _ ?_
      exact ValueFstOk.ok h2 (State.eachFrame_memOk (PreRes.memOk.go h1 (State.prepare_memOk hs)) (fun _ _ h3 => hf _ _ _ _ h3))

theorem execRcpset_memOk {a rcp : BitVec 8} {g : BitVec 7} {s : State} (hs : s.memOk) : NextOk (execRcpset a rcp g s) := by
  refine frameInstr_memOk hs ?_ ?_
  · exact fun _ _ _ _ h1 => State.rcpsetFrame_memOk h1
  · exact fun _ _ _ _ h1 => State.issueLates_memOk h1

theorem execRcpdrop_memOk {g : BitVec 7} {s : State} (hs : s.memOk) : NextOk (execRcpdrop g s) := by
  refine frameInstr_memOk hs ?_ (fun _ _ _ _ h1 => State.retireUid_memOk h1)
  intro _ _ _ _ h1
  dsimp only
  split
  next => trivial
  next => exact h1

theorem execRcpclr_memOk {g : BitVec 7} {s : State} (hs : s.memOk) : NextOk (execRcpclr g s) := by
  refine frameInstr_memOk hs ?_ (fun _ _ _ _ h1 => State.retireUid_memOk h1)
  intro _ _ _ _ h1
  dsimp only
  split
  next => trivial
  next =>
    split
    next => exact h1
    next =>
      split
      next => trivial
      next => trivial
      next => trivial
      next =>
        split
        next => exact State.setPrepared_memOk h1
        next =>
          split
          next => trivial
          next => trivial
          next => trivial
          next => exact State.setPrepared_memOk h1

/-! ## The fabric's records and their checks, its arithmetic on elements, token delivery, and the end of a job (Machine/FabOps.lean) -/

theorem State.updFab_memOk {s : State} {cl : Nat} {f : Fabric → Fabric} (hs : s.memOk) : (s.updFab cl f).memOk := hs

theorem State.setFCard_memOk {s : State} {cl : Nat} {k : FCard} (hs : s.memOk) : (s.setFCard cl k).memOk := hs

theorem State.setFCtx_memOk {s : State} {cl n : Nat} {x : FCtx} (hs : s.memOk) : (s.setFCtx cl n x).memOk := hs

theorem State.dropEng_memOk {s : State} {c : Nat} {r : LaunchRef} {g : FEng} (hs : s.memOk) : (s.dropEng c r g).memOk := by
  unfold State.dropEng
  split
  next =>
    split
    next =>
      dsimp only
      split
      next => exact State.countTile_memOk hs
      next => exact hs
      next => exact hs
    next =>
      dsimp only
      split
      next => exact State.countTile_memOk hs
      next => exact State.tileWake_memOk hs
      next => exact hs
  next =>
    split
    next =>
      dsimp only
      split <;> exact hs
    next =>
      dsimp only
      split
      next => exact hs
      next => exact State.tileWake_memOk hs
      next => exact hs

theorem State.endJob_memOk {s : State} {cl : Nat} {k : FCard} {e : FEnd} (hs : s.memOk) : (s.endJob cl k e).memOk := by
  unfold State.endJob
  split
  next => exact hs
  next => exact State.updFab_memOk (foldl_memOk hs (fun _ _ h2 => State.dropEng_memOk h2))

theorem State.fabPage_memOk {s : State} {cl : Nat} {k : FCard} {x : FCtx} {va kind : Nat} (hs : s.memOk) : (s.fabPage cl k x va kind).memOk := by
  unfold State.fabPage
  dsimp only
  split
  next => trivial
  next =>
    split
    next => trivial
    next => exact State.setFCtx_memOk (State.engPage_memOk hs)

theorem State.fabRead_memOk {s : State} {cl : Nat} {k : FCard} {x : FCtx} {va n : Nat} (hs : s.memOk) : (s.fabRead cl k x va n).memOk := by
  unfold State.fabRead
  split
  next => trivial
  next => trivial
  next => exact State.fabPage_memOk hs
  next => trivial

/-! ## Class FAB and the commands of a fabric command list (Machine/Fab.lean) -/

theorem State.postCard_memOk {s : State} {c : Nat} {r : LaunchRef} {asid prog k : Nat} {mk : Nat → List Nat → Nat → Nat → FCard} {copy : Bool}
    (hs : s.memOk) :
    ValueFstOk (s.postCard c r asid prog k mk copy) := by
  unfold State.postCard
  dsimp only
  split
  next =>
    split
    next => trivial
    next => exact hs
  next =>
    split <;> trivial

theorem State.fjobSeat_memOk {s : State} {c : Nat} {t : Train} {a : Nat} {x : Seat} (hs : s.memOk) : (s.fjobSeat c t a x).1.memOk := by
  have hn : (s.newOp c).2.memOk := State.newOp_memOk hs
  unfold State.fjobSeat
  split
  next => exact State.takeFault_memOk hs
  next => exact hs
  next pa _ _ =>
    generalize s.newOp c = n at hn
    generalize s.mem.readNat pa 128 = card
    dsimp only
    split
    next => exact State.takeFault_memOk hs
    next s1 v h =>
      have hp := ValueFstOk.ok h (State.postCard_memOk (State.startOp_memOk hn))
      exact State.giveSeat_memOk hp

theorem State.fjobSeats_memOk {s : State} {c a : Nat} {t : Train} {xs : List Seat} (hs : s.memOk) : (s.fjobSeats c a t xs).1.memOk := by
  induction xs generalizing s t with
  | nil => exact hs
  | cons x xs ih =>
    unfold State.fjobSeats
    split
    next =>
      split
      next => exact ih (State.fjobSeat_memOk hs)
      next => exact hs
    next =>
      split
      next => exact ih (State.fjobSeat_memOk hs)
      next => exact hs

theorem State.fjobLater_memOk {s : State} {c : Nat} {t : Train} {a : Nat} {x : Seat} (hs : s.memOk) : (s.fjobLater c t a x).1.memOk := by
  unfold State.fjobLater
  split
  next => exact State.takeFault_memOk hs
  next => exact State.updEng_memOk (foldl_memOk hs (fun _ _ h2 => State.pendReg_memOk h2))

theorem execFjob_memOk {a : BitVec 8} {s : State} (hs : s.memOk) : NextOk (execFjob a s) := by
  refine withTrain_memOk ?_
  intro _ _
  split
  next h1 => exact PreRes.memOk.hold h1 (State.prepare_memOk hs)
  next h1 =>
    dsimp only
    split
    next => exact State.missHold_memOk (PreRes.memOk.go h1 (State.prepare_memOk hs))
    next =>
      refine afterWrites_memOk (PreRes.memOk.go h1 (State.prepare_memOk hs)) ?_
      intro _ h3
      split
      next =>
        refine State.retireUid_memOk ?_
        exact State.putTrain_memOk (State.actSeats_memOk h3 (fun _ _ _ _ h5 => State.fjobLater_memOk h5))
      next =>
        split
        next => exact State.missHold_memOk h3
        next =>
          split
          next h6 => exact State.retireUid_memOk (State.putTrain_memOk (memOk_of_eq_fst h6 (State.fjobSeats_memOk h3)))
          next h6 => exact State.holdTrain_memOk (State.putTrain_memOk (memOk_of_eq_fst h6 (State.fjobSeats_memOk h3)))

theorem State.fwaitSeat_memOk {s : State} {c : Nat} {t : Train} {nf : Bool} {a : Nat} {x : Seat} (hs : s.memOk) :
    (s.fwaitSeat c t nf a x).1.memOk := by
  unfold State.fwaitSeat
  split
  next => exact State.giveSeat_memOk hs
  next =>
    split
    next => exact State.takeFault_memOk hs
    next => exact State.giveSeat_memOk hs

theorem State.fwaitLater_memOk {s : State} {c : Nat} {t : Train} {nf : Bool} {a : Nat} (hs : s.memOk) : (s.fwaitLater c t nf a).memOk := by
  refine State.holdTrain_memOk ?_
  split
  next =>
    split <;> exact hs
  next => exact hs

theorem execFwait_memOk {a : BitVec 8} {n : BitVec 1} {s : State} (hs : s.memOk) : NextOk (execFwait a n s) := by
  refine withTrain_memOk ?_
  intro _ _
  split
  next h1 => exact PreRes.memOk.hold h1 (State.prepare_memOk hs)
  next h1 =>
    split
    next => exact State.fwaitLater_memOk (PreRes.memOk.go h1 (State.prepare_memOk hs))
    next =>
      split
      next => exact State.holdTrain_memOk (PreRes.memOk.go h1 (State.prepare_memOk hs))
      next =>
        refine State.retireUid_memOk ?_
        refine State.putTrain_memOk ?_
        refine State.actSeats_memOk ?_ ?_
        · exact PreRes.memOk.go h1 (State.prepare_memOk hs)
        · exact fun _ _ _ _ h4 => State.fwaitSeat_memOk h4

theorem State.cancelJob_memOk {s : State} {cl : Nat} {k : FCard} (hs : s.memOk) : (s.cancelJob cl k).memOk := by
  unfold State.cancelJob
  split
  next => exact hs
  next => exact State.endJob_memOk hs
  next => exact hs
  next => exact hs
  next => exact hs

theorem State.cancelFor_memOk {s : State} {c : Nat} {r : LaunchRef} {w : Word} {opId : Nat} (hs : s.memOk) : (s.cancelFor c r w opId).memOk := by
  unfold State.cancelFor
  split
  next =>
    split
    next => exact hs
    next => exact State.cancelJob_memOk hs
  next => exact hs

theorem execFcan_memOk {s : State} (hs : s.memOk) : NextOk (execFcan s) := by
  refine withTrain_memOk ?_
  intro _ _
  split
  next => exact hs
  next =>
    split
    next => exact hs
    next => exact State.retireUid_memOk (State.cancelFor_memOk hs)

theorem State.portFault_memOk {s : State} {c : Nat} {t : Train} {e : Nat} (hs : s.memOk) : (s.portFault c t e).memOk := by
  unfold State.portFault
  split
  next => exact hs
  next => exact State.retire_memOk (State.takeFault_memOk hs)

theorem State.injectToks_memOk {s : State} {cl ctx e : Nat} {ks : List FTok} {n : Nat} (hs : s.memOk) :
    (s.injectToks cl ctx e ks n).1.memOk := by
  induction ks generalizing s n with
  | nil => exact hs
  | cons k ks ih =>
    unfold State.injectToks
    split
    next => exact hs
    next =>
      split
      next => exact hs
      next =>
        split
        next => exact ih hs
        next => exact hs

theorem execFpush_memOk {e : BitVec 1} {n : BitVec 4} {s : State} (hs : s.memOk) : NextOk (execFpush e n s) := by
  refine withTrain_memOk ?_
  intro _ _
  split
  next => exact hs
  next =>
    split
    next =>
      dsimp only
      split
      next => exact State.portFault_memOk hs
      next => exact hs
    next =>
      dsimp only
      split
      next => exact State.portFault_memOk hs
      next =>
        split
        next => exact State.retire_memOk (State.injectToks_memOk hs)
        next => exact State.holdTrain_memOk (State.injectToks_memOk hs)

theorem State.takePort_memOk {s : State} {cl ctx e : Nat} (hs : s.memOk) : SomeSndOk (s.takePort cl ctx e) := by
  unfold State.takePort
  split
  next => trivial
  next =>
    split
    next => trivial
    next =>
      split
      next => trivial
      next => exact hs

theorem State.pullGroups_memOk {s : State} {c cl ctx e a : Nat} {t : Train} {gs : List Nat} (hs : s.memOk) :
    (s.pullGroups c cl ctx e a t gs).1.memOk := by
  induction gs generalizing s t with
  | nil => exact hs
  | cons g gs ih =>
    unfold State.pullGroups
    split
    next => exact hs
    next h1 => exact ih (foldl_fst_memOk (SomeSndOk.some h1 (State.takePort_memOk hs)) (fun _ _ h2 => State.issueLate_memOk h2))

theorem State.pullLater_memOk {s : State} {c cl slot e a : Nat} {x0 : Seat} {t : Train} {g : Nat} (hs : s.memOk) :
    (s.pullLater c cl slot e a x0 t g).1.memOk :=
  State.updEng_memOk (foldl_fst_memOk hs (fun _ _ h1 => foldl_memOk h1 (fun _ _ h2 => State.pendReg_memOk h2)))

theorem execFpull_memOk {a : BitVec 8} {n : BitVec 4} {s : State} (hs : s.memOk) : NextOk (execFpull a n s) := by
  refine withTrain_memOk ?_
  intro _ _
  split
  next h1 => exact PreRes.memOk.hold h1 (State.prepare_memOk hs)
  next h1 =>
    split
    next => exact State.retire_memOk (PreRes.memOk.go h1 (State.prepare_memOk hs))
    next =>
      split
      next => exact State.portFault_memOk (PreRes.memOk.go h1 (State.prepare_memOk hs))
      next =>
        split
        next =>
          refine State.retireUid_memOk ?_
          refine State.putTrain_memOk ?_
          exact foldl_fst_memOk (PreRes.memOk.go h1 (State.prepare_memOk hs)) (fun _ _ h5 => State.pullLater_memOk h5)
        next =>
          dsimp only
          split
          next h5 =>
            refine State.retireUid_memOk ?_
            refine State.putTrain_memOk ?_
            exact memOk_of_eq_fst h5 (State.pullGroups_memOk (PreRes.memOk.go h1 (State.prepare_memOk hs)))
          next h5 =>
            refine State.holdTrain_memOk ?_
            refine State.putTrain_memOk ?_
            exact memOk_of_eq_fst h5 (State.pullGroups_memOk (PreRes.memOk.go h1 (State.prepare_memOk hs)))

theorem withJob_memOk {s : State} {f : Nat → FCard → FCtx → Option State} (hs : s.memOk) (hf : ∀ cl k x, SomeOk (f cl k x)) :
    NextOk (withJob s f) := by
  unfold withJob
  split
  next => exact SomeOk.getD (hf _ _ _) hs
  next => trivial

theorem State.withRead_memOk {s : State} {cl : Nat} {k : FCard} {x : FCtx} {va n e : Nat} {f : List Byte → Option State} (hs : s.memOk)
    (hf : ∀ bs, SomeOk (f bs)) : SomeOk (s.withRead cl k x va n e f) := by
  unfold State.withRead
  split
  next => exact hf _
  next => exact State.endJob_memOk hs
  next h1 => exact FGet.memOk.wait h1 (State.fabRead_memOk hs)
  next => trivial

theorem State.doScfg_memOk {s : State} {cl : Nat} {k : FCard} {x : FCtx} (hs : s.memOk) : SomeOk (s.doScfg cl k x) := by
  unfold State.doScfg
  split
  next => trivial
  next =>
    dsimp only
    split
    next => exact State.endJob_memOk hs
    next =>
      refine State.withRead_memOk hs ?_
      intro _
      split
      next => exact State.endJob_memOk hs
      next =>
        refine State.withRead_memOk hs ?_
        intro _
        split
        next => exact State.endJob_memOk hs
        next => exact hs

theorem State.bindEng_memOk {s : State} {cl : Nat} {k : FCard} {x : FCtx} {e : Nat} {g : FEng} (hs : s.memOk) : (s.bindEng cl k x e g).memOk := by
  unfold State.bindEng
  dsimp only
  split
  next =>
    split
    next =>
      refine State.setFCtx_memOk ?_
      refine State.updEng_memOk ?_
      refine State.updEng_memOk ?_
      split
      next => exact State.dropEng_memOk hs
      next => exact hs
    next =>
      refine State.endJob_memOk ?_
      split
      next => exact State.dropEng_memOk hs
      next => exact hs
    next =>
      refine State.endJob_memOk ?_
      split
      next => exact State.dropEng_memOk hs
      next => exact hs
  next =>
    refine State.setFCtx_memOk ?_
    split
    next => exact State.dropEng_memOk hs
    next => exact hs

theorem State.doSbind_memOk {s : State} {cl : Nat} {k : FCard} {x : FCtx} {e : Nat} (hs : s.memOk) : SomeOk (s.doSbind cl k x e) := by
  unfold State.doSbind
  split
  next => trivial
  next =>
    dsimp only
    split
    next => exact State.endJob_memOk hs
    next =>
      refine State.withRead_memOk hs ?_
      intro _
      split
      next => exact State.endJob_memOk hs
      next =>
        refine State.withRead_memOk hs ?_
        intro _
        split
        next => exact State.endJob_memOk hs
        next => exact State.bindEng_memOk hs

theorem State.doSgo_memOk {s : State} {cl : Nat} {k : FCard} {x : FCtx} {m : Nat} (hs : s.memOk) : SomeOk (s.doSgo cl k x m) := by
  unfold State.doSgo
  split
  next => trivial
  next =>
    split
    next => exact State.endJob_memOk hs
    next => exact hs

theorem State.doSbar_memOk {s : State} {cl : Nat} {k : FCard} {x : FCtx} {m : Nat} (hs : s.memOk) : SomeOk (s.doSbar cl k x m) := by
  unfold State.doSbar
  dsimp only
  split
  next => exact State.endJob_memOk hs
  next =>
    split
    next => trivial
    next => exact hs

theorem State.doSdone_memOk {s : State} {cl : Nat} {k : FCard} {x : FCtx} (hs : s.memOk) : SomeOk (s.doSdone cl k x) := by
  unfold State.doSdone
  split
  next => trivial
  next =>
    split <;> exact State.endJob_memOk hs

theorem State.doSloop_memOk {s : State} {cl : Nat} {k : FCard} {x : FCtx} {count target : Nat} (hs : s.memOk) :
    (s.doSloop cl k x count target).memOk := by
  unfold State.doSloop
  split
  next =>
    dsimp only
    split <;> exact hs
  next =>
    split
    next =>
      dsimp only
      split <;> exact hs
    next => exact State.endJob_memOk hs

/-! ## The fabric at work (Machine/FabRun.lean) -/

theorem State.cardBind_memOk {s : State} {cl : Nat} (hs : s.memOk) : SomeOk (s.cardBind cl) := by
  unfold State.cardBind
  split
  next => trivial
  next =>
    split
    next => trivial
    next =>
      split
      next =>
        split
        next => exact hs
        next => exact State.endJob_memOk hs
      next => exact State.endJob_memOk hs
      next =>
        dsimp only
        split
        next => exact State.endJob_memOk hs
        next =>
          split
          next => trivial
          next => exact State.setFCard_memOk (State.engPage_memOk hs)
      next => trivial

theorem gatherLanes_memOk {rd : Nat → Option FGet} {n i : Nat} {data : List Nat} {valid : Nat} (hrd : ∀ i, SomeGetOk (rd i)) :
    (gatherLanes rd n i data valid).memOk := by
  induction n generalizing i data valid with
  | zero => trivial
  | succ n ih =>
    unfold gatherLanes
    split
    next => exact ih
    next => exact ih
    next => trivial
    next h => exact SomeGetOk.wait h (hrd i)
    next => trivial

theorem State.sendSource_memOk {s : State} {cl : Nat} {k : FCard} {x : FCtx} {e : Nat} {g : FEng} {n : Nat} {rd : Nat → Option FGet} (hs : s.memOk)
    (hrd : ∀ i, SomeGetOk (rd i)) : SomeOk (s.sendSource cl k x e g n rd) := by
  unfold State.sendSource
  split
  next =>
    dsimp only
    split
    next => exact hs
    next => trivial
  next =>
    dsimp only
    split
    next => trivial
    next =>
      split
      next => exact hs
      next => exact hs
      next h =>
        refine Gathered.memOk.wait h (gatherLanes_memOk ?_)
        intro i
        split
        next => exact hrd i
        next => trivial
      next => trivial

theorem State.sendOn_memOk {s : State} {cl : Nat} {k : FCard} {x : FCtx} {e : Nat} {g : FEng} {t : FTok} (hs : s.memOk) :
    SomeOk (s.sendOn cl k x e g t) := by
  unfold State.sendOn
  split
  next =>
    dsimp only
    split
    next => exact hs
    next => trivial
  next =>
    dsimp only
    split
    next => exact hs
    next => trivial

theorem State.copySource_memOk {s : State} {cl : Nat} {k : FCard} {x : FCtx} {q : CopyReq} {n : Nat} (hs : s.memOk) :
    (s.copySource cl k x q n).memOk := by
  unfold State.copySource
  dsimp only
  split
  next => trivial
  next => trivial
  next => exact State.fabPage_memOk hs
  next =>
    split
    next => trivial
    next => exact hs
  next => trivial

theorem State.sourceToken_memOk {s : State} {cl : Nat} {k : FCard} {x : FCtx} {e : Nat} {g : FEng} (hs : s.memOk) :
    SomeOk (s.sourceToken cl k x e g) := by
  unfold State.sourceToken
  dsimp only
  split
  next => exact State.sendSource_memOk hs (fun _ => SomeGetOk.of_memOk (State.fabRead_memOk hs))
  next =>
    split
    next => exact State.endJob_memOk hs
    next =>
      split
      next => trivial
      next => exact State.endJob_memOk hs
      next => exact State.endJob_memOk hs
      next =>
        split
        next =>
          refine State.sendSource_memOk hs ?_
          intro _
          refine SomeGetOk.of_memOk ?_
          split <;> trivial
        next => exact hs
  next =>
    split
    next => trivial
    next => exact State.sendSource_memOk hs (fun _ => SomeGetOk.of_memOk (State.copySource_memOk hs))
  next =>
    split
    next => trivial
    next => exact State.sendOn_memOk hs
  next =>
    split
    next => trivial
    next =>
      split
      next => exact State.sendOn_memOk hs
      next =>
        split
        next => trivial
        next =>
          split
          next =>
            split <;> exact State.sendOn_memOk hs
          next =>
            split <;> exact State.sendOn_memOk hs
          next h =>
            refine Gathered.memOk.wait h (gatherLanes_memOk ?_)
            intro i
            split
            next => trivial
            next =>
              split
              next => trivial
              next => exact SomeGetOk.of_memOk (State.fabRead_memOk hs)
          next => trivial
  next => trivial

theorem State.sinkPut_memOk {s : State} {cl : Nat} {k : FCard} {x : FCtx} {e n : Nat} {r : EPut} (hs : s.memOk) (h2 : r.memOk) :
    (s.sinkPut cl k x e n r).memOk := by
  unfold State.sinkPut
  split
  next => exact h2
  next => trivial
  next =>
    split
    next => trivial
    next h1 => exact FGet.memOk.wait h1 (State.fabPage_memOk hs)
    next => trivial

theorem State.sinkWrite_memOk {s : State} {c asid va v : Nat} (hs : s.memOk) : (s.sinkWrite c asid va v).memOk := by
  unfold State.sinkWrite
  split
  next => trivial
  next => trivial
  next =>
    split
    next => trivial
    next => exact State.mk_memOk (Memory.writeNat_wf hs)

theorem State.chunkSeal_memOk {s : State} {c : Nat} {q : CopyReq} (hs : s.memOk) : (s.chunkSeal c q).memOk := by
  unfold State.chunkSeal
  split
  next => exact hs
  next =>
    split
    next =>
      dsimp only
      split <;> exact hs
    next =>
      dsimp only
      split
      next => exact State.sealChunk_memOk hs
      next => exact hs

theorem State.sinkDone_memOk {s : State} {c : Nat} {q : CopyReq} {n before : Nat} (hs : s.memOk) : (s.sinkDone c q n before).memOk := by
  unfold State.sinkDone
  split
  next =>
    split
    next => exact State.chunkSeal_memOk hs
    next => exact hs
  next => exact State.countBytes_memOk hs

theorem State.copySinkElem_memOk {s : State} {cl : Nat} {k : FCard} {x : FCtx} {e n : Nat} {v : Option Nat} (hs : s.memOk) :
    (s.copySinkElem cl k x e n v).memOk := by
  unfold State.copySinkElem
  extract_lets c
  split
  next => trivial
  next q _ =>
    extract_lets size take place
    have htake {st : State} (h : st.memOk) : (take st).memOk := State.sinkDone_memOk (State.takeElem_memOk hs h)
    clear_value place take
    split
    next => trivial
    next =>
      split
      next => trivial
      next =>
        split
        next => trivial
        next p =>
          extract_lets r
          have hr : r.memOk := by
            unfold r
            split
            next => exact hs
            next => exact State.placeWrite_memOk hs
          clear_value r
          split
          next h => exact htake (SinkRes.memOk.ok h (State.sinkPut_memOk hs hr))
          next => exact State.sinkPut_memOk hs hr

theorem State.sinkElem_memOk {s : State} {cl : Nat} {k : FCard} {x : FCtx} {e : Nat} {g : FEng} {n : Nat} {v : Option Nat} (hs : s.memOk) :
    (s.sinkElem cl k x e g n v).memOk := by
  unfold State.sinkElem
  split
  next =>
    split
    next => exact hs
    next => exact State.sinkPut_memOk hs (State.sinkWrite_memOk hs)
  next =>
    split
    next => exact hs
    next =>
      split
      next => exact hs
      next => trivial
  next => exact State.copySinkElem_memOk hs
  next => exact hs

theorem State.sinkLanes_memOk {s : State} {cl : Nat} {k : FCard} {e : Nat} {tok : FTok} {n i : Nat} (hs : s.memOk) :
    (s.sinkLanes cl k e tok n i).1.memOk := by
  induction n generalizing s i with
  | zero => exact hs
  | succ n ih =>
    unfold State.sinkLanes
    split
    next => exact hs
    next =>
      split
      next => exact hs
      next x _ g _ =>
        refine ite_fst_memOk (ih hs) ?_
        generalize (if tok.valid.testBit i then some (tok.data.getD i 0) else none) = v
        split
        next h =>
          have h1 := SinkRes.memOk.ok h (State.sinkElem_memOk hs)
          refine ih ?_
          split
          next => exact State.setFCtx_memOk h1
          next => exact h1
        next => exact hs
        next h => exact SinkRes.memOk.wait h (State.sinkElem_memOk hs)
        next => exact hs

theorem State.sinkPop_memOk {s : State} {cl : Nat} {k : FCard} {e : Nat} {fin : Bool} (hs : s.memOk) : (s.sinkPop cl k e fin).memOk := by
  unfold State.sinkPop
  split
  next => exact hs
  next =>
    split <;> exact hs

theorem State.notifyTile_memOk {s : State} {k : FCard} {g : FEng} {id : Nat} (hs : s.memOk) : SomeOk (s.notifyTile k g id) := by
  unfold State.notifyTile
  dsimp only
  split
  next => trivial
  next =>
    split
    next => trivial
    next => exact State.engToken_memOk hs

theorem State.notifyToken_memOk {s : State} {cl : Nat} {k : FCard} {x : FCtx} {e : Nat} {g : FEng} {tok : FTok} (hs : s.memOk) :
    (s.notifyToken cl k x e g tok).memOk := by
  unfold State.notifyToken
  dsimp only
  split
  next => exact hs
  next =>
    split
    next => trivial
    next h2 => exact FGet.memOk.wait h2 (State.fabRead_memOk hs)
    next => trivial
    next =>
      split
      next => exact hs
      next =>
        split
        next => exact hs
        next =>
          split
          next => trivial
          next h5 => exact State.setFCtx_memOk (SomeOk.some h5 (State.notifyTile_memOk hs))

theorem State.sinkCommit_memOk {s : State} {cl : Nat} {k : FCard} {x : FCtx} {e : Nat} {g : FEng} (hs : s.memOk) :
    SomeOk (s.sinkCommit cl k x e g) := by
  unfold State.sinkCommit
  split
  next => trivial
  next t _ _ =>
    extract_lets kind _ _ run
    refine SomeOk.ite ?_ ?_
    · split
      next => exact State.setFCtx_memOk hs
      next => trivial
    · have hrun : run.1.memOk := by
        refine ite_fst_memOk ?_ (State.sinkLanes_memOk hs)
        split
        next h => exact SinkRes.memOk.ok h (State.notifyToken_memOk hs)
        next => exact hs
        next h => exact SinkRes.memOk.wait h (State.notifyToken_memOk hs)
        next => exact hs
      clear_value run
      obtain ⟨s1, r⟩ := run
      split
      next => exact State.sinkPop_memOk hs
      next =>
        refine SomeOk.ite (State.endJob_memOk hs) ?_
        cases r with
        | done => exact SomeOk.ite (State.endJob_memOk hrun) (State.sinkPop_memOk hrun)
        | bad => exact State.endJob_memOk hrun
        | wait => exact hrun
        | hold => exact SomeOk.ite trivial hrun

theorem State.fabReplay_memOk {s : State} {cl : Nat} {k : FCard} {x : FCtx} (hs : s.memOk) : SomeOk (s.fabReplay cl k x) := by
  unfold State.fabReplay
  split
  next => trivial
  next =>
    dsimp only
    split
    next => trivial
    next =>
      split
      next => exact State.endJob_memOk hs
      next => exact hs

theorem State.fabCollect_memOk {s : State} {cl : Nat} {k : FCard} (hs : s.memOk) : (s.fabCollect cl k).memOk := by
  unfold State.fabCollect
  split
  next => exact hs
  next => exact State.faultNow_memOk hs

theorem State.jobFinish_memOk {s : State} {cl : Nat} {k : FCard} (hs : s.memOk) : (s.jobFinish cl k).memOk := by
  refine foldl_memOk ?_ (fun _ _ h1 => h1)
  exact State.endOp_memOk (State.updFab_memOk (State.setFCard_memOk (ite_memOk (State.engToken_memOk hs) hs)))

theorem State.jobRing_memOk {s : State} {cl : Nat} {k : FCard} (hs : s.memOk) : SomeOk (s.jobRing cl k) := by
  unfold State.jobRing
  split
  next =>
    split
    next h2 => exact State.jobFinish_memOk (RingRes.memOk.ok h2 (State.ringWrite_memOk hs))
    next => trivial
    next =>
      split
      next => trivial
      next => exact State.setFCard_memOk (State.ringPage_memOk hs)
    next => exact State.jobFinish_memOk (State.faultRecord_memOk hs)
  next => exact State.jobFinish_memOk hs

theorem State.jobComplete_memOk {s : State} {cl slot : Nat} (hs : s.memOk) : SomeOk (s.jobComplete cl slot) := by
  unfold State.jobComplete
  split
  next => trivial
  next =>
    split
    next => trivial
    next =>
      split
      next =>
        split
        next =>
          dsimp only
          split
          next h5 => exact SomeOk.some h5 (State.jobRing_memOk hs)
          next => exact hs
        next =>
          dsimp only
          split
          next h5 => exact SomeOk.some h5 (State.jobRing_memOk hs)
          next => exact hs
      next => exact State.jobRing_memOk hs
      next =>
        split
        next => exact State.fabCollect_memOk hs
        next => trivial
      next => trivial

theorem State.reqEnd_memOk {s : State} {c : Nat} {q : CopyReq} (hs : s.memOk) : (s.reqEnd c q).memOk := by
  unfold State.reqEnd
  split
  next => exact State.streamEnd_memOk hs
  next => exact State.copyEnd_memOk hs

theorem State.copyPost_memOk {s : State} {c : Nat} {q : CopyReq} (hs : s.memOk) : SomeOk (s.copyPost c q) := by
  unfold State.copyPost
  dsimp only
  split
  next => exact State.reqEnd_memOk hs
  next =>
    split
    next => exact State.reqEnd_memOk hs
    next => exact State.setCopy_memOk (State.engPage_memOk hs)
    next => trivial
    next =>
      split
      next => exact State.setCopy_memOk (State.engPage_memOk hs)
      next =>
        split
        next => trivial
        next =>
          split
          next => exact State.reqEnd_memOk hs
          next h5 => exact State.setCopy_memOk (ValueFstOk.ok h5 (State.postCard_memOk hs))

theorem State.copyFab_memOk {s : State} {c slot : Nat} (hs : s.memOk) : SomeOk (s.copyFab c slot) := by
  unfold State.copyFab
  cases (s.core c).eng.copy? slot with
  | none => trivial
  | some q =>
    dsimp only
    refine SomeOk.ite trivial (SomeOk.ite (State.chunkSeal_memOk hs) ?_)
    cases q.fab with
    | none =>
      dsimp only
      refine SomeOk.ite (State.reqEnd_memOk hs) ?_
      split
      next => trivial
      next => exact SomeOk.ite (State.reqEnd_memOk hs) (State.copyPost_memOk hs)
    | some f =>
      dsimp only
      cases (s.fab (clusterOf c)).card? f with
      | none => exact State.reqEnd_memOk hs
      | some k =>
        dsimp only
        generalize k.stage = stage
        cases stage with
        | ended => exact SomeOk.ite trivial (State.reqEnd_memOk hs)
        | _ => exact SomeOk.ite (State.cancelJob_memOk hs) trivial

theorem State.swapAsk_memOk {s : State} {c : Nat} {q : FReq} {r : Option FReq} (hs : s.memOk) : (s.swapAsk c q r).memOk := hs

theorem State.pullGone_memOk {s : State} {c e : Nat} {q : FReq} (hs : s.memOk) : (s.pullGone c e q).memOk := State.lateFault_memOk hs

theorem State.jobAsk_memOk {s0 s : State} {c : Nat} {q : FReq} {va a : Nat} {regs : List Nat} {idOp : Nat} (hs : s0.memOk) (h2 : s.memOk) :
    SomeOk (s0.jobAsk s c q va a regs idOp) := by
  unfold State.jobAsk
  split
  next => trivial
  next =>
    dsimp only
    split
    next =>
      split
      next => exact State.lateFault_memOk h2
      next => exact State.engPage_memOk hs
    next => exact State.lateFault_memOk h2
    next => exact h2
    next =>
      split
      next =>
        split
        next =>
          split
          next => exact State.lateFault_memOk h2
          next h6 => exact State.updCore_memOk (ValueFstOk.ok h6 (State.postCard_memOk h2))
        next => exact State.engPage_memOk hs
      next =>
        split
        next => exact State.engPage_memOk hs
        next =>
          split
          next => exact State.lateFault_memOk h2
          next h6 => exact State.updCore_memOk (ValueFstOk.ok h6 (State.postCard_memOk h2))

theorem State.fabAsk_memOk {s0 : State} {c : Nat} {q : FReq} (hs : s0.memOk) : SomeOk (s0.fabAsk c q) := by
  unfold State.fabAsk
  split
  next => exact State.cancelFor_memOk hs
  next =>
    dsimp only
    split
    next =>
      split
      next =>
        split
        next => exact State.endOp_memOk (State.injectToks_memOk hs)
        next =>
          split
          next => trivial
          next => exact State.swapAsk_memOk (State.injectToks_memOk hs)
      next => exact hs
    next => exact hs
  next =>
    dsimp only
    split
    next =>
      split
      next h3 => exact foldl_memOk (SomeSndOk.some h3 (State.takePort_memOk hs)) (fun _ _ h4 => h4)
      next => trivial
    next => exact State.pullGone_memOk hs
  next =>
    dsimp only
    split
    next => exact hs
    next =>
      split
      next => exact hs
      next =>
        split
        next => trivial
        next =>
          refine State.retireUid_memOk ?_
          exact State.putTrain_memOk (State.actSeats_memOk hs (fun _ _ _ _ h5 => State.fwaitSeat_memOk h5))
  next => exact State.jobAsk_memOk hs hs

/-! ## The link engine's stores (Machine/NetOps.lean) -/

theorem State.putSlotHeader_memOk {s : State} {r : LaunchRef} {die : Nat} (hs : s.memOk) : (s.putSlotHeader r die).memOk := by
  unfold State.putSlotHeader
  split
  next => exact State.physPut_memOk hs
  next => exact hs

theorem State.divert_memOk {s : State} {r : LaunchRef} {die : Nat} {d : Diverted} (hs : s.memOk) : (s.divert r die d).memOk := by
  unfold State.divert
  split
  next => exact hs
  next =>
    split
    next =>
      refine State.countEvt_memOk ?_
      refine State.putSlotHeader_memOk ?_
      exact State.updSlot_memOk (ite_memOk (State.mk_memOk (putEntries_wf hs)) (State.physFault_memOk hs))
    next =>
      refine State.putSlotHeader_memOk ?_
      exact State.updSlot_memOk (ite_memOk (State.mk_memOk (putEntries_wf hs)) (State.physFault_memOk hs))

theorem State.divertRec_memOk {s : State} {r : LaunchRef} {die : Nat} {mk : Nat → Diverted} (hs : s.memOk) : (s.divertRec r die mk).memOk :=
  State.updPart_memOk (State.divert_memOk hs)

theorem State.unDivert_memOk {s : State} {r : LaunchRef} {die : Nat} {d : Diverted} (hs : s.memOk) : (s.unDivert r die d).memOk :=
  State.giveCredit_memOk (State.putSlotHeader_memOk (State.updSlot_memOk hs))

theorem State.setQueue_memOk {s : State} {c n : Nat} {q : Queue} (hs : s.memOk) : (s.setQueue c n q).memOk := hs

theorem State.queueReply_memOk {s : State} {c : Nat} {e : QEntry} {code : Nat} (hs : s.memOk) : (s.queueReply c e code).memOk := by
  unfold State.queueReply
  split <;> exact hs

theorem State.queueHold_memOk {s : State} {c n : Nat} {q : Queue} {addr : Nat} (hs : s.memOk) : (s.queueHold c n q addr).1.memOk := by
  unfold State.queueHold
  split
  next => exact hs
  next => exact State.faultRecord_memOk hs

theorem State.queueRefill_memOk {s : State} {c : Nat} {q : Queue} {n : Nat} (hs : s.memOk) : (s.queueRefill c q n).1.memOk := by
  induction n generalizing q with
  | zero => exact hs
  | succ n ih =>
    unfold State.queueRefill
    split
    next => exact hs
    next =>
      dsimp only
      split
      next => exact ih
      next => exact hs
      next => exact State.raisePage_memOk hs

theorem State.queueStore_memOk {s : State} {c n : Nat} {q : Queue} {retry : Bool} {fuel : Nat} (hs : s.memOk) :
    (s.queueStore c n q retry fuel).1.memOk := by
  induction fuel generalizing s q with
  | zero => exact hs
  | succ fuel ih =>
    unfold State.queueStore
    split
    next => exact hs
    next =>
      split
      next => exact ih (State.queueReply_memOk hs)
      next =>
        split
        next => exact hs
        next =>
          split
          next => exact State.queueHold_memOk hs
          next =>
            dsimp only
            split
            next => exact ih (State.queueReply_memOk (State.mk_memOk (Memory.write_wf hs)))
            next => exact State.queueHold_memOk hs
            next => exact State.raisePage_memOk (State.queueHold_memOk hs)

theorem State.queueSettle_memOk {s : State} {c n : Nat} {retry : Bool} (hs : s.memOk) : (s.queueSettle c n retry).memOk :=
  State.setQueue_memOk (State.queueRefill_memOk (State.queueStore_memOk (State.queueRefill_memOk hs)))

theorem State.queueStir_memOk {s : State} {c n : Nat} (hs : s.memOk) : (s.queueStir c n).memOk := by
  unfold State.queueStir
  split
  next => exact hs
  next => exact State.queueSettle_memOk hs

theorem State.queueBoundary_memOk {s : State} {c : Nat} (hs : s.memOk) : (s.queueBoundary c).memOk := by
  refine foldl_memOk hs ?_
  intro _ _ h1
  split
  next => exact State.queueSettle_memOk h1
  next => exact h1

theorem State.queueArrive_memOk {s : State} {c : Nat} {h : Word} {e : QEntry} (hs : s.memOk) : (s.queueArrive c h e).memOk := by
  unfold State.queueArrive
  split
  next => exact State.queueReply_memOk hs
  next =>
    split
    next => exact State.queueReply_memOk hs
    next => exact State.queueSettle_memOk hs

theorem State.queueRelease_memOk {s : State} {c uid : Nat} (hs : s.memOk) : (s.queueRelease c uid).memOk :=
  foldl_memOk hs (fun _ _ h1 => State.queueStir_memOk h1)

theorem State.queueKill_memOk {s : State} {c n : Nat} (hs : s.memOk) : (s.queueKill c n).memOk :=
  State.setQueue_memOk (foldl_memOk hs (fun _ _ h1 => State.queueReply_memOk h1))

theorem State.queueAnswer_memOk {s : State} {c ser code : Nat} (hs : s.memOk) : SomeOk (s.queueAnswer c ser code) := by
  unfold State.queueAnswer
  split
  next => exact hs
  next =>
    extract_lets done _ plain
    have hdone {st : State} (h : st.memOk) : (done st).memOk := State.endOp_memOk (State.updCore_memOk h)
    have hplain : (plain s).memOk := State.faultRecord_memOk hs
    clear_value plain done
    refine SomeOk.ite (hdone hs) ?_
    split
    next => exact hdone hplain
    next =>
      extract_lets bad
      have hbad : SomeOk bad := SomeOk.ite (hdone (State.faultRecord_memOk hs)) (hdone hplain)
      clear_value bad
      refine SomeOk.ite hbad (SomeOk.ite trivial ?_)
      split
      next h => exact hdone (RingRes.memOk.ok h (State.ringWrite_memOk hs))
      next => trivial
      next => trivial
      next => exact hbad

theorem State.queuePage_memOk {s : State} {c : Nat} {q : QSent} {code : Nat} (hs : s.memOk) : SomeOk (s.queuePage c q code) := by
  unfold State.queuePage
  split
  next => trivial
  next =>
    split
    next => trivial
    next =>
      split
      next => exact State.updCore_memOk (State.ringPage_memOk hs)
      next => trivial

theorem State.discardFor_memOk {s : State} {dev : Nat} {r : LaunchRef} {asid code : Nat} {tag : Word} {dest : Nat} {src : Word} {frame : Bool}
    (hs : s.memOk) :
    (s.discardFor dev r asid code tag dest src frame).memOk := by
  unfold State.discardFor
  split
  next =>
    split
    next =>
      split
      next => exact State.partFaultRecord_memOk hs
      next => exact State.faultRecord_memOk hs
    next =>
      split
      next => exact State.partFaultRecord_memOk hs
      next => exact State.faultRecord_memOk hs
  next => exact hs

theorem State.frameLanded_memOk {s : State} {f : RowFrame} (hs : s.memOk) : (s.frameLanded f).memOk := by
  unfold State.frameLanded
  split <;> exact hs

theorem State.frameDeliver_memOk {s : State} {c : Nat} {f : RowFrame} (hs : s.memOk) : (s.frameDeliver c f).memOk := by
  unfold State.frameDeliver
  dsimp only
  split
  next => exact State.frameLanded_memOk (State.discardFor_memOk hs)
  next =>
    split
    next => exact State.frameLanded_memOk (State.discardFor_memOk hs)
    next =>
      split
      next => exact State.frameLanded_memOk (State.discardFor_memOk hs)
      next =>
        split
        next => trivial
        next => exact State.frameLanded_memOk (State.engToken_memOk hs)

/-! ## The launch engine's shared operations (Machine/LaunchOps.lean) -/

theorem State.launchFaultIn_memOk {s : State} {r : LaunchRef} {code block detail addr : Nat} (hs : s.memOk) :
    (s.launchFaultIn r code block detail addr).memOk :=
  State.faultNow_memOk hs

theorem State.launchFault_memOk {s : State} {r : LaunchRef} {code detail addr : Nat} (hs : s.memOk) : (s.launchFault r code detail addr).memOk :=
  State.launchFaultIn_memOk hs

theorem State.queueRec_memOk {s : State} {p q : Nat} {r : QRec} (hs : s.memOk) : SomeOk (s.queueRec p q r) := by
  unfold State.queueRec
  dsimp only
  split
  next => trivial
  next => exact State.updPart_memOk (State.physPut_memOk hs)

theorem State.arriveRec_memOk {s : State} {f : Firing} {r : BitVec 2048} (hs : s.memOk) : (s.arriveRec f r).memOk := by
  unfold State.arriveRec
  split
  next h1 =>
    dsimp only
    split
    next => exact State.divertRec_memOk (SomeFstOk.some h1 (State.takeCredit_memOk hs))
    next =>
      split
      next h3 => exact SomeOk.some h3 (State.queueRec_memOk hs)
      next => exact State.divertRec_memOk (SomeFstOk.some h1 (State.takeCredit_memOk hs))
  next =>
    dsimp only
    split
    next => exact hs
    next =>
      split
      next h3 => exact SomeOk.some h3 (State.queueRec_memOk hs)
      next => exact hs

theorem State.fireFault_memOk {s : State} {f : Firing} {code : Nat} (hs : s.memOk) : (s.fireFault f code).memOk := State.launchFault_memOk hs

theorem State.fireTry_memOk {s : State} {f : Firing} (hs : s.memOk) : (s.fireTry f).memOk := by
  unfold State.fireTry
  split
  next => exact State.arriveRec_memOk hs
  next =>
    split
    next =>
      split
      next => exact State.fireFault_memOk hs
      next => exact State.arriveRec_memOk hs
    next => exact State.fireFault_memOk hs
    next =>
      split
      next => exact State.fireFault_memOk hs
      next => exact State.updPart_memOk (State.raisePage_memOk hs)

theorem State.retryFirings_memOk {s : State} {p : Nat} (hs : s.memOk) : (s.retryFirings p).memOk := by
  unfold State.retryFirings
  dsimp only
  split
  next => exact hs
  next => exact foldl_memOk hs (fun _ _ h2 => State.fireTry_memOk h2)

theorem State.ctrUpdate_memOk {s : State} {pa : Nat} {op : CtrOp} {issuer : LaunchRef} {die asid : Nat} {created : Bool} (hs : s.memOk) :
    (s.ctrUpdate pa op issuer die asid created).1.memOk := by
  unfold State.ctrUpdate
  dsimp only
  split <;> exact State.mk_memOk (Memory.writeNat_wf hs)

theorem State.ctrNow_memOk {s : State} {pa : Nat} {op : CtrOp} {issuer : LaunchRef} {die asid : Nat} {created : Bool} (hs : s.memOk) :
    (s.ctrNow pa op issuer die asid created).memOk := by
  unfold State.ctrNow
  split
  next h1 => exact State.fireTry_memOk (memOk_of_eq_fst h1 (State.ctrUpdate_memOk hs))
  next h1 => exact memOk_of_eq_fst h1 (State.ctrUpdate_memOk hs)

theorem State.updYard_memOk {s : State} {die num : Nat} {f : Yard → Yard} (hs : s.memOk) : (s.updYard die num f).memOk := hs

theorem State.sendPack_memOk {s : State} {die : Nat} {p : YPack} (hs : s.memOk) : (s.sendPack die p).memOk := by
  unfold State.sendPack
  split <;> exact hs

/-! ## CHECK, grid words and placement of launches (Machine/Placing.lean) -/

theorem State.admitFrom_memOk {s : State} {p q : Nat} (hs : s.memOk) : (s.admitFrom p q).memOk := by
  unfold State.admitFrom
  split
  next =>
    dsimp only
    split
    next => exact hs
    next => exact State.launchFault_memOk hs
  next =>
    dsimp only
    split <;> exact hs

theorem State.runCheck_memOk {s : State} {p id : Nat} (hs : s.memOk) : (s.runCheck p id).memOk := by
  unfold State.runCheck
  dsimp only
  split
  next => exact hs
  next =>
    split
    next => exact State.launchFaultIn_memOk hs
    next => exact State.updLaunch_memOk (State.raisePage_memOk hs)
    next => exact State.updLaunch_memOk (State.updPart_memOk (ite_memOk hs hs))

theorem State.launchAdmit_memOk {s : State} {p : Nat} (hs : s.memOk) : SomeOk (s.launchAdmit p) := by
  unfold State.launchAdmit
  split
  next => exact State.runCheck_memOk hs
  next =>
    split
    next => exact State.admitFrom_memOk hs
    next => trivial

theorem State.gridRead_memOk {s : State} {p id : Nat} (hs : s.memOk) : SomeOk (s.gridRead p id) := by
  unfold State.gridRead
  dsimp only
  split
  next => trivial
  next =>
    split
    next => trivial
    next =>
      split
      next => trivial
      next => exact State.launchFault_memOk hs
      next => exact State.updLaunch_memOk (State.raisePage_memOk hs)
      next =>
        split
        next => exact State.launchFault_memOk hs
        next => exact State.updLaunch_memOk hs

theorem State.placeGroup_memOk {s : State} {r : LaunchRef} {l : Launch} {k order reserve inst c : Nat} (hs : s.memOk) :
    SomeOk (s.placeGroup r l k order reserve inst c) := by
  unfold State.placeGroup
  split
  next => trivial
  next =>
    dsimp only
    split
    next =>
      split
      next => trivial
      next => exact hs
    next => trivial

theorem State.placeHead_memOk {s : State} {r : LaunchRef} {l : Launch} {z : List Nat × Nat} {k inst : Nat} {cs : List Nat} (hs : s.memOk) :
    SomeOk (s.placeHead r l z k inst cs) := by
  cases cs with
  | nil => trivial
  | cons c cs => exact State.placeGroup_memOk hs

theorem State.placeAll_memOk {s : State} {r : LaunchRef} {l : Launch} {z : List Nat × Nat} {all : List Nat} {gs : List (Nat × Nat)} {role : Nat}
    {low : List Nat} (hs : s.memOk) : SomeOk (s.placeAll r l z all gs role low) := by
  induction gs generalizing s role low with
  | nil => exact hs
  | cons g gs ih =>
    unfold State.placeAll
    split
    next =>
      split
      next =>
        refine SomeOk.bindFst ?_ (fun _ h3 => ih h3)
        exact SomeFstOk.findSome (fun _ => SomeFstOk.mapState (State.placeHead_memOk hs) (fun _ h3 => h3))
      next => exact SomeOk.findSome (fun _ => SomeOk.bindState (State.placeHead_memOk hs) (fun _ h3 => ih h3))
    next =>
      split
      next =>
        refine SomeOk.bindFst ?_ (fun _ h3 => ih h3)
        exact SomeFstOk.findSome (fun _ => SomeFstOk.mapState (State.placeHead_memOk hs) (fun _ h3 => h3))
      next => exact SomeOk.findSome (fun _ => SomeOk.bindState (State.placeHead_memOk hs) (fun _ h3 => ih h3))

theorem State.takeYards_memOk {s : State} {die : Nat} {r : LaunchRef} {n k : Nat} (hs : s.memOk) : SomeOk (s.takeYards die r n k) := by
  induction n generalizing s k with
  | zero => exact hs
  | succ n ih =>
    unfold State.takeYards
    split
    next => trivial
    next => exact ih hs

theorem State.takeAllYards_memOk {s : State} {r : LaunchRef} {n : Nat} {ds : List Nat} (hs : s.memOk) : SomeOk (s.takeAllYards r n ds) := by
  induction ds generalizing s with
  | nil => exact hs
  | cons d ds ih =>
    unfold State.takeAllYards
    split
    next => trivial
    next h1 => exact ih (SomeOk.some h1 (State.takeYards_memOk hs))

theorem State.takeSlots_memOk {s : State} {r : LaunchRef} {ds : List Nat} (hs : s.memOk) : SomeOk (s.takeSlots r ds) := by
  induction ds generalizing s with
  | nil => exact hs
  | cons d ds ih =>
    unfold State.takeSlots
    split
    next => trivial
    next => exact ih (State.putSlotHeader_memOk (State.updLaunch_memOk hs))

theorem State.placeRest_memOk {s1 : State} {r : LaunchRef} {l : Launch} {cores : List Nat} (hs : s1.memOk) : SomeOk (s1.placeRest r l cores) := by
  refine SomeOk.mapState ?_ (fun _ h1 => State.updLaunch_memOk h1)
  exact SomeOk.bindState (State.takeAllYards_memOk hs) (fun _ h1 => State.takeSlots_memOk h1)

theorem State.placeLaunch_memOk {s : State} {r : LaunchRef} {l : Launch} (hs : s.memOk) : SomeOk (s.placeLaunch r l) :=
  SomeOk.bindState (State.placeAll_memOk hs) (fun _ h1 => State.placeRest_memOk h1)

theorem State.beginTT_memOk {s : State} {p id : Nat} (hs : s.memOk) : (s.beginTT p id).memOk := foldl_memOk hs (fun _ _ h1 => h1)

theorem State.tryPlace_memOk {s : State} {p id : Nat} (hs : s.memOk) : SomeOk (s.tryPlace p id) := by
  unfold State.tryPlace
  dsimp only
  split
  next => trivial
  next =>
    split
    next => trivial
    next =>
      split
      next => trivial
      next =>
        split
        next => trivial
        next h4 =>
          split
          next => exact State.beginTT_memOk (SomeOk.some h4 (State.placeLaunch_memOk hs))
          next => exact SomeOk.some h4 (State.placeLaunch_memOk hs)

/-! ## The firing engine between instructions (Machine/FireRun.lean) -/

theorem State.spillEntry_memOk {s : State} {c : Nat} (hs : s.memOk) : SomeOk (s.spillEntry c) := by
  unfold State.spillEntry
  dsimp only
  split
  next => trivial
  next => exact hs

theorem State.dropForRoom_memOk {s : State} {c : Nat} (hs : s.memOk) : SomeOk (s.dropForRoom c) := by
  unfold State.dropForRoom
  dsimp only
  split
  next => trivial
  next =>
    split
    next => trivial
    next => exact State.spillEntry_memOk hs

theorem State.acceptToken_memOk {s : State} {c dev : Nat} {t : Token} (hs : s.memOk) : (s.acceptToken c dev t).memOk := by
  unfold State.acceptToken
  extract_lets f drop took wait
  have hdrop : drop.memOk := State.discardFor_memOk hs
  have htook {st : State} (h : st.memOk) : (took st).memOk := State.countEvt_memOk h
  have hwait : wait.memOk := State.updCore_memOk hs
  clear_value drop took wait
  refine Accept.memOk.ite hdrop ?_
  split
  next => exact hdrop
  next => trivial
  next =>
    extract_lets go
    clear_value go
    refine Accept.memOk.ite (htook hwait) ?_
    split
    next => exact htook (State.setCore_memOk hs)
    next => exact htook hwait
    next =>
      split
      next => trivial
      next h =>
        have h1 := SomeOk.some h (SomeOk.or (State.spillEntry_memOk hs) (State.dropForRoom_memOk hs))
        split
        next => exact htook (State.setCore_memOk h1)
        next => trivial

theorem State.departCommand_memOk {s : State} {c idx : Nat} {tag : Word} (hs : s.memOk) : (s.departCommand c idx tag).memOk := by
  unfold State.departCommand
  dsimp only
  split
  next => exact hs
  next =>
    split <;> exact hs

theorem State.flightDone_memOk {s : State} {f : Flight} {src : Word} (hs : s.memOk) : (s.flightDone f src).memOk := by
  unfold State.flightDone
  split
  next => exact hs
  next =>
    split
    next =>
      split
      next =>
        split <;> exact hs
      next => exact hs
    next =>
      split <;> exact hs

theorem State.flightAgain_memOk {s : State} {c : Nat} {f : Flight} (hs : s.memOk) : (s.flightAgain c f).memOk := hs

theorem State.deliverFlight_memOk {s : State} {c : Nat} {f : Flight} (hs : s.memOk) : (s.deliverFlight c f).memOk := by
  unfold State.deliverFlight
  split
  next => exact State.flightDone_memOk (State.departCommand_memOk hs)
  next => exact State.flightDone_memOk (State.updCore_memOk hs)
  next => exact hs
  next t _ =>
    extract_lets fr dev side
    have hside : (side s).memOk := by
      unfold side
      split
      next => exact State.flightDone_memOk (State.divert_memOk hs)
      next =>
        split
        next h => exact State.flightDone_memOk (State.divert_memOk (SomeFstOk.some h (State.takeCredit_memOk hs)))
        next => exact State.flightAgain_memOk hs
    clear_value side
    refine ite_memOk hside ?_
    split
    next h => exact State.flightDone_memOk (State.giveCredit_memOk (Accept.memOk.taken h (State.acceptToken_memOk hs)))
    next h => exact State.flightDone_memOk (State.giveCredit_memOk (Accept.memOk.discarded h (State.acceptToken_memOk hs)))
    next => exact hside
    next => exact State.flightAgain_memOk (State.raisePage_memOk hs)

theorem State.arriveSome_memOk {s : State} {c : Nat} {mine : Flight → Bool} (hs : s.memOk) : (s.arriveSome c mine).memOk :=
  foldl_memOk hs (fun _ _ h1 => State.deliverFlight_memOk h1)

theorem State.arriveDue_memOk {s : State} {c : Nat} {tt toks : Bool} (hs : s.memOk) : (s.arriveDue c tt toks).memOk := State.arriveSome_memOk hs

theorem State.replayToken_memOk {s : State} {r : LaunchRef} {die c dev : Nat} {t : Token} (hs : s.memOk) : SomeOk (s.replayToken r die c dev t) := by
  unfold State.replayToken
  split
  next h1 => exact State.unDivert_memOk (Accept.memOk.taken h1 (State.acceptToken_memOk hs))
  next h1 => exact State.unDivert_memOk (Accept.memOk.discarded h1 (State.acceptToken_memOk hs))
  next => trivial
  next =>
    dsimp only
    split
    next => trivial
    next => exact State.raisePage_memOk hs

theorem State.numberReady_memOk {s : State} {c : Nat} (hs : s.memOk) : (s.numberReady c).memOk := by
  unfold State.numberReady
  dsimp only
  split <;> exact hs

theorem State.imgFault_memOk {s : State} {c : Nat} {i : Inst} {code va : Nat} (hs : s.memOk) : (s.imgFault c i code va).memOk :=
  State.faultNow_memOk hs

theorem State.headFor_memOk {s : State} {c : Nat} {r : LaunchRef} {asid prog block : Nat} (hs : s.memOk) :
    (s.headFor c r asid prog block).memOk := by
  unfold State.headFor
  split
  next =>
    dsimp only
    split
    next => trivial
    next =>
      split
      next => trivial
      next => exact State.raisePage_memOk hs
    next => trivial
  next =>
    dsimp only
    split
    next => trivial
    next =>
      split
      next => trivial
      next => exact State.raisePage_memOk hs
    next => trivial

theorem State.seatOne_memOk {s : State} {c clock : Nat} {e : MEntry} (hs : s.memOk) : (s.seatOne c clock e).memOk := by
  unfold State.seatOne
  dsimp only
  split
  next => exact hs
  next =>
    split
    next => exact hs
    next =>
      split
      next => exact hs
      next =>
        split
        next h4 => exact SomeOk.getD (HeadRes.memOk.wait h4 (State.headFor_memOk hs)) hs
        next => exact State.imgFault_memOk hs
        next => exact hs

theorem State.settle_memOk {s : State} {c : Nat} {tt : Bool} (hs : s.memOk) : (s.settle c tt).memOk := by
  unfold State.settle
  exact State.updCore_memOk (foldl_memOk (State.numberReady_memOk hs) (fun _ _ h1 => State.seatOne_memOk h1))

theorem State.expireTimers_memOk {s : State} {c : Nat} {tt : Bool} (hs : s.memOk) : SomeOk (s.expireTimers c tt) := by
  unfold State.expireTimers
  dsimp only
  split
  next => exact hs
  next => trivial

theorem State.latchYields_memOk {s : State} {c : Nat} (hs : s.memOk) : (s.latchYields c).memOk := by
  unfold State.latchYields
  dsimp only
  split <;> exact hs

theorem State.readEntry_memOk {s : State} {c : Nat} {t : Train} {x : Seat} {e : Bool × Nat × Nat} (hs : s.memOk) :
    (s.readEntry c t x e).1.memOk := by
  unfold State.readEntry
  split
  next =>
    dsimp only
    split
    next => exact State.takeFault_memOk hs
    next =>
      split
      next => exact State.takeFault_memOk hs
      next =>
        split
        next => exact hs
        next =>
          split
          next => exact State.takeFault_memOk hs
          next => exact hs
  next =>
    dsimp only
    split
    next => exact State.takeFault_memOk hs
    next =>
      split
      next => exact hs
      next =>
        split
        next => exact hs
        next =>
          split
          next => exact State.takeFault_memOk hs
          next => exact hs

theorem State.readEntriesOf_memOk {s : State} {c : Nat} {t : Train} (hs : s.memOk) : (s.readEntriesOf c t).1.memOk := by
  refine foldl_fst_memOk hs ?_
  intro _ _ h1
  refine foldl_fst_memOk h1 ?_
  intro _ _ h2
  split
  next => exact State.readEntry_memOk h2
  next => exact h2

theorem State.fetchTrain_memOk {s : State} {c : Nat} {t : Train} (hs : s.memOk) : (s.fetchTrain c t).memOk := by
  unfold State.fetchTrain
  split
  next => exact State.updCore_memOk (State.raisePage_memOk hs)
  next => exact State.updCore_memOk (State.takeFaults_memOk hs)
  next => exact State.updCore_memOk (State.readEntriesOf_memOk hs)

theorem State.refillWaiting_memOk {s : State} {c : Nat} {is : List Inst} (hs : s.memOk) : (s.refillWaiting c is).memOk := by
  unfold State.refillWaiting
  dsimp only
  split
  next => exact hs
  next => exact foldl_memOk hs (fun _ _ h2 => State.deliverFlight_memOk h2)

theorem State.startTrain_memOk {s : State} {c number ram : Nat} {team : Bool} {seats : List Seat} {asid prog block : Nat} {r : LaunchRef}
    (hs : s.memOk) :
    (s.startTrain c number ram team seats asid prog block r).memOk :=
  State.countEvt_memOk (State.countEvt_memOk (State.fetchTrain_memOk hs))

theorem State.departNext_memOk {s : State} {c : Nat} (hs : s.memOk) : SomeOk (s.departNext c) := by
  unfold State.departNext
  split
  next => trivial
  next =>
    dsimp only
    split
    next => trivial
    next =>
      split
      next h3 => exact HeadRes.memOk.wait h3 (State.headFor_memOk hs)
      next => exact foldl_memOk hs (fun _ _ h4 => State.imgFault_memOk h4)
      next =>
        split
        next => trivial
        next => exact State.refillWaiting_memOk (State.startTrain_memOk (State.updCore_memOk (State.latchYields_memOk hs)))
      next => trivial

theorem State.compactTry_memOk {s : State} {c order : Nat} (hs : s.memOk) : SomeOk (s.compactTry c order) := by
  unfold State.compactTry
  dsimp only
  split
  next => trivial
  next => exact hs

theorem State.endTrain_memOk {s : State} {c uid : Nat} (hs : s.memOk) : (s.endTrain c uid).memOk := by
  unfold State.endTrain
  split
  next => exact hs
  next => exact State.updCore_memOk (State.queueRelease_memOk hs)

theorem State.landLate_memOk {s : State} {c : Nat} {l : Late} (hs : s.memOk) : (s.landLate c l).memOk := by
  refine State.endOp_memOk ?_
  refine foldl_memOk ?_ (fun _ _ h1 => State.landReg_memOk h1)
  refine ite_memOk ?_ ?_
  · split
    next =>
      split <;> exact hs
    next => exact hs
  · refine State.orFlags_memOk ?_
    split
    next =>
      split <;> exact hs
    next => exact hs

theorem State.replayFault_memOk {s : State} {c : Nat} {w : RegWait} {detail : Nat} (hs : s.memOk) : (s.replayFault c w detail).memOk := by
  unfold State.replayFault
  dsimp only
  split
  next => exact State.updCore_memOk (State.takeFault_memOk hs)
  next => exact hs

theorem State.replayDone_memOk {s : State} {c : Nat} {w : RegWait} {x : Replay} {v : Word} (hs : s.memOk) : (s.replayDone c w x v).memOk :=
  State.countEvt_memOk (ite_memOk hs hs)

theorem State.replayOne_memOk {s : State} {c : Nat} {w : RegWait} (hs : s.memOk) : SomeOk (s.replayOne c w) := by
  unfold State.replayOne
  split
  next => trivial
  next =>
    dsimp only
    split
    next => exact State.replayDone_memOk hs
    next =>
      split
      next => trivial
      next => exact State.engMiss_memOk hs
    next => exact State.replayFault_memOk hs

theorem State.replayWait_memOk {s : State} {c : Nat} (hs : s.memOk) : SomeOk (s.replayWait c) := SomeOk.findSome (fun _ => State.replayOne_memOk hs)

/-! ## Yards and their teams (Machine/Yards.lean) -/

theorem State.recWrite_memOk {s : State} {asid : Nat} {failed : List Nat} {n va : Nat} {bs : List Byte} (hs : s.memOk) :
    (s.recWrite asid failed n va bs).memOk := by
  induction n generalizing s va bs with
  | zero => exact hs
  | succ n ih =>
    unfold State.recWrite
    split
    next => exact hs
    next =>
      split
      next =>
        dsimp only
        split
        next => trivial
        next => trivial
        next =>
          split
          next => trivial
          next => exact ih (State.mk_memOk (Memory.write_wf hs))
      next =>
        dsimp only
        split
        next => trivial
        next => trivial
        next =>
          split
          next => trivial
          next => exact ih (State.mk_memOk (Memory.write_wf hs))

theorem State.takeRecord_memOk {s : State} {die num : Nat} {l : Launch} {r : LaunchRef} {node : Nat} {bs : List Byte} {src : Word} (hs : s.memOk) :
    (s.takeRecord die num l r node bs src).memOk := by
  unfold State.takeRecord
  split
  next => trivial
  next =>
    dsimp only
    split
    next => trivial
    next => trivial
    next h2 => exact State.updYard_memOk (State.updLaunch_memOk (PieceRes.memOk.ok h2 (State.recWrite_memOk hs)))

theorem State.takeRecords_memOk {s : State} {die num : Nat} {r : LaunchRef} {node : Nat} {rs : List (List Byte × Word)} (hs : s.memOk) :
    (s.takeRecords die num r node rs).1.memOk := by
  induction rs generalizing s with
  | nil => exact hs
  | cons p rs ih =>
    unfold State.takeRecords
    split
    next => exact hs
    next =>
      split
      next =>
        dsimp only
        split
        next h3 =>
          refine ih ?_
          refine SomeOk.some h3 ?_
          split
          next h4 => exact State.divertRec_memOk (SomeFstOk.some h4 (State.takeCredit_memOk hs))
          next => trivial
        next => exact hs
      next =>
        split
        next h3 => exact ih (YardRes.memOk.seated h3 (State.takeRecord_memOk hs))
        next => exact State.launchFault_memOk hs
        next => exact State.updYard_memOk (State.raisePage_memOk hs)
        next =>
          dsimp only
          split
          next h4 =>
            refine ih ?_
            refine SomeOk.some h4 ?_
            split
            next h5 => exact State.divertRec_memOk (SomeFstOk.some h5 (State.takeCredit_memOk hs))
            next => trivial
          next => exact hs

theorem State.takePacks_memOk {s : State} {die num : Nat} {ps : List YPack} (hs : s.memOk) : (s.takePacks die num ps).1.memOk := by
  induction ps generalizing s with
  | nil => exact hs
  | cons p ps ih =>
    unfold State.takePacks
    split
    next h1 => exact ih (memOk_of_eq_fst h1 (State.takeRecords_memOk hs))
    next h2 => exact memOk_of_eq_fst h2 (State.takeRecords_memOk hs)

theorem State.yardArrive_memOk {s : State} {die num : Nat} {boundary : Bool} (hs : s.memOk) : SomeOk (s.yardArrive die num boundary) := by
  unfold State.yardArrive
  split
  next => trivial
  next y _ =>
    refine SomeOk.ite trivial ?_
    extract_lets now due due' r s1
    have hr : r.1.memOk := State.takePacks_memOk (State.updYard_memOk hs)
    have h1 : s1.memOk := State.updYard_memOk hr
    refine SomeOk.ite trivial (SomeOk.ite trivial ?_)
    exact ite_memOk (State.updYard_memOk h1) h1

theorem State.yardTimer_memOk {s : State} {die num : Nat} (hs : s.memOk) : SomeOk (s.yardTimer die num) := by
  unfold State.yardTimer
  split
  next => trivial
  next =>
    split
    next => trivial
    next => exact hs

theorem State.placeTeam_memOk {s : State} {l : Launch} {r : LaunchRef} {node : Nat} {t : Team} {c : Nat} (hs : s.memOk) :
    SomeOk (s.placeTeam l r node t c) := by
  unfold State.placeTeam
  dsimp only
  split
  next => trivial
  next =>
    split
    next =>
      split
      next => trivial
      next => exact State.startTrain_memOk (State.updLaunch_memOk hs)
    next => trivial

theorem State.teamPlace_memOk {s : State} {die num : Nat} (hs : s.memOk) : SomeOk (s.teamPlace die num) := by
  unfold State.teamPlace
  split
  next => trivial
  next =>
    split
    next =>
      split
      next => trivial
      next => exact SomeOk.findSome (fun _ => State.placeTeam_memOk hs)
    next => trivial

theorem State.yardReplay_memOk {s : State} {l : Launch} {r : LaunchRef} {die node : Nat} {d : Diverted} {bs : List Byte} {src : Word} (hs : s.memOk) :
    SomeOk (s.yardReplay l r die node d bs src) := by
  unfold State.yardReplay
  split
  next => trivial
  next =>
    split
    next => trivial
    next =>
      split
      next h3 => exact State.unDivert_memOk (YardRes.memOk.seated h3 (State.takeRecord_memOk hs))
      next => exact State.launchFault_memOk hs
      next => exact State.updYard_memOk (State.raisePage_memOk hs)
      next => trivial

theorem State.sidingReplay_memOk {s : State} {p id die : Nat} (hs : s.memOk) : SomeOk (s.sidingReplay p id die) := by
  unfold State.sidingReplay
  dsimp only
  split
  next => trivial
  next =>
    split
    next => trivial
    next =>
      refine SomeOk.orElse ?_ ?_
      · refine SomeOk.findSome ?_
        intro _
        split
        next =>
          split
          next => exact SomeOk.mapState (State.queueRec_memOk hs) (fun _ h5 => State.unDivert_memOk h5)
          next => trivial
        next => trivial
      · refine SomeOk.orElse ?_ ?_
        · refine SomeOk.bind ?_
          intro _
          split
          next => trivial
          next => exact State.replayToken_memOk hs
        · refine SomeOk.orElse ?_ ?_
          · refine SomeOk.findSome ?_
            intro _
            split
            next =>
              split
              next => exact State.yardReplay_memOk hs
              next => trivial
            next => trivial
          · refine SomeOk.bind ?_
            intro _
            split
            next => trivial
            next =>
              split
              next h4 => exact State.unDivert_memOk (FrameDel.memOk.gone h4 (State.frameDeliver_memOk hs))
              next => trivial

/-! ## Completion, stalls and the end of FAULTED launches (Machine/LaunchEnd.lean) -/

theorem State.performStores_memOk {s : State} {r : LaunchRef} (hs : s.memOk) : (s.performStores r).memOk := by
  refine foldl_memOk hs ?_
  intro _ _ h1
  split
  next => exact State.drainN_memOk h1
  next => exact h1

theorem State.reclaim_memOk {s : State} {r : LaunchRef} {c p tiles : Nat} (hs : s.memOk) : (s.reclaim r c p tiles).memOk := State.updLaunch_memOk hs

theorem State.reportLeak_memOk {s : State} {r : LaunchRef} {l : Launch} {c p tiles reads : Nat} (hs : s.memOk) :
    SomeOk (s.reportLeak r l c p tiles reads) := by
  unfold State.reportLeak
  split
  next => exact State.reclaim_memOk (State.launchQueue_memOk hs)
  next =>
    split
    next => exact State.updLaunch_memOk (State.ringPage_memOk hs)
    next h2 => exact State.reclaim_memOk (RingRes.memOk.ok h2 (State.ringWrite_memOk hs))
    next => trivial
    next => exact State.reclaim_memOk (State.faultRecord_memOk hs)

theorem State.returnCore_memOk {s : State} {r : LaunchRef} {l : Launch} {c : Nat} (hs : s.memOk) : (s.returnCore r l c).memOk :=
  State.updCore_memOk (foldl_memOk hs (fun _ _ h1 => State.queueKill_memOk h1))

theorem State.returnAll_memOk {s : State} {r : LaunchRef} {l : Launch} (hs : s.memOk) : (s.returnAll r l).memOk :=
  State.mk_memOk (foldl_memOk hs (fun _ _ h1 => State.returnCore_memOk h1))

theorem State.stepFault_memOk {s : State} {r : LaunchRef} {l : Launch} {code va : Nat} (hs : s.memOk) : (s.stepFault r l code va).memOk :=
  State.partFaultRecord_memOk hs

theorem State.stepPage_memOk {s : State} {r : LaunchRef} {l : Launch} {va kind lv : Nat} (hs : s.memOk) : (s.stepPage r l va kind lv).memOk :=
  State.updLaunch_memOk (State.raisePage_memOk hs)

theorem State.fillCaddr_memOk {s : State} {r : LaunchRef} {l : Launch} (hs : s.memOk) : (s.fillCaddr r l).memOk := by
  unfold State.fillCaddr
  dsimp only
  split
  next => exact State.updLaunch_memOk hs
  next =>
    split
    next => exact State.updLaunch_memOk (State.stepFault_memOk hs)
    next =>
      split
      next =>
        split
        next => exact State.updLaunch_memOk hs
        next => exact State.updLaunch_memOk (State.futFill_memOk hs)
      next => exact State.updLaunch_memOk (State.stepFault_memOk hs)
      next => exact State.stepPage_memOk hs

theorem State.signalSucc_memOk {s : State} {r : LaunchRef} {l : Launch} (hs : s.memOk) : (s.signalSucc r l).memOk := by
  unfold State.signalSucc
  dsimp only
  split
  next => exact State.updLaunch_memOk hs
  next =>
    split
    next => exact State.updLaunch_memOk (State.stepFault_memOk hs)
    next =>
      split
      next => exact State.updLaunch_memOk (State.ctrNow_memOk hs)
      next => exact State.updLaunch_memOk (State.stepFault_memOk hs)
      next => exact State.stepPage_memOk hs

theorem State.postNotice_memOk {s : State} {r : LaunchRef} {l : Launch} (hs : s.memOk) : SomeOk (s.postNotice r l) := by
  unfold State.postNotice
  split
  next => exact State.updLaunch_memOk hs
  next =>
    dsimp only
    split
    next => trivial
    next => exact State.updLaunch_memOk (State.notify_memOk (State.updPart_memOk (State.physPut_memOk hs)))

theorem State.dropLaunch_memOk {s : State} {r : LaunchRef} {l : Launch} (hs : s.memOk) : (s.dropLaunch r l).memOk := by
  refine State.updPart_memOk ?_
  refine foldl_memOk ?_ (fun _ _ h1 => State.physPut_memOk h1)
  refine foldl_memOk hs ?_
  intro _ _ h1
  refine foldl_memOk h1 ?_
  intro _ _ h2
  refine State.unDivert_memOk ?_
  split
  next => exact State.discardFor_memOk h2
  next => exact State.frameLanded_memOk (State.discardFor_memOk h2)
  next => exact h2

theorem State.closeBuilders_memOk {s : State} {r : LaunchRef} (hs : s.memOk) : SomeOk (s.closeBuilders r) := by
  unfold State.closeBuilders
  dsimp only
  split
  next => trivial
  next => exact foldl_memOk hs (fun _ _ h2 => h2)

theorem State.complete_memOk {s : State} {p id : Nat} (hs : s.memOk) : SomeOk (s.complete p id) := by
  unfold State.complete
  dsimp only
  split
  next => trivial
  next =>
    split
    next => trivial
    next =>
      split
      next =>
        split
        next => exact State.updLaunch_memOk hs
        next =>
          split
          next => trivial
          next => exact State.closeBuilders_memOk hs
      next =>
        split
        next => trivial
        next =>
          split
          next =>
            split
            next => exact State.closeBuilders_memOk hs
            next =>
              split
              next => exact State.performStores_memOk hs
              next =>
                split
                next => exact State.reportLeak_memOk hs
                next => exact State.updLaunch_memOk hs
          next => exact State.updLaunch_memOk (State.returnAll_memOk hs)
          next =>
            split
            next => exact State.faultLaunch_memOk (State.performStores_memOk hs)
            next => exact State.updLaunch_memOk (State.performStores_memOk hs)
          next => exact State.fillCaddr_memOk hs
          next =>
            split
            next => exact State.signalSucc_memOk hs
            next => exact State.updLaunch_memOk hs
          next =>
            split
            next => trivial
            next => exact State.postNotice_memOk hs
          next =>
            split
            next => trivial
            next => exact State.dropLaunch_memOk hs

theorem State.freeLaunchCore_memOk {s : State} {r : LaunchRef} {c : Nat} (hs : s.memOk) : (s.freeLaunchCore r c).memOk :=
  foldl_memOk hs (fun _ _ h1 => State.completeFree_memOk h1)

theorem State.endLaunch_memOk {s : State} {r : LaunchRef} (hs : s.memOk) : (s.endLaunch r).memOk := by
  refine SomeOk.getD ?_ (State.updLaunch_memOk (State.mk_memOk (foldl_memOk hs (fun _ _ h1 => State.freeLaunchCore_memOk h1))))
  refine State.closeBuilders_memOk ?_
  exact State.updLaunch_memOk (State.mk_memOk (foldl_memOk hs (fun _ _ h1 => State.freeLaunchCore_memOk h1)))

theorem State.autoEnd_memOk {s : State} {p id : Nat} (hs : s.memOk) : SomeOk (s.autoEnd p id) := by
  unfold State.autoEnd
  dsimp only
  split
  next =>
    split
    next => exact State.endLaunch_memOk hs
    next => trivial
  next => trivial

theorem State.stallOut_memOk {s : State} {p id : Nat} (hs : s.memOk) : SomeOk (s.stallOut p id) := by
  unfold State.stallOut
  split
  next =>
    dsimp only
    split <;> trivial
  next =>
    dsimp only
    split
    next => trivial
    next =>
      split
      next => exact State.launchFault_memOk hs
      next => trivial

/-! ## Walks, page responses and TLB invalidation (Machine/Pages.lean) -/

theorem State.failReplays_memOk {s : State} {c asid : Nat} {units : List Nat} (hs : s.memOk) : (s.failReplays c asid units).memOk := by
  refine foldl_memOk hs ?_
  intro _ _ h1
  split
  next => exact h1
  next =>
    dsimp only
    split
    next => exact h1
    next =>
      split
      next => exact State.replayFault_memOk h1
      next => exact h1

theorem State.answerYards_memOk {s : State} {asid : Nat} {hit : Nat → Bool} {fail : Bool} (hs : s.memOk) : (s.answerYards asid hit fail).memOk := by
  refine foldl_memOk hs ?_
  intro _ _ h1
  refine foldl_memOk h1 ?_
  intro _ _ h2
  split
  next =>
    split
    next =>
      split
      next => exact State.updLaunch_memOk h2
      next => exact h2
    next => exact h2
  next => exact h2

theorem State.answerQueues_memOk {s : State} {c asid : Nat} {hit : Nat → Bool} {fail : Bool} (hs : s.memOk) :
    (s.answerQueues c asid hit fail).memOk :=
  foldl_memOk hs (fun _ _ h1 => State.queueStir_memOk h1)

theorem State.answerEngines_memOk {s : State} {on : Nat → Bool} {asid : Nat} {hit : Nat → Bool} {fail : Bool} (hs : s.memOk) :
    (s.answerEngines on asid hit fail).memOk :=
  hs

theorem State.answerAll_memOk {s : State} {asid : Nat} {reqs : List PageReq} {fail : Bool} (hs : s.memOk) : (s.answerAll asid reqs fail).memOk := by
  refine foldl_memOk ?_ ?_
  · refine foldl_memOk (State.answerYards_memOk hs) ?_
    intro _ _ h1
    split
    next =>
      split
      next => exact State.failReplays_memOk h1
      next => exact h1
    next =>
      split
      next => exact State.failReplays_memOk (State.answerQueues_memOk h1)
      next => exact State.answerQueues_memOk h1
  · intro _ _ h1
    split
    next => exact h1
    next => exact State.retryFirings_memOk h1

theorem State.answerReqs_memOk {s : State} {p asid : Nat} {sel : PageReq → Bool} {fail : Bool} (hs : s.memOk) :
    (s.answerReqs p asid sel fail).memOk := by
  unfold State.answerReqs
  dsimp only
  split
  next => exact hs
  next => exact State.answerAll_memOk hs

theorem State.applyEarly_memOk {s : State} {p asid unit : Nat} (hs : s.memOk) : (s.applyEarly p asid unit).memOk :=
  foldl_memOk hs (fun _ _ h1 => State.answerReqs_memOk h1)

theorem State.walkLeaf_memOk {s : State} {c asid : Nat} {own : Bool} {x : TlbEntry} (hs : s.memOk) : (s.walkLeaf c asid own x).memOk :=
  State.answerEngines_memOk (foldl_memOk (foldl_memOk hs (fun _ _ h1 => h1)) (fun _ _ h1 => h1))

theorem State.walkOne_memOk {s : State} {c : Nat} (hs : s.memOk) : SomeOk (s.walkOne c) := by
  unfold State.walkOne
  split
  next => trivial
  next =>
    split
    next => exact State.walkLeaf_memOk hs
    next => exact State.answerEngines_memOk (foldl_memOk hs (fun _ _ h3 => State.failReplays_memOk h3))
    next =>
      split
      next => exact hs
      next => exact State.applyEarly_memOk (State.raisePage_memOk hs)

theorem State.pageResponse_memOk {s : State} {p : Nat} {w : Word} (hs : s.memOk) : (s.pageResponse p w).memOk := by
  unfold State.pageResponse
  split
  next => exact hs
  next => exact State.answerReqs_memOk hs

theorem State.pageTimeout_memOk {s : State} {p : Nat} (hs : s.memOk) : SomeOk (s.pageTimeout p) := by
  unfold State.pageTimeout
  dsimp only
  split
  next => trivial
  next => exact SomeOk.map (fun _ => State.answerReqs_memOk hs)

theorem State.tlbInvWrite_memOk {s : State} {p : Nat} {w : Word} (hs : s.memOk) : (s.tlbInvWrite p w).memOk := by
  unfold State.tlbInvWrite
  split <;> exact hs

theorem State.tlbInvDone_memOk {s : State} {p : Nat} (hs : s.memOk) : SomeOk (s.tlbInvDone p) := by
  unfold State.tlbInvDone
  split
  next => trivial
  next => exact hs

/-! ## The partition registers (Machine/SysOps.lean) -/

theorem State.setPState_memOk {s : State} {p : Nat} {st : PState} (hs : s.memOk) : (s.setPState p st).memOk := by
  unfold State.setPState
  split <;> exact hs

theorem State.idleWrite_memOk {s : State} {p : Nat} {f : Partition → Partition} (hs : s.memOk) : (s.idleWrite p f).memOk := by
  unfold State.idleWrite
  split <;> exact hs

theorem State.prqCtlWrite_memOk {s : State} {p : Nat} {w : Word} (hs : s.memOk) : (s.prqCtlWrite p w).memOk := by
  unfold State.prqCtlWrite
  dsimp only
  split
  next => exact State.flushPreqs_memOk hs
  next =>
    split
    next => exact hs
    next => exact State.flushPreqs_memOk hs

theorem State.prqBaseWrite_memOk {s : State} {p : Nat} {w : Word} (hs : s.memOk) : (s.prqBaseWrite p w).memOk := by
  unfold State.prqBaseWrite
  dsimp only
  split <;> exact hs

theorem State.ssLenWrite_memOk {s : State} {p c : Nat} {w : Word} (hs : s.memOk) : (s.ssLenWrite p c w).memOk := by
  unfold State.ssLenWrite
  split
  next => exact hs
  next =>
    split <;> exact hs

theorem State.sidCtlWrite_memOk {s : State} {p : Nat} {w : Word} (hs : s.memOk) : (s.sidCtlWrite p w).memOk := by
  unfold State.sidCtlWrite
  split
  next => exact hs
  next =>
    dsimp only
    split <;> exact hs

theorem State.writeSreg_memOk {s : State} {p c n : Nat} {w : Word} (hs : s.memOk) : (s.writeSreg p c n w).memOk := by
  unfold State.writeSreg
  split
  next => exact State.ssLenWrite_memOk hs
  next => exact hs
  next => exact hs
  next => exact hs
  next => exact hs
  next =>
    split <;> exact hs
  next => exact hs
  next => exact hs
  next => exact State.idleWrite_memOk hs
  next => exact State.idleWrite_memOk hs
  next => exact State.idleWrite_memOk hs
  next => exact State.prqBaseWrite_memOk hs
  next => exact State.prqCtlWrite_memOk hs
  next => exact State.pageResponse_memOk hs
  next => exact hs
  next => exact State.tlbInvWrite_memOk hs
  next => exact hs
  next => exact hs
  next => exact hs
  next => exact hs
  next => exact hs
  next => exact hs
  next => exact hs
  next => exact hs
  next => exact hs
  next => exact hs
  next => exact State.idleWrite_memOk hs
  next => exact State.sidCtlWrite_memOk hs
  next => exact hs

theorem State.haltCmd_memOk {s : State} {p : Nat} (hs : s.memOk) : (s.haltCmd p).memOk := by
  unfold State.haltCmd
  dsimp only
  split
  next => exact hs
  next =>
    split
    next => exact hs
    next => exact State.setPState_memOk hs

/-! ## Class SYS (Machine/Sys.lean) -/

theorem State.modeSeat_memOk {s : State} {c : Nat} {t : Train} {m : Nat} {x : Seat} (hs : s.memOk) : (s.modeSeat c t m x).1.memOk := by
  unfold State.modeSeat
  dsimp only
  split <;> exact hs

theorem execMode_memOk {a b : BitVec 8} {m : BitVec 2} {s : State} (hs : s.memOk) : NextOk (execMode a b m s) := by
  refine withTrain_memOk ?_
  intro _ _
  split
  next h1 => exact PreRes.memOk.hold h1 (State.prepare_memOk hs)
  next h1 =>
    refine State.finishLanes_memOk ?_
    refine foldl_fst_memOk ?_ (fun _ _ h2 => State.takeFault_memOk h2)
    exact foldl_fst_memOk (PreRes.memOk.go h1 (State.prepare_memOk hs)) (fun _ _ h2 => State.modeSeat_memOk h2)

theorem State.evtCount_memOk {s : State} {c p k : Nat} (hs : s.memOk) : (s.evtCount c p k).memOk := by
  unfold State.evtCount
  split <;> exact hs

theorem State.brkRecord_memOk {s : State} {c : Nat} {t : Train} {i : Nat} (hs : s.memOk) : (s.brkRecord c t i).memOk := by
  unfold State.brkRecord
  split
  next => exact hs
  next => exact State.notify_memOk (State.faultRecord_memOk hs)

theorem execBrk_memOk {i : BitVec 16} {s : State} (hs : s.memOk) : NextOk (execBrk i s) := by
  refine withTrain_memOk ?_
  intro _ _
  split
  next => exact hs
  next =>
    split
    next => exact hs
    next => exact State.holdTrain_memOk (State.haltCmd_memOk (State.brkRecord_memOk hs))

theorem execSregr_memOk {a : BitVec 8} {n : BitVec 16} {s : State} (hs : s.memOk) : NextOk (execSregr a n s) := by
  refine withTrain_memOk ?_
  intro _ _
  split
  next => exact State.faultAll_memOk hs
  next =>
    split
    next => exact State.faultAll_memOk hs
    next => exact laneNow_memOk hs

theorem execSregw_memOk {n : BitVec 16} {s : State} (hs : s.memOk) : NextOk (execSregw n s) := by
  refine withTrain_memOk ?_
  intro _ _
  split
  next => exact State.faultAll_memOk hs
  next =>
    split
    next => exact State.faultAll_memOk hs
    next =>
      split
      next => exact hs
      next => exact State.retireUid_memOk (State.writeSreg_memOk hs)

/-! ## Commands to a partition (Machine/Control.lean) -/

theorem State.leaveQueues_memOk {s : State} {c uid : Nat} (hs : s.memOk) : (s.leaveQueues c uid).memOk := State.mk_memOk (ite_memOk hs hs)

theorem State.takeTrain_memOk {s : State} {c : Nat} {t : Train} (hs : s.memOk) : (s.takeTrain c t).memOk :=
  State.updCore_memOk (State.leaveQueues_memOk (foldl_memOk hs (fun _ _ h1 => h1)))

theorem State.takeTrains_memOk {s : State} {p : Nat} {sel : State → Nat → Train → Bool} (hs : s.memOk) : (s.takeTrains p sel).memOk := by
  exact foldl_memOk hs (fun _ _ h1 => foldl_memOk h1 (fun _ _ h2 => State.takeTrain_memOk h2))

theorem State.resumeTimers_memOk {s : State} {p : Nat} (hs : s.memOk) : (s.resumeTimers p).memOk := by
  unfold State.resumeTimers
  dsimp only
  split <;> exact hs

theorem State.preemptCmd_memOk {s : State} {p : Nat} (hs : s.memOk) : (s.preemptCmd p).memOk := by
  unfold State.preemptCmd
  dsimp only
  split
  next =>
    split
    next => exact hs
    next =>
      split
      next => exact hs
      next => exact State.setPState_memOk hs
  next =>
    split
    next => exact State.setPState_memOk hs
    next => exact State.takeTrains_memOk (State.setPState_memOk hs)
  next => exact hs

theorem State.restoreCmd_memOk {s : State} {p : Nat} (hs : s.memOk) : (s.restoreCmd p).memOk := by
  unfold State.restoreCmd
  split
  next => exact State.setPState_memOk hs
  next => exact hs

theorem State.resumeCmd_memOk {s : State} {p : Nat} (hs : s.memOk) : (s.resumeCmd p).memOk := by
  unfold State.resumeCmd
  split
  next => exact hs
  next => exact State.setPState_memOk (State.mk_memOk (State.resumeTimers_memOk hs))

theorem State.endCmd_memOk {s : State} {p id : Nat} (hs : s.memOk) : (s.endCmd p id).memOk := by
  unfold State.endCmd
  dsimp only
  split
  next =>
    split
    next => exact State.endLaunch_memOk hs
    next => exact hs
  next => exact hs

theorem State.pctlWrite_memOk {s : State} {p : Nat} {w : Word} (hs : s.memOk) : (s.pctlWrite p w).memOk := by
  unfold State.pctlWrite
  dsimp only
  split
  next => exact hs
  next =>
    split
    next => exact State.preemptCmd_memOk hs
    next => exact State.restoreCmd_memOk hs
    next => exact State.haltCmd_memOk hs
    next => exact State.resumeCmd_memOk hs
    next => exact State.endCmd_memOk hs
    next => exact hs

theorem State.hostReg_memOk {s : State} {p c n : Nat} {w : Word} (hs : s.memOk) : (s.hostReg p c n w).memOk := by
  unfold State.hostReg
  split
  next => exact State.pctlWrite_memOk hs
  next => exact State.writeSreg_memOk hs

theorem State.closeOne_memOk {s : State} {p : Nat} (hs : s.memOk) : SomeOk (s.closeOne p) := by
  unfold State.closeOne
  split
  next => trivial
  next =>
    refine SomeOk.findSome ?_
    intro _
    refine SomeOk.findSome ?_
    intro _
    split
    next => exact SomeOk.map (fun _ => hs)
    next => trivial

theorem State.drainTake_memOk {s : State} {p : Nat} (hs : s.memOk) : SomeOk (s.drainTake p) := by
  unfold State.drainTake
  split
  next => exact State.takeTrains_memOk hs
  next => exact State.closeOne_memOk hs

theorem State.drainLimit_memOk {s : State} {p : Nat} (hs : s.memOk) : SomeOk (s.drainLimit p) := by
  unfold State.drainLimit
  dsimp only
  split
  next => trivial
  next =>
    refine foldl_memOk (State.takeTrains_memOk hs) ?_
    intro _ _ h2
    split
    next h3 => exact State.updCluster_memOk (SomeOk.some h3 (State.fabReplay_memOk h2))
    next => exact h2

theorem State.saveStart_memOk {s : State} {p : Nat} (hs : s.memOk) : SomeOk (s.saveStart p) := by
  unfold State.saveStart
  split
  next => exact State.setPState_memOk hs
  next => trivial

theorem State.saveImages_memOk {s : State} {p : Nat} (hs : s.memOk) : (s.saveImages p).memOk := by
  unfold State.saveImages
  dsimp only
  split
  next =>
    refine State.updPart_memOk ?_
    refine State.mk_memOk ?_
    refine foldl_wf hs ?_
    intro _ _ h2
    split
    next => exact Memory.write_wf h2
    next => exact h2
  next =>
    refine State.physFault_memOk ?_
    refine State.updPart_memOk ?_
    refine State.mk_memOk ?_
    refine foldl_wf hs ?_
    intro _ _ h2
    split
    next => exact Memory.write_wf h2
    next => exact h2

theorem State.saveDone_memOk {s : State} {p : Nat} (hs : s.memOk) : SomeOk (s.saveDone p) := by
  unfold State.saveDone
  split
  next => exact State.setPState_memOk (State.saveImages_memOk hs)
  next => trivial

theorem State.imageLost_memOk {s : State} {cl : Nat} (hs : s.memOk) : (s.imageLost cl).memOk :=
  foldl_memOk hs (fun _ _ h1 => State.faultNow_memOk h1)

theorem State.loadDone_memOk {s : State} {p : Nat} (hs : s.memOk) : SomeOk (s.loadDone p) := by
  unfold State.loadDone
  dsimp only
  split
  next => trivial
  next =>
    refine foldl_memOk ?_ (fun _ _ h2 => foldl_memOk h2 (fun _ _ h3 => State.queueSettle_memOk h3))
    refine State.setPState_memOk ?_
    exact State.updPart_memOk (State.resumeTimers_memOk (foldl_memOk hs (fun _ _ h2 => State.imageLost_memOk h2)))

theorem State.haltDone_memOk {s : State} {p : Nat} (hs : s.memOk) : SomeOk (s.haltDone p) := by
  unfold State.haltDone
  dsimp only
  split
  next => exact State.setPState_memOk hs
  next => trivial

theorem State.closeAll_memOk {s : State} {p : Nat} (hs : s.memOk) : SomeOk (s.closeAll p) := by
  unfold State.closeAll
  dsimp only
  split
  next => trivial
  next => exact foldl_memOk hs (fun _ _ h2 => h2)

theorem State.ttHalt_memOk {s : State} {p : Nat} (hs : s.memOk) : SomeOk (s.ttHalt p) := by
  unfold State.ttHalt
  split
  next => exact State.setPState_memOk hs
  next => trivial

/-! ## The link engine between instructions (Machine/NetRun.lean) -/

theorem State.frameArrive_memOk {s : State} {c : Nat} {f : RowFrame} {ctx : Option LaunchRef} (hs : s.memOk) : (s.frameArrive c f ctx).memOk := by
  unfold State.frameArrive
  extract_lets fr die side
  have hside : (side ()).memOk := by
    unfold side
    split
    next => exact State.divert_memOk hs
    next =>
      split
      next h => exact State.divert_memOk (SomeFstOk.some h (State.takeCredit_memOk hs))
      next => exact State.updCore_memOk hs
  clear_value side
  refine ite_memOk hside ?_
  split
  next h => exact State.giveCredit_memOk (FrameDel.memOk.gone h (State.frameDeliver_memOk hs))
  next => exact hside

theorem State.chargePeer_memOk {s : State} {c n dev : Nat} {src tag : Word} (hs : s.memOk) : SomeFstOk (s.chargePeer c n dev src tag) := by
  unfold State.chargePeer
  dsimp only
  split
  next => exact hs
  next => exact SomeFstOk.mapFst (State.takeLent_memOk hs) (fun _ h2 => h2)

theorem State.framesDue_memOk {s : State} {c : Nat} (hs : s.memOk) : SomeOk (s.framesDue c) := by
  unfold State.framesDue
  dsimp only
  split
  next => trivial
  next => exact foldl_memOk hs (fun _ _ h2 => State.frameArrive_memOk h2)

theorem State.frameGo_memOk {s : State} {c b : Nat} {tt : Bool} {f : RowFrame} (hs : s.memOk) : SomeOk (s.frameGo c b tt f) := by
  unfold State.frameGo
  split
  next =>
    dsimp only
    split
    next =>
      split
      next => trivial
      next => exact SomeOk.mapState (State.spendCredit_memOk hs) (fun _ h4 => h4)
    next =>
      split
      next => exact State.frameArrive_memOk hs
      next =>
        split
        next h4 => exact State.frameArrive_memOk (SomeFstOk.some h4 (State.takeCredit_memOk hs))
        next => trivial
  next =>
    dsimp only
    split
    next =>
      split
      next => trivial
      next => exact SomeOk.mapState (State.spendCredit_memOk hs) (fun _ h4 => h4)
    next =>
      split
      next => exact hs
      next =>
        split
        next h4 => exact State.updCore_memOk (State.draw_memOk (SomeFstOk.some h4 (State.takeCredit_memOk hs)))
        next => trivial

theorem State.frameSend_memOk {s : State} {c b : Nat} (hs : s.memOk) : SomeOk (s.frameSend c b) := by
  unfold State.frameSend
  dsimp only
  split
  next => trivial
  next =>
    split
    next => trivial
    next => exact SomeOk.mapState (State.frameGo_memOk hs) (fun _ h3 => foldl_memOk h3 (fun _ _ h4 => h4))

theorem State.fillTimer_memOk {s : State} {c b : Nat} (hs : s.memOk) : SomeOk (s.fillTimer c b) := by
  unfold State.fillTimer
  dsimp only
  split
  next => trivial
  next =>
    split
    next => exact SomeOk.map (fun _ => hs)
    next => trivial

theorem State.releaseHeld_memOk {s : State} {c dev : Nat} {ps : List Parcel} {stuck : List (Nat × Option LaunchRef × Nat)} (hs : s.memOk) :
    (s.releaseHeld c dev ps stuck).memOk := by
  induction ps generalizing s stuck with
  | nil => exact hs
  | cons p ps ih =>
    unfold State.releaseHeld
    extract_lets key keep
    have hkeep : (keep s).memOk := State.updCore_memOk hs
    clear_value keep
    refine ite_memOk (ih hkeep) (ite_memOk ?_ ?_)
    · split
      next h => exact ih (SomeOk.some h (State.sendRemote_memOk hs))
      next => exact ih hkeep
    · split
      next => exact ih (State.draw_memOk (State.fly_memOk hs))
      next =>
        split
        next h => exact ih (State.draw_memOk (State.fly_memOk (SomeFstOk.some h (State.takeCredit_memOk hs))))
        next => exact ih hkeep

theorem State.creditLend_memOk {s : State} {c n : Nat} (hs : s.memOk) : SomeOk (s.creditLend c n) := by
  unfold State.creditLend
  dsimp only
  split
  next => trivial
  next =>
    split
    next h2 => exact State.giveCredit_memOk (SomeFstOk.some h2 (State.takeCredit_memOk hs))
    next => trivial

theorem State.heldGo_memOk {s : State} {c dev : Nat} (hs : s.memOk) : SomeOk (s.heldGo c dev) := by
  unfold State.heldGo
  split
  next =>
    dsimp only
    split
    next => trivial
    next =>
      split
      next => trivial
      next => exact State.releaseHeld_memOk hs
  next =>
    dsimp only
    split
    next => trivial
    next =>
      split
      next => trivial
      next => exact State.releaseHeld_memOk hs

theorem State.creditGrant_memOk {s : State} {c dev n : Nat} (hs : s.memOk) : SomeOk (s.creditGrant c dev n) := by
  unfold State.creditGrant
  split
  next =>
    split
    next => exact State.heldGo_memOk hs
    next => exact State.creditLend_memOk hs
  next =>
    split
    next => trivial
    next =>
      split
      next => exact State.heldGo_memOk hs
      next => exact SomeOk.getD (State.heldGo_memOk hs) hs

theorem State.queueDue_memOk {s : State} {c : Nat} (hs : s.memOk) : SomeOk (s.queueDue c) := by
  unfold State.queueDue
  dsimp only
  split
  next => trivial
  next => exact foldl_memOk hs (fun _ _ h2 => State.queueArrive_memOk h2)

theorem State.queueReplied_memOk {s : State} {c ser code : Nat} (hs : s.memOk) : SomeOk (s.queueReplied c ser code) := by
  unfold State.queueReplied
  split
  next =>
    dsimp only
    split
    next => exact hs
    next => trivial
  next =>
    dsimp only
    split
    next => trivial
    next =>
      split
      next h3 => exact SomeOk.some h3 (State.queueAnswer_memOk hs)
      next =>
        split
        next => exact State.queuePage_memOk hs
        next => exact State.updCore_memOk (SomeOk.getD (State.queuePage_memOk hs) hs)

theorem State.sidingRetry_memOk {s : State} {c n : Nat} (hs : s.memOk) : SomeOk (s.sidingRetry c n) := by
  unfold State.sidingRetry
  dsimp only
  split
  next => exact State.queueSettle_memOk hs
  next => trivial

theorem State.cycleRecords_memOk {s : State} {ns : List Nat} (hs : s.memOk) : (s.cycleRecords ns).memOk := by
  refine foldl_memOk hs ?_
  intro _ _ h1
  split
  next => exact State.faultRecord_memOk h1
  next => exact h1

theorem State.cycleScan_memOk {s : State} (hs : s.memOk) : s.cycleScan.memOk :=
  foldl_memOk (State.mk_memOk (foldl_memOk hs (fun _ _ h1 => State.cycleRecords_memOk h1))) (fun _ _ h1 => h1)

theorem State.cycleScanDue_memOk {s : State} (hs : s.memOk) : SomeOk s.cycleScanDue := by
  unfold State.cycleScanDue
  split
  next => trivial
  next => exact State.mk_memOk (State.cycleScan_memOk hs)

theorem State.edgesArrive_memOk {s : State} {es : List (Nat × Nat)} (hs : s.memOk) : SomeOk (s.edgesArrive es) := by
  unfold State.edgesArrive
  split
  next => trivial
  next =>
    split
    next => trivial
    next => exact hs

theorem State.peerRequest_memOk {s : State} {dev id pa : Nat} {q : PeerReq} (hs : s.memOk) : SomeOk (s.peerRequest dev id pa q) := by
  unfold State.peerRequest
  refine SomeOk.ite trivial ?_
  extract_lets answer n sp
  have ha {st : State} {code : Nat} {data : List Byte} (h : st.memOk) : SomeOk (answer st code data) := State.emit_memOk h
  clear_value answer
  refine SomeOk.ite (ha hs) (SomeOk.ite (ha hs) ?_)
  cases q with
  | read => exact ha hs
  | write => exact ha (ite_memOk (State.mk_memOk (Memory.write_wf hs)) (State.pathWrite_memOk hs))
  | mxRead => exact ha hs
  | mxWrite =>
    exact ha (ite_memOk (State.mk_memOk (Memory.write_wf (Memory.write_wf hs))) (State.pathWrite_memOk (State.pathWrite_memOk hs)))
  | rmw => exact ha (State.mk_memOk (Memory.writeNat_wf hs))
  | futRead => exact SomeOk.ite (ha (ite_memOk (State.futClear_memOk hs) hs)) (SomeOk.ite (ha hs) (ha hs))
  | futWrite fill =>
    cases fill with
    | none => exact ha (State.futClear_memOk hs)
    | some => exact ha (State.futFill_memOk hs)

theorem State.peerFault_memOk {s : State} {q : RemoteReq} {code : Nat} (hs : s.memOk) : (s.peerFault q code).memOk := by
  unfold State.peerFault
  split
  next => exact State.partFaultRecord_memOk hs
  next =>
    split
    next => exact State.failOp_memOk (State.putTrain_memOk (State.takeFault_memOk hs))
    next => exact State.failOp_memOk (State.faultNow_memOk hs)

theorem State.unitFault_memOk {s : State} {q : RemoteReq} {code : Nat} (hs : s.memOk) : (s.unitFault q code).memOk := by
  unfold State.unitFault
  dsimp only
  split
  next => exact hs
  next =>
    split <;> exact hs

theorem State.partGot_memOk {s : State} {q : RemoteReq} {rest : MxPart} {last : List Byte → RKind} (hs : s.memOk) :
    (s.partGot q rest last).1.memOk := by
  unfold State.partGot
  split
  next =>
    split
    next => exact State.pathWrite_memOk hs
    next => exact State.mk_memOk (Memory.write_wf hs)
  next => exact hs
  next => exact hs

theorem State.unitAnswer_memOk {s : State} {q : RemoteReq} {code : Nat} {data : List Byte} (hs : s.memOk) : (s.unitAnswer q code data).memOk := by
  unfold State.unitAnswer
  extract_lets s1 got put
  have h1 : s1.memOk := State.updEng_memOk hs
  have hgot {bs : List Byte} : (got bs).memOk := State.updEng_memOk h1
  have hput {st : State} (h : st.memOk) : (put st).memOk := ite_memOk (State.copyAnswered_memOk h) (ite_memOk (State.unitFault_memOk h) h)
  clear_value got put s1
  generalize q.kind = kind
  cases kind with
  | engRead => exact ite_memOk (State.unitFault_memOk h1) hgot
  | engMx =>
    refine ite_memOk (State.unitFault_memOk h1) ?_
    split
    next => exact hgot
    next => exact State.unitFault_memOk h1
    next => exact State.follow_memOk hs
  | engPart =>
    refine ite_memOk (hput h1) ?_
    split
    next h => exact memOk_of_eq_fst h (State.partGot_memOk hs)
    next h => exact hput (State.updEng_memOk (memOk_of_eq_fst h (State.partGot_memOk hs)))
  | _ => exact hput h1

theorem State.blockFault_memOk {s : State} {q : RemoteReq} {ms : List MxSeat} {code : Nat} (hs : s.memOk) : (s.blockFault q ms code).memOk :=
  State.updCore_memOk (State.peerFault_memOk hs)

theorem State.blockAnswer_memOk {s : State} {q : RemoteReq} {f : Nat} {ms : List MxSeat} {rest : MxRest} {data : List Byte} (hs : s.memOk) :
    (s.blockAnswer q f ms rest data).memOk := by
  unfold State.blockAnswer
  split
  next => exact hs
  next => exact State.blockFault_memOk hs
  next => exact hs

theorem State.peerResponse_memOk {s : State} {id code : Nat} {data : List Byte} (hs : s.memOk) : SomeOk (s.peerResponse id code data) := by
  unfold State.peerResponse
  split
  next => trivial
  next q _ =>
    extract_lets _ s0 s1 _ _ land
    have h0 : s0.memOk := hs
    have h1 : s1.memOk := ite_memOk (State.answered_memOk h0) (State.notDone_memOk h0)
    have hland : (land s1).memOk := State.updCore_memOk h1
    clear_value land s1 s0
    refine SomeOk.ite trivial (SomeOk.ite (State.sendFreed_memOk (State.unitAnswer_memOk h0)) ?_)
    refine State.sendFreed_memOk ?_
    generalize q.kind = kind
    cases kind with
    | write | mxWrite => exact ite_memOk (State.endOp_memOk h1) (State.peerFault_memOk h1)
    | futWrite => exact ite_memOk (State.endOp_memOk h1) (State.peerFault_memOk h1)
    | mxRead f ms rest =>
      refine ite_memOk (State.blockFault_memOk h1) (State.blockAnswer_memOk ?_)
      split
      next => exact h0
      next => exact h1
    | mxPart =>
      refine ite_memOk (State.peerFault_memOk h1) ?_
      split
      next h => exact memOk_of_eq_fst h (State.partGot_memOk h0)
      next h => exact State.endOp_memOk (State.answered_memOk (memOk_of_eq_fst h (State.partGot_memOk h0)))
    | futRead => exact ite_memOk hland (ite_memOk (State.futMiss_memOk h1) (State.peerFault_memOk h1))
    | _ => exact ite_memOk hland (State.peerFault_memOk h1)

theorem State.peerWake_memOk {s : State} {dev pa : Nat} {tag : Word} (hs : s.memOk) : SomeOk (s.peerWake dev pa tag) := by
  unfold State.peerWake
  dsimp only
  split
  next => trivial
  next => exact hs

theorem State.discardNotice_memOk {s : State} {p id code : Nat} {tag src : Word} {dest : Nat} (hs : s.memOk) :
    (s.discardNotice p id code tag src dest).memOk :=
  State.discardFor_memOk hs

theorem State.sendAck_memOk {s : State} {c op : Nat} (hs : s.memOk) : SomeOk (s.sendAck c op) := by
  unfold State.sendAck
  split
  next => exact hs
  next =>
    split
    next => exact hs
    next => trivial

/-! ## When an engine may take its next step (Machine/EvOps.lean) -/

theorem State.copyTry_memOk {s : State} {c slot : Nat} (hs : s.memOk) : SomeOk (s.copyTry c slot) := by
  unfold State.copyTry
  split
  next => trivial
  next =>
    split
    next =>
      dsimp only
      split
      next => trivial
      next => exact State.copyFab_memOk hs
    next =>
      dsimp only
      split
      next => trivial
      next => exact State.copyComplete_memOk hs

theorem State.noticeTry_memOk {s : State} {c slot : Nat} (hs : s.memOk) : SomeOk (s.noticeTry c slot) := by
  unfold State.noticeTry
  split
  next => trivial
  next =>
    dsimp only
    split
    next => trivial
    next => exact State.streamNotice_memOk hs

theorem State.ringTry_memOk {s : State} {kind unit slot : Nat} (hs : s.memOk) : SomeOk (s.ringTry kind unit slot) := by
  unfold State.ringTry
  split
  next =>
    split
    next => trivial
    next => exact State.ringRetry_memOk hs
  next =>
    split
    next => trivial
    next =>
      split
      next =>
        split
        next => exact State.jobRing_memOk hs
        next => trivial
      next => trivial
  next =>
    split
    next => exact State.queueReplied_memOk hs
    next => trivial

theorem State.bankTry_memOk {s : State} {c slot : Nat} (hs : s.memOk) : SomeOk (s.bankTry c slot) := by
  unfold State.bankTry
  split
  next => trivial
  next =>
    split
    next => trivial
    next => exact State.bankComplete_memOk hs

theorem State.tileTry_memOk {s : State} {p : Nat} (hs : s.memOk) : SomeOk (s.tileTry p) := by
  unfold State.tileTry
  dsimp only
  split
  next => trivial
  next => exact State.tileStep_memOk hs

theorem State.claimTry_memOk {s : State} {p i : Nat} (hs : s.memOk) : SomeOk (s.claimTry p i) := by
  unfold State.claimTry
  split
  next => trivial
  next => exact State.serveClaim_memOk hs

theorem State.releaseTry_memOk {s : State} {p i : Nat} (hs : s.memOk) : SomeOk (s.releaseTry p i) := by
  unfold State.releaseTry
  split
  next => trivial
  next => exact State.serveRelease_memOk hs

theorem State.bindTry_memOk {s : State} {cl : Nat} (hs : s.memOk) : SomeOk (s.bindTry cl) := by
  unfold State.bindTry
  split
  next =>
    split
    next => trivial
    next => exact State.cardBind_memOk hs
  next => trivial

theorem State.unitTry_memOk {s : State} {cl ctx u : Nat} (hs : s.memOk) : SomeOk (s.unitTry cl ctx u) := by
  unfold State.unitTry
  split
  next =>
    split
    next => exact SomeOk.map (fun _ => hs)
    next => trivial
  next => trivial

theorem State.sourceTry_memOk {s : State} {cl ctx e : Nat} (hs : s.memOk) : SomeOk (s.sourceTry cl ctx e) := by
  unfold State.sourceTry
  split
  next =>
    split
    next =>
      split
      next =>
        split
        next => exact State.sourceToken_memOk hs
        next => trivial
      next =>
        split
        next => exact State.sourceToken_memOk hs
        next => trivial
    next => trivial
  next => trivial

theorem State.sinkTry_memOk {s : State} {cl ctx e : Nat} (hs : s.memOk) : SomeOk (s.sinkTry cl ctx e) := by
  unfold State.sinkTry
  split
  next =>
    split
    next =>
      split
      next => exact State.sinkCommit_memOk hs
      next => trivial
    next => trivial
  next => trivial

theorem State.jobTry_memOk {s : State} {cl slot : Nat} (hs : s.memOk) : SomeOk (s.jobTry cl slot) := by
  unfold State.jobTry
  split
  next => trivial
  next =>
    split
    next =>
      split
      next => trivial
      next => exact State.jobComplete_memOk hs
    next => trivial

theorem State.frameTry_memOk {s : State} {c b : Nat} (hs : s.memOk) : SomeOk (s.frameTry c b) := by
  unfold State.frameTry
  split
  next => trivial
  next => exact State.frameSend_memOk hs

theorem State.fillTry_memOk {s : State} {c b : Nat} (hs : s.memOk) : SomeOk (s.fillTry c b) := by
  unfold State.fillTry
  split
  next => exact State.fillTimer_memOk hs
  next => trivial

theorem State.freezeSend_memOk {s : State} {p : Nat} (hs : s.memOk) : SomeOk (s.freezeSend p) :=
  SomeOk.findSome (fun _ => SomeOk.findSome (fun _ => State.frameSend_memOk hs))

theorem State.ttFreeze_memOk {s : State} {p : Nat} (hs : s.memOk) : SomeOk (s.ttFreeze p) := by
  unfold State.ttFreeze
  split
  next => trivial
  next =>
    refine SomeOk.or (State.closeAll_memOk hs) ?_
    refine SomeOk.or (State.freezeSend_memOk hs) ?_
    split
    next => trivial
    next => exact State.setPState_memOk hs

theorem State.barTry_memOk {s : State} {c : Nat} (hs : s.memOk) : SomeOk (s.barTry c) := by
  unfold State.barTry
  split
  next => trivial
  next => exact State.barUpdate_memOk hs

theorem State.grantTry_memOk {s : State} {c : Nat} (hs : s.memOk) : SomeOk (s.grantTry c) := by
  unfold State.grantTry
  split
  next => trivial
  next =>
    refine SomeOk.mapState ?_ (fun _ h2 => State.countEvt_memOk h2)
    refine SomeOk.findSome ?_
    intro _
    split
    next => trivial
    next => exact State.tallocGrant_memOk hs

theorem State.sealTry_memOk {s : State} {c : Nat} {free : Bool} (hs : s.memOk) : SomeOk (s.sealTry c free) := by
  unfold State.sealTry
  split
  next =>
    dsimp only
    split
    next => trivial
    next =>
      refine State.endOp_memOk ?_
      refine State.tileWake_memOk ?_
      split
      next =>
        split <;> exact hs
      next => exact hs
  next =>
    dsimp only
    split
    next => trivial
    next =>
      refine State.endOp_memOk ?_
      refine State.tileWake_memOk ?_
      split
      next =>
        split <;> exact hs
      next => exact hs

theorem State.lateTry_memOk {s : State} {c : Nat} (hs : s.memOk) : SomeOk (s.lateTry c) := SomeOk.map (fun _ => State.landLate_memOk hs)

theorem State.endTry_memOk {s : State} {c uid : Nat} (hs : s.memOk) : SomeOk (s.endTry c uid) := by
  unfold State.endTry
  split
  next =>
    split
    next => exact State.endTrain_memOk hs
    next => trivial
  next => trivial

theorem State.freeTry_memOk {s : State} {c h : Nat} (hs : s.memOk) : SomeOk (s.freeTry c h) := by
  unfold State.freeTry
  split
  next => exact State.completeFree_memOk hs
  next => trivial

theorem State.flushTry_memOk {s : State} {c op : Nat} (hs : s.memOk) : SomeOk (s.flushTry c op) := by
  unfold State.flushTry
  split
  next => exact hs
  next => trivial

theorem State.drainTry_memOk {s : State} {c : Nat} (hs : s.memOk) : SomeOk (s.drainTry c) := by
  unfold State.drainTry
  split
  next => trivial
  next => exact State.drainOne_memOk hs

/-! ## Timetable mode (Machine/Boundary.lean) -/

theorem State.endStep_memOk {s : State} {c p : Nat} {num : Option Nat} {idle : Bool} (hs : s.memOk) : (s.endStep c p num idle).memOk := hs

theorem State.holdStep_memOk {s : State} {c p uid : Nat} (hs : s.memOk) : (s.holdStep c p uid).memOk := hs

theorem SomeOk.getD_self {f : State → Option State} {s : State} (hs : s.memOk) (hf : ∀ s, s.memOk → SomeOk (f s)) : ((f s).getD s).memOk :=
  SomeOk.getD (hf s hs) hs

theorem State.ttEnter_memOk {s : State} {c : Nat} (hs : s.memOk) : (s.ttEnter c).memOk := by
  unfold State.ttEnter
  split
  next => exact hs
  next =>
    refine SomeOk.getD_self (f := fun s => s.departNext c) ?_ (fun _ h => State.departNext_memOk h)
    refine SomeOk.getD_self (f := fun s => s.expireTimers c true) ?_ (fun _ h => State.expireTimers_memOk h)
    exact State.settle_memOk (State.updCore_memOk (State.arriveDue_memOk (State.arriveDue_memOk (State.updCore_memOk hs))))

theorem State.ttStep_memOk {s : State} {c : Nat} (hs : s.memOk) : SomeOk (s.ttStep c) := by
  unfold State.ttStep
  split
  next => trivial
  next =>
    dsimp only
    split
    next => trivial
    next =>
      split
      next => exact State.updCore_memOk (State.ttEnter_memOk hs)
      next => exact State.holdStep_memOk (State.ttEnter_memOk hs)
      next => exact State.endStep_memOk (State.ttEnter_memOk hs)

theorem State.ttAfter_memOk {s : State} {c uid pc number : Nat} (hs : s.memOk) : (s.ttAfter c uid pc number).memOk := by
  unfold State.ttAfter
  split
  next => exact hs
  next =>
    extract_lets done
    have hdone : done.memOk := State.endStep_memOk hs
    clear_value done
    split
    next => exact hdone
    next =>
      refine ite_memOk hdone ?_
      exact ite_memOk (State.holdStep_memOk hs) (State.updCore_memOk hs)

theorem State.applyBars_memOk {s : State} {c n : Nat} (hs : s.memOk) : (s.applyBars c n).memOk := by
  induction n generalizing s with
  | zero => exact hs
  | succ n ih =>
    unfold State.applyBars
    split
    next h1 => exact ih (SomeOk.some h1 (State.barTry_memOk hs))
    next => exact hs

theorem State.applyAllBars_memOk {s : State} {cs : List Nat} (hs : s.memOk) : (s.applyAllBars cs).memOk :=
  foldl_memOk hs (fun _ _ h1 => State.applyBars_memOk h1)

theorem State.ownWindows_memOk {s : State} {cs : List Nat} (hs : s.memOk) : (s.ownWindows cs).memOk :=
  foldl_memOk hs (fun _ _ h1 => foldl_memOk h1 (fun _ _ h2 => State.perform_memOk h2))

theorem State.boundaryMem_memOk {s : State} {cs : List Nat} (hs : s.memOk) : SomeOk (s.boundaryMem cs) := by
  unfold State.boundaryMem
  split
  next => trivial
  next =>
    split
    next => trivial
    next => exact State.drainN_memOk hs

theorem State.wakeWord_memOk {s : State} {cs : List Nat} {pa : Nat} (hs : s.memOk) : (s.wakeWord cs pa).memOk := foldl_memOk hs (fun _ _ h1 => h1)

theorem State.deliverOne_memOk {s : State} {cs : List Nat} {c b : Nat} {cargo : Cargo} {opId : Nat} (hs : s.memOk) :
    (s.deliverOne cs c b cargo opId).memOk := by
  unfold State.deliverOne
  split
  next => exact State.charge_memOk hs (fun _ _ h2 => State.deliverFlight_memOk (ite_memOk h2 (State.settle_memOk h2)))
  next => exact State.draw_memOk (State.post_memOk hs)

theorem State.deliverSends_memOk {s : State} {cs : List Nat} {c : Nat} (hs : s.memOk) : (s.deliverSends cs c).memOk := by
  refine foldl_memOk (foldl_memOk hs (fun _ _ h1 => State.deliverOne_memOk h1)) ?_
  intro _ _ h1
  split
  next => exact State.wakeWord_memOk h1
  next =>
    dsimp only
    split
    next => exact State.postRemote_memOk h1
    next => exact State.deliverOne_memOk h1

theorem State.deliverCopies_memOk {s : State} {cs : List Nat} {c : Nat} (hs : s.memOk) : (s.deliverCopies cs c).memOk := by
  refine foldl_memOk hs ?_
  intro _ _ h1
  dsimp only
  split
  next => exact State.deliverFlight_memOk h1
  next => exact State.draw_memOk (State.sendCargo_memOk h1)

theorem State.deliverEntries_memOk {s : State} {cs : List Nat} {c : Nat} (hs : s.memOk) : (s.deliverEntries cs c).memOk := by
  refine foldl_memOk hs ?_
  intro _ _ h1
  split
  next => exact State.queueArrive_memOk h1
  next => exact h1

theorem State.boundaryOutside_memOk {s : State} {c : Nat} (hs : s.memOk) : (s.boundaryOutside c).memOk := by
  refine foldl_memOk ?_ (fun _ _ h1 => SomeOk.getD (State.queueReplied_memOk h1) h1)
  refine State.updCore_memOk ?_
  refine SomeOk.getD ?_ (SomeOk.getD (State.queueDue_memOk (State.arriveSome_memOk hs)) (State.arriveSome_memOk hs))
  refine State.framesDue_memOk ?_
  exact SomeOk.getD (State.queueDue_memOk (State.arriveSome_memOk hs)) (State.arriveSome_memOk hs)

theorem State.boundaryTokens_memOk {s : State} {cs : List Nat} (hs : s.memOk) : (s.boundaryTokens cs).memOk := by
  refine foldl_memOk ?_ (fun _ _ h1 => State.boundaryOutside_memOk h1)
  refine foldl_memOk ?_ (fun _ _ h1 => h1)
  refine foldl_memOk ?_ (fun _ _ h1 => State.deliverEntries_memOk h1)
  refine foldl_memOk ?_ ?_
  · exact foldl_memOk hs (fun _ _ h1 => State.deliverSends_memOk h1)
  · exact fun _ _ h1 => State.queueBoundary_memOk h1

theorem State.ripenNotices_memOk {s : State} {cs : List Nat} (hs : s.memOk) : (s.ripenNotices cs).memOk := foldl_memOk hs (fun _ _ h1 => h1)

theorem State.boundaryMtx_memOk {s : State} {cs : List Nat} (hs : s.memOk) : SomeOk (s.boundaryMtx cs) := by
  unfold State.boundaryMtx
  dsimp only
  split
  next => trivial
  next =>
    refine SomeOk.findSome ?_
    intro _
    split
    next => exact State.boundaryCmd_memOk hs
    next => trivial

theorem State.boundaryFab_memOk {s : State} {cs : List Nat} (hs : s.memOk) : SomeOk (s.boundaryFab cs) :=
  SomeOk.findSome (fun _ => SomeOk.findSome (fun _ => State.fabAsk_memOk hs))

theorem State.repeatTry_memOk {f : State → Option State} {n : Nat} {s : State} (hs : s.memOk) (hf : ∀ s, s.memOk → SomeOk (f s)) :
    (State.repeatTry f n s).memOk := by
  induction n generalizing s with
  | zero => exact hs
  | succ n ih =>
    unfold State.repeatTry
    split
    next s1 h => exact ih (SomeOk.some h (hf s hs))
    next => exact hs

theorem Held.effect_memOk {h : Held} {p c : Nat} {e : LEff} (hs : h.s.memOk) : (h.effect p c e).s.memOk := by
  unfold Held.effect
  split
  next => exact State.fireTry_memOk hs
  next => exact State.ctrUpdate_memOk hs
  next => exact hs
  next => exact hs

theorem State.launchEffects_memOk {s : State} {p : Nat} {cs : List Nat} (hs : s.memOk) : (s.launchEffects p cs).s.memOk :=
  foldl_held_memOk hs (fun _ _ h1 => foldl_held_memOk h1 (fun _ _ h2 => Held.effect_memOk h2))

theorem State.orderTeams_memOk {s : State} {p die num : Nat} (hs : s.memOk) : (s.orderTeams p die num).memOk := by
  unfold State.orderTeams
  split <;> exact hs

theorem State.seatYard_memOk {s : State} {p die num : Nat} (hs : s.memOk) : (s.seatYard p die num).memOk :=
  State.orderTeams_memOk (SomeOk.getD (State.yardArrive_memOk hs) hs)

theorem State.seatPack_memOk {s : State} {p die : Nat} {q : YPack} (hs : s.memOk) : (s.seatPack p die q).memOk := by
  unfold State.seatPack
  split
  next => exact hs
  next => exact State.seatYard_memOk (State.sendPack_memOk hs)

theorem State.placeTeams_memOk {s : State} {p : Nat} {skip : List (Nat × Nat)} {n : Nat} (hs : s.memOk) : (s.placeTeams p skip n).memOk := by
  induction n generalizing s skip with
  | zero => exact hs
  | succ n ih =>
    unfold State.placeTeams
    split
    next => exact hs
    next =>
      split
      next h2 => exact ih (SomeOk.some h2 (State.teamPlace_memOk hs))
      next => exact ih hs

theorem State.sealAll_memOk {s : State} {cs : List Nat} (hs : s.memOk) : (s.sealAll cs).memOk := by
  refine foldl_memOk hs ?_
  exact fun _ _ h1 => State.repeatTry_memOk h1 (fun _ h2 => SomeOk.or (State.sealTry_memOk h2) (State.sealTry_memOk h2))

theorem State.boundaryLaunch_memOk {s : State} {p : Nat} {cs : List Nat} (hs : s.memOk) : (s.boundaryLaunch p cs).memOk := by
  refine State.placeTeams_memOk ?_
  refine foldl_memOk ?_ (fun _ _ h1 => SomeOk.getD (State.tryPlace_memOk h1) h1)
  refine foldl_memOk ?_ (fun _ _ h1 => State.orderTeams_memOk (SomeOk.getD (State.yardTimer_memOk h1) h1))
  refine foldl_memOk ?_ (fun _ _ h1 => State.seatPack_memOk h1)
  refine foldl_memOk ?_ (fun _ _ h1 => State.seatYard_memOk h1)
  refine foldl_memOk ?_ (fun _ _ h1 => SomeOk.getD (State.gridRead_memOk h1) h1)
  refine State.repeatTry_memOk ?_ (fun _ h1 => State.launchAdmit_memOk h1)
  refine foldl_memOk ?_ (fun _ _ h1 => State.fireTry_memOk h1)
  refine State.launchEffects_memOk ?_
  refine State.retryFirings_memOk ?_
  refine foldl_memOk ?_ ?_
  · exact foldl_memOk hs (fun _ _ h1 => SomeOk.getD (State.autoEnd_memOk h1) h1)
  · exact fun _ _ h1 => State.repeatTry_memOk h1 (fun _ h2 => State.complete_memOk h2)

theorem State.boundaryNext_memOk {s : State} {p : Nat} {cs : List Nat} (hs : s.memOk) : (s.boundaryNext p cs).memOk :=
  State.cycleScan_memOk (foldl_memOk hs (fun _ _ h1 => h1))

theorem State.boundary_memOk {s : State} {p : Nat} (hs : s.memOk) : SomeOk (s.boundary p) := by
  unfold State.boundary
  extract_lets k cs evs s0 s1
  refine SomeOk.ite trivial ?_
  generalize k.bphase = phase
  split
  next => exact SomeOk.ite (State.updPart_memOk (State.ownWindows_memOk hs)) trivial
  next =>
    refine SomeOk.ite (State.boundaryMem_memOk hs) (SomeOk.ite trivial ?_)
    exact State.updPart_memOk (State.ripenNotices_memOk (State.boundaryTokens_memOk (State.applyAllBars_memOk hs)))
  next =>
    split
    next h => exact SomeOk.some h (State.boundaryMtx_memOk hs)
    next =>
      split
      next h => exact SomeOk.some h (State.boundaryFab_memOk hs)
      next =>
        refine SomeOk.ite trivial ?_
        have h0 : s0.memOk := foldl_memOk hs (fun _ _ h => State.deliverSends_memOk (State.deliverCopies_memOk h))
        have h1 : s1.memOk := State.sealAll_memOk (State.applyAllBars_memOk h0)
        exact State.boundaryNext_memOk (State.boundaryLaunch_memOk h1)

/-! ## The events of the firing engine and the carry unit (Machine/EvFire.lean) -/

theorem eventStep_memOk {r : Option State} (hs : SomeOk r) : NextOk (eventStep r) := by
  unfold eventStep
  split
  next => exact hs
  next => trivial

theorem State.dueTry_memOk {s : State} {c : Nat} {toks : Bool} (hs : s.memOk) : SomeOk (s.dueTry c toks) := by
  unfold State.dueTry
  split
  next => trivial
  next =>
    dsimp only
    split
    next => exact State.arriveSome_memOk hs
    next => trivial

theorem State.peerFlight_memOk {s : State} {c dev : Nat} {cargo : Cargo} {opId : Nat} (hs : s.memOk) : SomeOk (s.peerFlight c dev cargo opId) := by
  unfold State.peerFlight
  split
  next => trivial
  next =>
    refine SomeOk.mapFst ?_ (fun _ h2 => h2)
    split
    next => exact State.chargePeer_memOk hs
    next => exact hs

theorem execTokenArrival_memOk {core dev flit : Nat} {s : State} (hs : s.memOk) : NextOk (execTokenArrival core dev flit s) := by
  refine eventStep_memOk ?_
  split
  next => exact State.dueTry_memOk hs
  next =>
    split
    next =>
      split
      next => exact State.peerFlight_memOk hs
      next => trivial
    next => trivial

theorem execDepartCommandArrival_memOk {core dev idx : Nat} {tag src : Word} {s : State} (hs : s.memOk) :
    NextOk (execDepartCommandArrival core dev idx tag src s) := by
  refine eventStep_memOk ?_
  split
  next => exact State.dueTry_memOk hs
  next =>
    split
    next => exact State.peerFlight_memOk hs
    next => trivial

theorem execDiscardNotice_memOk {part id code dest : Nat} {tag src : Word} {s : State} (hs : s.memOk) :
    NextOk (execDiscardNotice part id code dest tag src s) := by
  refine eventStep_memOk ?_
  split
  next => exact State.discardNotice_memOk hs
  next => trivial

theorem execDepartureTimerExpiry_memOk {core : Nat} {s : State} (hs : s.memOk) : NextOk (execDepartureTimerExpiry core s) := by
  refine eventStep_memOk ?_
  split
  next => exact State.expireTimers_memOk hs
  next => trivial

theorem State.departTry_memOk {s : State} {c : Nat} (hs : s.memOk) : SomeOk (s.departTry c) := by
  unfold State.departTry
  split
  next => trivial
  next => exact State.departNext_memOk hs

/-! ## The objects that the management window shows of a SWAPPED or HALTED partition (Machine/Objects.lean) -/

theorem State.windowPrep_memOk {s : State} {c h g n : Nat} (hs : s.memOk) : SomeFstOk (s.windowPrep c h g n) := by
  induction n generalizing s with
  | zero => trivial
  | succ n ih =>
    unfold State.windowPrep
    split
    next => exact hs
    next => trivial
    next => trivial
    next =>
      split
      next => exact ih hs
      next => trivial

theorem State.windowReg_memOk {s : State} {c h g : Nat} {v : Word} (hs : s.memOk) : SomeOk (s.windowReg c h g v) := by
  unfold State.windowReg
  split
  next h1 => exact State.writeReg_memOk (State.setPrepared_memOk (SomeFstOk.some h1 (State.windowPrep_memOk hs)))
  next => trivial

theorem State.windowMode_memOk {s : State} {c h : Nat} {v : Word} (hs : s.memOk) : SomeOk (s.windowMode c h v) := by
  unfold State.windowMode
  dsimp only
  split
  next => exact hs
  next => trivial

theorem State.frameWord_memOk {s : State} {c h i : Nat} {v : Word} (hs : s.memOk) : SomeOk (s.frameWord c h i v) := by
  unfold State.frameWord
  split
  next => exact State.windowMode_memOk hs
  next =>
    split
    next => exact hs
    next =>
      dsimp only
      split
      next => exact State.windowReg_memOk hs
      next => exact hs

theorem State.frameWrite_memOk {s : State} {c h off : Nat} {data : List Byte} (hs : s.memOk) : SomeOk (s.frameWrite c h off data) :=
  foldl_some_memOk hs (fun _ _ h1 => SomeOk.bindState h1 (fun _ h2 => State.frameWord_memOk h2))

theorem State.tilesWrite_memOk {s : State} {c : Nat} {p : TilePart} {off : Nat} {data : List Byte} (hs : s.memOk) :
    (s.tilesWrite c p off data).memOk := by
  refine foldl_memOk hs ?_
  intro _ _ h1
  dsimp only
  split
  next => exact h1
  next => exact State.tileWrite_memOk h1

theorem State.copyWrite_memOk {s : State} {c : Nat} {q : CopyReq} {off : Nat} {data : List Byte} (hs : s.memOk) :
    (s.copyWrite c q off data).memOk := by
  unfold State.copyWrite
  split
  next => exact hs
  next => exact State.mk_memOk (Memory.write_wf hs)

theorem State.countersWrite_memOk {s : State} {c p off : Nat} {data : List Byte} (hs : s.memOk) : (s.countersWrite c p off data).memOk := by
  refine foldl_memOk hs ?_
  intro _ _ h1
  split
  next => exact h1
  next =>
    split
    next => exact h1
    next =>
      split
      next => exact State.hostReg_memOk h1
      next => exact h1

theorem State.objectWrite_memOk {s : State} {row a b off : Nat} {data : List Byte} (hs : s.memOk) : SomeOk (s.objectWrite row a b off data) := by
  unfold State.objectWrite
  split
  next =>
    split
    next => exact State.frameWrite_memOk hs
    next => exact hs
  next =>
    split <;> exact hs
  next =>
    split
    next => exact State.tilesWrite_memOk hs
    next => exact hs
  next =>
    split
    next => exact State.copyWrite_memOk hs
    next => exact hs
  next =>
    dsimp only
    split
    next =>
      split <;> exact hs
    next => exact hs
  next =>
    split
    next => exact State.countersWrite_memOk hs
    next => exact hs
  next => exact hs

/-! ## The host interface (Machine/HostOps.lean) -/

theorem State.setReply_memOk {s : State} {l : List Byte} (hs : s.memOk) : (s.setReply l).memOk := hs

theorem State.releaseVecs_memOk {s : State} (hs : s.memOk) : s.releaseVecs.memOk := hs

theorem State.intervalEnd_memOk {s : State} {v : Nat} (hs : s.memOk) : SomeOk (s.intervalEnd v) := by
  unfold State.intervalEnd
  dsimp only
  split
  next => trivial
  next =>
    split
    next => trivial
    next => exact hs

theorem State.configRequest_memOk {s : State} {write : Bool} {off : Nat} {w : Word} (hs : s.memOk) : (s.configRequest write off w).memOk := by
  unfold State.configRequest
  split
  next => exact State.releaseVecs_memOk (ite_memOk hs (ite_memOk hs (ite_memOk hs hs)))
  next => exact hs

theorem State.regWrite_memOk {s : State} {w : HostWord} {f : State → Word → State} (hs : s.memOk) (hf : ∀ s w, s.memOk → (f s w).memOk) :
    (s.regWrite w f).memOk := by
  unfold State.regWrite
  split
  next => exact hf _ _ hs
  next => exact hs

theorem State.statusWrite_memOk {s : State} {w : Word} (hs : s.memOk) : (s.statusWrite w).memOk := by
  unfold State.statusWrite
  split <;> exact hs

theorem State.featWrite_memOk {s : State} {w : Word} (hs : s.memOk) : (s.featWrite w).memOk := by
  unfold State.featWrite
  split
  next => exact hs
  next =>
    split <;> exact hs

theorem State.doorbell_memOk {s : State} {p k : Nat} {w : Word} (hs : s.memOk) : (s.doorbell p k w).memOk := by
  unfold State.doorbell
  split
  next => exact hs
  next =>
    dsimp only
    split <;> exact hs

theorem State.noticeWrite_memOk {s : State} {p : Nat} {w : Word} (hs : s.memOk) : (s.noticeWrite p w).memOk := by
  unfold State.noticeWrite
  split <;> exact hs

theorem State.setMstat_memOk {s : State} {i : Nat} (hs : s.memOk) : (s.setMstat i).memOk := hs

theorem State.mstatWrite_memOk {s : State} {w : Word} (hs : s.memOk) : (s.mstatWrite w).memOk := by
  unfold State.mstatWrite
  split <;> exact hs

theorem State.mselWrite_memOk {s : State} {sel : Word} (hs : s.memOk) : (s.mselWrite sel).memOk := by
  unfold State.mselWrite
  split <;> exact hs

theorem State.winAccess_memOk {s : State} {sel : Word} {n : Nat} {f : State → WinRes} (hs : s.memOk) (hf : ∀ s, s.memOk → (f s).memOk) :
    (s.winAccess sel n f).memOk := by
  unfold State.winAccess
  split
  next => exact hs
  next =>
    dsimp only
    split
    next h2 => exact State.setReply_memOk (WinRes.memOk.ok h2 (hf _ (State.mselWrite_memOk hs)))
    next => exact State.setReply_memOk (State.setMstat_memOk (State.mselWrite_memOk hs))

theorem State.aperture_memOk {s : State} {sel : Word} {off len : Nat} {f : State → WinRes} (hs : s.memOk) (hf : ∀ s, s.memOk → (f s).memOk) :
    (s.aperture sel off len f).memOk := by
  unfold State.aperture
  split
  next => exact State.winAccess_memOk hs (fun _ h2 => hf _ h2)
  next => exact hs

theorem State.winPhys_memOk {s : State} {sel : Word} {write : Bool} {off len : Nat} {data : List Byte} (hs : s.memOk) :
    (s.winPhys sel write off len data).memOk := by
  unfold State.winPhys
  split
  next =>
    dsimp only
    split
    next => trivial
    next => exact State.pathWrite_memOk hs
  next =>
    dsimp only
    split
    next => trivial
    next => exact hs

theorem State.winReg_memOk {s : State} {sel : Word} {write : Bool} {w : Word} (hs : s.memOk) : (s.winReg sel write w).memOk := by
  unfold State.winReg
  split
  next =>
    dsimp only
    split
    next => trivial
    next => exact State.hostReg_memOk hs
  next =>
    dsimp only
    split
    next => trivial
    next => exact hs

theorem State.winObject_memOk {s : State} {sel : Word} {write : Bool} {off len : Nat} {data : List Byte} (hs : s.memOk) :
    (s.winObject sel write off len data).memOk := by
  unfold State.winObject
  split
  next => trivial
  next =>
    split
    next =>
      dsimp only
      split
      next => trivial
      next => trivial
      next =>
        split
        next => trivial
        next =>
          split
          next h5 => exact SomeOk.some h5 (State.objectWrite_memOk hs)
          next => trivial
    next =>
      dsimp only
      split
      next => trivial
      next => trivial
      next => exact hs

theorem State.futViewWrite_memOk {s : State} {base off : Nat} {data : List Byte} {i : Nat} (hs : s.memOk) :
    (s.futViewWrite base off data i).memOk := by
  unfold State.futViewWrite
  split
  next =>
    dsimp only
    split
    next => exact State.futClear_memOk (State.futFill_memOk hs)
    next => exact State.futFill_memOk hs
  next =>
    dsimp only
    split <;> exact hs

theorem State.winFut_memOk {s : State} {sel : Word} {write : Bool} {off len : Nat} {data : List Byte} (hs : s.memOk) :
    (s.winFut sel write off len data).memOk := by
  unfold State.winFut
  split
  next =>
    dsimp only
    split
    next => trivial
    next => exact foldl_memOk hs (fun _ _ h3 => State.futViewWrite_memOk h3)
  next =>
    dsimp only
    split
    next => trivial
    next => exact hs

theorem State.winAsid_memOk {s : State} {sel : Word} {write : Bool} {off len : Nat} {data : List Byte} (hs : s.memOk) :
    (s.winAsid sel write off len data).memOk := by
  unfold State.winAsid
  split
  next => trivial
  next =>
    split
    next =>
      split
      next => exact hs
      next =>
        dsimp only
        split
        next => trivial
        next => exact hs
    next => exact hs

/-! ## The events of memory and translation (Machine/EvMem.lean) -/

theorem hostWrite_memOk {s : State} {p : Nat} {f : State → State} (hs : s.memOk) (hf : ∀ s, s.memOk → (f s).memOk) : NextOk (hostWrite s p f) := by
  refine eventStep_memOk ?_
  split
  next =>
    split
    next => exact hf _ hs
    next => exact hs
  next => trivial

/-! ## The events of the launch engine (Machine/EvLaunch.lean) -/

theorem State.admitTry_memOk {s : State} {p : Nat} (hs : s.memOk) : SomeOk (s.admitTry p) := by
  unfold State.admitTry
  split
  next => trivial
  next =>
    split
    next h2 => exact SomeOk.some h2 (State.launchAdmit_memOk hs)
    next =>
      dsimp only
      split
      next => trivial
      next => exact State.retryFirings_memOk hs

theorem State.gridTry_memOk {s : State} {p id : Nat} (hs : s.memOk) : SomeOk (s.gridTry p id) := by
  unfold State.gridTry
  split
  next => exact State.gridRead_memOk hs
  next => trivial

theorem State.placeTry_memOk {s : State} {p id : Nat} (hs : s.memOk) : SomeOk (s.placeTry p id) := by
  unfold State.placeTry
  split
  next => exact State.tryPlace_memOk hs
  next => trivial

theorem State.completeTry_memOk {s : State} {p id : Nat} (hs : s.memOk) : SomeOk (s.completeTry p id) := by
  unfold State.completeTry
  dsimp only
  split
  next => trivial
  next =>
    refine SomeOk.mapState (State.complete_memOk hs) ?_
    exact fun _ h2 => State.repeatTry_memOk h2 (fun _ h3 => State.complete_memOk h3)

theorem State.autoEndTry_memOk {s : State} {p id : Nat} (hs : s.memOk) : SomeOk (s.autoEndTry p id) := by
  unfold State.autoEndTry
  split
  next => exact State.autoEnd_memOk hs
  next => trivial

theorem State.sidingTry_memOk {s : State} {p id die : Nat} (hs : s.memOk) : SomeOk (s.sidingTry p id die) := by
  unfold State.sidingTry
  dsimp only
  split
  next => exact State.sidingReplay_memOk hs
  next => trivial

theorem State.yardStep_memOk {s : State} {die yard : Nat} {f : State → Option State} (hs : s.memOk) (hf : ∀ s, s.memOk → SomeOk (f s)) :
    SomeOk (s.yardStep die yard f) := by
  unfold State.yardStep
  split
  next =>
    split
    next => exact hf _ hs
    next => trivial
  next => trivial

/-! ## The events of the link engine (Machine/EvLink.lean) -/

theorem execQueueEntryArrival_memOk {core : Nat} {pkt : List Word} {s : State} (hs : s.memOk) : NextOk (execQueueEntryArrival core pkt s) := by
  refine eventStep_memOk ?_
  split
  next =>
    split
    next => trivial
    next => exact State.queueDue_memOk hs
  next =>
    split
    next => trivial
    next =>
      split
      next => exact hs
      next => exact State.queueArrive_memOk hs

theorem State.replyTry_memOk {s : State} {c ser code : Nat} (hs : s.memOk) : SomeOk (s.replyTry c ser code) := by
  unfold State.replyTry
  split
  next => exact State.queueReplied_memOk hs
  next =>
    split
    next => exact hs
    next => trivial

theorem execQueueRefusal_memOk {core ser code : Nat} {s : State} (hs : s.memOk) : NextOk (execQueueRefusal core ser code s) := by
  refine eventStep_memOk ?_
  split
  next => trivial
  next => exact State.replyTry_memOk hs

theorem execRowFrameArrival_memOk {core dev part id : Nat} {bytes : List Byte} {s : State} (hs : s.memOk) :
    NextOk (execRowFrameArrival core dev part id bytes s) := by
  refine eventStep_memOk ?_
  split
  next =>
    split
    next => trivial
    next => exact State.framesDue_memOk hs
  next =>
    split
    next => trivial
    next =>
      refine SomeOk.mapFst (State.chargePeer_memOk hs) ?_
      intro _ h3
      split
      next => exact h3
      next => exact State.frameArrive_memOk h3

theorem execRemoteMemoryResponse_memOk {id code : Nat} {data : List Byte} {s : State} (hs : s.memOk) :
    NextOk (execRemoteMemoryResponse id code data s) := by
  refine eventStep_memOk ?_
  split
  next => exact State.peerWake_memOk hs
  next => exact State.peerResponse_memOk hs

theorem execFlitForward_memOk {dev flit : Nat} {s : State} (hs : s.memOk) : NextOk (execFlitForward dev flit s) := by
  refine eventStep_memOk ?_
  split
  next => exact hs
  next => trivial

/-! ## The management controller (Machine/RamvanOps.lean) -/

theorem State.updRamvan_memOk {s : State} {f : Ramvan → Ramvan} (hs : s.memOk) : (s.updRamvan f).memOk := hs

theorem State.logEvent_memOk {s : State} {kind detail : Nat} (hs : s.memOk) : (s.logEvent kind detail).memOk := State.updRamvan_memOk hs

theorem State.moduleEvent_memOk {s : State} {kind detail : Nat} (hs : s.memOk) : (s.moduleEvent kind detail).memOk :=
  State.notify_memOk (State.updRamvan_memOk (State.logEvent_memOk hs))

theorem State.answerCmd_memOk {s : State} {code : Nat} {data : List Byte} (hs : s.memOk) : (s.answerCmd code data).memOk := hs

theorem State.command_memOk {s : State} {r : Option State} (hs : s.memOk) (hr : SomeOk r) : (s.command r).memOk := by
  unfold State.command
  split
  next => exact hr
  next => exact hs

theorem State.castopel_memOk {s : State} {f : State → Option State} (hs : s.memOk) (hf : ∀ s, s.memOk → SomeOk (f s)) : SomeOk (s.castopel f) := by
  unfold State.castopel
  split
  next => trivial
  next =>
    refine State.command_memOk hs ?_
    split
    next => exact hf _ hs
    next => trivial

theorem State.cleared_memOk {s : State} : s.cleared.memOk := reset_mem_wf

theorem State.startUp_memOk {s : State} (hs : s.memOk) : s.startUp.memOk := by
  unfold State.startUp
  split
  next => exact State.moduleEvent_memOk hs
  next =>
    dsimp only
    split
    next => exact hs
    next => exact State.moduleEvent_memOk hs

theorem State.moduleReset_memOk {s : State} : s.moduleReset.memOk := State.startUp_memOk State.cleared_memOk

theorem State.powerUp_memOk {s : State} : SomeOk s.powerUp := by
  unfold State.powerUp
  split
  next => trivial
  next => exact State.moduleReset_memOk

theorem State.resetCmd_memOk {s : State} (hs : s.memOk) : SomeOk s.resetCmd := by
  unfold State.resetCmd
  split
  next => trivial
  next =>
    split
    next => exact hs
    next => exact State.answerCmd_memOk State.moduleReset_memOk

theorem State.firmwareUpdate_memOk {s : State} {img : List Byte} (hs : s.memOk) : SomeOk (s.firmwareUpdate img) := by
  unfold State.firmwareUpdate
  split
  next => trivial
  next =>
    split
    next => exact hs
    next => exact State.answerCmd_memOk State.moduleReset_memOk

theorem State.setDomain_memOk {s : State} {dev : Nat} {members : List Nat} {routes : List (Nat × Nat × Nat)} (hs : s.memOk) :
    SomeOk (s.setDomain dev members routes) := by
  unfold State.setDomain
  split
  next => trivial
  next => exact hs

theorem State.partOff_memOk {s : State} {p : Nat} (hs : s.memOk) : (s.partOff p).memOk := State.setPart_memOk (State.setPState_memOk hs)

theorem State.setPartition_memOk {s : State} {p : Nat} {clusters : List Nat} (hs : s.memOk) : SomeOk (s.setPartition p clusters) := by
  unfold State.setPartition
  dsimp only
  split
  next => trivial
  next =>
    split
    next =>
      split
      next => exact hs
      next => exact State.partOff_memOk hs
    next =>
      split
      next => exact State.setPState_memOk hs
      next => exact hs

theorem State.setPriv_memOk {s : State} {p : Nat} {v : Bool} (hs : s.memOk) : SomeOk (s.setPriv p v) := by
  unfold State.setPriv
  split
  next => trivial
  next => exact hs

theorem State.setPowerCap_memOk {s : State} {w : Nat} (hs : s.memOk) : SomeOk (s.setPowerCap w) := by
  unfold State.setPowerCap
  split
  next => exact hs
  next => trivial

theorem State.query_memOk {s : State} {data : List Byte} (hs : s.memOk) : SomeOk (s.query data) := by
  unfold State.query
  split
  next => trivial
  next =>
    split <;> exact hs

theorem State.sensorRead_memOk {s : State} {n : Nat} (hs : s.memOk) : SomeOk (s.sensorRead n) := State.query_memOk hs

theorem State.throttleStep_memOk {s : State} {kind detail : Nat} (hs : s.memOk) : SomeOk (s.throttleStep kind detail) := by
  unfold State.throttleStep
  split
  next => trivial
  next => exact State.moduleEvent_memOk hs

theorem State.throttleEnd_memOk {s : State} (hs : s.memOk) : SomeOk s.throttleEnd := by
  unfold State.throttleEnd
  split
  next => exact hs
  next => trivial

theorem State.thermalHalt_memOk {s : State} {die : Nat} (hs : s.memOk) : SomeOk (s.thermalHalt die) := by
  unfold State.thermalHalt
  split
  next => trivial
  next => exact State.moduleEvent_memOk (foldl_memOk hs (fun _ _ h2 => State.haltCmd_memOk h2))

theorem State.markErrors_memOk {s : State} {gs : List Nat} {sram : List (Nat × Nat)} {ram : List (Nat × Nat × Nat)} (hs : s.memOk) :
    (s.markErrors gs sram ram).memOk := by
  refine foldl_memOk ?_ ?_
  · refine foldl_memOk hs ?_
    intro _ _ h1
    split <;> exact h1
  · intro _ _ h1
    split <;> exact h1

theorem State.markAcc_memOk {s : State} {x : Nat × Nat × Nat} (hs : s.memOk) : (s.markAcc x).memOk := hs

theorem State.markShadow_memOk {s : State} {cl : Nat} (hs : s.memOk) : (s.markShadow cl).memOk := hs

theorem State.patrolScrub_memOk {s : State} {places : List Nat} (hs : s.memOk) : (s.patrolScrub places).memOk := by
  refine foldl_memOk ?_ (fun _ _ h => State.logEvent_memOk h)
  refine foldl_memOk ?_ (fun _ _ h => State.markShadow_memOk h)
  exact foldl_memOk (State.markErrors_memOk hs) (fun _ _ h => State.markAcc_memOk h)

theorem State.controlError_memOk {s : State} {c detail : Nat} {told : Bool} (hs : s.memOk) : SomeOk (s.controlError c detail told) := by
  unfold State.controlError
  split
  next => trivial
  next => exact State.moduleEvent_memOk (foldl_memOk hs (fun _ _ h2 => State.faultNow_memOk h2))

theorem State.routeEvent_memOk {s : State} {dev : Nat} {up : Bool} {ports hops : Nat} (hs : s.memOk) : SomeOk (s.routeEvent dev up ports hops) := by
  unfold State.routeEvent
  split
  next => trivial
  next =>
    split
    next => exact hs
    next => exact State.moduleEvent_memOk hs

/-! ## The events of the host interface and of the management controller (Machine/EvHost.lean) -/

theorem execMgmtPhysicalAccess_memOk {sel : Word} {write : Bool} {off len : Nat} {data : List Byte} {s : State} (hs : s.memOk) :
    NextOk (execMgmtPhysicalAccess sel write off len data s) := by
  refine eventStep_memOk ?_
  split
  next => exact State.aperture_memOk hs (fun _ h2 => State.winPhys_memOk h2)
  next => trivial

theorem execMgmtRegisterAccess_memOk {sel : Word} {write : Bool} {w : HostWord} {s : State} (hs : s.memOk) :
    NextOk (execMgmtRegisterAccess sel write w s) := by
  unfold execMgmtRegisterAccess
  split
  next => exact State.winAccess_memOk hs (fun _ h2 => State.winReg_memOk h2)
  next => exact State.setReply_memOk (State.mselWrite_memOk hs)

theorem execMgmtObjectAccess_memOk {sel : Word} {write : Bool} {off len : Nat} {data : List Byte} {s : State} (hs : s.memOk) :
    NextOk (execMgmtObjectAccess sel write off len data s) := by
  refine eventStep_memOk ?_
  split
  next => exact State.aperture_memOk hs (fun _ h2 => State.winObject_memOk h2)
  next => trivial

theorem execMgmtFutViewAccess_memOk {sel : Word} {write : Bool} {off len : Nat} {data : List Byte} {s : State} (hs : s.memOk) :
    NextOk (execMgmtFutViewAccess sel write off len data s) := by
  refine eventStep_memOk ?_
  split
  next => exact State.aperture_memOk hs (fun _ h2 => State.winFut_memOk h2)
  next => trivial

theorem execMgmtAsidEntryAccess_memOk {sel : Word} {write : Bool} {off len : Nat} {data : List Byte} {s : State} (hs : s.memOk) :
    NextOk (execMgmtAsidEntryAccess sel write off len data s) := by
  refine eventStep_memOk ?_
  split
  next => exact State.aperture_memOk hs (fun _ h2 => State.winAsid_memOk h2)
  next => trivial

theorem execConfigurationRequest_memOk {write : Bool} {off : Nat} {w : Word} {s : State} (hs : s.memOk) :
    NextOk (execConfigurationRequest write off w s) := by
  refine eventStep_memOk ?_
  split
  next => exact State.configRequest_memOk hs
  next => trivial

/-! ## Class SCHED (Machine/Launch.lean) -/

theorem schedInstr_memOk {s : State} {f : Nat → State → Train → Host.Outcome State Fault Refusal} (hs : s.memOk)
    (hf : ∀ c s t, s.memOk → NextOk (f c s t)) : NextOk (schedInstr s f) := by
  refine withTrain_memOk ?_
  intro _ _
  refine afterWrites_memOk hs ?_
  intro _ h1
  split
  next => exact h1
  next => exact hf _ _ _ h1

theorem schedSeats_memOk {s : State} {align alignB : Nat} {need : Need} {b : Train → Seat → Word} {f : Nat → State → Train → Seat → Nat → State}
    (hs : s.memOk) (hf : ∀ c s t x pa, s.memOk → (f c s t x pa).memOk) : NextOk (schedSeats s align alignB need b f) := by
  refine schedInstr_memOk hs ?_
  intro _ _ _ h1
  dsimp only
  split
  next =>
    refine State.retireUid_memOk ?_
    refine State.putTrain_memOk ?_
    refine foldl_fst_memOk (State.looked_memOk h1) ?_
    intro _ _ h3
    split
    next => exact hf _ _ _ _ _ h3
    next => exact State.takeFault_memOk h3
    next => exact h3
  next => exact State.missHold_memOk h1

theorem State.schedDo_memOk {s : State} {c : Nat} {r : LaunchRef} {e : LEff} {now : State → State} (hs : s.memOk)
    (hnow : ∀ s, s.memOk → (now s).memOk) : (s.schedDo c r e now).memOk := by
  unfold State.schedDo
  split
  next => exact hs
  next => exact hnow _ hs

theorem State.ctrSeat_memOk {s : State} {c : Nat} {t : Train} {pa : Nat} {op : CtrOp} (hs : s.memOk) : (s.ctrSeat c t pa op).memOk :=
  State.schedDo_memOk hs (fun _ h1 => State.ctrNow_memOk h1)

theorem execNrec_memOk {n : BitVec 6} {s : State} (hs : s.memOk) : NextOk (execNrec n s) := by
  refine schedInstr_memOk hs ?_
  intro _ _ _ h1
  dsimp only
  split
  next => exact State.faultAll_memOk h1
  next =>
    refine State.retireUid_memOk ?_
    refine State.putTrain_memOk ?_
    refine ite_memOk ?_ ?_
    · refine foldl_fst_memOk h1 ?_
      intro _ _ h3
      split
      next => exact State.takeFault_memOk h3
      next => exact h3
    · refine State.schedDo_memOk ?_ (fun _ h3 => State.sendPack_memOk h3)
      refine State.draw_memOk ?_
      refine foldl_fst_memOk h1 ?_
      intro _ _ h3
      split
      next => exact State.takeFault_memOk h3
      next => exact h3

/-! ## Class NET (Machine/Net.lean) -/

theorem serveSeats_memOk {f : State → Train → Seat → Option (State × Train)} {s : State} {t : Train} {xs : List Seat} (hs : s.memOk)
    (hf : ∀ s t x, s.memOk → SomeFstOk (f s t x)) : (serveSeats f s t xs).1.memOk := by
  induction xs generalizing s t with
  | nil => exact hs
  | cons x xs ih =>
    unfold serveSeats
    split
    next => exact hs
    next h1 => exact ih (SomeFstOk.some h1 (hf _ _ _ hs))

theorem State.serve_memOk {s : State} {c : Nat} {t : Train} {h : Hold} {f : State → Train → Seat → Option (State × Train)} (hs : s.memOk)
    (hf : ∀ s t x, s.memOk → SomeFstOk (f s t x)) : (s.serve c t h f).memOk := by
  unfold State.serve
  split
  next h1 =>
    refine State.retireUid_memOk ?_
    exact State.putTrain_memOk (memOk_of_eq_fst h1 (serveSeats_memOk hs (fun _ _ _ h2 => hf _ _ _ h2)))
  next h1 =>
    refine State.holdTrain_memOk ?_
    exact State.putTrain_memOk (memOk_of_eq_fst h1 (serveSeats_memOk hs (fun _ _ _ h2 => hf _ _ _ h2)))

theorem State.sendEntry_memOk {s : State} {c : Nat} {tt : Bool} {h : Word} {e : QEntry} (hs : s.memOk) : (s.sendEntry c tt h e).memOk := by
  unfold State.sendEntry
  split
  next => exact hs
  next =>
    split <;> exact hs

theorem State.qenqSeat_memOk {s : State} {c : Nat} {t : Train} {ring : Option Nat} {x : Seat} (hs : s.memOk) :
    SomeFstOk (s.qenqSeat c t ring x) := by
  unfold State.qenqSeat
  dsimp only
  split
  next => exact State.takeFault_memOk hs
  next =>
    split
    next => trivial
    next => exact State.sendEntry_memOk hs

theorem execQenq_memOk {sc : BitVec 3} {v : BitVec 1} {k : BitVec 2} {s : State} (hs : s.memOk) : NextOk (execQenq sc v k s) := by
  refine withScope_memOk hs ?_
  intro _ _
  refine afterWrites_memOk hs ?_
  intro _ h1
  split
  next => exact h1
  next => exact State.serve_memOk h1 (fun _ _ _ h3 => State.qenqSeat_memOk h3)

theorem State.qdeqSeat_memOk {s : State} {c : Nat} {t : Train} {a : Nat} {try' : Bool} {x : Seat} (hs : s.memOk) :
    SomeFstOk (s.qdeqSeat c t a try' x) := by
  unfold State.qdeqSeat
  split
  next =>
    dsimp only
    split
    next => exact State.takeFault_memOk hs
    next =>
      split
      next => exact State.issueLate_memOk hs
      next =>
        split <;> exact State.issueLate_memOk hs
  next =>
    dsimp only
    split
    next => exact State.takeFault_memOk hs
    next =>
      split
      next => exact State.issueLate_memOk hs
      next =>
        split
        next => trivial
        next => exact State.issueLate_memOk hs

theorem execQdeq_memOk {a : BitVec 8} {sc : BitVec 3} {t : BitVec 1} {s : State} (hs : s.memOk) : NextOk (execQdeq a sc t s) := by
  refine withScope_memOk hs ?_
  intro _ _
  split
  next h1 => exact PreRes.memOk.hold h1 (State.prepare_memOk hs)
  next h1 => exact State.serve_memOk (PreRes.memOk.go h1 (State.prepare_memOk hs)) (fun _ _ _ h2 => State.qdeqSeat_memOk h2)

theorem execQpoll_memOk {a : BitVec 8} {s : State} (hs : s.memOk) : NextOk (execQpoll a s) := by
  refine withTrain_memOk ?_
  intro _ _
  split
  next h1 => exact PreRes.memOk.hold h1 (State.prepare_memOk hs)
  next h1 => exact State.finishLanes_memOk (State.takeFaults_memOk (PreRes.memOk.go h1 (State.prepare_memOk hs)))

theorem State.makeQueue_memOk {s : State} {c : Nat} {r : LaunchRef} {asid owner d : Nat} (hs : s.memOk) :
    SomeFstOk (s.makeQueue c r asid owner d) := by
  unfold State.makeQueue
  dsimp only
  split
  next => trivial
  next =>
    split
    next => trivial
    next => exact hs

theorem State.qmakeSeat_memOk {s : State} {c : Nat} {t : Train} {a : Nat} {x : Seat} (hs : s.memOk) : (s.qmakeSeat c t a x).1.memOk := by
  unfold State.qmakeSeat
  dsimp only
  split
  next => exact State.takeFault_memOk hs
  next => exact hs
  next =>
    split
    next =>
      split
      next => exact State.takeFault_memOk hs
      next =>
        split
        next h4 => exact State.giveSeat_memOk (SomeFstOk.some h4 (State.makeQueue_memOk hs))
        next => exact State.giveSeat_memOk hs
    next => exact State.takeFault_memOk hs
    next => exact State.takeFault_memOk hs

theorem execQmake_memOk {a : BitVec 8} {s : State} (hs : s.memOk) : NextOk (execQmake a s) := by
  refine withTrain_memOk ?_
  intro _ _
  split
  next h1 => exact PreRes.memOk.hold h1 (State.prepare_memOk hs)
  next h1 =>
    dsimp only
    split
    next => exact State.missHold_memOk (State.drainTrain_memOk (PreRes.memOk.go h1 (State.prepare_memOk hs)))
    next =>
      split
      next =>
        refine State.retireUid_memOk ?_
        refine State.updEng_memOk ?_
        refine State.putTrain_memOk ?_
        refine State.actSeats_memOk ?_ ?_
        · exact State.drainTrain_memOk (PreRes.memOk.go h1 (State.prepare_memOk hs))
        · exact fun _ _ _ _ h4 => State.qmakeSeat_memOk h4
      next =>
        refine State.holdTrain_memOk ?_
        refine ite_memOk ?_ ?_
        · exact State.drainTrain_memOk (PreRes.memOk.go h1 (State.prepare_memOk hs))
        · exact State.engAsk_memOk (State.drainTrain_memOk (PreRes.memOk.go h1 (State.prepare_memOk hs)))

theorem State.qkillSeat_memOk {s : State} {c : Nat} {t : Train} {a : Nat} {x : Seat} (hs : s.memOk) : (s.qkillSeat c t a x).1.memOk := by
  unfold State.qkillSeat
  dsimp only
  split
  next => exact State.takeFault_memOk hs
  next =>
    split
    next => exact State.giveSeat_memOk hs
    next =>
      split
      next => exact State.takeFault_memOk hs
      next => exact State.giveSeat_memOk (State.queueKill_memOk hs)

theorem execQkill_memOk {a : BitVec 8} {s : State} (hs : s.memOk) : NextOk (execQkill a s) := by
  refine withTrain_memOk ?_
  intro _ _
  split
  next h1 => exact PreRes.memOk.hold h1 (State.prepare_memOk hs)
  next h1 =>
    refine State.retireUid_memOk ?_
    refine State.putTrain_memOk ?_
    refine State.actSeats_memOk ?_ ?_
    · exact PreRes.memOk.go h1 (State.prepare_memOk hs)
    · exact fun _ _ _ _ h2 => State.qkillSeat_memOk h2

theorem State.frmputSeat_memOk {s : State} {c b : Nat} {t : Train} {x : Seat} (hs : s.memOk) : SomeFstOk (s.frmputSeat c b t x) := by
  unfold State.frmputSeat
  split
  next => exact State.takeFault_memOk hs
  next =>
    split
    next => exact State.takeFault_memOk hs
    next =>
      split
      next => trivial
      next => exact hs

theorem State.closeAtOnce_memOk {s : State} {c b : Nat} (hs : s.memOk) : (s.closeAtOnce c b).memOk := by
  unfold State.closeAtOnce
  dsimp only
  split
  next =>
    split <;> exact hs
  next => exact hs

theorem execFrmput_memOk {b : BitVec 3} {s : State} (hs : s.memOk) : NextOk (execFrmput b s) := by
  refine withTrain_memOk ?_
  intro _ _
  refine afterWrites_memOk hs ?_
  intro _ h1
  split
  next => exact h1
  next =>
    dsimp only
    split
    next => exact h1
    next => exact State.closeAtOnce_memOk (State.serve_memOk h1 (fun _ _ _ h4 => State.frmputSeat_memOk h4))

theorem State.closeFor_memOk {s : State} {c uid b : Nat} (hs : s.memOk) : (s.closeFor c uid b).memOk := by
  unfold State.closeFor
  split <;> exact hs

theorem execFrmclose_memOk {l : BitVec 1} {b : BitVec 3} {s : State} (hs : s.memOk) : NextOk (execFrmclose l b s) := by
  refine withTrain_memOk ?_
  intro _ _
  dsimp only
  split
  next => exact hs
  next => exact State.retire_memOk (foldl_memOk hs (fun _ _ h2 => State.closeFor_memOk h2))

/-! ## What the machine does next (Machine/Sched.lean) -/

theorem State.consume_memOk {s : State} {c uid : Nat} (hs : s.memOk) : (s.consume c uid).memOk := by
  unfold State.consume
  split
  next => exact hs
  next =>
    dsimp only
    split
    next => exact hs
    next => exact State.putTrain_memOk (foldl_fst_memOk hs (fun _ _ h3 => State.takeFault_memOk h3))

theorem State.updTeam_memOk {s : State} {c uid : Nat} {f : Train → Train} (hs : s.memOk) : (s.updTeam c uid f).memOk := by
  unfold State.updTeam
  split
  next =>
    split <;> exact hs
  next => exact hs

theorem State.forTrain_memOk {s : State} {c uid : Nat} (hs : s.memOk) : (s.forTrain c uid).memOk := State.mk_memOk (State.updTeam_memOk hs)

theorem State.countRetired_memOk {s : State} {c : Nat} {t u : Train} (hs : s.memOk) : (s.countRetired c t u).memOk := by
  unfold State.countRetired
  split
  next => exact hs
  next => exact State.countEvt_memOk hs

theorem State.issued_memOk {s : State} {c : Nat} {t : Train} (hs : s.memOk) : (s.issued c t).memOk := by
  unfold State.issued
  split
  next => exact hs
  next =>
    split
    next => exact hs
    next => exact State.updCore_memOk (State.countRetired_memOk hs)

theorem State.turned_memOk {s : State} {c : Nat} {t : Train} (hs : s.memOk) : (s.turned c t).memOk := by
  unfold State.turned
  split
  next => exact State.countRetired_memOk (State.ttAfter_memOk hs)
  next => exact State.ttAfter_memOk hs

theorem State.afterIssue_memOk {s : State} {c : Nat} {t : Train} (hs : s.memOk) : (s.afterIssue c t).memOk := by
  refine State.updTeam_memOk ?_
  exact ite_memOk (State.turned_memOk (State.updTeam_memOk hs)) (State.issued_memOk (State.updTeam_memOk hs))

theorem State.tickCore_memOk {s : State} {c : Nat} (hs : s.memOk) : (s.tickCore c).memOk := by
  unfold State.tickCore
  dsimp only
  split
  next =>
    split
    next => exact State.countEvt_memOk (State.countEvt_memOk (State.latchYields_memOk hs))
    next => exact State.countEvt_memOk (State.latchYields_memOk hs)
  next =>
    split
    next => exact State.countEvt_memOk (State.latchYields_memOk hs)
    next => exact State.latchYields_memOk hs

theorem State.tick_memOk {s : State} (hs : s.memOk) : s.tick.memOk := by
  refine State.mk_memOk ?_
  refine foldl_memOk ?_ (fun _ _ h1 => State.tickCore_memOk h1)
  refine foldl_memOk hs ?_
  intro _ _ h1
  split
  next => exact foldl_memOk h1 (fun _ _ h3 => State.countEvt_memOk h3)
  next => exact h1

theorem State.storeTurn_memOk {s : State} {c : Nat} (hs : s.memOk) : (s.storeTurn c).memOk := hs

theorem State.seatCore_memOk {s : State} {c : Nat} (hs : s.memOk) : (s.seatCore c).memOk := State.updCore_memOk (State.settle_memOk hs)

theorem State.house_memOk {s : State} {t : Todo} (hs : s.memOk) : SomeOk (s.house t) := by
  unfold State.house
  split
  next => exact SomeOk.map (fun _ => State.fetchTrain_memOk hs)
  next => exact State.drainTake_memOk hs
  next => exact SomeOk.map (fun _ => hs)
  next => exact hs
  next => exact State.seatCore_memOk hs
  next => exact State.tileWake_memOk hs
  next => exact hs
  next => exact State.tick_memOk hs
  next => trivial

/-! ## One arm per instruction and per event (Machine/Dispatch.lean) -/

/-- Each instruction and each event, by the operation that its arm names. -/
theorem exec_memOk {i : Instr} {s : State} (hs : s.memOk) : NextOk (exec i s) := by
  cases i with dsimp only [exec]
  | iadd | isub | imul | imulh | imad | imin | imax | iabs | ineg | iand | ior | ixor | andn | inot | shl | shr | sar | rot | bfx | bfi | popc
  | clz | brev | icmp | sel | mov | addx | const | consh | consw | iaddi | iaddPred | isubPred | imulPred | imulhPred | imadPred | iminPred
  | imaxPred | iabsPred | inegPred | iandPred | iorPred | ixorPred | andnPred | inotPred | shlPred | shrPred | sarPred | rotPred | bfxPred
  | bfiPred | popcPred | clzPred | brevPred | icmpPred | movPred | addxPred | constPred | conshPred | conswPred | iaddiPred | fadd | fsub | fmul
  | ffma | fmin | fmax | fabs | fneg | fcmp | fclass | fdot2 | fdot4 | faddPred | fsubPred | fmulPred | ffmaPred | fminPred | fmaxPred | fabsPred
  | fnegPred | fcmpPred | fclassPred | fdot2Pred | fdot4Pred =>
    exact laneInstr_memOk hs
  | frcp | frsq | fsqrt | fdiv | fexp2 | flog2 | fsin | fcos | ftanh | frint | idiv | irem | frcpPred | frsqPred | fsqrtPred | fdivPred
  | fexp2Pred | flog2Pred | fsinPred | fcosPred | ftanhPred | frintPred | idivPred | iremPred =>
    exact lateInstr_memOk hs
  | cvt | cvtsc | cvtPred | cvtscPred => exact lateLane_memOk hs
  | shfl | shflx | shflup | shfldn | bcast | vote | reduce | scan | xmatch | seatid | tagord => exact xlnInstr_memOk hs
  | send | sendsel => exact sendInstr_memOk hs (fun _ _ _ h1 => foldl_fst_memOk h1 (fun _ _ h2 => State.sendSeat_memOk h2))
  | switch => exact execSwitch_memOk hs
  | spawn => exact sendInstr_memOk hs (fun _ _ _ h1 => foldl_fst_memOk h1 (fun _ _ h2 => State.spawnSeat_memOk h2))
  | ret => exact execRet_memOk hs
  | free | trapset => exact withTrain_memOk (fun _ _ => State.retire_memOk (foldl_memOk hs (fun _ _ h1 => h1)))
  | tag | tpart | clk => exact laneNow_memOk hs
  | futld => exact execFutld_memOk hs
  | futst => exact execFutst_memOk hs
  | yield => exact withPlacement_memOk hs (fun _ _ => State.retireUid_memOk (State.putTrain_memOk (State.yieldSeats_memOk hs)))
  | trapret => exact execTrapret_memOk hs
  | depart => exact execDepart_memOk hs
  | gldx => exact execGldx_memOk hs
  | gstx => exact writeInstr_memOk hs (fun _ _ _ _ h1 => indexedWrite_memOk h1 (fun _ _ _ h2 => State.issueWrite_memOk h2))
  | gempty => exact writeInstr_memOk hs (fun _ _ _ _ h1 => indexedWrite_memOk h1 (fun _ _ _ h2 => State.emptyReg_memOk h2))
  | gtest => exact execGtest_memOk hs
  | rcpset => exact execRcpset_memOk hs
  | rcpdrop => exact execRcpdrop_memOk hs
  | rcpclr => exact execRcpclr_memOk hs
  | ld => exact globInstr_memOk hs (fun _ _ _ _ h1 => State.actSeats_memOk h1 (fun _ _ _ _ h2 => State.loadSeat_memOk h2))
  | st => exact globInstr_memOk hs (fun _ _ _ _ h1 => h1)
  | lds => exact spInstr_memOk hs (fun _ _ _ _ h1 => State.actSeats_memOk h1 (fun _ _ _ _ h2 => State.memLate_memOk h2))
  | sts => exact spInstr_memOk hs (fun _ _ _ _ h1 => h1)
  | atom | cas => exact atomInstr_memOk hs
  | atoms => exact execAtoms_memOk hs
  | fence | bfence => exact fenceInstr_memOk hs
  | pref => exact withTrain_memOk (fun _ _ => State.retire_memOk (State.quietWalks_memOk hs))
  | cflush | cinv => exact flushInstr_memOk hs
  | ldmx => exact execLdmx_memOk hs
  | stmx => exact mxInstr_memOk hs (fun _ _ _ _ h1 => h1)
  | talloc => exact execTalloc_memOk hs
  | tst => exact execTst_memOk hs
  | tseal | tabandon => exact tileAccess_memOk hs
  | tld => exact execTld_memOk hs
  | tfree => exact execTfree_memOk hs
  | tstat => exact execTstat_memOk hs
  | cpy | cpys => exact copyInstr_memOk hs
  | cpyc => exact withTrain_memOk (fun _ _ => State.retire_memOk (foldl_memOk hs (fun _ _ h1 => State.cancelSeat_memOk h1)))
  | bari | bara | barx => exact barInstr_memOk hs
  | barw => exact execBarw_memOk hs
  | crpop => exact execCrpop_memOk hs
  | mma | accz | accld => exact mtxIssue_memOk hs (fun _ _ _ _ h1 => h1)
  | mmax => exact withLowest_memOk hs (fun _ _ _ => hs)
  | mctx => exact execMctx_memOk hs
  | mwait => exact execMwait_memOk hs
  | accst => exact execAccst_memOk hs
  | accrd => exact execAccrd_memOk hs
  | bgemv | bred => exact bankInstr_memOk hs
  | bwait => exact execBwait_memOk hs
  | fjob => exact execFjob_memOk hs
  | fwait => exact execFwait_memOk hs
  | fcan => exact execFcan_memOk hs
  | fpush => exact execFpush_memOk hs
  | fpull => exact execFpull_memOk hs
  | scfg => exact withJob_memOk hs (fun _ _ _ => State.doScfg_memOk hs)
  | sbind => exact withJob_memOk hs (fun _ _ _ => State.doSbind_memOk hs)
  | sgo => exact withJob_memOk hs (fun _ _ _ => State.doSgo_memOk hs)
  | sbar => exact withJob_memOk hs (fun _ _ _ => State.doSbar_memOk hs)
  | sdone => exact withJob_memOk hs (fun _ _ _ => State.doSdone_memOk hs)
  | sloop => exact withJob_memOk hs (fun _ _ _ => State.doSloop_memOk hs)
  | launch => exact schedSeats_memOk hs (fun _ _ _ _ _ h1 => State.schedDo_memOk h1 (fun _ h2 => State.fireTry_memOk h2))
  | nrec => exact execNrec_memOk hs
  | dsig | dpub => exact schedSeats_memOk hs (fun _ _ _ _ _ h1 => State.ctrSeat_memOk h1)
  | qenq => exact execQenq_memOk hs
  | qdeq => exact execQdeq_memOk hs
  | qpoll => exact execQpoll_memOk hs
  | qmake => exact execQmake_memOk hs
  | qkill => exact execQkill_memOk hs
  | frmput => exact execFrmput_memOk hs
  | frmclose => exact execFrmclose_memOk hs
  | trap => exact withPlacement_memOk hs (fun _ _ => State.retire_memOk (State.takeFaults_memOk hs))
  | mode => exact execMode_memOk hs
  | evt => exact withTrain_memOk (fun _ _ => State.retire_memOk (State.evtCount_memOk hs))
  | brk => exact execBrk_memOk hs
  | sregr => exact execSregr_memOk hs
  | sregw => exact execSregw_memOk hs
  | tokenArrival => exact execTokenArrival_memOk hs
  | discardNotice => exact execDiscardNotice_memOk hs
  | sendAck => exact eventStep_memOk (State.sendAck_memOk hs)
  | departCommandArrival => exact execDepartCommandArrival_memOk hs
  | departureTimerExpiry => exact execDepartureTimerExpiry_memOk hs
  | trainDeparture => exact eventStep_memOk (State.departTry_memOk hs)
  | trainEnd => exact eventStep_memOk (State.endTry_memOk hs)
  | lateValueLands => exact eventStep_memOk (State.lateTry_memOk hs)
  | recipeReplay => exact eventStep_memOk (State.replayWait_memOk hs)
  | freeCompletion => exact eventStep_memOk (State.freeTry_memOk hs)
  | compaction => exact eventStep_memOk (State.compactTry_memOk hs)
  | storeDrain => exact eventStep_memOk (State.drainTry_memOk hs)
  | translationWalk => exact eventStep_memOk (State.walkOne_memOk hs)
  | pageResponse => exact hostWrite_memOk hs (fun _ h1 => State.pageResponse_memOk h1)
  | pageRequestTimeout => exact eventStep_memOk (State.pageTimeout_memOk hs)
  | tlbinv => exact hostWrite_memOk hs (fun _ h1 => State.tlbInvWrite_memOk h1)
  | tlbInvalidationComplete => exact eventStep_memOk (State.tlbInvDone_memOk hs)
  | prqctlWrite => exact hostWrite_memOk hs (fun _ h1 => State.prqCtlWrite_memOk h1)
  | partitionRegisterWrite => exact hostWrite_memOk hs (fun _ h1 => State.hostReg_memOk h1)
  | sslenWrite => exact hostWrite_memOk hs (fun _ h1 => State.ssLenWrite_memOk h1)
  | hostDoorbell => exact State.regWrite_memOk hs (fun _ _ h1 => State.doorbell_memOk h1)
  | launchAdmit => exact eventStep_memOk (State.admitTry_memOk hs)
  | gridWordRead => exact eventStep_memOk (State.gridTry_memOk hs)
  | launchPlacement => exact eventStep_memOk (State.placeTry_memOk hs)
  | launchStall => exact eventStep_memOk (State.stallOut_memOk hs)
  | launchCompletion => exact eventStep_memOk (State.completeTry_memOk hs)
  | noticeHeadWrite => exact State.regWrite_memOk hs (fun _ _ h1 => State.noticeWrite_memOk h1)
  | sidingReplay => exact eventStep_memOk (State.sidingTry_memOk hs)
  | yardRecordArrival => exact eventStep_memOk (State.yardStep_memOk hs (fun _ h1 => State.yardArrive_memOk h1))
  | yardTimerExpiry => exact eventStep_memOk (State.yardStep_memOk hs (fun _ h1 => State.yardTimer_memOk h1))
  | teamPlacement => exact eventStep_memOk (State.yardStep_memOk hs (fun _ h1 => State.teamPlace_memOk h1))
  | endLaunch | preempt | restore | halt | resume => exact hostWrite_memOk hs (fun _ h1 => State.pctlWrite_memOk h1)
  | faultedLaunchAutoend => exact eventStep_memOk (State.autoEndTry_memOk hs)
  | drainlimExpiry => exact eventStep_memOk (State.drainLimit_memOk hs)
  | saveStart => exact eventStep_memOk (State.saveStart_memOk hs)
  | saveComplete => exact eventStep_memOk (State.saveDone_memOk hs)
  | loadComplete => exact eventStep_memOk (State.loadDone_memOk hs)
  | haltQuiesced => exact eventStep_memOk (State.haltDone_memOk hs)
  | timetableStep => exact eventStep_memOk (State.ttStep_memOk hs)
  | superstepBoundary => exact eventStep_memOk (State.boundary_memOk hs)
  | timetableFreeze => exact eventStep_memOk (State.ttFreeze_memOk hs)
  | timetableHalt => exact eventStep_memOk (State.ttHalt_memOk hs)
  | copyCompletion => exact eventStep_memOk (State.copyTry_memOk hs)
  | ringSpaceRetry => exact eventStep_memOk (State.ringTry_memOk hs)
  | barrierUpdate => exact eventStep_memOk (State.barTry_memOk hs)
  | freedSlotNotice => exact eventStep_memOk (State.noticeTry_memOk hs)
  | tallocGrant => exact eventStep_memOk (State.grantTry_memOk hs)
  | tileSealComplete | tfreeComplete => exact eventStep_memOk (State.sealTry_memOk hs)
  | mctxClaim => exact eventStep_memOk (State.claimTry_memOk hs)
  | mctxRelease => exact eventStep_memOk (State.releaseTry_memOk hs)
  | mtxTileStep => exact eventStep_memOk (State.tileTry_memOk hs)
  | bankOperationComplete => exact eventStep_memOk (State.bankTry_memOk hs)
  | fabCardBind => exact eventStep_memOk (State.bindTry_memOk hs)
  | fabUnitFire => exact eventStep_memOk (State.unitTry_memOk hs)
  | fabSourceToken => exact eventStep_memOk (State.sourceTry_memOk hs)
  | fabSinkCommit => exact eventStep_memOk (State.sinkTry_memOk hs)
  | fabReplay => exact eventStep_memOk (SomeOk.bind (fun _ => State.fabReplay_memOk hs))
  | fabJobComplete => exact eventStep_memOk (State.jobTry_memOk hs)
  | queueEntryArrival => exact execQueueEntryArrival_memOk hs
  | queueRefusal => exact execQueueRefusal_memOk hs
  | queueAck => exact eventStep_memOk (State.replyTry_memOk hs)
  | queueSidingRetry => exact eventStep_memOk (State.sidingRetry_memOk hs)
  | queueCycleScan => exact eventStep_memOk (State.cycleScanDue_memOk hs)
  | frameFillTimer => exact eventStep_memOk (State.fillTry_memOk hs)
  | frameSend => exact eventStep_memOk (State.frameTry_memOk hs)
  | rowFrameArrival => exact execRowFrameArrival_memOk hs
  | creditGrant => exact eventStep_memOk (State.creditGrant_memOk hs)
  | remoteMemoryRequest => exact eventStep_memOk (State.peerRequest_memOk hs)
  | remoteMemoryResponse => exact execRemoteMemoryResponse_memOk hs
  | routeChange => exact eventStep_memOk (State.routeEvent_memOk hs)
  | flitRetransmit | endpointReset => exact hs
  | featacceptWrite => exact State.regWrite_memOk hs (fun _ _ h1 => State.featWrite_memOk h1)
  | msixIntervalExpiry => exact eventStep_memOk (State.intervalEnd_memOk hs)
  | mgmtPhysicalAccess => exact execMgmtPhysicalAccess_memOk hs
  | mgmtRegisterAccess => exact execMgmtRegisterAccess_memOk hs
  | mgmtObjectAccess => exact execMgmtObjectAccess_memOk hs
  | mgmtFutViewAccess => exact execMgmtFutViewAccess_memOk hs
  | mgmtAsidEntryAccess => exact execMgmtAsidEntryAccess_memOk hs
  | powerUp => exact eventStep_memOk State.powerUp_memOk
  | setDomain => exact eventStep_memOk (State.castopel_memOk hs (fun _ h1 => State.setDomain_memOk h1))
  | setPartition => exact eventStep_memOk (State.castopel_memOk hs (fun _ h1 => State.setPartition_memOk h1))
  | setPriv => exact eventStep_memOk (State.castopel_memOk hs (fun _ h1 => State.setPriv_memOk h1))
  | setPowerCap => exact eventStep_memOk (State.castopel_memOk hs (fun _ h1 => State.setPowerCap_memOk h1))
  | moduleReset => exact eventStep_memOk (State.resetCmd_memOk hs)
  | activateVersion => exact eventStep_memOk (State.castopel_memOk hs (fun _ h1 => h1))
  | getErrorLog | getRouteTable | getVersion | getCapabilities | negotiateAlgorithms | getDigests | getCertificate | challenge | getMeasurements
  | pldmBaseDiscovery =>
    exact eventStep_memOk (State.query_memOk hs)
  | pldmSensorRead => exact eventStep_memOk (State.sensorRead_memOk hs)
  | firmwareUpdate => exact eventStep_memOk (State.firmwareUpdate_memOk hs)
  | powerCapThrottle | thermalThrottle => exact eventStep_memOk (State.throttleStep_memOk hs)
  | thermalHalt => exact eventStep_memOk (State.thermalHalt_memOk hs)
  | patrolScrub => exact State.patrolScrub_memOk hs
  | controlStateError => exact eventStep_memOk (State.controlError_memOk hs)
  | throttleRelease => exact eventStep_memOk (State.throttleEnd_memOk hs)
  | configurationRequest => exact execConfigurationRequest_memOk hs
  | flitForward => exact execFlitForward_memOk hs
  | statusWrite => exact State.regWrite_memOk hs (fun _ _ h1 => State.statusWrite_memOk h1)
  | mstatWrite => exact State.regWrite_memOk hs (fun _ _ h1 => State.mstatWrite_memOk h1)
  | waitGraphEdgeExchange => exact eventStep_memOk (State.edgesArrive_memOk hs)
  | flushComplete => exact eventStep_memOk (State.flushTry_memOk hs)

/-! ## What the machine does next (Machine/Sched.lean) -/

/-- Each step that the machine takes of itself, by the operation that its event names. -/
theorem runAct_memOk {a : Act} {s : State} (hs : s.memOk) : NextOk (runAct a s) := by
  cases a with dsimp only [runAct]
  | tokenArrival => exact execTokenArrival_memOk hs
  | departCommandArrival => exact execDepartCommandArrival_memOk hs
  | departureTimerExpiry => exact execDepartureTimerExpiry_memOk hs
  | trainDeparture => exact eventStep_memOk (State.departTry_memOk hs)
  | trainEnd => exact eventStep_memOk (State.endTry_memOk hs)
  | lateValueLands => exact eventStep_memOk (State.lateTry_memOk hs)
  | recipeReplay => exact eventStep_memOk (State.replayWait_memOk hs)
  | freeCompletion => exact eventStep_memOk (State.freeTry_memOk hs)
  | compaction => exact eventStep_memOk (State.compactTry_memOk hs)
  | storeDrain => exact eventStep_memOk (State.drainTry_memOk hs)
  | flushComplete => exact eventStep_memOk (State.flushTry_memOk hs)
  | translationWalk => exact eventStep_memOk (State.walkOne_memOk hs)
  | pageRequestTimeout => exact eventStep_memOk (State.pageTimeout_memOk hs)
  | tlbInvalidationComplete => exact eventStep_memOk (State.tlbInvDone_memOk hs)
  | launchAdmit => exact eventStep_memOk (State.admitTry_memOk hs)
  | gridWordRead => exact eventStep_memOk (State.gridTry_memOk hs)
  | launchPlacement => exact eventStep_memOk (State.placeTry_memOk hs)
  | launchStall => exact eventStep_memOk (State.stallOut_memOk hs)
  | launchCompletion => exact eventStep_memOk (State.completeTry_memOk hs)
  | faultedLaunchAutoend => exact eventStep_memOk (State.autoEndTry_memOk hs)
  | sidingReplay => exact eventStep_memOk (State.sidingTry_memOk hs)
  | yardRecordArrival => exact eventStep_memOk (State.yardStep_memOk hs (fun _ h1 => State.yardArrive_memOk h1))
  | yardTimerExpiry => exact eventStep_memOk (State.yardStep_memOk hs (fun _ h1 => State.yardTimer_memOk h1))
  | teamPlacement => exact eventStep_memOk (State.yardStep_memOk hs (fun _ h1 => State.teamPlace_memOk h1))
  | drainlimExpiry => exact eventStep_memOk (State.drainLimit_memOk hs)
  | saveStart => exact eventStep_memOk (State.saveStart_memOk hs)
  | saveComplete => exact eventStep_memOk (State.saveDone_memOk hs)
  | loadComplete => exact eventStep_memOk (State.loadDone_memOk hs)
  | haltQuiesced => exact eventStep_memOk (State.haltDone_memOk hs)
  | timetableStep => exact eventStep_memOk (State.ttStep_memOk hs)
  | superstepBoundary => exact eventStep_memOk (State.boundary_memOk hs)
  | timetableFreeze => exact eventStep_memOk (State.ttFreeze_memOk hs)
  | timetableHalt => exact eventStep_memOk (State.ttHalt_memOk hs)
  | copyCompletion => exact eventStep_memOk (State.copyTry_memOk hs)
  | ringSpaceRetry => exact eventStep_memOk (State.ringTry_memOk hs)
  | barrierUpdate => exact eventStep_memOk (State.barTry_memOk hs)
  | freedSlotNotice => exact eventStep_memOk (State.noticeTry_memOk hs)
  | tallocGrant => exact eventStep_memOk (State.grantTry_memOk hs)
  | tileSealComplete | tfreeComplete => exact eventStep_memOk (State.sealTry_memOk hs)
  | mctxClaim => exact eventStep_memOk (State.claimTry_memOk hs)
  | mctxRelease => exact eventStep_memOk (State.releaseTry_memOk hs)
  | mtxTileStep => exact eventStep_memOk (State.tileTry_memOk hs)
  | bankOperationComplete => exact eventStep_memOk (State.bankTry_memOk hs)
  | fabCardBind => exact eventStep_memOk (State.bindTry_memOk hs)
  | fabUnitFire => exact eventStep_memOk (State.unitTry_memOk hs)
  | fabSourceToken => exact eventStep_memOk (State.sourceTry_memOk hs)
  | fabSinkCommit => exact eventStep_memOk (State.sinkTry_memOk hs)
  | fabJobComplete => exact eventStep_memOk (State.jobTry_memOk hs)
  | queueEntryArrival => exact execQueueEntryArrival_memOk hs
  | queueRefusal => exact execQueueRefusal_memOk hs
  | queueAck => exact eventStep_memOk (State.replyTry_memOk hs)
  | queueSidingRetry => exact eventStep_memOk (State.sidingRetry_memOk hs)
  | queueCycleScan => exact eventStep_memOk (State.cycleScanDue_memOk hs)
  | frameFillTimer => exact eventStep_memOk (State.fillTry_memOk hs)
  | frameSend => exact eventStep_memOk (State.frameTry_memOk hs)
  | rowFrameArrival => exact execRowFrameArrival_memOk hs
  | creditGrant => exact eventStep_memOk (State.creditGrant_memOk hs)
  | msixIntervalExpiry => exact eventStep_memOk (State.intervalEnd_memOk hs)

/-! ## A step, and O47 -/

/-- Whatever a step finds to do, an event, an instruction of a train or of a job, a store or housekeeping, keeps HBM in canonical form. -/
theorem step_memOk {s : State} (hs : s.memOk) : NextOk (step s) := by
  unfold step
  split
  next => exact exec_memOk (State.mk_memOk hs)
  next => exact runAct_memOk hs
  next => exact eventStep_memOk State.powerUp_memOk
  next c uid _ =>
    split
    next => trivial
    next =>
      split
      next => exact State.afterIssue_memOk (State.faultAll_memOk hs)
      next i _ =>
        have hx : NextOk (exec i ((s.consume c uid).forTrain c uid)) := exec_memOk (State.forTrain_memOk (State.consume_memOk hs))
        split
        next h => exact State.afterIssue_memOk (NextOk.next h hx)
        next => exact hx
  next => exact exec_memOk (State.mk_memOk hs)
  next => exact eventStep_memOk (State.drainTry_memOk (State.storeTurn_memOk hs))
  next => exact eventStep_memOk (State.house_memOk hs)

/-- Settles O47: HBM is canonical after each operation that a step is made of, since each leaves HBM alone, writes it
by `Memory.write` or starts it empty. -/
theorem stepsKeepMemoryCanonical : Obligations.StepsKeepMemoryCanonical := by
  unfold Obligations.StepsKeepMemoryCanonical
  intro s s' hs h
  exact NextOk.next h (step_memOk hs)

end Sys2Proof.Machine
end

section
namespace Sys2Proof.Machine

/-!
# O8: results are placed element by element

`packAt` is read back element by element. Every type but s32 places the packed number itself; s32 places its sign extension.
-/

/-! ## Elements in a slot (03_numbers.md R76) -/

theorem packAt_lt (w : Nat) (f : Nat → Nat) (n : Nat) : packAt w f n < 2 ^ (w * n) := by
  induction n with
  | zero => simp [packAt]
  | succ n ih =>
    have hf : f n % 2 ^ w + 1 ≤ 2 ^ w := Nat.mod_lt _ (Nat.two_pow_pos w)
    calc packAt w f (n + 1) < (f n % 2 ^ w + 1) * 2 ^ (w * n) := by rw [packAt, Nat.succ_mul]; omega
      _ ≤ 2 ^ w * 2 ^ (w * n) := Nat.mul_le_mul_right _ hf
      _ = 2 ^ (w * (n + 1)) := by rw [← Nat.pow_add, Nat.mul_succ, Nat.add_comm]

/-- Reading element i of a packed number gives what was packed there. -/
theorem packAt_elem (w : Nat) (f : Nat → Nat) {n i : Nat} (hi : i < n) : (packAt w f n >>> (w * i)) % 2 ^ w = f i % 2 ^ w := by
  induction n with
  | zero => omega
  | succ n ih =>
    rw [packAt, Nat.shiftRight_eq_div_pow]
    by_cases h : i = n
    · subst h
      rw [Nat.add_mul_div_right _ _ (Nat.two_pow_pos _), Nat.div_eq_of_lt (packAt_lt w f i), Nat.zero_add, Nat.mod_mod]
    · obtain ⟨d, rfl⟩ : ∃ d, n = i + 1 + d := ⟨n - (i + 1), by omega⟩
      have hpow : 2 ^ (w * (i + 1 + d)) = 2 ^ w * 2 ^ (w * d) * 2 ^ (w * i) := by
        rw [← Nat.pow_add, ← Nat.pow_add, Nat.mul_add, Nat.mul_add, Nat.mul_one]; congr 1; omega
      rw [hpow, ← Nat.mul_assoc, Nat.add_mul_div_right _ _ (Nat.two_pow_pos _), Nat.mul_left_comm, Nat.add_mul_mod_self_left,
        ← Nat.shiftRight_eq_div_pow]
      exact ih (by omega)

/-- A number read as signed 32 bits and placed in a word is its low half, sign extended (R77). -/
theorem ofInt_toSigned_eq_signExtend (v : Nat) : BitVec.ofInt 64 (toSigned 32 v) = (BitVec.ofNat 32 v).signExtend 64 := by
  rw [BitVec.signExtend, BitVec.toInt_eq_toNat_cond, BitVec.toNat_ofNat]
  congr 1
  unfold toSigned
  dsimp only
  split <;> split <;> omega

/-- The low half of a sign-extended word is what was extended. -/
theorem setWidth_signExtend_word (v : BitVec 32) : (v.signExtend 64).setWidth 32 = v := by
  apply BitVec.eq_of_getLsbD_eq
  intro k hk
  rw [BitVec.getLsbD_setWidth, BitVec.getLsbD_signExtend]
  simp [hk, Nat.lt_trans hk (show 32 < 64 by decide)]

/-- Bits 63 to 32 of a sign-extended word are copies of its bit 31. -/
theorem bit_signExtend_high (v : BitVec 32) {k : Nat} (hlo : 32 ≤ k) (hhi : k < 64) :
    bit (v.signExtend 64) k = bit (v.signExtend 64) 31 := by
  have high : bit (v.signExtend 64) k = v.msb := by
    rw [bit, ← BitVec.getLsbD, BitVec.getLsbD_signExtend]
    simp [hhi, Nat.not_lt.mpr hlo]
  have low : bit (v.signExtend 64) 31 = v.getLsbD 31 := by
    rw [bit, ← BitVec.getLsbD, BitVec.getLsbD_signExtend]
    simp
  rw [high, low, BitVec.msb_eq_getLsbD_last]

/-- Only s32 is placed with copies of its sign. -/
theorem ITy.ofCode_signed32 {c : Nat} (hc : c < 8) : ((ITy.ofCode c).signed && (ITy.ofCode c).w = 32) = decide (c = 0) := by
  revert c; decide

/-- The elements of every type fit into a slot. -/
theorem ITy.ofCode_fits {c : Nat} (hc : c < 8) : (ITy.ofCode c).w * (ITy.ofCode c).n ≤ 64 := by
  revert c; decide

/-- A type other than s64 and u64 has its elements in the low half. -/
theorem ITy.ofCode_narrow {c : Nat} (hc : c < 8) (h2 : c ≠ 2) (h3 : c ≠ 3) : (ITy.ofCode c).w * (ITy.ofCode c).n = 32 := by
  revert c; decide

theorem ITy.pack_s32 (f : Nat → Nat) : (ITy.ofCode 0).pack f = (BitVec.ofNat 32 (packAt 32 f 1)).signExtend 64 := by
  rw [← ofInt_toSigned_eq_signExtend]; rfl

/-- A result of any other type is the packed number itself. -/
theorem ITy.toNat_pack {c : Nat} (hc : c < 8) (h0 : c ≠ 0) (f : Nat → Nat) :
    ((ITy.ofCode c).pack f).toNat = packAt (ITy.ofCode c).w f (ITy.ofCode c).n := by
  have hlt : packAt (ITy.ofCode c).w f (ITy.ofCode c).n < 2 ^ 64 :=
    Nat.lt_of_lt_of_le (packAt_lt _ _ _) (Nat.pow_le_pow_right (by omega) (ITy.ofCode_fits hc))
  simpa [ITy.pack, ITy.ofCode_signed32 hc, h0] using hlt

theorem ITy.raw_pack {c : Nat} (hc : c < 8) (f : Nat → Nat) {i : Nat} (hi : i < (ITy.ofCode c).n) :
    (ITy.ofCode c).raw ((ITy.ofCode c).pack f) i = f i % 2 ^ (ITy.ofCode c).w := by
  rw [← packAt_elem (ITy.ofCode c).w f hi, ITy.raw]
  by_cases h0 : c = 0
  · subst h0
    obtain rfl : i = 0 := Nat.lt_one_iff.mp hi
    rw [ITy.pack_s32]
    exact congrArg BitVec.toNat (setWidth_signExtend_word (BitVec.ofNat 32 (packAt 32 f 1)))
  · rw [ITy.toNat_pack hc h0]

/-- Settles O8: a packed number is read back element by element; s32 is the sign extension of its 32 bits, and every other narrow type
leaves a number below 2^32. -/
theorem packedElementsStandAlone : Obligations.PackedElementsStandAlone := by
  unfold Obligations.PackedElementsStandAlone
  intro c f hc
  refine ⟨fun i hi => ITy.raw_pack hc f hi, ?_, ?_⟩
  · rintro rfl k hlo hhi
    rw [ITy.pack_s32]
    exact bit_signExtend_high _ hlo hhi
  · intro h0 h2 h3 k hk
    have hlt : packAt (ITy.ofCode c).w f (ITy.ofCode c).n < 2 ^ 32 := ITy.ofCode_narrow hc h2 h3 ▸ packAt_lt _ _ _
    rw [bit, ITy.toNat_pack hc h0]
    exact Nat.testBit_lt_two_pow (Nat.lt_of_lt_of_le hlt (Nat.pow_le_pow_right (by omega) hk))

end Sys2Proof.Machine
end

section
namespace Sys2Proof.Machine

/-!
# O22: the MODE word and the end of a cycle

A `mode` of one seat comes to one frame update and one train put back. A tick settles the frames of every core that is listed; a core that is not
listed holds free frames, which have nothing to settle. Counting events and latching yields keep frames, and all of it stays inside the cores.
-/

/-! ## What keeps every frame -/

theorem State.sameOutside_trans {s s1 s2 : State} (h1 : s.sameOutside s1) (h2 : s1.sameOutside s2) : s.sameOutside s2 := by
  have h := congrArg (fun st : State => { st with cores := s.cores, freeCtr := s.freeCtr }) h2
  exact h.trans h1

theorem State.sameOutside_cyc {s s' : State} (h : s.sameOutside s') : s'.cyc = s.cyc := by rw [← h]

theorem State.sameOutside_mem {s s' : State} (h : s.sameOutside s') : s'.mem = s.mem := by rw [← h]

/-- Two states agree outside the cores, and in every frame. -/
def State.keepsFrames (s s' : State) : Prop := s.sameOutside s' ∧ ∀ c h, s'.frame c h = s.frame c h

theorem State.keepsFrames_refl (s : State) : s.keepsFrames s := ⟨rfl, fun _ _ => rfl⟩

theorem State.keepsFrames_trans {s s1 s2 : State} (h1 : s.keepsFrames s1) (h2 : s1.keepsFrames s2) : s.keepsFrames s2 :=
  ⟨State.sameOutside_trans h1.1 h2.1, fun c h => (h2.2 c h).trans (h1.2 c h)⟩

theorem State.updCore_sameOutside (s : State) (c : Nat) (f : Core → Core) : s.sameOutside (s.updCore c f) := rfl

theorem State.updCore_keepsFrames (s : State) (c : Nat) {f : Core → Core} (hf : (f (s.core c)).frames = (s.core c).frames) :
    s.keepsFrames (s.updCore c f) := by
  refine ⟨s.updCore_sameOutside c f, fun k h => ?_⟩
  by_cases hk : k = c
  · subst hk
    rw [State.frame, State.core_updCore_same, hf]
    rfl
  · rw [State.frame, State.core_updCore_ne _ _ _ _ hk]
    rfl

theorem foldl_keepsFrames {β : Type} {f : State → β → State} (hf : ∀ (st : State) (b : β), st.keepsFrames (f st b)) (l : List β) (s : State) :
    s.keepsFrames (l.foldl f s) := by
  induction l generalizing s with
  | nil => exact s.keepsFrames_refl
  | cons b l ih => exact State.keepsFrames_trans (hf s b) (ih (f s b))

/-- Counting an event changes counters alone (R284). -/
theorem State.countEvt_keepsFrames (s : State) (c code n : Nat) : s.keepsFrames (s.countEvt c code n) := by
  unfold State.countEvt
  split
  next => exact s.keepsFrames_refl
  next =>
    refine foldl_keepsFrames (fun st k => ?_) _ s
    split
    next => exact st.updCore_keepsFrames c rfl
    next => exact st.keepsFrames_refl

theorem State.latchYields_keepsFrames (s : State) (c : Nat) : s.keepsFrames (s.latchYields c) := by
  unfold State.latchYields
  dsimp only
  split
  next => exact s.keepsFrames_refl
  next => exact s.updCore_keepsFrames c rfl

/-! ## The end of a cycle (R2, R88) -/

/-- A frame that has settled settles to itself. -/
theorem Frame.endCycle_endCycle (f : Frame) : f.endCycle.endCycle = f.endCycle := by
  by_cases h : (f.modeNext.isNone && f.raised == 0 && f.wrote.isEmpty) = true
  · have hf : f.endCycle = f := if_pos h
    rw [hf, hf]
  · have hf : f.endCycle = { f with mode := f.modeNow, modeNext := none, raised := 0, wrote := [] } := if_neg h
    rw [hf]
    exact if_pos rfl

theorem NMap.getD_map {α : Type} (g : α → α) (m : NMap α) (i : Nat) {d : α} (hd : g d = d) :
    NMap.getD (m.map (fun e => (e.1, g e.2))) i d = g (NMap.getD m i d) := by
  induction m with
  | nil => exact hd.symm
  | cons e m ih =>
    simp only [NMap.getD, List.map_cons, NMap.get?] at ih ⊢
    split
    next => rfl
    next => exact ih

/-- The frames of a core settle. -/
def Core.endCycle (k : Core) : Core := { k with frames := k.frames.map (fun f => (f.1, f.2.endCycle)) }

theorem State.frame_updCore_endCycle (s : State) (c h : Nat) : (s.updCore c Core.endCycle).frame c h = (s.frame c h).endCycle := by
  rw [State.frame, State.core_updCore_same]
  exact NMap.getD_map Frame.endCycle _ h rfl

/-- Behind the settling of its frames, the end of a cycle on a core does nothing to a frame. -/
theorem State.tickCore_keepsFrames (s : State) (c : Nat) : (s.updCore c Core.endCycle).keepsFrames (s.tickCore c) := by
  unfold State.tickCore
  extract_lets s1 s2
  have h1 : (s.updCore c Core.endCycle).keepsFrames s1 := State.latchYields_keepsFrames _ c
  have h2 : (s.updCore c Core.endCycle).keepsFrames s2 := by
    unfold s2
    split
    next => exact State.keepsFrames_trans h1 (s1.countEvt_keepsFrames c 10 1)
    next => exact h1
  split
  next => exact State.keepsFrames_trans h2 (s2.countEvt_keepsFrames c 12 1)
  next => exact h2

theorem State.tickCore_sameOutside (s : State) (c : Nat) : s.sameOutside (s.tickCore c) :=
  State.sameOutside_trans (s.updCore_sameOutside c Core.endCycle) (s.tickCore_keepsFrames c).1

theorem State.frame_tickCore (s : State) (c k h : Nat) :
    (s.tickCore c).frame k h = if k = c then (s.frame k h).endCycle else s.frame k h := by
  rw [(s.tickCore_keepsFrames c).2 k h]
  split
  next hk => subst hk; exact s.frame_updCore_endCycle k h
  next hk => rw [State.frame, State.core_updCore_ne _ _ _ _ hk]; rfl

theorem State.foldl_tickCore_sameOutside (cs : NMap Core) (s : State) :
    s.sameOutside (cs.foldl (fun st e => st.tickCore e.1) s) := by
  induction cs generalizing s with
  | nil => rfl
  | cons e cs ih => exact State.sameOutside_trans (s.tickCore_sameOutside e.1) (ih _)

/-- Ending the cycle on each listed core settles the frames of the listed cores, and of no other. -/
theorem State.frame_foldl_tickCore (cs : NMap Core) (s : State) (k h : Nat) :
    (cs.foldl (fun st e => st.tickCore e.1) s).frame k h =
      if k ∈ cs.map (fun e => e.1) then (s.frame k h).endCycle else s.frame k h := by
  induction cs generalizing s with
  | nil => simp
  | cons e cs ih =>
    rw [List.foldl_cons, ih, State.frame_tickCore]
    simp only [List.map_cons, List.mem_cons]
    by_cases he : k = e.1
    · simp [he, Frame.endCycle_endCycle]
    · rw [if_neg he]
      split
      next hm => exact (if_pos (Or.inr hm)).symm
      next hm => exact (if_neg (not_or.mpr ⟨he, hm⟩)).symm

theorem NMap.get?_eq_none_of_not_mem {α : Type} {m : NMap α} {i : Nat} (h : i ∉ m.map (fun e => e.1)) : NMap.get? m i = none := by
  induction m with
  | nil => rfl
  | cons e m ih =>
    rw [List.map_cons, List.mem_cons, not_or] at h
    obtain ⟨hne, hm⟩ := h
    rw [NMap.get?, if_neg hne, ih hm]

/-- A core that is not listed holds free frames alone. -/
theorem State.frame_of_unlisted {s : State} {c : Nat} (hc : c ∉ s.cores.map (fun e => e.1)) (h : Nat) : s.frame c h = Frame.free := by
  have hk : s.core c = Core.reset := by rw [State.core, NMap.getD, NMap.get?_eq_none_of_not_mem hc]; rfl
  rw [State.frame, hk]
  rfl

/-- The counting of cycles with which a tick begins (R284). -/
theorem State.countCycles_keepsFrames (s : State) :
    s.keepsFrames (s.parts.foldl (fun (st : State) p =>
      if p.2.state != .off && p.2.counts 2 then p.2.cores.foldl (fun st c => st.countEvt c 2 1) st else st) s) := by
  refine foldl_keepsFrames (fun st p => ?_) _ s
  split
  next => exact foldl_keepsFrames (fun st c => st.countEvt_keepsFrames c 2 1) _ st
  next => exact st.keepsFrames_refl

/-- A tick settles every frame of the machine. -/
theorem State.frame_tick (s : State) (c h : Nat) : s.tick.frame c h = (s.frame c h).endCycle := by
  unfold State.tick
  extract_lets s1 s2
  have hs1 : s1.frame c h = s.frame c h := s.countCycles_keepsFrames.2 c h
  have hs2 : s2.frame c h = _ := State.frame_foldl_tickCore s.cores s1 c h
  change s2.frame c h = _
  rw [hs2, hs1]
  split
  next => rfl
  next hc => rw [State.frame_of_unlisted hc]; rfl

/-- A tick advances CYC and changes nothing else outside the cores. -/
theorem State.tick_sameOutside (s : State) : State.sameOutside { s with cyc := s.cyc + 1 } s.tick := by
  unfold State.tick
  extract_lets s1 s2
  have h : s.sameOutside s2 := State.sameOutside_trans s.countCycles_keepsFrames.1 (State.foldl_tickCore_sameOutside s.cores s1)
  rw [State.sameOutside_cyc h]
  exact congrArg (fun st : State => { st with cyc := s.cyc + 1 }) h

theorem State.tick_cyc (s : State) : s.tick.cyc = s.cyc + 1 := State.sameOutside_cyc s.tick_sameOutside

theorem State.tick_mem (s : State) : s.tick.mem = s.mem := by rw [State.sameOutside_mem s.tick_sameOutside]

theorem step_tick {s : State} (h : s.todo = .tick) : step s = .next s.tick := by
  rw [step, h]
  rfl

/-! ## A train put back to its core -/

theorem Core.train?_uid {k : Core} {uid : Nat} {t : Train} (h : k.train? uid = some t) : t.uid = uid := by
  simpa using List.find?_some h

/-- A train that stands in for one of the same name is found in its place. -/
theorem Core.train?_setTrain {k : Core} {t u : Train} (h : k.train? t.uid = some t) (hu : u.uid = t.uid) :
    (k.setTrain u).train? t.uid = some u := by
  unfold Core.train? at h ⊢
  unfold Core.setTrain
  rw [List.find?_map]
  have hf : ((fun v : Train => v.uid == t.uid) ∘ fun v : Train => if v.uid == u.uid then u else v) = fun v => v.uid == t.uid := by
    funext v
    by_cases hv : v.uid = t.uid <;> simp [hu, hv]
  rw [hf, h]
  simp [hu]

/-- Of two trains of one name put back, the later stays. -/
theorem Core.setTrain_setTrain (k : Core) {t u : Train} (h : u.uid = t.uid) : (k.setTrain t).setTrain u = k.setTrain u := by
  unfold Core.setTrain
  simp only [List.map_map]
  congr 1
  apply List.map_congr_left
  intro v _
  by_cases hv : v.uid = t.uid <;> simp [h, hv]

theorem State.putTrain_putTrain (s : State) (c : Nat) {t u : Train} (h : u.uid = t.uid) :
    (s.putTrain c t).putTrain c u = s.putTrain c u := by
  have hk := (s.core c).setTrain_setTrain h
  unfold State.putTrain
  rw [State.updCore, State.core_updCore_same, hk]
  simp only [State.updCore, State.setCore, NMap.set_set]

/-- A train that has been put back retires by its name. -/
theorem State.retireUid_putTrain {s : State} {c : Nat} {t u : Train} (h : (s.core c).train? t.uid = some t) (hu : u.uid = t.uid) :
    (s.putTrain c u).retireUid c t.uid = s.putTrain c u.retired := by
  have hfound : ((s.putTrain c u).core c).train? t.uid = some u := by
    rw [State.putTrain, State.core_updCore_same]
    exact Core.train?_setTrain h hu
  rw [State.retireUid, hfound]
  exact s.putTrain_putTrain c rfl

@[simp] theorem State.frame_putTrain (s : State) (c : Nat) (t : Train) (k h : Nat) : (s.putTrain c t).frame k h = s.frame k h := by
  by_cases hk : k = c
  · subst hk
    rw [State.frame, State.putTrain, State.core_updCore_same]
    rfl
  · rw [State.frame, State.putTrain, State.core_updCore_ne _ _ _ _ hk]
    rfl

/-! ## One word delivered to several targets (R58) -/

/-- A word sent to each of a seat's targets. -/
def Train.deliverAll (t : Train) (n : Nat) (targets : List Nat) (v : Word) : Train := targets.foldl (fun u g => u.deliver n g v) t

theorem Train.deliver_eq (t : Train) (n g : Nat) (v : Word) : t.deliver n g v = { t with slots := (t.deliver n g v).slots } := by
  unfold Train.deliver
  split <;> rfl

/-- Words delivered reach slots alone. -/
theorem Train.deliverAll_eq (t : Train) (n : Nat) (targets : List Nat) (v : Word) :
    t.deliverAll n targets v = { t with slots := (t.deliverAll n targets v).slots } := by
  induction targets generalizing t with
  | nil => rfl
  | cons g gs ih =>
    have h : t.deliverAll n (g :: gs) v = (t.deliver n g v).deliverAll n gs v := rfl
    rw [h, ih, t.deliver_eq n g v]

theorem Train.slots_deliverAll_ne (t : Train) (n : Nat) {targets : List Nat} (v : Word) {key : Nat}
    (h : ∀ g ∈ targets, 4 ≤ g → key ≠ n * 256 + g) : NMap.getD (t.deliverAll n targets v).slots key 0 = NMap.getD t.slots key 0 := by
  induction targets generalizing t with
  | nil => rfl
  | cons g gs ih =>
    have hgs := ih (t.deliver n g v) (fun g' hg' => h g' (List.mem_cons_of_mem g hg'))
    refine hgs.trans ?_
    by_cases hg : 4 ≤ g
    · exact t.slots_deliver_ne n g key v (h g List.mem_cons_self hg)
    · rw [t.deliver_noTarget n g v (by omega)]

theorem Train.slots_deliverAll_same (t : Train) (n : Nat) {targets : List Nat} (v : Word) {g : Nat} (hg : g ∈ targets) (h4 : 4 ≤ g) :
    NMap.getD (t.deliverAll n targets v).slots (n * 256 + g) 0 = v := by
  induction targets generalizing t with
  | nil => cases hg
  | cons g' gs ih =>
    by_cases hmem : g ∈ gs
    · exact ih (t.deliver n g' v) hmem
    · obtain rfl : g = g' := (List.mem_cons.mp hg).resolve_right hmem
      have hne : ∀ g' ∈ gs, 4 ≤ g' → n * 256 + g ≠ n * 256 + g' := by
        intro g' hg' _ he
        exact hmem (Nat.add_left_cancel he ▸ hg')
      exact ((t.deliver n g v).slots_deliverAll_ne n v hne).trans (t.slots_deliver_same n g v h4)

/-- A train of one active seat that has retired with a word in its targets has been given it. -/
theorem Train.given_deliverAll {t : Train} {x : Seat} (hx : t.seats = [x]) (targets : List Nat) (v : Word) :
    t.given (t.deliverAll x.n targets v).retired targets (fun _ => v) := by
  refine ⟨?_, ?_, ?_⟩
  · rw [t.deliverAll_eq x.n targets v]
    rfl
  · intro y hy g hg h4
    obtain rfl : y = x := by simpa [hx] using hy
    exact t.slots_deliverAll_same y.n v hg h4
  · intro key hkey
    exact t.slots_deliverAll_ne x.n v (hkey x (by simp [hx]))

/-! ## Results of lanes without write entries -/

/-- A word without flags for one seat, of an instruction that no write entry names, is delivered, and the train retires. -/
theorem State.finishLanes_one {s : State} {c : Nat} {t : Train} (ht : (s.core c).train? t.uid = some t) (hw : t.writeRegs = [])
    (targets : List Nat) (x : Seat) (v : Word) :
    s.finishLanes c t targets [(x, ⟨v, 0⟩)] = s.putTrain c (t.deliverAll x.n targets v).retired := by
  have huid : (t.deliverAll x.n targets v).uid = t.uid := by rw [t.deliverAll_eq x.n targets v]
  rw [← State.retireUid_putTrain ht huid]
  simp [State.finishLanes, hw, Train.deliverAll]

/-! ## mode (10_control.md R282) -/

/-- A word with a legal RM and SATP is written without a fault (R85). -/
theorem modeFault_none {w : Word} (hrm : modeRMOk w = true) (hsat : modeSATPOk w = true) : modeFault w = none := by
  simp [modeFault, hrm, hsat]

/-- The actions of R282 by the code of the instruction. -/
theorem modeAct_eq {m : BitVec 2} (hm : m.toNat ≤ 2) (old l r : Word) :
    modeAct m.toNat old l r =
      if m = 0 then old else if m = 1 then modeFields ((old &&& ~~~r) ||| (l &&& r)) else old &&& ~~~(0x007F0000#64) := by
  obtain rfl | rfl | rfl : m = 0 ∨ m = 1 ∨ m = 2 := by bv_omega
  · rfl
  · rfl
  · rfl

/-- The MODE word that a seat's `mode` reads (R88): what a `mode` of the same cycle has written, else MODE. -/
def Frame.modeWritten (f : Frame) : Word := f.modeNext.getD f.mode

/-- The MODE word that a seat's `mode` writes (R282). -/
def State.modeNew (s : State) (c : Nat) (t : Train) (m : Nat) (x : Seat) : Word :=
  modeAct m (s.frame c x.inst.handle).modeWritten (t.slot x.n t.pc .l) (t.slot x.n t.pc .r)

/-- The new word of a seat's `mode` written to its frame, where the end of the cycle finds it. -/
def State.modeWrite (s : State) (c : Nat) (t : Train) (m : Nat) (x : Seat) : State :=
  s.setFrame c x.inst.handle { s.frame c x.inst.handle with modeNext := some (s.modeNew c t m x) }

theorem State.modeSeat_ok {s : State} {c : Nat} {t : Train} {m : Nat} {x : Seat} (h : modeFault (s.modeNew c t m x) = none) :
    s.modeSeat c t m x =
      (s.modeWrite c t m x, .ok ⟨(s.frame c x.inst.handle).modeWritten, 0⟩) := by
  unfold State.modeNew Frame.modeWritten at h
  rw [State.modeSeat, h]
  rfl

/-- The next state of a `mode` of one seat that writes a legal word. -/
def State.modeDone (s : State) (t : Train) (targets : List Nat) (m : Nat) (x : Seat) : State :=
  (s.modeWrite s.cur.1 t m x).putTrain s.cur.1 (t.deliverAll x.n targets (s.frame s.cur.1 x.inst.handle).modeWritten).retired

theorem execMode_one {s : State} {t : Train} {x : Seat} (ht : Issuing s t) (hx : t.seats = [x]) (a b : BitVec 8) (m : BitVec 2)
    (h : modeFault (s.modeNew s.cur.1 t m.toNat x) = none) :
    execMode a b m s = .next (s.modeDone t [a.toNat, b.toNat] m.toNat x) := by
  obtain ⟨hcur, hw, -⟩ := ht
  have htrain : ((s.modeWrite s.cur.1 t m.toNat x).core s.cur.1).train? t.uid = some t := by
    rw [State.modeWrite, State.setFrame, State.core_updCore_same, Core.train?_uid hcur]
    exact hcur
  have hsort : seatsByTag s s.cur.1 [x] = [x] := rfl
  rw [execMode, withTrain_some s t _ hcur, State.prepare_noEntry s s.cur.1 t hw]
  simpa [hx, hsort, State.modeSeat_ok h, State.modeDone] using State.finishLanes_one htrain hw [a.toNat, b.toNat] x _

section
variable (s : State) (t : Train) (targets : List Nat) (m : Nat) (x : Seat)

theorem State.modeDone_core : (s.modeDone t targets m x).core s.cur.1 =
    { s.core s.cur.1 with
      frames := NMap.set (s.core s.cur.1).frames x.inst.handle
        { s.frame s.cur.1 x.inst.handle with modeNext := some (s.modeNew s.cur.1 t m x) },
      trains := ((s.core s.cur.1).setTrain
        (t.deliverAll x.n targets (s.frame s.cur.1 x.inst.handle).modeWritten).retired).trains } := by
  rw [State.modeDone, State.putTrain, State.core_updCore_same, State.modeWrite, State.setFrame, State.core_updCore_same]
  rfl

theorem State.modeDone_sameBut : s.sameBut (s.modeDone t targets m x) s.cur.1 := by
  refine ⟨rfl, fun k hk => ?_⟩
  rw [State.modeDone, State.putTrain, State.core_updCore_ne _ _ _ _ hk, State.modeWrite, State.setFrame, State.core_updCore_ne _ _ _ _ hk]

theorem State.modeDone_frame_same : (s.modeDone t targets m x).frame s.cur.1 x.inst.handle =
    { s.frame s.cur.1 x.inst.handle with modeNext := some (s.modeNew s.cur.1 t m x) } := by
  rw [State.modeDone, State.frame_putTrain, State.modeWrite, State.frame_setFrame_same]

theorem State.modeDone_frame_ne {h : Nat} (hh : h ≠ x.inst.handle) :
    (s.modeDone t targets m x).frame s.cur.1 h = s.frame s.cur.1 h := by
  rw [State.modeDone, State.frame_putTrain, State.modeWrite, State.frame_setFrame_ne _ _ _ _ _ hh]

end

/-- Settles O22: `mode` writes its word into the seat's frame and retires with the old word in both targets, and a tick settles every
frame. -/
theorem modeReadsAndWritesItsWord : Obligations.ModeReadsAndWritesItsWord := by
  unfold Obligations.ModeReadsAndWritesItsWord
  refine ⟨?_, ?_⟩
  · intro s t x a b m ht hx hm f l r old new hrm hsat
    have hnew : s.modeNew s.cur.1 t m.toNat x = new := modeAct_eq hm old l r
    have hok : modeFault (s.modeNew s.cur.1 t m.toNat x) = none := hnew ▸ modeFault_none hrm hsat
    have hframe : (s.modeDone t [a.toNat, b.toNat] m.toNat x).frame s.cur.1 x.inst.handle = { f with modeNext := some new } :=
      hnew ▸ s.modeDone_frame_same t _ m.toNat x
    refine ⟨s.modeDone t [a.toNat, b.toNat] m.toNat x, (t.deliverAll x.n [a.toNat, b.toNat] old).retired,
      execMode_one ht hx a b m hok, Train.given_deliverAll hx _ old, s.modeDone_sameBut t _ _ x, ?_, hframe, ?_,
      fun h hh => s.modeDone_frame_ne t _ _ x hh, ?_⟩
    · rw [s.modeDone_core]
      rfl
    · rw [hframe]
      rfl
    · rw [s.modeDone_core]
  · intro s h
    refine ⟨s.tick, step_tick h, s.tick_cyc, s.tick_mem, fun c h => ?_⟩
    rw [s.frame_tick]
    exact ⟨Frame.endCycle_mode _, Frame.endCycle_modeNext _, Frame.endCycle_raised _⟩

end Sys2Proof.Machine
end

section
namespace Sys2Proof.Machine

/-!
# O13 and O16: stores that queue and drain, and fences that wait for them

A store waits for nothing of its own train, so that nothing drains ahead of it; a fence drains what its train has queued on its paths. Both rest
on one fact: where no entry of the train stands in the queue on a path of the mask, nothing drains, and what follows acts on the state as it is.
-/

/-! ## Trains that an operation leaves alone -/

/-- What every step of a fold keeps, the fold keeps. -/
theorem foldl_keeps {α β γ : Type} {f : α → β → α} (g : α → γ) (hf : ∀ a b, g (f a b) = g a) (l : List β) (a : α) :
    g (l.foldl f a) = g a := by
  induction l generalizing a with
  | nil => rfl
  | cons b l ih => exact (ih (f a b)).trans (hf a b)

/-- A fold over mapped items whose step changes nothing for any of them changes nothing. -/
theorem foldl_map_unchanged {α β γ : Type} {f : α → β → α} {g : γ → β} (hf : ∀ a x, f a (g x) = a) (l : List γ) (a : α) :
    (l.map g).foldl f a = a := by
  rw [List.foldl_map]
  exact foldl_keeps id hf l a

/-- Of mapped items that are all kept, each under its new form, the list of the new forms is left. -/
theorem filterMap_map_some {α β γ : Type} {f : β → Option γ} {g : α → β} {k : α → γ} (h : ∀ x, f (g x) = some (k x)) (l : List α) :
    (l.map g).filterMap f = l.map k := by
  have hk : f ∘ g = some ∘ k := funext h
  rw [List.filterMap_map, hk, List.filterMap_eq_map]

/-- A change of a core that keeps its trains keeps the trains of every core. -/
theorem State.trains_updCore (s : State) (c d : Nat) {f : Core → Core} (hf : (f (s.core c)).trains = (s.core c).trains) :
    ((s.updCore c f).core d).trains = (s.core d).trains := by
  by_cases hd : d = c
  · subst hd
    rw [State.core_updCore_same, hf]
  · rw [State.core_updCore_ne _ _ _ _ hd]

/-- Counting an event changes no train (R284). -/
theorem State.trains_countEvt (s : State) (c code n d : Nat) : ((s.countEvt c code n).core d).trains = (s.core d).trains := by
  unfold State.countEvt
  split
  next => rfl
  next =>
    refine foldl_keeps (fun st : State => (st.core d).trains) (fun st k => ?_) _ s
    split
    next => exact st.trains_updCore c d rfl
    next => rfl

/-- Translations that fill a core's TLB change no train (R224). -/
theorem State.trains_tlbFill (s : State) (c asid : Nat) (vas : List Nat) (d : Nat) :
    ((s.tlbFill c asid vas).core d).trains = (s.core d).trains := by
  refine foldl_keeps (fun st : State => (st.core d).trains) (fun st va => ?_) vas s
  split
  next => exact (State.trains_countEvt _ c 6 1 d).trans (st.trains_updCore c d rfl)
  next => rfl

theorem State.trains_looked (s : State) (c : Nat) (t : Train) (d : Nat) : ((s.looked c t).core d).trains = (s.core d).trains :=
  s.trains_tlbFill c t.asid _ d

/-- Stores that queue change no train. -/
theorem State.trains_enqueue (s : State) (c : Nat) (es : List SQEntry) (d : Nat) : ((s.enqueue c es).core d).trains = (s.core d).trains :=
  State.trains_updCore s.draw.2 c d rfl

/-- The current train is found on its core by its name. -/
theorem Issuing.found {s : State} {t : Train} (h : Issuing s t) : (s.core s.cur.1).train? t.uid = some t := by
  have hcur : (s.core s.cur.1).train? s.cur.2 = some t := h.current
  rw [Core.train?_uid hcur]
  exact hcur

/-- A train put back as it stands in a state with its trains unchanged retires its instruction there. -/
theorem Issuing.retireUid_putTrain {s s1 : State} {t : Train} (h : Issuing s t) (h1 : (s1.core s.cur.1).trains = (s.core s.cur.1).trains) :
    (s1.putTrain s.cur.1 t).retireUid s.cur.1 t.uid = s1.putTrain s.cur.1 t.retired := by
  refine State.retireUid_putTrain ?_ rfl
  rw [← h.found, Core.train?, Core.train?, h1]

/-! ## Scope and earlier writes -/

/-- With its scope bound where its order asks for one, an instruction acts on the current train (R64, R112). -/
theorem withScope_bound {s : State} {t : Train} {ordered : Bool} {level : Nat} (f : Nat → Train → Host.Outcome State Fault Refusal)
    (ht : s.train? = some t) (h : ordered = true → s.scopeBound t level = true) : withScope s ordered level f = f s.cur.1 t := by
  rw [withScope, withTrain_some s t _ ht, if_neg]
  cases ordered with
  | false => simp
  | true => simp [h rfl]

/-- No entry of the train on a path of the mask stands in its core's queue. -/
def State.noneQueued (s : State) (c : Nat) (t : Train) (mask : Nat) : Prop := ∀ e ∈ (s.core c).sq, e.onPath t.uid mask = false

/-- Nothing is on a path of the empty mask. -/
theorem State.noneQueued_zero (s : State) (c : Nat) (t : Train) : s.noneQueued c t 0 := by
  intro e _
  simp [SQEntry.onPath]

theorem State.noneQueued_of_ne {s : State} {c : Nat} {t : Train} (h : ∀ e ∈ (s.core c).sq, e.train ≠ t.uid) (mask : Nat) :
    s.noneQueued c t mask := by
  intro e he
  simp [SQEntry.onPath, h e he]

theorem sqThrough_eq_zero {uid mask : Nat} {q : List SQEntry} (h : ∀ e ∈ q, e.onPath uid mask = false) : sqThrough uid mask q = 0 := by
  refine List.foldlRecOn (motive := fun n => n = 0) _ Nat.max rfl (fun n hn b hb => ?_)
  obtain ⟨i, hi, rfl⟩ := List.mem_mapIdx.mp hb
  simp [hn, h _ (List.getElem_mem hi)]

theorem State.drainPaths_noneQueued {s : State} {c : Nat} {t : Train} {mask : Nat} (h : s.noneQueued c t mask) : s.drainPaths c t mask = s := by
  rw [State.drainPaths, sqThrough_eq_zero h]
  exact ite_self s

/-- The train's writes on the paths of a mask have been performed: none is queued at its core, nor under way at a peer if path L is of
the mask (R114, R433). -/
def State.writesDone (s : State) (c : Nat) (t : Train) (mask : Nat) : Prop :=
  s.noneQueued c t mask ∧ (mask.testBit 0 = true → ∀ r ∈ s.link.reqs, r.core = c → r.train = t.uid → r.kind.writes = false)

theorem State.writesDone_zero (s : State) (c : Nat) (t : Train) : s.writesDone c t 0 :=
  ⟨s.noneQueued_zero c t, fun h => absurd h (by simp)⟩

theorem State.storesDone.writesDone {s : State} {t : Train} (h : s.storesDone t) (mask : Nat) : s.writesDone s.cur.1 t mask :=
  ⟨State.noneQueued_of_ne h.1 mask, fun _ => h.2⟩

theorem State.queued_eq_false {s : State} {c : Nat} {t : Train} {mask : Nat} (h : s.writesDone c t mask) : s.queued c t mask = false := by
  obtain ⟨hq, hr⟩ := h
  have hsq : (s.core c).sq.any (fun e => e.onPath t.uid mask) = false := List.any_eq_false.mpr (fun e he => by simp [hq e he])
  have hreq : (mask.testBit 0 && s.link.reqs.any (fun r => r.core == c && r.train == t.uid && r.kind.writes)) = false := by
    cases hm : mask.testBit 0 with
    | false => rfl
    | true => simpa using hr hm
  rw [State.queued, hsq, hreq]
  exact Bool.and_false _

/-- With its train's writes performed, an instruction acts at once on the state as it is. -/
theorem afterWrites_done {s : State} {c : Nat} {t : Train} {mask : Nat} (h : s.writesDone c t mask)
    (f : State → Host.Outcome State Fault Refusal) : afterWrites s c t mask f = f s := by
  simp [afterWrites, State.drainPaths_noneQueued h.1, State.queued_eq_false h]

/-- With nothing queued, an instruction that waits for path L holds while a write of its train is under way at a peer (R433). -/
theorem afterWrites_atPeer {s : State} {c : Nat} {t : Train} {mask : Nat} {r : RemoteReq} (htt : s.inTT t.launch = false)
    (hq : s.noneQueued c t mask) (hm : mask.testBit 0 = true) (hr : r ∈ s.link.reqs) (hc : r.core = c) (ht : r.train = t.uid)
    (hw : r.kind.writes = true) (f : State → Host.Outcome State Fault Refusal) :
    afterWrites s c t mask f = .next (s.holdTrain c t .paths) := by
  have hreq : s.link.reqs.any (fun r => r.core == c && r.train == t.uid && r.kind.writes) = true :=
    List.any_eq_true.mpr ⟨r, hr, by simp [hc, ht, hw]⟩
  have hqueued : s.queued c t mask = true := by simp [State.queued, htt, hm, hreq]
  simp [afterWrites, State.drainPaths_noneQueued hq, hqueued]

/-! ## Accesses of which every active seat's passes its checks (R213) -/

/-- The outcomes of seats that all pass, each with its place. -/
def allOk (xs : List Seat) (home : Seat → Nat × TlbEntry) : List (Seat × Acc) := xs.map (fun x => (x, .ok (home x).1 (home x).2))

theorem State.checkSeats_eq_allOk {s : State} {c : Nat} {t : Train} {n : Nat} {need : Need} {home : Seat → Nat × TlbEntry}
    (h : ∀ x ∈ t.seats, s.access c t.asid t.failed (t.slot x.n t.pc .l).toNat n need = .ok (home x).1 (home x).2) :
    s.checkSeats c t n need = allOk t.seats home :=
  List.map_congr_left (fun x hx => by rw [h x hx])

theorem missesOf_allOk (t : Train) (need : Need) (xs : List Seat) (home : Seat → Nat × TlbEntry) : missesOf t need (allOk xs home) = [] := by
  simp [missesOf, allOk]

/-- A write, which reads no granule, of seats that all pass faults for none of them. -/
theorem State.failSeats_allOk (s : State) (c : Nat) (t : Train) (n : Nat) (xs : List Seat) (home : Seat → Nat × TlbEntry) :
    s.failSeats c t n false (allOk xs home) = (s, t) := by
  rw [State.failSeats, allOk]
  exact foldl_map_unchanged (fun _ _ => rfl) xs (s, t)

theorem State.goodSeats_allOk (s : State) (n : Nat) (xs : List Seat) (home : Seat → Nat × TlbEntry) :
    s.goodSeats n false (allOk xs home) = xs.map (fun x => (x, home x)) := by
  rw [State.goodSeats, allOk]
  refine filterMap_map_some (fun x => ?_) xs
  rfl

/-- A plain write reads nothing that its train's earlier stores may still be changing (R114). -/
theorem needsWrites_write (xs : List (Seat × Nat × TlbEntry)) : needsWrites .write xs = false := rfl

section
variable {s : State} {t : Train} {ordered : Bool} {level n : Nat}

/-- A write to global memory whose seats all pass fills the core's TLB, acts for its seats in order and retires. -/
theorem globInstr_write {home : Seat → Nat × TlbEntry}
    {f : Nat → State → Train → List (Seat × Nat × TlbEntry) → State × Train} {s' : State} (ht : Issuing s t)
    (hsc : ordered = true → s.scopeBound t level = true)
    (hok : ∀ x ∈ t.seats, s.access s.cur.1 t.asid t.failed (t.slot x.n t.pc .l).toNat n .write = .ok (home x).1 (home x).2)
    (hf : f s.cur.1 (s.looked s.cur.1 t) t (t.seats.map (fun x => (x, home x))) = (s', t))
    (htr : (s'.core s.cur.1).trains = (s.core s.cur.1).trains) :
    globInstr s ordered level n .write false f = .next (s'.putTrain s.cur.1 t.retired) := by
  rw [globInstr, withScope_bound _ ht.current hsc, State.prepare_noEntry s s.cur.1 t ht.noEntry]
  have hdone : (s.looked s.cur.1 t).writesDone s.cur.1 t 0 := State.writesDone_zero _ _ _
  simp only [State.checkSeats_eq_allOk hok, missesOf_allOk, needsWrites_write, List.isEmpty_nil, Bool.false_eq_true, if_true, if_false,
    afterWrites_done hdone, State.failSeats_allOk, State.goodSeats_allOk, hf, ht.retireUid_putTrain htr]

/-- A write to windows whose seats all pass acts for its seats in order and retires. -/
theorem spInstr_write {home : Seat → Nat × Nat}
    {f : Nat → State → Train → List (Seat × Nat × Nat) → State × Train} {s' : State} (ht : Issuing s t)
    (hsc : ordered = true → s.scopeBound t level = true)
    (hok : ∀ x ∈ t.seats, s.spAccess s.cur.1 t.launch (t.slot x.n t.pc .l) n = .ok (home x))
    (hf : f s.cur.1 s t (t.seats.map (fun x => (x, home x))) = (s', t))
    (htr : (s'.core s.cur.1).trains = (s.core s.cur.1).trains) :
    spInstr s ordered level n false false f = .next (s'.putTrain s.cur.1 t.retired) := by
  have hcs : t.seats.map (fun x => (x, s.spCheck s.cur.1 t.launch (t.slot x.n t.pc .l) n false)) =
      t.seats.map (fun x => (x, Except.ok (home x))) :=
    List.map_congr_left (fun x hx => by simp [State.spCheck, hok x hx])
  rw [spInstr, withScope_bound _ ht.current hsc, State.prepare_noEntry s s.cur.1 t ht.noEntry]
  have hdone : s.writesDone s.cur.1 t 0 := State.writesDone_zero _ _ _
  simp only [Bool.false_eq_true, if_false, afterWrites_done hdone, hcs]
  rw [foldl_map_unchanged, filterMap_map_some (k := fun x => (x, home x)), hf, ht.retireUid_putTrain htr]
  · exact fun _ => rfl
  · exact fun _ _ => rfl

end

/-! ## Stores (R213) -/

theorem exec_st (s : State) (z : BitVec 3) (o : BitVec 1) (sc : BitVec 3) (p : BitVec 2) :
    exec (.st z o sc p) s = globInstr s (o == 1) sc.toNat (2 ^ z.toNat) .write false (fun c st t xs =>
      (st.enqueue c (xs.map (fun y => sqEntry t y.1 (.glob y.2.1 (leafHome y.2.2.leaf) (storeBytes t y.1 z.toNat)) [] [] 0)), t)) := rfl

theorem exec_sts (s : State) (z : BitVec 3) (o : BitVec 1) (sc : BitVec 3) :
    exec (.sts z o sc) s = spInstr s (o == 1) sc.toNat (2 ^ z.toNat) false false (fun c st t xs =>
      (st.enqueue c (xs.map (fun y => sqEntry t y.1 (.win y.2.1 y.2.2 (storeBytes t y.1 z.toNat)) [] [] 0)), t)) := rfl

/-! ## The oldest queued store drains (R114) -/

/-- A queued store to local memory that is the oldest leaves the queue, its bytes written. -/
theorem State.drainOne_glob {s : State} {c pa : Nat} {d : List Byte} {e : SQEntry} {rest : List SQEntry} (hq : (s.core c).sq = e :: rest)
    (hop : e.op = .glob pa none d) (hsent : e.sent = none) :
    s.drainOne c = ({ s with mem := s.mem.write pa d } : State).updCore c (fun k => { k with sq := rest }) := by
  simp only [State.drainOne, hq, hsent, hop, StoreOp.ask, State.perform]
  rfl

theorem exec_storeDrain_oldest {s : State} {c : Nat} {e : SQEntry} {rest : List SQEntry} (hq : (s.core c).sq = e :: rest)
    (htt : s.ttCore c = false) : exec (.storeDrain c) s = .next (s.drainOne c) := by
  change execStoreDrain c s = _
  simp [execStoreDrain, State.drainTry, hq, htt, eventStep]

/-- Settles O13: a store whose seats all pass waits for nothing and queues one entry for each of them; the oldest entry for local memory
leaves the queue as its bytes are written. -/
theorem storesQueueAndDrain : Obligations.StoresQueueAndDrain := by
  unfold Obligations.StoresQueueAndDrain
  refine ⟨⟨?_, ?_⟩, ?_⟩
  · intro s t z o sc p home ht hsc hok
    rw [exec_st]
    refine globInstr_write ht (by simpa using hsc) hok ?_ ((State.trains_enqueue _ _ _ _).trans (s.trains_looked _ t _))
    rw [List.map_map]
    rfl
  · intro s t z o sc home ht hsc hok
    rw [exec_sts]
    refine spInstr_write ht (by simpa using hsc) hok ?_ (State.trains_enqueue _ _ _ _)
    rw [List.map_map]
    rfl
  · intro s c pa d e rest hq hop hsent htt hmem
    refine ⟨s.drainOne c, exec_storeDrain_oldest hq htt, ?_⟩
    rw [State.drainOne_glob hq hop hsent]
    refine ⟨State.core_updCore_same _ c _, fun k hk => State.core_updCore_ne _ c k _ hk, ?_, ?_, rfl⟩
    · exact fun i hi => s.mem.get_write_in pa i d hmem hi
    · exact fun a ha => s.mem.get_write_out pa a d ha

/-! ## Fences (R120, R389) -/

theorem exec_fence (s : State) (sc : BitVec 3) (b c : BitVec 6) : exec (.fence sc b c) s = fenceInstr s sc.toNat b.toNat := rfl

theorem exec_bfence (s : State) (sc : BitVec 3) : exec (.bfence sc) s = fenceInstr s sc.toNat 17 := rfl

section
variable {s : State} {t : Train} {level mask : Nat}

/-- What a fence does once its train's writes on its paths have been performed. -/
theorem fenceInstr_done (ht : Issuing s t) (hsc : s.scopeBound t level = true) (hw : s.writesDone s.cur.1 t mask) :
    fenceInstr s level mask =
      if (s.core s.cur.1).pathsBusy t.uid mask then .next (s.holdTrain s.cur.1 t .paths)
      else if s.bufferHolds s.cur.1 t level mask then
        .next (s.holdTrain s.cur.1 { t with moved := (s.part t.launch.part).ssCount.toNat + 1 } .paths)
      else .next (s.retires t) := by
  rw [fenceInstr, withScope_bound _ ht.current (fun _ => hsc), afterWrites_done hw]
  rfl

theorem fenceInstr_retires (ht : Issuing s t) (hsc : s.scopeBound t level = true) (hw : s.storesDone t) (hp : s.pathsDone t mask)
    (hb : s.bufferHolds s.cur.1 t level mask = false) : fenceInstr s level mask = .next (s.retires t) := by
  rw [fenceInstr_done ht hsc (hw.writesDone mask), hp, hb]
  rfl

theorem fenceInstr_holds_busy (ht : Issuing s t) (hsc : s.scopeBound t level = true) (hw : s.storesDone t)
    (hp : (s.core s.cur.1).pathsBusy t.uid mask = true) : fenceInstr s level mask = .next (s.holdTrain s.cur.1 t .paths) := by
  rw [fenceInstr_done ht hsc (hw.writesDone mask), hp]
  rfl

theorem fenceInstr_holds_buffer (ht : Issuing s t) (hsc : s.scopeBound t level = true) (hw : s.storesDone t) (hp : s.pathsDone t mask)
    (hb : s.bufferHolds s.cur.1 t level mask = true) :
    fenceInstr s level mask = .next (s.holdTrain s.cur.1 { t with moved := (s.part t.launch.part).ssCount.toNat + 1 } .paths) := by
  rw [fenceInstr_done ht hsc (hw.writesDone mask), hp, hb]
  rfl

/-- In timetable mode a fence that reaches beyond its core begins to wait while a store on its paths stands in the buffer (R296). -/
theorem State.bufferHolds_first {c : Nat} (htt : s.inTT t.launch = true) (hext : 2 ≤ s.extent t level) (hmv : t.moved = 0)
    (he : ∃ e ∈ (s.core c).sq, mask.testBit e.op.path = true) : s.bufferHolds c t level mask = true := by
  have hsq : (s.core c).sq.any (fun e => mask.testBit e.op.path) = true := List.any_eq_true.mpr he
  simp [State.bufferHolds, htt, hext, hmv, hsq]

end

/-- Settles O16: with the train's stores performed a fence comes down to what is outstanding on its paths and to the timetable's buffer; a write
at a peer holds it before that. -/
theorem fencesWaitForEarlierWork : Obligations.FencesWaitForEarlierWork := by
  unfold Obligations.FencesWaitForEarlierWork
  refine ⟨⟨?_, ?_⟩, ?_⟩
  · intro s t sc b c ht hsc hw hp hb
    rw [exec_fence]
    exact fenceInstr_retires ht hsc hw hp hb
  · intro s t sc ht hsc hw hp hb
    rw [exec_bfence]
    exact fenceInstr_retires ht hsc hw hp hb
  · intro s t sc b c ht hsc
    rw [exec_fence]
    refine ⟨fun hw hp => fenceInstr_holds_busy ht hsc hw hp, ?_, ?_⟩
    · rintro htt hq hb ⟨r, hr, hrc, hrt, hrw⟩
      rw [fenceInstr, withScope_bound _ ht.current (fun _ => hsc)]
      exact afterWrites_atPeer htt (State.noneQueued_of_ne hq _) hb hr hrc hrt hrw _
    · intro hw hp htt hext hmv he
      exact fenceInstr_holds_buffer ht hsc hw hp (State.bufferHolds_first htt hext hmv he)

end Sys2Proof.Machine
end

section
namespace Sys2Proof.Machine

/-!
# O9 and O10: shifts and bit fields, bit by bit

An element of a result is the exact result modulo `2^w` (O8), so each statement comes down to the bits of one natural number. A number taken modulo
`2^w` from a signed reading is a sign extension or an arithmetic shift of a `BitVec`, whose bits the library knows.
-/

/-! ## Signed readings as bit vectors (R77) -/

theorem toSigned_eq_toInt (w n : Nat) : toSigned w n = (BitVec.ofNat w n).toInt := by
  rw [toSigned, BitVec.toInt_eq_toNat_cond, BitVec.toNat_ofNat]
  cases w with
  | zero => simp [Nat.mod_one]
  | succ w =>
    have hpow : 2 ^ (w + 1) = 2 * 2 ^ w := Nat.pow_succ'
    have hlt : n % 2 ^ (w + 1) < 2 ^ w ↔ 2 * (n % 2 ^ (w + 1)) < 2 ^ (w + 1) := by omega
    simp only [Nat.add_sub_cancel, hlt]
    push_cast
    rfl

theorem wrapTo_eq_toNat (w : Nat) (z : Int) : wrapTo w z = (BitVec.ofInt w z).toNat := by
  rw [BitVec.toNat_ofInt, wrapTo]
  push_cast
  rfl

theorem wrapTo_lt (w : Nat) (z : Int) : wrapTo w z < 2 ^ w := by
  rw [wrapTo_eq_toNat]
  exact BitVec.isLt _

theorem ITy.raw_lt (t : ITy) (x : Word) (i : Nat) : t.raw x i < 2 ^ t.w := Nat.mod_lt _ (Nat.two_pow_pos _)

/-! ## Shifts (R135) -/

/-- The bits of a left shift within w bits. -/
theorem testBit_shl {w k : Nat} (l c : Nat) (hk : k < w) :
    (l * 2 ^ c % 2 ^ w).testBit k = (decide (c ≤ k) && l.testBit (k - c)) := by
  simp [Nat.testBit_mod_two_pow, Nat.testBit_mul_two_pow, hk]

/-- The bits of a right shift with zeros. -/
theorem testBit_shr {w k l : Nat} (c : Nat) (hl : l < 2 ^ w) (hk : k < w) :
    (l / 2 ^ c % 2 ^ w).testBit k = (decide (k + c < w) && l.testBit (k + c)) := by
  rw [Nat.testBit_mod_two_pow, Nat.testBit_div_two_pow]
  by_cases h : k + c < w
  · simp [hk, h]
  · simp [h, Nat.testBit_lt_two_pow (Nat.lt_of_lt_of_le hl (Nat.pow_le_pow_right (by omega) (Nat.not_lt.mp h)))]

/-- A signed reading divided by a power of two and wrapped is the arithmetic shift of its bits. -/
theorem wrapTo_toSigned_div (w l c : Nat) : wrapTo w (toSigned w l / 2 ^ c) = ((BitVec.ofNat w l).sshiftRight c).toNat := by
  have h : (2 : Int) ^ c = ((2 ^ c : Nat) : Int) := by push_cast; rfl
  rw [wrapTo_eq_toNat, toSigned_eq_toInt, h, ← Int.shiftRight_eq_div_pow, ← BitVec.toInt_sshiftRight, BitVec.ofInt_toInt]

/-- The bits of a right shift with sign bits. -/
theorem testBit_sar {w k : Nat} (l c : Nat) (hk : k < w) :
    (wrapTo w (toSigned w l / 2 ^ c)).testBit k = l.testBit (min (k + c) (w - 1)) := by
  have hw : w - 1 < w := by omega
  rw [wrapTo_toSigned_div, BitVec.testBit_toNat, BitVec.getLsbD_sshiftRight, BitVec.msb_eq_getLsbD_last, BitVec.getLsbD_ofNat,
    BitVec.getLsbD_ofNat]
  by_cases h : c + k < w
  · simp [h, Nat.not_le.mpr hk, show min (k + c) (w - 1) = c + k by omega]
  · simp [h, hw, Nat.not_le.mpr hk, show min (k + c) (w - 1) = w - 1 by omega]

/-- The bits of a left rotation: what leaves at the top enters at the bottom. -/
theorem testBit_rot {w k l c : Nat} (hl : l < 2 ^ w) (hc : c < w) (hk : k < w) :
    ((l * 2 ^ c + l / 2 ^ (w - c)) % 2 ^ w).testBit k = l.testBit ((k + w - c) % w) := by
  have hlow : l / 2 ^ (w - c) < 2 ^ c := by
    rw [Nat.div_lt_iff_lt_mul (Nat.two_pow_pos _), ← Nat.pow_add, show c + (w - c) = w by omega]
    exact hl
  rw [Nat.testBit_mod_two_pow, Nat.mul_comm l, Nat.testBit_two_pow_mul_add l hlow]
  split
  next h =>
    have hidx : (k + w - c) % w = w - c + k := by rw [Nat.mod_eq_of_lt (by omega)]; omega
    rw [hidx, Nat.testBit_div_two_pow, Nat.add_comm k]
    simp [hk]
  next h =>
    have hidx : (k + w - c) % w = k - c := by
      rw [show k + w - c = k - c + w by omega, Nat.add_mod_right, Nat.mod_eq_of_lt (by omega)]
    simp [hidx, hk]

theorem ITy.ofCode_w_pos (y : Nat) : 0 < (ITy.ofCode y).w := by
  unfold ITy.ofCode
  split <;> exact Nat.succ_pos _

/-- Settles O9: element i of the result is the exact shift of element i modulo `2^w`, whose bits the shift lemmas give. -/
theorem shiftsMoveBitsWithinElements : Obligations.ShiftsMoveBitsWithinElements := by
  unfold Obligations.ShiftsMoveBitsWithinElements
  intro y x i k hy hi hk w c l
  have hl : l < 2 ^ w := ITy.raw_lt _ _ _
  have hc : c < w := Nat.mod_lt _ (ITy.ofCode_w_pos y)
  refine ⟨?_, ?_, ?_, ?_⟩
  · rw [shlV, intPat, ITy.raw_pack hy _ hi]
    exact testBit_shl l c hk
  · rw [shrV, intPat, ITy.raw_pack hy _ hi]
    exact testBit_shr c hl hk
  · rw [sarV, intPat, ITy.raw_pack hy _ hi, Nat.mod_eq_of_lt (wrapTo_lt _ _)]
    exact testBit_sar l c hk
  · rw [rotV, intPat, ITy.raw_pack hy _ hi]
    exact testBit_rot hl hc hk

/-! ## Bit fields (R136) -/

/-- A signed reading of n bits wrapped to w is their sign extension. -/
theorem testBit_wrapTo_toSigned {w n k : Nat} (f : Nat) (hn : 0 < n) (hk : k < w) :
    (wrapTo w (toSigned n f)).testBit k = if k < n then f.testBit k else f.testBit (n - 1) := by
  have hn' : n - 1 < n := by omega
  rw [wrapTo_eq_toNat, toSigned_eq_toInt, BitVec.testBit_toNat, ← BitVec.signExtend, BitVec.getLsbD_signExtend, BitVec.msb_eq_getLsbD_last,
    BitVec.getLsbD_ofNat, BitVec.getLsbD_ofNat]
  simp only [hk, hn', decide_true, Bool.true_and]
  split
  next h => simp [h]
  next => rfl

/-- The bits of a number whose n bits from pos on are replaced. -/
theorem testBit_replaceBits (v f pos n k : Nat) :
    (v - v / 2 ^ pos % 2 ^ n * 2 ^ pos + f % 2 ^ n * 2 ^ pos).testBit k =
      if pos ≤ k ∧ k < pos + n then f.testBit (k - pos) else v.testBit k := by
  have hv : v = 2 ^ pos * (2 ^ n * (v / 2 ^ pos / 2 ^ n) + v / 2 ^ pos % 2 ^ n) + v % 2 ^ pos := by
    rw [Nat.div_add_mod, Nat.div_add_mod]
  have hsub : v - v / 2 ^ pos % 2 ^ n * 2 ^ pos + f % 2 ^ n * 2 ^ pos =
      2 ^ pos * (2 ^ n * (v / 2 ^ pos / 2 ^ n) + f % 2 ^ n) + v % 2 ^ pos := by
    rw [Nat.mul_add] at hv ⊢
    rw [Nat.mul_comm _ (2 ^ pos), Nat.mul_comm _ (2 ^ pos)]
    omega
  rw [hsub, Nat.testBit_two_pow_mul_add _ (Nat.mod_lt _ (Nat.two_pow_pos _))]
  split
  next h => simp [h, Nat.testBit_mod_two_pow, Nat.not_le.mpr h]
  next h =>
    rw [Nat.testBit_two_pow_mul_add _ (Nat.mod_lt _ (Nat.two_pow_pos _))]
    split
    next hn => simp [Nat.testBit_mod_two_pow, hn, show pos ≤ k ∧ k < pos + n by omega]
    next hn =>
      rw [if_neg (by omega), Nat.testBit_div_two_pow, Nat.testBit_div_two_pow]
      congr 1
      omega

/-- The types of bit fields are the scalar ones. -/
theorem ITy.ofCode_scalar {y : Nat} (hy : y < 4) : (ITy.ofCode y).n = 1 := by
  revert y; decide

/-- Settles O10: the extracted field is the low n bits of `L / 2^pos`, extended as the type has it, and the insertion replaces n bits of T. -/
theorem bitFieldsAreCutAtTheElement : Obligations.BitFieldsAreCutAtTheElement := by
  unfold Obligations.BitFieldsAreCutAtTheElement
  intro y x k hy hk w pos n l
  have hi : 0 < (ITy.ofCode y).n := by rw [ITy.ofCode_scalar hy]; exact Nat.one_pos
  have hlen : bfLen (ITy.ofCode y) x = n := rfl
  have hpos : bfPos x = pos := rfl
  refine ⟨?_, ?_⟩
  · have hkey : ∀ j, (l / 2 ^ pos % 2 ^ n).testBit j = (decide (j < n) && l.testBit (pos + j)) := by
      intro j
      rw [Nat.testBit_mod_two_pow, Nat.testBit_div_two_pow, Nat.add_comm]
    rw [bfxV, ITy.raw_pack (by omega) _ hi, Nat.testBit_mod_two_pow, hlen, hpos]
    by_cases hn : n = 0
    · simp [hn]
    · cases hs : (ITy.ofCode y).signed with
      | false => simp [hn, hk, hkey, l]
      | true =>
        simp only [if_neg hn, hk, decide_true, Bool.true_and, if_true]
        rw [testBit_wrapTo_toSigned _ (by omega) hk, hkey, hkey, show pos + (n - 1) = pos + n - 1 by omega]
        split
        next h => simp [h]
        next => simp [show n - 1 < n by omega]
  · rw [bfiV, ITy.raw_pack (by omega) _ hi, Nat.testBit_mod_two_pow, hlen, hpos]
    by_cases hn : n = 0
    · simp [hn, hk, show ¬ (pos ≤ k ∧ k < pos) by omega]
    · simp only [if_neg hn, hk, decide_true, Bool.true_and]
      exact testBit_replaceBits _ _ _ _ _

end Sys2Proof.Machine
end

section
namespace Sys2Proof.Machine

/-!
# O3, O4 and O7: results that land in their issue cycle

Without write entries `laneNow` does two things that do not meet: the words go to the slots of the train, the flags to the frames. Both are folds
over the active seats, so each is described on its own, and the train is put back once, behind the flags.
-/

/-! ## Words for several seats (R58) -/

/-- One word sent to each seat's targets. -/
def Train.deliverSeats (t : Train) (targets : List Nat) (word : Seat → Word) (xs : List Seat) : Train :=
  xs.foldl (fun u x => u.deliverAll x.n targets (word x)) t

theorem Train.deliverSeats_eq (t : Train) (targets : List Nat) (word : Seat → Word) (xs : List Seat) :
    t.deliverSeats targets word xs = { t with slots := (t.deliverSeats targets word xs).slots } := by
  induction xs generalizing t with
  | nil => rfl
  | cons x xs ih =>
    have h : t.deliverSeats targets word (x :: xs) = (t.deliverAll x.n targets (word x)).deliverSeats targets word xs := rfl
    rw [h, ih, t.deliverAll_eq x.n targets (word x)]

theorem Train.slots_deliverSeats_ne (t : Train) {targets : List Nat} (word : Seat → Word) {xs : List Seat} {key : Nat}
    (h : ∀ x ∈ xs, ∀ g ∈ targets, 4 ≤ g → key ≠ x.n * 256 + g) :
    NMap.getD (t.deliverSeats targets word xs).slots key 0 = NMap.getD t.slots key 0 := by
  induction xs generalizing t with
  | nil => rfl
  | cons x xs ih =>
    have hxs := ih (t.deliverAll x.n targets (word x)) (fun y hy => h y (List.mem_cons_of_mem x hy))
    exact hxs.trans (t.slots_deliverAll_ne x.n (word x) (h x List.mem_cons_self))

/-- Targets are bytes, so that seats numbered apart have no slot in common. -/
theorem Train.slots_deliverSeats_same (t : Train) {targets : List Nat} (htargets : ∀ g ∈ targets, g < 256) (word : Seat → Word)
    {xs : List Seat} (hapart : (xs.map (fun x => x.n)).Nodup) {x : Seat} (hx : x ∈ xs) {g : Nat} (hg : g ∈ targets) (h4 : 4 ≤ g) :
    NMap.getD (t.deliverSeats targets word xs).slots (x.n * 256 + g) 0 = word x := by
  induction xs generalizing t with
  | nil => cases hx
  | cons y xs ih =>
    rw [List.map_cons, List.nodup_cons] at hapart
    obtain ⟨hy, hapart⟩ := hapart
    obtain rfl | hx := List.mem_cons.mp hx
    · have hne : ∀ z ∈ xs, ∀ g' ∈ targets, 4 ≤ g' → x.n * 256 + g ≠ z.n * 256 + g' := by
        intro z hz g' hg' _ he
        have hlt := htargets g hg
        have hlt' := htargets g' hg'
        exact hy (List.mem_map.mpr ⟨z, hz, by omega⟩)
      exact (Train.slots_deliverSeats_ne _ word hne).trans (t.slots_deliverAll_same x.n (word x) hg h4)
    · exact ih _ hapart hx

/-- A train that retires with each seat's word in its targets has been given them. -/
theorem Train.given_deliverSeats {t : Train} (hapart : (t.seats.map (fun x => x.n)).Nodup) {targets : List Nat}
    (htargets : ∀ g ∈ targets, g < 256) (word : Seat → Word) :
    t.given (t.deliverSeats targets word t.seats).retired targets word := by
  refine ⟨?_, ?_, ?_⟩
  · rw [t.deliverSeats_eq targets word t.seats]
    rfl
  · exact fun x hx g hg h4 => t.slots_deliverSeats_same htargets word hapart hx hg h4
  · exact fun key hkey => t.slots_deliverSeats_ne word hkey

/-! ## Flags for several seats (R88) -/

/-- The flags of one seat noted in its frame. -/
def State.noteFlags (s : State) (c h : Nat) (fl : Flags) : State := if fl = 0 then s else s.orFlags c h fl

/-- The flags of each seat noted in its frame. -/
def State.noteSeatFlags (s : State) (c : Nat) (fl : Seat → Flags) (xs : List Seat) : State :=
  xs.foldl (fun st x => st.noteFlags c x.inst.handle (fl x)) s

/-- Two states agree but for the frames of core c. -/
def State.sameButFrames (s s' : State) (c : Nat) : Prop :=
  s.sameBut s' c ∧ { s'.core c with frames := (s.core c).frames } = s.core c

theorem State.sameBut_trans {s s1 s2 : State} {c : Nat} (h1 : s.sameBut s1 c) (h2 : s1.sameBut s2 c) : s.sameBut s2 c :=
  ⟨State.sameOutside_trans h1.1 h2.1, fun k hk => (h2.2 k hk).trans (h1.2 k hk)⟩

theorem State.sameBut_updCore (s : State) (c : Nat) (f : Core → Core) : s.sameBut (s.updCore c f) c :=
  ⟨s.updCore_sameOutside c f, fun k hk => s.core_updCore_ne c k f hk⟩

theorem State.sameButFrames_refl (s : State) (c : Nat) : s.sameButFrames s c := ⟨⟨rfl, fun _ _ => rfl⟩, rfl⟩

theorem State.sameButFrames_trans {s s1 s2 : State} {c : Nat} (h1 : s.sameButFrames s1 c) (h2 : s1.sameButFrames s2 c) :
    s.sameButFrames s2 c := by
  refine ⟨State.sameBut_trans h1.1 h2.1, ?_⟩
  have h := congrArg (fun k : Core => { k with frames := (s.core c).frames }) h2.2
  exact h.trans h1.2

theorem State.sameButFrames.trains {s s' : State} {c : Nat} (h : s.sameButFrames s' c) : (s'.core c).trains = (s.core c).trains := by
  have h := congrArg Core.trains h.2
  exact h

theorem State.noteFlags_sameButFrames (s : State) (c h : Nat) (fl : Flags) : s.sameButFrames (s.noteFlags c h fl) c := by
  unfold State.noteFlags
  split
  next => exact s.sameButFrames_refl c
  next =>
    refine ⟨s.sameBut_updCore c _, ?_⟩
    rw [State.orFlags, State.updFrame, State.setFrame, State.core_updCore_same]

theorem State.noteSeatFlags_sameButFrames (s : State) (c : Nat) (fl : Seat → Flags) (xs : List Seat) :
    s.sameButFrames (s.noteSeatFlags c fl xs) c := by
  induction xs generalizing s with
  | nil => exact s.sameButFrames_refl c
  | cons x xs ih => exact State.sameButFrames_trans (s.noteFlags_sameButFrames c x.inst.handle (fl x)) (ih _)

theorem State.frame_noteFlags (s : State) (c h : Nat) (fl : Flags) (j : Nat) :
    (s.noteFlags c h fl).frame c j =
      if j = h then { s.frame c j with raised := (s.frame c j).raised ||| fl } else s.frame c j := by
  unfold State.noteFlags
  split
  next h0 =>
    have hor : (s.frame c j).raised ||| fl = (s.frame c j).raised := by rw [h0]; exact BitVec.or_zero
    rw [hor, ite_self]
  next =>
    split
    next hj => rw [hj, State.orFlags, State.updFrame, State.frame_setFrame_same]
    next hj => rw [State.orFlags, State.updFrame, State.frame_setFrame_ne _ _ _ _ _ hj]

/-- A MODE word with flags has bit k where the word has it, or the flag of the sticky bit k is raised (R84). -/
theorem bit_modeOrFlags (m : Word) (fl : Flags) (k : Nat) :
    bit (modeOrFlags m fl) k = (bit m k || (decide (16 ≤ k) && fl.getLsbD (k - 16))) := by
  have hfl : (fl.setWidth 64 <<< 16).getLsbD k = (decide (16 ≤ k) && fl.getLsbD (k - 16)) := by
    rw [BitVec.getLsbD_shiftLeft, BitVec.getLsbD_setWidth]
    by_cases hk : k < 64
    · by_cases h16 : 16 ≤ k
      · simp [hk, h16, Nat.not_lt.mpr h16, show k - 16 < 64 by omega]
      · simp [h16, Nat.not_le.mp h16]
    · simp [hk, show 7 ≤ k - 16 by omega]
  rw [bit, ← BitVec.getLsbD, modeOrFlags, BitVec.getLsbD_or, hfl]
  rfl

/-- Flags noted in a frame are ORed into its MODE. -/
theorem Frame.bit_modeNow_or (f : Frame) (fl : Flags) (k : Nat) :
    bit ({ f with raised := f.raised ||| fl } : Frame).modeNow k =
      (bit f.modeNow k || (decide (16 ≤ k) && fl.getLsbD (k - 16))) := by
  simp only [Frame.modeNow, bit_modeOrFlags, BitVec.getLsbD_or, Bool.and_or_distrib_left, Bool.or_assoc]

/-- Behind the flags of its seats a frame is as it was, with their flags in its MODE. -/
theorem State.frame_noteSeatFlags (s : State) (c : Nat) (fl : Seat → Flags) (xs : List Seat) (h : Nat) :
    { (s.noteSeatFlags c fl xs).frame c h with raised := (s.frame c h).raised } = s.frame c h ∧
    ∀ k, bit ((s.noteSeatFlags c fl xs).frame c h).modeNow k =
      (bit (s.frame c h).modeNow k || xs.any (fun x => x.inst.handle == h && decide (16 ≤ k) && (fl x).getLsbD (k - 16))) := by
  induction xs generalizing s with
  | nil => exact ⟨rfl, fun k => (Bool.or_false _).symm⟩
  | cons x xs ih =>
    obtain ⟨hsame, hmode⟩ := ih (s.noteFlags c x.inst.handle (fl x))
    have hx := s.frame_noteFlags c x.inst.handle (fl x) h
    have hcons : s.noteSeatFlags c fl (x :: xs) = (s.noteFlags c x.inst.handle (fl x)).noteSeatFlags c fl xs := rfl
    rw [hcons]
    refine ⟨?_, fun k => ?_⟩
    · have hraise : { (s.noteFlags c x.inst.handle (fl x)).frame c h with raised := (s.frame c h).raised } = s.frame c h := by
        rw [hx]
        split <;> rfl
      exact (congrArg (fun f : Frame => { f with raised := (s.frame c h).raised }) hsame).trans hraise
    · rw [hmode, List.any_cons, ← Bool.or_assoc, hx]
      split
      next hh => subst hh; simp [Frame.bit_modeNow_or]
      next hh =>
        have hne : (x.inst.handle == h) = false := beq_false_of_ne (Ne.symm hh)
        simp [hne]

/-! ## Flags beside a train put back -/

theorem State.updCore_updCore (s : State) (c : Nat) (f g : Core → Core) : (s.updCore c f).updCore c g = s.updCore c (g ∘ f) := by
  rw [State.updCore, State.core_updCore_same]
  simp only [State.updCore, State.setCore, NMap.set_set, Function.comp]

/-- Flags noted in a frame and a train put back do not meet. -/
theorem State.noteFlags_putTrain (s : State) (c : Nat) (t : Train) (h : Nat) (fl : Flags) :
    (s.putTrain c t).noteFlags c h fl = (s.noteFlags c h fl).putTrain c t := by
  unfold State.noteFlags
  split
  next => rfl
  next =>
    rw [State.orFlags, State.orFlags, State.updFrame, State.updFrame, State.frame_putTrain, State.setFrame, State.setFrame,
      State.putTrain, State.putTrain, State.updCore_updCore, State.updCore_updCore]
    rfl

theorem State.noteSeatFlags_putTrain (s : State) (c : Nat) (t : Train) (fl : Seat → Flags) (xs : List Seat) :
    (s.putTrain c t).noteSeatFlags c fl xs = (s.noteSeatFlags c fl xs).putTrain c t :=
  List.foldl_hom (fun st => State.putTrain st c t) (fun st x => st.noteFlags_putTrain c t x.inst.handle (fl x))

/-! ## Results of lanes without write entries, for several seats -/

/-- The state behind results that land at once: the flags in the frames, the words in the slots of the train, which retires. -/
def State.lanesDone (s : State) (t : Train) (targets : List Nat) (out : Seat → LaneOut) : State :=
  (s.noteSeatFlags s.cur.1 (fun x => (out x).fl) t.seats).putTrain s.cur.1
    (t.deliverSeats targets (fun x => (out x).val) t.seats).retired

theorem State.finishLanes_noEntry {s : State} {t : Train} (ht : Issuing s t) (targets : List Nat) (out : Seat → LaneOut) :
    s.finishLanes s.cur.1 t targets (t.seats.map (fun x => (x, out x))) = s.lanesDone t targets out := by
  have htrains := (s.noteSeatFlags_sameButFrames s.cur.1 (fun x => (out x).fl) t.seats).trains
  have hfound : ((s.noteSeatFlags s.cur.1 (fun x => (out x).fl) t.seats).core s.cur.1).train? t.uid = some t := by
    rw [← ht.found, Core.train?, Core.train?, htrains]
  have huid : (t.deliverSeats targets (fun x => (out x).val) t.seats).uid = t.uid := by
    rw [t.deliverSeats_eq targets (fun x => (out x).val) t.seats]
  rw [State.lanesDone, ← State.retireUid_putTrain hfound huid, ← State.noteSeatFlags_putTrain]
  simp only [State.finishLanes, ht.noEntry, List.isEmpty_nil, if_true, List.foldl_map]
  rfl

theorem State.lanesDone_deliversNow {s : State} {t : Train} (hapart : (t.seats.map (fun x => x.n)).Nodup) {targets : List Nat}
    (htargets : ∀ g ∈ targets, g < 256) (out : Seat → LaneOut) : s.deliversNow (s.lanesDone t targets out) t targets out := by
  have hflags := s.noteSeatFlags_sameButFrames s.cur.1 (fun x => (out x).fl) t.seats
  have hcore : (s.lanesDone t targets out).core s.cur.1 = _ := State.core_updCore_same _ _ _
  refine ⟨(t.deliverSeats targets (fun x => (out x).val) t.seats).retired, Train.given_deliverSeats hapart htargets _,
    State.sameBut_trans hflags.1 (State.sameBut_updCore _ _ _), ?_, ?_, fun h => ?_⟩
  · rw [hcore, Core.setTrain, hflags.trains]
    rfl
  · rw [hcore]
    have h := congrArg (fun k : Core => { k with trains := (s.core s.cur.1).trains }) hflags.2
    exact h
  · rw [State.lanesDone, State.frame_putTrain]
    exact s.frame_noteSeatFlags s.cur.1 (fun x => (out x).fl) t.seats h

/-- An instruction whose results land in its issue cycle completes, and delivers them. -/
theorem laneNow_deliversNow {s : State} {t : Train} (ht : Issuing s t) {targets : List Nat} (htargets : ∀ g ∈ targets, g < 256)
    (f : Train → Nat → Seat → LaneOut) :
    ∃ s', laneNow s targets f = .next s' ∧ s.deliversNow s' t targets (f t s.cur.1) := by
  refine ⟨s.lanesDone t targets (f t s.cur.1), ?_, State.lanesDone_deliversNow ht.apart htargets _⟩
  rw [laneNow, withTrain_some s t _ ht.current, State.prepare_noEntry s s.cur.1 t ht.noEntry]
  exact congrArg _ (State.finishLanes_noEntry ht targets (f t s.cur.1))

/-- Target bytes are below 256. -/
theorem targetBytes_lt (a b : BitVec 8) : ∀ g ∈ [a.toNat, b.toNat], g < 256 := by
  simp [a.isLt, b.isLt]

theorem laneInstr_deliversNow {s : State} {t : Train} (ht : Issuing s t) (a b : BitVec 8) (f : LaneIn → LaneOut) :
    ∃ s', laneInstr s a b f = .next s' ∧ s.deliversNow s' t [a.toNat, b.toNat] (fun x => f (s.seatIn s.cur.1 t x)) :=
  laneNow_deliversNow ht (targetBytes_lt a b) _

/-! ## FLT (R140 to R144) and XLN (R151 to R157) -/

/-- A plain FLT instruction executes its result seat by seat. -/
theorem exec_fltOut {i : Instr} {a b : BitVec 8} {f : LaneIn → LaneOut} (h : fltOut i = some (a, b, f)) (s : State) :
    exec i s = laneInstr s a b f := by
  unfold fltOut at h
  split at h <;> cases h <;> rfl

/-- Settles O4: a plain FLT instruction is a lane instruction, whose words and flags land at once. -/
theorem fltLanesDeliver : Obligations.FltLanesDeliver := by
  unfold Obligations.FltLanesDeliver
  intro s t i a b f ht h
  rw [exec_fltOut h]
  exact laneInstr_deliversNow ht a b f

/-- An XLN instruction gives each active seat its result among all of them. -/
theorem exec_xlnOut {s : State} {t : Train} {i : Instr} {a b : BitVec 8} {f : XSeat → LaneOut}
    (h : xlnOut s s.cur.1 t i = some (a, b, f)) :
    ∃ g : Nat → Nat → List XSeat → XSeat → LaneOut, exec i s = xlnInstr s a b g ∧ g t.seatCount s.cur.1 (s.xseats s.cur.1 t) = f := by
  unfold xlnOut at h
  split at h <;> cases h
  case h_1 f => exact ⟨fun n _ xs => shflV n f.toNat xs, rfl, rfl⟩
  case h_2 f => exact ⟨fun n _ xs => shflxV n f.toNat xs, rfl, rfl⟩
  case h_3 f => exact ⟨fun n _ xs => shflupV n f.toNat xs, rfl, rfl⟩
  case h_4 f => exact ⟨fun n _ xs => shfldnV n f.toNat xs, rfl, rfl⟩
  case h_5 f => exact ⟨fun n _ xs => bcastV n f.toNat xs, rfl, rfl⟩
  case h_6 o => exact ⟨fun _ _ xs => voteV o.toNat xs, rfl, rfl⟩
  case h_7 o y g m => exact ⟨fun _ _ xs => reduceV o.toNat y.toNat (g == 1) (m == 1) xs, rfl, rfl⟩
  case h_8 o y g m e => exact ⟨fun _ _ xs => scanV o.toNat y.toNat (g == 1) (m == 1) (e == 1) xs, rfl, rfl⟩
  case h_9 w => exact ⟨fun _ _ xs => matchV w.toNat xs, rfl, rfl⟩
  case h_10 k => exact ⟨fun _ c xs => seatidV k.toNat c xs, rfl, rfl⟩
  case h_11 g => exact ⟨fun _ _ xs => tagordV (g == 1) xs, rfl, rfl⟩

/-- Settles O7: an XLN instruction is a lane instruction whose result depends on all active seats. -/
theorem xlnLanesDeliver : Obligations.XlnLanesDeliver := by
  unfold Obligations.XlnLanesDeliver
  intro s t i a b f ht h
  obtain ⟨g, hexec, rfl⟩ := exec_xlnOut h
  rw [hexec]
  exact laneNow_deliversNow ht (targetBytes_lt a b) _

end Sys2Proof.Machine
end

section
namespace Sys2Proof.Machine

/-!
# O3: the words of the INT instructions

The model computes the bitwise functions on elements, the address adder on integers and the format-I fields on numbers; the tables have them as words.
Each pair is compared once, and what is left is a lane instruction without flags.
-/

/-! ## Bitwise functions (R134) -/

theorem ITy.testBit_raw (t : ITy) (x : Word) (k : Nat) : (t.raw x 0).testBit k = (decide (k < t.w) && x.getLsbD k) := by
  rw [ITy.raw, Nat.mul_zero, Nat.shiftRight_zero, Nat.testBit_mod_two_pow]
  rfl

/-- A natural scalar result, bit by bit a word's, is that word, or its low half (R76). -/
theorem ITy.pack_natural (t : BitVec 1) {f : Nat → Nat} {v : Word}
    (h : ∀ k < (ITy.ofCode (2 * t.toNat + 1)).w, (f 0).testBit k = v.getLsbD k) :
    (ITy.ofCode (2 * t.toNat + 1)).pack f = if t = 1 then v else v &&& 0xFFFFFFFF#64 := by
  have hpack : ∀ w k, (packAt w f 1).testBit k = (decide (k < w) && (f 0).testBit k) := by
    intro w k
    rw [packAt, packAt, Nat.mul_zero, Nat.pow_zero, Nat.mul_one, Nat.zero_add, Nat.testBit_mod_two_pow]
  apply BitVec.eq_of_getLsbD_eq
  intro k hk
  obtain rfl | rfl : t = 0 ∨ t = 1 := by bv_omega
  · have hmask : (0xFFFFFFFF#64).getLsbD k = decide (k < 32) := by
      have h32 : 0xFFFFFFFF#64 = (BitVec.allOnes 32).setWidth 64 := rfl
      rw [h32, BitVec.getLsbD_setWidth, BitVec.getLsbD_allOnes]
      simp [hk]
    rw [BitVec.getLsbD, ITy.toNat_pack (by decide) (by decide)]
    refine (hpack 32 k).trans ?_
    by_cases h32 : k < 32
    · simp [h32, h k h32, hmask]
    · simp [h32, hmask]
  · rw [BitVec.getLsbD, ITy.toNat_pack (by decide) (by decide)]
    refine (hpack 64 k).trans ?_
    simp [hk, h k hk]

theorem ITy.ofCode_w_le (y : Nat) : (ITy.ofCode y).w ≤ 64 := by
  unfold ITy.ofCode
  split <;> decide

/-- The complement of an element. -/
theorem ITy.testBit_complement (y : Nat) (x : Word) {k : Nat} (hk : k < (ITy.ofCode y).w) :
    (2 ^ (ITy.ofCode y).w - 1 - (ITy.ofCode y).raw x 0).testBit k = (~~~x).getLsbD k := by
  have h64 : k < 64 := Nat.lt_of_lt_of_le hk (ITy.ofCode_w_le y)
  rw [Nat.sub_sub, Nat.add_comm 1, Nat.testBit_two_pow_sub_succ (ITy.raw_lt _ x 0), ITy.testBit_raw, BitVec.getLsbD_not]
  simp only [hk, h64, decide_true, Bool.true_and]

section
variable (t : BitVec 1) (x : LaneIn)

theorem andV_natural : andV (ITy.ofCode (2 * t.toNat + 1)) x = if t = 1 then x.l &&& x.r else (x.l &&& x.r) &&& 0xFFFFFFFF#64 :=
  ITy.pack_natural t (fun k hk => by rw [Nat.testBit_and, ITy.testBit_raw, ITy.testBit_raw, BitVec.getLsbD_and]; simp [hk])

theorem orV_natural : orV (ITy.ofCode (2 * t.toNat + 1)) x = if t = 1 then x.l ||| x.r else (x.l ||| x.r) &&& 0xFFFFFFFF#64 :=
  ITy.pack_natural t (fun k hk => by rw [Nat.testBit_or, ITy.testBit_raw, ITy.testBit_raw, BitVec.getLsbD_or]; simp [hk])

theorem xorV_natural : xorV (ITy.ofCode (2 * t.toNat + 1)) x = if t = 1 then x.l ^^^ x.r else (x.l ^^^ x.r) &&& 0xFFFFFFFF#64 :=
  ITy.pack_natural t (fun k hk => by rw [Nat.testBit_xor, ITy.testBit_raw, ITy.testBit_raw, BitVec.getLsbD_xor]; simp [hk])

theorem andnV_natural : andnV (ITy.ofCode (2 * t.toNat + 1)) x =
    if t = 1 then x.l &&& ~~~x.r else (x.l &&& ~~~x.r) &&& 0xFFFFFFFF#64 :=
  ITy.pack_natural t (fun k hk => by
    rw [Nat.testBit_and, ITy.testBit_raw, ITy.testBit_complement _ _ hk, BitVec.getLsbD_and]
    simp only [hk, decide_true, Bool.true_and])

theorem notV_natural : notV (ITy.ofCode (2 * t.toNat + 1)) x = if t = 1 then ~~~x.l else ~~~x.l &&& 0xFFFFFFFF#64 :=
  ITy.pack_natural t (fun _ hk => ITy.testBit_complement _ _ hk)

end

/-! ## Choices, the address adder and immediates (R134, R137 to R139) -/

theorem iminV_eq (t : ITy) (x : LaneIn) : iminV t x = t.result false (fun i => min (t.read x.l i) (t.read x.r i)) := by
  simp only [iminV, intBin, Int.min_def]

theorem imaxV_eq (t : ITy) (x : LaneIn) : imaxV t x = t.result false (fun i => max (t.read x.l i) (t.read x.r i)) := by
  simp only [imaxV, intBin, Int.max_def]

theorem wordOfInt_eq_ofInt (z : Int) : wordOfInt z = BitVec.ofInt 64 z := by
  rw [wordOfInt, wrapTo_eq_toNat, BitVec.ofNat_toNat, BitVec.setWidth_eq]

theorem addxV_eq (t : ITy) (scale : Nat) (x : LaneIn) :
    addxV t scale x = x.l + BitVec.ofInt 64 (t.read x.r 0) * BitVec.ofNat 64 (2 ^ scale) + x.t := by
  have hscale : (2 : Int) ^ scale = ((2 ^ scale : Nat) : Int) := by push_cast; rfl
  rw [addxV, wordOfInt_eq_ofInt, hscale]
  simp only [BitVec.ofInt_add, BitVec.ofInt_mul, BitVec.ofInt_natCast, BitVec.ofNat_toNat, BitVec.setWidth_eq]

/-- The bits of a word with a field written. -/
theorem getLsbD_setBits (x : Word) {hi lo k : Nat} (v : Nat) (hk : k < 64) :
    (setBits x hi lo v).getLsbD k = if lo ≤ k ∧ k < lo + (hi + 1 - lo) then v.testBit (k - lo) else x.getLsbD k := by
  rw [setBits, bits, BitVec.getLsbD_ofNat, Nat.shiftRight_eq_div_pow, testBit_replaceBits]
  simp only [hk, decide_true, Bool.true_and]
  rfl

theorem conshV_eq (i : BitVec 16) (x : LaneIn) : conshV i x = i ++ x.l.extractLsb' 0 48 := by
  apply BitVec.eq_of_getLsbD_eq
  intro k hk
  rw [conshV, getLsbD_setBits _ _ hk, BitVec.getLsbD_append, BitVec.getLsbD_extractLsb']
  by_cases h : k < 48
  · simp [h, Nat.not_le.mpr h]
  · simp only [h, Nat.not_lt.mp h, show k < 48 + (63 + 1 - 48) by omega, and_self, if_true, if_false]
    rfl

theorem conswV_eq (i : BitVec 16) (x : LaneIn) : conswV i x = x.l.extractLsb' 0 48 ++ i := by
  apply BitVec.eq_of_getLsbD_eq
  intro k hk
  rw [conswV, BitVec.getLsbD_ofNat, BitVec.getLsbD_append, BitVec.getLsbD_extractLsb', Nat.mul_comm, ← show 2 ^ 16 = 65536 from rfl,
    Nat.testBit_two_pow_mul_add _ i.isLt]
  by_cases h : k < 16
  · simp only [hk, h, decide_true, Bool.true_and, if_true]
    rfl
  · simp only [hk, h, show k - 16 < 48 by omega, decide_true, Bool.true_and, if_false, Nat.zero_add]
    rfl

/-! ## O3 -/

theorem laneInstr_noFlags_congr {f g : LaneIn → Word} (h : ∀ x, f x = g x) (s : State) (a b : BitVec 8) :
    laneInstr s a b (noFlags f) = laneInstr s a b (noFlags g) := by rw [funext h]

/-- A plain INT instruction executes the word of its table seat by seat, without flags. Where the model's word is the table's as it stands,
nothing is left to compare. -/
theorem exec_intWord {i : Instr} {a b : BitVec 8} {f : LaneIn → Word} (h : intWord i = some (a, b, f)) (s : State) :
    exec i s = laneInstr s a b (noFlags f) := by
  unfold intWord at h
  split at h <;> cases h
  case h_6 t => exact laneInstr_noFlags_congr (iminV_eq _) s a b
  case h_7 t => exact laneInstr_noFlags_congr (imaxV_eq _) s a b
  case h_10 t => exact laneInstr_noFlags_congr (andV_natural t) s a b
  case h_11 t => exact laneInstr_noFlags_congr (orV_natural t) s a b
  case h_12 t => exact laneInstr_noFlags_congr (xorV_natural t) s a b
  case h_13 t => exact laneInstr_noFlags_congr (andnV_natural t) s a b
  case h_14 t => exact laneInstr_noFlags_congr (notV_natural t) s a b
  case h_27 t k => exact laneInstr_noFlags_congr (addxV_eq _ _) s a b
  case h_29 i => exact laneInstr_noFlags_congr (conshV_eq i) s a _
  case h_30 i => exact laneInstr_noFlags_congr (conswV_eq i) s a _
  all_goals rfl

/-- Settles O3: a plain INT instruction is a lane instruction without flags, whose words land at once. -/
theorem intLanesDeliver : Obligations.IntLanesDeliver := by
  unfold Obligations.IntLanesDeliver
  intro s t i a b f ht h
  rw [exec_intWord h]
  exact laneInstr_deliversNow ht a b (noFlags f)

end Sys2Proof.Machine
end

section
namespace Sys2Proof.Machine

/-!
# O6: results that are late

Each active seat in tag order starts one operation. What the seats dealt with have got is kept by every later seat, since late results, outstanding
operations and pending targets only grow. Tag order is a permutation of the active seats, and seats numbered apart find their own results.
-/

/-! ## Tag order keeps the seats -/

theorem mem_insertBy {α : Type} {le : α → α → Bool} {x a : α} {l : List α} : a ∈ insertBy le x l ↔ a = x ∨ a ∈ l := by
  induction l with
  | nil => simp [insertBy]
  | cons y ys ih =>
    rw [insertBy]
    split
    · rw [List.mem_cons]
    · rw [List.mem_cons, ih, List.mem_cons, or_left_comm]

theorem mem_sortBy {α : Type} {le : α → α → Bool} {a : α} {l : List α} : a ∈ sortBy le l ↔ a ∈ l := by
  induction l with
  | nil => rfl
  | cons x xs ih => rw [sortBy, mem_insertBy, ih, List.mem_cons]

theorem mem_seatsByTag {s : State} {c : Nat} {x : Seat} {xs : List Seat} : x ∈ seatsByTag s c xs ↔ x ∈ xs := mem_sortBy

/-- Among seats numbered apart the result of a seat is found by its number. -/
theorem find?_seat_result {xs : List Seat} (hapart : (xs.map (fun x => x.n)).Nodup) (out : Seat → LaneOut) {x : Seat} (hx : x ∈ xs) :
    (xs.map (fun y => (y, out y))).find? (fun o => o.1.n == x.n) = some (x, out x) := by
  induction xs with
  | nil => cases hx
  | cons y xs ih =>
    rw [List.map_cons, List.nodup_cons] at hapart
    obtain ⟨hy, hapart⟩ := hapart
    obtain rfl | hx := List.mem_cons.mp hx
    · exact List.find?_cons_of_pos (beq_self_eq_true x.n)
    · have hne : y.n ≠ x.n := fun h => hy (List.mem_map.mpr ⟨x, hx, h.symm⟩)
      rw [List.map_cons, List.find?_cons_of_neg (by simpa using hne)]
      exact ih hapart hx

/-! ## Pending targets (R53) -/

/-- Each of a seat's targets made pending on an operation. -/
def Train.pendAll (t : Train) (n : Nat) (targets : List Nat) (op : Nat) : Train := targets.foldl (fun u g => u.pendOn n g op) t

theorem Train.pendOn_eq (t : Train) (n g op : Nat) : t.pendOn n g op = { t with pend := (t.pendOn n g op).pend } := by
  unfold Train.pendOn
  split <;> rfl

theorem Train.pendOn_subset (t : Train) (n g op : Nat) : t.pend ⊆ (t.pendOn n g op).pend := by
  unfold Train.pendOn
  split
  · exact List.Subset.refl _
  · exact List.subset_cons_self _ _

theorem Train.mem_pendOn (t : Train) (n op : Nat) {g : Nat} (h4 : 4 ≤ g) : (n * 256 + g, op) ∈ (t.pendOn n g op).pend := by
  rw [Train.pendOn, if_neg (by omega)]
  exact List.mem_cons_self

/-- Targets made pending reach the pending list alone. -/
theorem Train.pendAll_eq (t : Train) (n : Nat) (targets : List Nat) (op : Nat) :
    t.pendAll n targets op = { t with pend := (t.pendAll n targets op).pend } := by
  induction targets generalizing t with
  | nil => rfl
  | cons g gs ih =>
    have h : t.pendAll n (g :: gs) op = (t.pendOn n g op).pendAll n gs op := rfl
    rw [h, ih, t.pendOn_eq n g op]

theorem Train.pendAll_subset (t : Train) (n : Nat) (targets : List Nat) (op : Nat) : t.pend ⊆ (t.pendAll n targets op).pend := by
  induction targets generalizing t with
  | nil => exact List.Subset.refl _
  | cons g gs ih => exact List.Subset.trans (t.pendOn_subset n g op) (ih _)

theorem Train.mem_pendAll (t : Train) (n : Nat) {targets : List Nat} (op : Nat) {g : Nat} (hg : g ∈ targets) (h4 : 4 ≤ g) :
    (n * 256 + g, op) ∈ (t.pendAll n targets op).pend := by
  induction targets generalizing t with
  | nil => cases hg
  | cons g' gs ih =>
    obtain rfl | hg := List.mem_cons.mp hg
    · exact Train.pendAll_subset _ n gs op (t.mem_pendOn n op h4)
    · exact ih _ hg

/-! ## One late result -/

/-- A late value lands after this cycle, in a seat's targets and in no register. -/
def State.lateOf (s : State) (c : Nat) (t : Train) (x : Seat) (vals : List (Nat × Word)) (v : Word) (fl : Flags) (kind : LateKind) : Late :=
  { due := s.cyc.toNat + 1 + Config.latency s.freeCtr, train := t.uid, seat := x.n, handle := x.inst.handle, vals := vals, regs := [],
    regVal := v, fl := fl, opId := (s.core c).ops + 1, kind := kind }

/-- What a core has when one late result has been issued: its operation outstanding, its value on its way. -/
def Core.withLate (k : Core) (l : Late) (o : OutOp) : Core :=
  { k with ops := k.ops + 1, late := k.late ++ [l], outst := k.outst ++ [o] }

/-- Without write entries a late result changes one core, and what is pending in the train. -/
theorem State.issueLate_noEntry (s : State) (c : Nat) {t : Train} (hw : t.writeRegs = []) (x : Seat) (targets : List Nat)
    (vals : List (Nat × Word)) (v : Word) (fl : Flags) (wbit path : Nat) (kind : LateKind) :
    s.issueLate c t x targets vals v fl wbit path kind =
      (s.draw.2.updCore c (fun k => k.withLate (s.lateOf c t x vals v fl kind) ⟨t.uid, wbit, path, (s.core c).ops + 1⟩),
        t.pendAll x.n targets ((s.core c).ops + 1)) := by
  have hop : s.draw.2.newOp c = ((s.core c).ops + 1, s.draw.2.updCore c (fun k => { k with ops := k.ops + 1 })) := rfl
  rw [State.issueLate, hw]
  simp only [hop, State.startOp, State.updCore_updCore, List.foldl_nil]
  rfl

/-! ## Late results of several seats -/

/-- The late results that a core's state s1 holds beyond s, its train t standing as u: those of the seats xs, beside all that was there. -/
structure State.issuedLate (s s1 : State) (t u : Train) (xs : List Seat) (vals : Seat → List (Nat × Word)) (fl : Seat → Flags)
    (wbit path : Nat) : Prop where
  train : u = { t with pend := u.pend }
  same : s.sameBut s1 s.cur.1
  core : { s1.core s.cur.1 with
    ops := (s.core s.cur.1).ops, late := (s.core s.cur.1).late, outst := (s.core s.cur.1).outst } = s.core s.cur.1
  ops : (s.core s.cur.1).ops ≤ (s1.core s.cur.1).ops
  late : (s.core s.cur.1).late ⊆ (s1.core s.cur.1).late
  results : ∀ x ∈ xs, s.lateFor s1 t u x (vals x) (fl x) wbit path

/-- A free value drawn and a change of core c change nothing but that core. -/
theorem State.sameBut_draw_updCore (s : State) (c : Nat) (f : Core → Core) : s.sameBut (s.draw.2.updCore c f) c :=
  ⟨rfl, fun k hk => s.draw.2.core_updCore_ne c k f hk⟩

theorem State.issuedLate_nil (s : State) (t : Train) (vals : Seat → List (Nat × Word)) (fl : Seat → Flags) (wbit path : Nat) :
    s.issuedLate s t t [] vals fl wbit path :=
  ⟨rfl, ⟨rfl, fun _ _ => rfl⟩, rfl, Nat.le_refl _, List.Subset.refl _, fun _ hx => by cases hx⟩

/-- What a seat has got it keeps where late results, outstanding operations and pending targets only grow. -/
theorem State.lateFor_mono {s s1 s2 : State} {t u1 u2 : Train} {x : Seat} {vals : List (Nat × Word)} {fl : Flags} {wbit path : Nat}
    (h : s.lateFor s1 t u1 x vals fl wbit path) (hlate : (s1.core s.cur.1).late ⊆ (s2.core s.cur.1).late)
    (houtst : (s1.core s.cur.1).outst ⊆ (s2.core s.cur.1).outst) (hpend : u1.pend ⊆ u2.pend) :
    s.lateFor s2 t u2 x vals fl wbit path := by
  obtain ⟨l, hl, htrain, hseat, hhandle, hvals, hfl, hdue, hop, hout, hp⟩ := h
  exact ⟨l, hlate hl, htrain, hseat, hhandle, hvals, hfl, hdue, hop, houtst hout, fun v hv h4 => hpend (hp v hv h4)⟩

section
variable {s s1 s2 : State} {t u u2 : Train} {xs : List Seat} {vals : Seat → List (Nat × Word)} {fl : Seat → Flags} {wbit path : Nat}

/-- The seat whose late result has been issued last has got it. -/
theorem State.lateFor_withLate {c : Nat} (hcyc : s1.cyc = s.cyc) (huid : u.uid = t.uid)
    (hops : (s.core s.cur.1).ops ≤ (s1.core c).ops) {x : Seat} {targets : List Nat} {ws : List (Nat × Word)}
    (hws : ∀ w ∈ ws, w.1 ∈ targets) {v : Word} {fl : Flags} {kind : LateKind}
    (hk : s2.core s.cur.1 = (s1.core c).withLate (s1.lateOf c u x ws v fl kind) ⟨u.uid, wbit, path, (s1.core c).ops + 1⟩) :
    s.lateFor s2 t (u.pendAll x.n targets ((s1.core c).ops + 1)) x ws fl wbit path := by
  refine ⟨s1.lateOf c u x ws v fl kind, ?_, huid, rfl, rfl, rfl, rfl, ?_, Nat.lt_succ_of_le hops, ?_, fun w hw h4 => ?_⟩
  · rw [hk]
    exact List.mem_append_right _ (List.mem_singleton_self _)
  · change s.cyc.toNat < s1.cyc.toNat + 1 + Config.latency s1.freeCtr
    rw [hcyc]
    omega
  · rw [hk, ← huid]
    exact List.mem_append_right _ (List.mem_singleton_self _)
  · exact u.mem_pendAll x.n _ (hws w hw) h4

/-- One seat more gets its late result. -/
theorem State.issuedLate.snoc (h : s.issuedLate s1 t u xs vals fl wbit path) (hw : t.writeRegs = []) {x : Seat} {targets : List Nat}
    (hvals : ∀ v ∈ vals x, v.1 ∈ targets) {v : Word} {kind : LateKind}
    (h2 : s1.issueLate s.cur.1 u x targets (vals x) v (fl x) wbit path kind = (s2, u2)) :
    s.issuedLate s2 t u2 (xs ++ [x]) vals fl wbit path := by
  obtain ⟨htrain, hsame, hcore, hops, hlate, hres⟩ := h
  have huid : u.uid = t.uid := by rw [htrain]
  have hwu : u.writeRegs = [] := by rw [← hw, htrain]; rfl
  have hcyc : s1.cyc = s.cyc := State.sameOutside_cyc hsame.1
  rw [State.issueLate_noEntry s1 s.cur.1 hwu, Prod.mk.injEq] at h2
  obtain ⟨hs2, rfl⟩ := h2
  have hk : s2.core s.cur.1 = (s1.core s.cur.1).withLate (s1.lateOf s.cur.1 u x (vals x) v (fl x) kind)
      ⟨u.uid, wbit, path, (s1.core s.cur.1).ops + 1⟩ := by
    rw [← hs2]
    exact State.core_updCore_same _ _ _
  have hlate2 : (s1.core s.cur.1).late ⊆ (s2.core s.cur.1).late := by
    rw [hk]
    exact List.subset_append_left _ _
  have houtst2 : (s1.core s.cur.1).outst ⊆ (s2.core s.cur.1).outst := by
    rw [hk]
    exact List.subset_append_left _ _
  refine ⟨?_, State.sameBut_trans hsame (hs2 ▸ s1.sameBut_draw_updCore s.cur.1 _), ?_, ?_, List.Subset.trans hlate hlate2, fun y hy => ?_⟩
  · have hput := congrArg (fun w : Train => { w with pend := (u.pendAll x.n targets ((s1.core s.cur.1).ops + 1)).pend }) htrain
    exact (u.pendAll_eq x.n targets _).trans hput
  · rw [hk]
    exact hcore
  · rw [hk]
    exact Nat.le_succ_of_le hops
  · obtain hy | hy := List.mem_append.mp hy
    · exact State.lateFor_mono (hres y hy) hlate2 houtst2 (u.pendAll_subset x.n targets _)
    · obtain rfl := List.mem_singleton.mp hy
      exact State.lateFor_withLate hcyc huid hops hvals hk

/-- An instruction that has issued a late result for each active seat, and whose train is put back behind it, delivers late. -/
theorem State.issuedLate.deliversLate (h : s.issuedLate s1 t u xs vals fl wbit path) (hxs : ∀ x ∈ t.seats, x ∈ xs) :
    s.deliversLate (s1.putTrain s.cur.1 u.retired) t wbit path vals fl := by
  obtain ⟨htrain, hsame, hcore, hops, hlate, hres⟩ := h
  have hk : (s1.putTrain s.cur.1 u.retired).core s.cur.1 = (s1.core s.cur.1).setTrain u.retired := State.core_updCore_same _ _ _
  have htrains := congrArg Core.trains hcore
  have hframes := congrArg Core.frames hcore
  have hwindows := congrArg Core.windows hcore
  refine ⟨u.retired, congrArg Train.retired htrain, State.sameBut_trans hsame (State.sameBut_updCore _ _ _), ?_, ?_, ?_, ?_, fun x hx => ?_⟩
  · rw [hk, Core.setTrain, Core.setTrain, ← htrains]
  · rw [hk]
    exact hframes
  · rw [hk]
    exact hwindows
  · rw [hk]
    exact fun l hl => hlate hl
  · refine State.lateFor_mono (hres x (hxs x hx)) ?_ ?_ (List.Subset.refl _)
    · rw [hk]
      exact List.Subset.refl _
    · rw [hk]
      exact List.Subset.refl _

end

/-! ## The late results of an instruction -/

/-- The late result of one seat: its word for every target, with its flags. -/
def issueSeat (c : Nat) (targets : List Nat) (wbit path : Nat) (kind : LateKind) (out : Seat → LaneOut) (p : State × Train) (x : Seat) :
    State × Train :=
  p.1.issueLate c p.2 x targets (targets.map (fun g => (g, (out x).val))) (out x).val (out x).fl wbit path kind

/-- Late results issued for seats in a given order. -/
def State.issueSeats (s : State) (t : Train) (targets : List Nat) (wbit path : Nat) (kind : LateKind) (out : Seat → LaneOut)
    (order : List Seat) : State × Train :=
  order.foldl (issueSeat s.cur.1 targets wbit path kind out) (s, t)

/-- Steps that agree on the items of a list fold alike. -/
theorem foldl_congr_mem {α β : Type} {f g : α → β → α} {l : List β} (h : ∀ a, ∀ b ∈ l, f a b = g a b) (a : α) : l.foldl f a = l.foldl g a := by
  induction l generalizing a with
  | nil => rfl
  | cons b l ih =>
    rw [List.foldl_cons, List.foldl_cons, h a b List.mem_cons_self]
    exact ih (fun a' b' hb' => h a' b' (List.mem_cons_of_mem b hb')) _

section
variable {s : State} {t : Train}

/-- Further seats in turn get their late results. -/
theorem State.issuedLate.foldl (hw : t.writeRegs = []) {targets : List Nat} {wbit path : Nat} {kind : LateKind} {out : Seat → LaneOut}
    {p : State × Train} {xs : List Seat}
    (h : s.issuedLate p.1 t p.2 xs (fun x => targets.map (fun g => (g, (out x).val))) (fun x => (out x).fl) wbit path)
    (order : List Seat) :
    s.issuedLate (order.foldl (issueSeat s.cur.1 targets wbit path kind out) p).1 t
      (order.foldl (issueSeat s.cur.1 targets wbit path kind out) p).2 (xs ++ order)
      (fun x => targets.map (fun g => (g, (out x).val))) (fun x => (out x).fl) wbit path := by
  induction order generalizing p xs with
  | nil =>
    rw [List.append_nil]
    exact h
  | cons x order ih =>
    have htargets : ∀ w ∈ targets.map (fun g => (g, (out x).val)), w.1 ∈ targets := by
      intro w hw
      obtain ⟨g, hg, rfl⟩ := List.mem_map.mp hw
      exact hg
    have hx := ih (p := issueSeat s.cur.1 targets wbit path kind out p x) (h.snoc hw htargets rfl)
    rw [List.append_assoc] at hx
    exact hx

theorem State.issueSeats_issuedLate (hw : t.writeRegs = []) (targets : List Nat) (wbit path : Nat) (kind : LateKind)
    (out : Seat → LaneOut) (order : List Seat) :
    s.issuedLate (s.issueSeats t targets wbit path kind out order).1 t (s.issueSeats t targets wbit path kind out order).2 order
      (fun x => targets.map (fun g => (g, (out x).val))) (fun x => (out x).fl) wbit path :=
  State.issuedLate.foldl hw (p := (s, t)) (s.issuedLate_nil t _ _ wbit path) order

/-- The results of the active seats are issued in tag order, each found under its seat's number. -/
theorem State.issueLates_seats (hapart : (t.seats.map (fun x => x.n)).Nodup) (targets : List Nat) (wbit path : Nat) (kind : LateKind)
    (out : Seat → LaneOut) :
    s.issueLates s.cur.1 t targets wbit path kind (t.seats.map (fun x => (x, out x))) =
      (let r := s.issueSeats t targets wbit path kind out (seatsByTag s s.cur.1 t.seats)
       (r.1.putTrain s.cur.1 r.2).retireUid s.cur.1 t.uid) := by
  have horder : (t.seats.map (fun x => (x, out x))).map (fun o => o.1) = t.seats := by
    rw [List.map_map]
    exact List.map_id _
  rw [State.issueLates, horder]
  refine congrArg (fun r : State × Train => (r.1.putTrain s.cur.1 r.2).retireUid s.cur.1 t.uid) ?_
  refine foldl_congr_mem (fun p x hx => ?_) _
  rw [find?_seat_result hapart out (mem_seatsByTag.mp hx)]
  rfl

/-- Without write entries the late results of the active seats are what the instruction comes to. -/
theorem State.issueLates_deliversLate (ht : Issuing s t) (targets : List Nat) (wbit path : Nat) (kind : LateKind) (out : Seat → LaneOut) :
    s.deliversLate (s.issueLates s.cur.1 t targets wbit path kind (t.seats.map (fun x => (x, out x)))) t wbit path
      (fun x => targets.map (fun g => (g, (out x).val))) (fun x => (out x).fl) := by
  have hissued := State.issueSeats_issuedLate (s := s) ht.noEntry targets wbit path kind out (seatsByTag s s.cur.1 t.seats)
  have huid : (s.issueSeats t targets wbit path kind out (seatsByTag s s.cur.1 t.seats)).2.uid = t.uid := by rw [hissued.train]
  have htrains := congrArg Core.trains hissued.core
  rw [State.issueLates_seats ht.apart]
  dsimp only
  rw [State.retireUid_putTrain (t := t) ?_ huid]
  · exact hissued.deliversLate (fun x hx => mem_seatsByTag.mpr hx)
  · rw [← ht.found, Core.train?, Core.train?, ← htrains]

/-- An instruction whose results are late completes and delivers them, where no active seat lacks a feature. -/
theorem lateLane_deliversLate (ht : Issuing s t) (a b : BitVec 8) {off : LaneIn → Bool} (hoff : ∀ y, off y = false)
    (f : Train → Nat → Seat → LaneIn → LaneOut) :
    ∃ s', lateLane s a b off f = .next s' ∧
      s.deliversLate s' t 0 6 (fun x => [a.toNat, b.toNat].map (fun g => (g, (f t s.cur.1 x (s.seatIn s.cur.1 t x)).val)))
        (fun x => (f t s.cur.1 x (s.seatIn s.cur.1 t x)).fl) := by
  have hnone : t.seats.filter (fun x => off (s.seatIn s.cur.1 t x)) = [] :=
    List.filter_eq_nil_iff.mpr (fun x _ => by rw [hoff]; exact Bool.false_ne_true)
  refine ⟨_, ?_, State.issueLates_deliversLate ht [a.toNat, b.toNat] 0 6 .own (fun x => f t s.cur.1 x (s.seatIn s.cur.1 t x))⟩
  rw [lateLane, withTrain_some s t _ ht.current, State.prepare_noEntry s s.cur.1 t ht.noEntry]
  simp only [hnone, List.map_nil, State.takeFaults, List.foldl_nil]

end

/-! ## SFN (R145 to R150) -/

theorem predLane_val (f : LaneIn → LaneOut) (x : LaneIn) : (predLane f x).val = if bit x.p 0 then (f x).val else x.l :=
  apply_ite LaneOut.val _ _ _

theorem predLane_fl (f : LaneIn → LaneOut) (x : LaneIn) : (predLane f x).fl = if bit x.p 0 then (f x).fl else 0 :=
  apply_ite LaneOut.fl _ _ _

theorem cvtOff_false {s : State} {t : Train} (ht : s.train? = some t) {c : Nat}
    (h : ∀ k, (if cvtNeedsFP64 c then some 10 else none) = some k → s.featOn t.launch k = true) : cvtOff s c = false := by
  simp only [cvtOff, ht]
  cases hc : cvtNeedsFP64 c with
  | false => rfl
  | true => simp [h 10 (by rw [hc]; rfl)]

theorem mxOff_false {s : State} {t : Train} (ht : s.train? = some t) (h : s.featOn t.launch 6 = true) : mxOff s = false := by
  simp only [mxOff, ht, h]
  rfl

/-- A late lane instruction with the result f for each seat of the current train, none of which lacks a feature. -/
def State.execsLate (s : State) (t : Train) (i : Instr) (a b : BitVec 8) (f : Seat → LaneIn → LaneOut) : Prop :=
  ∃ (off : LaneIn → Bool) (g : Train → Nat → Seat → LaneIn → LaneOut),
    exec i s = lateLane s a b off g ∧ (∀ y, off y = false) ∧ g t s.cur.1 = f

theorem State.execsLate.deliversLate {s : State} {t : Train} {i : Instr} {a b : BitVec 8} {f : Seat → LaneIn → LaneOut}
    (h : s.execsLate t i a b f) (ht : Issuing s t) :
    ∃ s', exec i s = .next s' ∧
      s.deliversLate s' t 0 6 (fun x => [a.toNat, b.toNat].map (fun g => (g, (f x (s.seatIn s.cur.1 t x)).val)))
        (fun x => (f x (s.seatIn s.cur.1 t x)).fl) := by
  obtain ⟨off, g, hexec, hoff, rfl⟩ := h
  rw [hexec]
  exact lateLane_deliversLate ht a b hoff g

/-- An SFN instruction without a feature of its own has the same function for every seat. -/
theorem State.execsLate_lateInstr {s : State} {i : Instr} {a b : BitVec 8} {f : LaneIn → LaneOut} (t : Train)
    (h : exec i s = lateInstr s a b f) : s.execsLate t i a b (fun _ => f) :=
  ⟨fun _ => false, fun _ _ _ => f, h, fun _ => rfl, rfl⟩

section
variable {s : State} {t : Train} {i : Instr} {a b : BitVec 8} {need : Option Nat} {f : Seat → LaneIn → LaneOut}

/-- A plain SFN instruction whose feature is effective executes late with its result; `cvt` and `cvtsc` alone ask for one (R70). -/
theorem exec_sfnOut (ht : s.train? = some t) (h : sfnOut t i = some (a, b, need, f)) (hneed : ∀ k, need = some k → s.featOn t.launch k = true) :
    s.execsLate t i a b f := by
  unfold sfnOut at h
  split at h <;> cases h
  case h_11 r c => exact ⟨fun _ => cvtOff s c.toNat, fun _ _ _ => cvtV r.toNat c.toNat, rfl, fun _ => cvtOff_false ht hneed, rfl⟩
  case h_12 r f j =>
    exact ⟨fun _ => mxOff s, fun t _ x => cvtscV r.toNat f.toNat (cvtscScale j.toNat t x), rfl, fun _ => mxOff_false ht (hneed 6 rfl), rfl⟩
  all_goals exact State.execsLate_lateInstr t rfl

/-- The predicated form of an SFN instruction whose feature is effective executes late with its result, or L (R67); again `cvt` and
`cvtsc` alone ask for one. -/
theorem exec_sfnOut_pred {j : Instr} (ht : s.train? = some t) (hi : plainForm i = some j) (h : sfnOut t j = some (a, b, need, f))
    (hneed : ∀ k, need = some k → s.featOn t.launch k = true) : s.execsLate t i a b (fun x => predLane (f x)) := by
  unfold plainForm at hi
  split at hi <;> cases hi <;> cases h
  case h_53 r c =>
    refine ⟨fun y => bit y.p 0 && cvtOff s c.toNat, fun _ _ _ => predLane (cvtV r.toNat c.toNat), rfl, fun y => ?_, rfl⟩
    simp only [cvtOff_false ht hneed, Bool.and_false]
  case h_54 r f j =>
    refine ⟨fun y => bit y.p 0 && mxOff s, fun t _ x => predLane (cvtscV r.toNat f.toNat (cvtscScale j.toNat t x)), rfl, fun y => ?_, rfl⟩
    simp only [mxOff_false ht (hneed 6 rfl), Bool.and_false]
  all_goals exact State.execsLate_lateInstr t rfl

end

/-- Settles O6: a plain SFN instruction executes late with its result, a predicated one with its result or L. -/
theorem sfnLanesAreLate : Obligations.SfnLanesAreLate := by
  unfold Obligations.SfnLanesAreLate
  refine ⟨?_, ?_⟩
  · intro s t i a b need f ht h hneed
    exact (exec_sfnOut ht.current h hneed).deliversLate ht
  · intro s t i j a b need f ht hi h hneed
    obtain ⟨s', hexec, hlate⟩ := (exec_sfnOut_pred ht.current hi h hneed).deliversLate ht
    simp only [predLane_val, predLane_fl] at hlate
    exact ⟨s', hexec, hlate⟩

end Sys2Proof.Machine
end

section
namespace Sys2Proof.Machine

/-!
# What an operation on one frame leaves alone, and writes to its carried registers (R190 to R195)

An operation of the carry unit for one seat stays inside one core, and there leaves the trains, the count of operations and every other frame as they
were. What it does inside its frame is said once, register by register.
-/

/-! ## Registers of a frame (R190) -/

theorem Frame.reg_setReg (f : Frame) (g : Nat) (v : Word) (k : Nat) : (f.setReg g v).reg k = if k = g then v else f.reg k :=
  NMap.getD_set f.regs g k v 0

theorem Frame.full_setReg (f : Frame) (g : Nat) (v : Word) (k : Nat) : (f.setReg g v).full k = if k = g then true else f.full k := by
  by_cases hk : k = g <;> simp [Frame.full, Frame.setReg, hk]

theorem Frame.full_empty (f : Frame) (g k : Nat) : (f.empty g).full k = if k = g then false else f.full k := by
  by_cases hk : k = g <;> simp [Frame.full, Frame.empty, mem_insertBy, hk]

theorem Frame.binding?_of_unbound {f : Frame} (hb : f.binds = []) (g : Nat) : f.binding? g = none := by
  rw [Frame.binding?, hb, List.find?_nil]


theorem Frame.reg_of_binding? {f : Frame} {g : Nat} {b : Binding} (h : f.binding? g = some b) : b.reg = g := by
  simpa using List.find?_some h

/-! ## Changes inside one frame -/

/-- s' agrees with s outside core c, and within it in the trains, the count of operations and every frame but h. -/
structure State.changesFrame (s s' : State) (c h : Nat) : Prop where
  same : s.sameBut s' c
  trains : (s'.core c).trains = (s.core c).trains
  ops : (s'.core c).ops = (s.core c).ops
  frames : ∀ j, j ≠ h → s'.frame c j = s.frame c j

theorem State.changesFrame_refl (s : State) (c h : Nat) : s.changesFrame s c h := ⟨⟨rfl, fun _ _ => rfl⟩, rfl, rfl, fun _ _ => rfl⟩

section
variable {s s1 s2 : State} {c h : Nat}

theorem State.changesFrame.trans (h1 : s.changesFrame s1 c h) (h2 : s1.changesFrame s2 c h) : s.changesFrame s2 c h :=
  ⟨State.sameBut_trans h1.same h2.same, h2.trains.trans h1.trains, h2.ops.trans h1.ops, fun j hj => (h2.frames j hj).trans (h1.frames j hj)⟩

theorem State.changesFrame.mem (h1 : s.changesFrame s1 c h) : s1.mem = s.mem := State.sameOutside_mem h1.same.1

theorem State.changesFrame.train? (h1 : s.changesFrame s1 c h) (uid : Nat) : (s1.core c).train? uid = (s.core c).train? uid := by
  rw [Core.train?, Core.train?, h1.trains]

end

/-- A change of a core that keeps its trains, its operation count and its other frames. -/
theorem State.updCore_changesFrame (s : State) (c h : Nat) {f : Core → Core} (htrains : (f (s.core c)).trains = (s.core c).trains)
    (hops : (f (s.core c)).ops = (s.core c).ops)
    (hframes : ∀ j, j ≠ h → NMap.getD (f (s.core c)).frames j Frame.free = NMap.getD (s.core c).frames j Frame.free) :
    s.changesFrame (s.updCore c f) c h := by
  refine ⟨s.sameBut_updCore c f, ?_, ?_, fun j hj => ?_⟩
  · rw [State.core_updCore_same, htrains]
  · rw [State.core_updCore_same, hops]
  · rw [State.frame, State.core_updCore_same, hframes j hj]
    rfl

theorem State.setFrame_changesFrame (s : State) (c h : Nat) (f : Frame) : s.changesFrame (s.setFrame c h f) c h :=
  s.updCore_changesFrame c h rfl rfl (fun j hj => NMap.getD_set_ne _ h j _ _ hj)

theorem State.draw_changesFrame (s : State) (c h : Nat) : s.changesFrame s.draw.2 c h := ⟨⟨rfl, fun _ _ => rfl⟩, rfl, rfl, fun _ _ => rfl⟩

theorem State.countEvt_changesFrame (s : State) (c code n h : Nat) : s.changesFrame (s.countEvt c code n) c h := by
  unfold State.countEvt
  split
  next => exact s.changesFrame_refl c h
  next =>
    refine List.foldlRecOn (motive := fun st => s.changesFrame st c h) _ _ (s.changesFrame_refl c h) (fun st hst k _ => ?_)
    split
    next => exact hst.trans (st.updCore_changesFrame c h rfl rfl (fun _ _ => rfl))
    next => exact hst

/-- A frame as its preparation leaves it (R204); the replays are counted beside it. -/
theorem State.setPrepared_changesFrame (s : State) (c h : Nat) (f : Frame) (n : Nat) : s.changesFrame (s.setPrepared c h f n) c h := by
  unfold State.setPrepared
  split
  next => exact s.setFrame_changesFrame c h f
  next => exact (s.setFrame_changesFrame c h f).trans (State.countEvt_changesFrame _ c 11 n h)

@[simp] theorem State.frame_setPrepared (s : State) (c h : Nat) (f : Frame) (n : Nat) : (s.setPrepared c h f n).frame c h = f := by
  unfold State.setPrepared
  split
  next => exact s.frame_setFrame_same c h f
  next => exact ((s.setFrame c h f).countEvt_keepsFrames c 11 n |>.2 c h).trans (s.frame_setFrame_same c h f)

/-! ## A write in the issue cycle (R192, R193, R195) -/

theorem State.fillWaits_changesFrame (s : State) (c h g : Nat) : s.changesFrame (s.fillWaits c h g) c h := by
  unfold State.fillWaits
  exact s.updCore_changesFrame c h rfl rfl (fun _ _ => rfl)

theorem State.frame_fillWaits (s : State) (c h g j : Nat) : (s.fillWaits c h g).frame c j = s.frame c j :=
  (s.updCore_keepsFrames c rfl).2 c j

theorem State.writeReg_changesFrame (s : State) (c h g : Nat) (v : Word) : s.changesFrame (s.writeReg c h g v) c h :=
  (s.setFrame_changesFrame c h _).trans (State.fillWaits_changesFrame _ c h g)

theorem State.frame_writeReg (s : State) (c h g : Nat) (v : Word) :
    (s.writeReg c h g v).frame c h = { (s.frame c h).setReg g v with writer := NMap.erase (s.frame c h).writer g } := by
  rw [State.writeReg, State.frame_fillWaits, State.updFrame, State.frame_setFrame_same]

theorem State.noteWrite_changesFrame (s : State) (c : Nat) (t : Train) (h g : Nat) : s.changesFrame (s.noteWrite c t h g) c h := by
  unfold State.noteWrite
  split
  next => exact s.setFrame_changesFrame c h _
  next => exact s.changesFrame_refl c h

/-- A noted write is noted, and changes nothing else. -/
theorem State.frame_noteWrite (s : State) (c : Nat) (t : Train) (h g : Nat) :
    (s.noteWrite c t h g).frame c h = { s.frame c h with wrote := ((s.noteWrite c t h g).frame c h).wrote } := by
  unfold State.noteWrite
  split
  next => rw [State.updFrame, State.frame_setFrame_same]
  next => rfl

/-- Whether a write is overtaken depends on what pipe 1 has noted in the frame alone. -/
theorem State.overtaken_congr {s s1 : State} {c h : Nat} (hw : (s1.frame c h).wrote = (s.frame c h).wrote) (t : Train) (g : Nat) :
    s1.overtaken c t h g = s.overtaken c t h g := by
  rw [State.overtaken, State.overtaken, hw]

/-- Only pipe 1 notes its writes, and only pipe 0 is overtaken. -/
theorem State.overtaken_noteWrite (s : State) (c : Nat) (t : Train) (h g k : Nat) :
    (s.noteWrite c t h g).overtaken c t h k = s.overtaken c t h k := by
  unfold State.noteWrite
  split
  next hp =>
    have h0 : (t.pipe == 0) = false := by simp [beq_iff_eq.mp hp]
    simp [State.overtaken, h0]
  next => rfl

section
variable (s : State) (c : Nat) (t : Train) (h g : Nat) (v : Word)

theorem State.issueWrite_of_overtaken {s : State} {c : Nat} {t : Train} {h g : Nat} (ho : s.overtaken c t h g = true) (v : Word) :
    s.issueWrite c t h g v = s := if_pos ho

theorem State.issueWrite_changesFrame : s.changesFrame (s.issueWrite c t h g v) c h := by
  unfold State.issueWrite
  split
  next => exact s.changesFrame_refl c h
  next => exact (s.writeReg_changesFrame c h g v).trans (State.noteWrite_changesFrame _ c t h g)

/-- A write that is not overtaken sets its register, which no earlier late write reaches any more, and is noted. -/
theorem State.frame_issueWrite {s : State} {c : Nat} {t : Train} {h g : Nat} (ho : s.overtaken c t h g = false) (v : Word) :
    (s.issueWrite c t h g v).frame c h = { (s.frame c h).setReg g v with
      writer := NMap.erase (s.frame c h).writer g, wrote := ((s.issueWrite c t h g v).frame c h).wrote } := by
  have hw : s.issueWrite c t h g v = (s.writeReg c h g v).noteWrite c t h g := by simp [State.issueWrite, ho]
  rw [hw, State.frame_noteWrite, State.frame_writeReg]

theorem State.reg_issueWrite (k : Nat) : ((s.issueWrite c t h g v).frame c h).reg k =
    if k = g ∧ s.overtaken c t h g = false then v else (s.frame c h).reg k := by
  cases ho : s.overtaken c t h g with
  | true => simp [State.issueWrite_of_overtaken ho]
  | false =>
    rw [State.frame_issueWrite ho]
    exact ((s.frame c h).reg_setReg g v k).trans (by simp)

theorem State.full_issueWrite (k : Nat) : ((s.issueWrite c t h g v).frame c h).full k =
    if k = g ∧ s.overtaken c t h g = false then true else (s.frame c h).full k := by
  cases ho : s.overtaken c t h g with
  | true => simp [State.issueWrite_of_overtaken ho]
  | false =>
    rw [State.frame_issueWrite ho]
    exact ((s.frame c h).full_setReg g v k).trans (by simp)

theorem State.binds_issueWrite : ((s.issueWrite c t h g v).frame c h).binds = (s.frame c h).binds := by
  cases ho : s.overtaken c t h g with
  | true => rw [State.issueWrite_of_overtaken ho]
  | false => rw [State.frame_issueWrite ho]; rfl

theorem State.mode_issueWrite : ((s.issueWrite c t h g v).frame c h).mode = (s.frame c h).mode := by
  cases ho : s.overtaken c t h g with
  | true => rw [State.issueWrite_of_overtaken ho]
  | false => rw [State.frame_issueWrite ho]; rfl

/-- A write of an instruction overtakes no write of the same instruction. -/
theorem State.overtaken_issueWrite (k : Nat) : (s.issueWrite c t h g v).overtaken c t h k = s.overtaken c t h k := by
  unfold State.issueWrite
  split
  next => rfl
  next =>
    rw [State.overtaken_noteWrite]
    exact State.overtaken_congr (by rw [State.frame_writeReg]; rfl) t k

end

/-! ## Writes to registers of frames without bindings (R204) -/

/-- A write to a register that no binding depends on is prepared without a replay; a write that is not the recipe's own makes the register plain. -/
theorem State.prepWrite_noDependants {s : State} {c : Nat} {f : Frame} {g : Nat} (hd : s.dependants c f g = []) (h : Nat)
    (failed : List (Nat × Nat)) (own : Bool) : s.prepWrite c h failed f g own =
      .ok (if own then f else { f with binds := f.binds.filter (fun b => b.reg != g) }) 0 := by
  have hall : f.binds.filter (fun _ => true) = f.binds := List.filter_eq_self.mpr (fun _ _ => rfl)
  simp [State.prepWrite, hd, State.materialiseAll, hall]

/-- In a frame without bindings a write needs no preparation. -/
theorem State.prepWrite_unbound {f : Frame} (hb : f.binds = []) (s : State) (c h : Nat) (failed : List (Nat × Nat)) (g : Nat) (own : Bool) :
    s.prepWrite c h failed f g own = .ok f 0 := by
  have hd : s.dependants c f g = [] := by rw [State.dependants, hb, List.filter_nil]
  have hf : ({ f with binds := [] } : Frame) = f := by rw [← hb]
  rw [State.prepWrite_noDependants hd, hb, List.filter_nil, hf, ite_self]

theorem State.prepWrites_unbound {f : Frame} (hb : f.binds = []) (s : State) (c h : Nat) (failed : List (Nat × Nat)) (gs : List Nat) :
    s.prepWrites c h failed f gs = .ok f 0 := by
  induction gs with
  | nil => rfl
  | cons g gs ih => rw [State.prepWrites, State.prepWrite_unbound hb]; dsimp only; rw [ih]; rfl

/-! ## A train that retires behind changes of one frame -/

theorem State.retireUid_found {s : State} {c uid : Nat} {t : Train} (h : (s.core c).train? uid = some t) :
    s.retireUid c uid = s.putTrain c t.retired := by
  rw [State.retireUid, h]
  rfl

theorem State.trains_putTrain (s : State) (c : Nat) (t : Train) : ((s.putTrain c t).core c).trains = ((s.core c).setTrain t).trains := by
  rw [State.putTrain, State.core_updCore_same]

section
variable {s s1 : State} {t : Train} {h : Nat}

/-- A train put back as it stands behind a change of one frame retires its instruction there. -/
theorem Issuing.retires_behind (ht : Issuing s t) (h1 : s.changesFrame s1 s.cur.1 h) :
    (s1.putTrain s.cur.1 t).retireUid s.cur.1 t.uid = s1.putTrain s.cur.1 t.retired := ht.retireUid_putTrain h1.trains

theorem State.changesFrame.stands (h1 : s.changesFrame s1 s.cur.1 h) (u : Train) : s.stands (s1.putTrain s.cur.1 u) u := by
  rw [State.stands, State.trains_putTrain, Core.setTrain, Core.setTrain, h1.trains]

end

end Sys2Proof.Machine
end

section
namespace Sys2Proof.Machine

/-!
# O11: write entries

The writes of one seat to the registers of its write entries are a fold, of which every register keeps the word or what it held; the words delivered
to the targets stand in the train beside it.
-/

/-- One word written to several registers of a frame in the issue cycle (R192). -/
def State.issueWrites (s : State) (c : Nat) (t : Train) (h : Nat) (v : Word) (gs : List Nat) : State :=
  gs.foldl (fun st g => st.issueWrite c t h g v) s

section
variable (s : State) (c : Nat) (t : Train) (h : Nat) (v : Word) (gs : List Nat)

theorem State.issueWrites_changesFrame : s.changesFrame (s.issueWrites c t h v gs) c h :=
  List.foldlRecOn (motive := fun st => s.changesFrame st c h) gs _ (s.changesFrame_refl c h)
    (fun st hst g _ => hst.trans (st.issueWrite_changesFrame c t h g v))

theorem State.reg_issueWrites (k : Nat) : ((s.issueWrites c t h v gs).frame c h).reg k =
    if k ∈ gs ∧ s.overtaken c t h k = false then v else (s.frame c h).reg k := by
  induction gs generalizing s with
  | nil => simp [State.issueWrites]
  | cons g gs ih =>
    refine (ih (s.issueWrite c t h g v)).trans ?_
    rw [State.overtaken_issueWrite, State.reg_issueWrite]
    by_cases hk : k = g
    · subst hk
      cases s.overtaken c t h k <;> simp
    · simp [hk]

theorem State.full_issueWrites (k : Nat) : ((s.issueWrites c t h v gs).frame c h).full k =
    if k ∈ gs ∧ s.overtaken c t h k = false then true else (s.frame c h).full k := by
  induction gs generalizing s with
  | nil => simp [State.issueWrites]
  | cons g gs ih =>
    refine (ih (s.issueWrite c t h g v)).trans ?_
    rw [State.overtaken_issueWrite, State.full_issueWrite]
    by_cases hk : k = g
    · subst hk
      cases s.overtaken c t h k <;> simp
    · simp [hk]

end

section
variable {s : State} {c : Nat} {t : Train} {x : Seat}

/-- The write entries of one seat of a frame without bindings name registers that it has: the instruction goes on, its frame as it was. -/
theorem State.prepare_unbound (hx : t.seats = [x]) (hb : (s.frame c x.inst.handle).binds = [])
    (hregs : ∀ g ∈ t.writeRegs, g < (s.frame c x.inst.handle).carryCount) :
    ∃ s1, s.prepare c t = .go s1 t ∧ s.changesFrame s1 c x.inst.handle ∧ s1.frame c x.inst.handle = s.frame c x.inst.handle := by
  by_cases hw : t.writeRegs.isEmpty = true
  · exact ⟨s, if_pos hw, s.changesFrame_refl c _, rfl⟩
  · have hnone : t.writeRegs.find? (fun g => decide ((s.frame c x.inst.handle).carryCount ≤ g)) = none :=
      List.find?_eq_none.mpr (fun g hg => by simpa using hregs g hg)
    refine ⟨s.setFrame c x.inst.handle (s.frame c x.inst.handle), ?_, s.setFrame_changesFrame c _ _, s.frame_setFrame_same c _ _⟩
    simp only [State.prepare, hw, hx, State.prepSeats, hnone, State.prepWrites_unbound hb, Bool.false_eq_true, if_false]
    rfl

end

@[simp] theorem Train.deliverAll_uid (t : Train) (n : Nat) (targets : List Nat) (v : Word) : (t.deliverAll n targets v).uid = t.uid := by
  rw [t.deliverAll_eq n targets v]

@[simp] theorem Train.deliverAll_pc (t : Train) (n : Nat) (targets : List Nat) (v : Word) : (t.deliverAll n targets v).pc = t.pc := by
  rw [t.deliverAll_eq n targets v]

/-- The state behind a word without flags for one seat: in its targets, in the registers of its write entries, and the train retired. -/
def State.wordDone (s : State) (c : Nat) (t : Train) (targets : List Nat) (x : Seat) (v : Word) : State :=
  ((s.putTrain c (t.deliverAll x.n targets v)).issueWrites c t x.inst.handle v t.writeRegs).putTrain c
    (t.deliverAll x.n targets v).retired

section
variable {s : State} {c : Nat} {t : Train} (targets : List Nat) (x : Seat) (v : Word)

/-- The train that stands behind its writes, before it retires. -/
theorem State.train?_issueWrites (ht : (s.core c).train? t.uid = some t) :
    (((s.putTrain c (t.deliverAll x.n targets v)).issueWrites c t x.inst.handle v t.writeRegs).core c).train? t.uid =
      some (t.deliverAll x.n targets v) := by
  rw [(State.issueWrites_changesFrame _ c t x.inst.handle v t.writeRegs).train?, State.putTrain, State.core_updCore_same]
  exact Core.train?_setTrain ht (t.deliverAll_uid x.n targets v)

theorem State.finishLanes_one_writes (ht : (s.core c).train? t.uid = some t) :
    s.finishLanes c t targets [(x, ⟨v, 0⟩)] = s.wordDone c t targets x v := by
  have hsort : seatsByTag s c [x] = [x] := rfl
  rw [State.wordDone, ← State.retireUid_found (State.train?_issueWrites targets x v ht)]
  by_cases hw : t.writeRegs = []
  · simp [State.finishLanes, hw, Train.deliverAll, State.issueWrites]
  · simp [State.finishLanes, hw, hsort, Train.deliverAll, State.issueWrites]

theorem State.train?_wordDone (ht : (s.core c).train? t.uid = some t) :
    ((s.wordDone c t targets x v).core c).train? t.uid = some (t.deliverAll x.n targets v).retired := by
  have huid : (t.deliverAll x.n targets v).uid = t.uid := t.deliverAll_uid x.n targets v
  have hfound := State.train?_issueWrites targets x v ht
  rw [← huid] at hfound ⊢
  rw [State.wordDone, State.putTrain, State.core_updCore_same]
  exact Core.train?_setTrain hfound rfl

theorem State.reg_wordDone (k : Nat) : ((s.wordDone c t targets x v).frame c x.inst.handle).reg k =
    if k ∈ t.writeRegs ∧ s.overtaken c t x.inst.handle k = false then v else (s.frame c x.inst.handle).reg k := by
  rw [State.wordDone, State.frame_putTrain, State.reg_issueWrites, State.frame_putTrain,
    State.overtaken_congr (congrArg Frame.wrote (State.frame_putTrain ..))]

theorem State.full_wordDone (k : Nat) : ((s.wordDone c t targets x v).frame c x.inst.handle).full k =
    if k ∈ t.writeRegs ∧ s.overtaken c t x.inst.handle k = false then true else (s.frame c x.inst.handle).full k := by
  rw [State.wordDone, State.frame_putTrain, State.full_issueWrites, State.frame_putTrain,
    State.overtaken_congr (congrArg Frame.wrote (State.frame_putTrain ..))]

end

/-- Settles O11: of a lane instruction of one seat the word goes to the targets, and to each register of a write entry unless pipe 1 has
written it in the cycle. -/
theorem writeEntryTakesTheResult : Obligations.WriteEntryTakesTheResult := by
  unfold Obligations.WriteEntryTakesTheResult
  intro s t x i a b f ht hx hi hb hregs
  have hcur : (s.core s.cur.1).train? s.cur.2 = some t := ht
  obtain ⟨s1, hprep, hs1, hframe⟩ := State.prepare_unbound hx hb hregs
  have hfound : (s1.core s.cur.1).train? t.uid = some t := by rw [hs1.train?, Core.train?_uid hcur, hcur]
  have hexec : exec i s = .next (s1.wordDone s.cur.1 t [a.toNat, b.toNat] x (f (s.seatIn s.cur.1 t x))) := by
    rw [exec_intWord hi, laneInstr, laneNow, withTrain_some s t _ ht, hprep, ← State.finishLanes_one_writes _ x _ hfound]
    dsimp only
    rw [hx]
    rfl
  refine ⟨_, _, hexec, State.train?_wordDone _ x _ hfound, ?_, fun g hg h4 => t.slots_deliverAll_same x.n _ hg h4, fun g hg => ?_⟩
  · exact congrArg (· + 1) (t.deliverAll_pc x.n _ _)
  · rw [State.reg_wordDone, State.full_wordDone, hframe, State.overtaken_congr (congrArg Frame.wrote hframe)]
    cases s.overtaken s.cur.1 t x.inst.handle g <;> simp [hg]

end Sys2Proof.Machine
end

section
namespace Sys2Proof.Machine

/-!
# O31: carried registers by index

`gstx` and `gempty` act in the frame of their seat at once; `gldx` issues a late result, or a wait for the register. One seat acts on the state as it
is, and its train retires behind what the seat has done.
-/

/-! ## One seat of an instruction without a result -/

theorem State.eachSeat_one {s s1 : State} {c : Nat} {t : Train} {f : State → Seat → SeatRes} {x : Seat} {o : LaneOut}
    (hf : f s x = .done s1 o) : s.eachSeat c t f [x] [] [] [] = (s1, t, [(x, o)], []) := by
  rw [State.eachSeat, hf]
  rfl

section
variable {s : State} {t : Train} {x : Seat}

theorem writeInstr_one {s1 : State} {f : Nat → Train → State → Seat → SeatRes} {o : LaneOut} (ht : Issuing s t) (hx : t.seats = [x])
    (hf : f s.cur.1 t s x = .done s1 o) (h1 : s.changesFrame s1 s.cur.1 x.inst.handle) :
    writeInstr s f = .next (s1.putTrain s.cur.1 t.retired) := by
  have hsort : seatsByTag s s.cur.1 t.seats = [x] := by rw [hx]; rfl
  rw [writeInstr, withTrain_some s t _ ht.current, hsort, State.eachSeat_one hf, ← ht.retires_behind h1]
  rfl

/-- The register that L names, below CARRY_COUNT (R194). -/
theorem carryIdx_some {c : Nat} (hg : (t.slot x.n t.pc .l).toNat < (s.frame c x.inst.handle).carryCount) :
    carryIdx s c t x = some (t.slot x.n t.pc .l).toNat := if_pos hg

/-- The state in which an indexed write of a seat is made in a frame without bindings: the frame prepared as it was. -/
def State.seatPrepared (s : State) (c : Nat) (x : Seat) : State := s.setFrame c x.inst.handle (s.frame c x.inst.handle)

theorem State.seatPrepared_changesFrame (s : State) (c : Nat) (x : Seat) : s.changesFrame (s.seatPrepared c x) c x.inst.handle :=
  s.setFrame_changesFrame c _ _

@[simp] theorem State.frame_seatPrepared (s : State) (c : Nat) (x : Seat) :
    (s.seatPrepared c x).frame c x.inst.handle = s.frame c x.inst.handle := s.frame_setFrame_same c _ _

@[simp] theorem State.overtaken_seatPrepared (s : State) (c : Nat) (t : Train) (x : Seat) (g : Nat) :
    (s.seatPrepared c x).overtaken c t x.inst.handle g = s.overtaken c t x.inst.handle g :=
  State.overtaken_congr (congrArg Frame.wrote (s.frame_seatPrepared c x)) t g

theorem indexedWrite_unbound {c : Nat} (hg : (t.slot x.n t.pc .l).toNat < (s.frame c x.inst.handle).carryCount)
    (hb : (s.frame c x.inst.handle).binds = []) (w : State → Seat → Nat → State) :
    indexedWrite c t w s x = .done (w (s.seatPrepared c x) x (t.slot x.n t.pc .l).toNat) ⟨0, 0⟩ := by
  rw [indexedWrite, carryIdx_some hg]
  dsimp only
  rw [State.prepWrite_unbound hb]
  rfl

end

/-! ## gempty (R195) -/

section
variable (s : State) (c : Nat) (t : Train) (h g : Nat)

theorem State.emptyReg_changesFrame : s.changesFrame (s.emptyReg c t h g) c h := by
  unfold State.emptyReg
  split
  next => exact s.changesFrame_refl c h
  next =>
    exact ((s.draw_changesFrame c h).trans (State.setFrame_changesFrame _ c h _)).trans (State.noteWrite_changesFrame _ c t h g)

/-- An emptied register holds a free value, which no earlier late write reaches any more. -/
theorem State.frame_emptyReg {s : State} {c : Nat} {t : Train} {h g : Nat} (ho : s.overtaken c t h g = false) :
    (s.emptyReg c t h g).frame c h =
      { ({ s.frame c h with
          regs := NMap.set (s.frame c h).regs g (Config.freeWord s.freeCtr), writer := NMap.erase (s.frame c h).writer g } : Frame).empty g with
        wrote := ((s.emptyReg c t h g).frame c h).wrote } := by
  unfold State.emptyReg
  simp only [ho, Bool.false_eq_true, if_false]
  rw [State.frame_noteWrite, State.updFrame, State.frame_setFrame_same]
  rfl

/-- `gempty` leaves the value of every other register; what it leaves in its own is free (log 12). -/
theorem State.reg_emptyReg_ne {k : Nat} (hk : k ≠ g) : ((s.emptyReg c t h g).frame c h).reg k = (s.frame c h).reg k := by
  cases ho : s.overtaken c t h g with
  | true => rw [State.emptyReg, if_pos ho]
  | false =>
    rw [State.frame_emptyReg ho]
    exact NMap.getD_set_ne _ g k _ _ hk

theorem State.full_emptyReg (k : Nat) : ((s.emptyReg c t h g).frame c h).full k =
    if k = g ∧ s.overtaken c t h g = false then false else (s.frame c h).full k := by
  cases ho : s.overtaken c t h g with
  | true => simp [State.emptyReg, ho]
  | false =>
    rw [State.frame_emptyReg ho]
    exact (Frame.full_empty _ g k).trans (by simp [Frame.full])

end

/-! ## A late result of one seat -/

/-- What an instruction comes to that issues one seat's late result behind a change s1 of one frame: the train stands behind it, the result is on its
way, and frames and memory are as in s1. -/
structure State.lateBehind (s s1 s' : State) (t u : Train) (x : Seat) (vals : List (Nat × Word)) (fl : Flags) (wbit path : Nat) : Prop where
  train : u = { t.retired with pend := u.pend }
  stands : s.stands s' u
  result : s.lateFor s' t u x vals fl wbit path
  mem : s'.mem = s1.mem
  frames : ∀ j, s'.frame s.cur.1 j = s1.frame s.cur.1 j

theorem State.issueLate_behind {s s1 s2 : State} {t u : Train} {h : Nat} (ht : Issuing s t) (h1 : s.changesFrame s1 s.cur.1 h) {x : Seat}
    {targets : List Nat} {vals : List (Nat × Word)} (hvals : ∀ w ∈ vals, w.1 ∈ targets) {v : Word} {fl : Flags} {wbit path : Nat}
    {kind : LateKind} (h2 : s1.issueLate s.cur.1 t x targets vals v fl wbit path kind = (s2, u)) :
    s.lateBehind s1 ((s2.putTrain s.cur.1 u).retireUid s.cur.1 t.uid) t u.retired x vals fl wbit path := by
  rw [State.issueLate_noEntry s1 s.cur.1 ht.noEntry, Prod.mk.injEq] at h2
  obtain ⟨hs2, rfl⟩ := h2
  have hk : s2.core s.cur.1 = (s1.core s.cur.1).withLate (s1.lateOf s.cur.1 t x vals v fl kind)
      ⟨t.uid, wbit, path, (s1.core s.cur.1).ops + 1⟩ := by
    rw [← hs2]
    exact State.core_updCore_same _ _ _
  have htrains : (s2.core s.cur.1).trains = (s.core s.cur.1).trains := by rw [hk, ← h1.trains]; rfl
  have hframes : ∀ j, s2.frame s.cur.1 j = s1.frame s.cur.1 j := by
    rw [← hs2]
    exact (State.updCore_keepsFrames s1.draw.2 s.cur.1 rfl).2 s.cur.1
  have hlate : s.lateFor s2 t (t.pendAll x.n targets ((s1.core s.cur.1).ops + 1)) x vals fl wbit path :=
    State.lateFor_withLate (State.sameOutside_cyc h1.same.1) rfl (Nat.le_of_eq h1.ops.symm) hvals hk
  rw [State.retireUid_putTrain (t := t) (by rw [← ht.found, Core.train?, Core.train?, htrains])
    (by rw [t.pendAll_eq x.n targets _])]
  refine ⟨congrArg Train.retired (t.pendAll_eq x.n targets _), ?_, ?_, by rw [← hs2]; rfl, fun j => ?_⟩
  · rw [State.stands, State.trains_putTrain, Core.setTrain, Core.setTrain, htrains]
  · refine State.lateFor_mono hlate ?_ ?_ (List.Subset.refl _)
    · rw [State.putTrain, State.core_updCore_same]
      exact List.Subset.refl _
    · rw [State.putTrain, State.core_updCore_same]
      exact List.Subset.refl _
  · rw [State.frame_putTrain, hframes]

/-! ## gldx (R191, R195) -/

/-- A full register of a frame without bindings reads as it stands, where its granule has no uncorrectable error (R129). -/
theorem State.readReg_full {s : State} {c h g : Nat} (hb : (s.frame c h).binds = []) (hfull : (s.frame c h).full g = true)
    (herr : (s.core c).regErr (s.frame c h) g = false) : s.readReg c h g = .val ((s.frame c h).reg g) (s.frame c h) 0 := by
  simp [State.readReg, hfull, Frame.binding?_of_unbound hb, herr]

theorem State.readReg_empty {s : State} {c h g : Nat} (hfull : (s.frame c h).full g = false) : s.readReg c h g = .wait none := by
  simp [State.readReg, hfull]

section
variable {s : State} {t : Train} {x : Seat}

/-- `gldx` of one seat whose register is read without a fault comes to what the seat does. -/
theorem execGldx_one {s2 : State} {u : Train} {a b : BitVec 8} (ht : Issuing s t) (hx : t.seats = [x])
    (hg : (t.slot x.n t.pc .l).toNat < (s.frame s.cur.1 x.inst.handle).carryCount)
    (hfault : ∀ d, s.readReg s.cur.1 x.inst.handle (t.slot x.n t.pc .l).toNat ≠ .fault d)
    (herr : s.readReg s.cur.1 x.inst.handle (t.slot x.n t.pc .l).toNat ≠ .err)
    (hseat : s.gldxSeat s.cur.1 t x (t.slot x.n t.pc .l).toNat [a.toNat, b.toNat] = (s2, u)) :
    execGldx a b s = .next ((s2.putTrain s.cur.1 u).retireUid s.cur.1 t.uid) := by
  have hsort : seatsByTag s s.cur.1 t.seats = [x] := by rw [hx]; rfl
  have hidx := carryIdx_some hg
  rw [execGldx, withTrain_some s t _ ht.current, State.prepare_noEntry s s.cur.1 t ht.noEntry]
  dsimp only
  rw [hsort, State.eachSeat_one (s1 := s) (o := ⟨0, 0⟩)]
  · simp only [List.map_cons, List.map_nil, List.foldl_cons, List.foldl_nil, hidx, hseat]
  · rw [hidx]
    dsimp only
    cases hr : s.readReg s.cur.1 x.inst.handle (t.slot x.n t.pc .l).toNat with
    | val v f n => rfl
    | wait r => rfl
    | fault d => exact absurd hr (hfault d)
    | err => exact absurd hr herr

theorem State.gldxSeat_full {s : State} {c g : Nat} {t : Train} {x : Seat} {v : Word} {f : Frame} {n : Nat}
    (hr : s.readReg c x.inst.handle g = .val v f n) (targets : List Nat) : s.gldxSeat c t x g targets =
      (s.setPrepared c x.inst.handle f n).issueLate c t x targets (targets.map (fun b => (b, v))) v 0 0 6 .own := by
  rw [State.gldxSeat, hr]

/-- The wait of a seat's `gldx` for an empty register (R191). -/
def gldxWait (t : Train) (x : Seat) (g : Nat) (targets : List Nat) (op : Nat) : RegWait :=
  ⟨x.inst.handle, g, t.uid, x.n, t.pc, none, targets, [], op⟩

/-- What a core has when a seat's `gldx` has begun to wait: its operation outstanding, its wait behind the others. -/
def Core.withGldxWait (t : Train) (x : Seat) (g : Nat) (targets : List Nat) (k : Core) : Core :=
  { k with
    ops := k.ops + 1, regWaits := k.regWaits ++ [gldxWait t x g targets (k.ops + 1)], outst := k.outst ++ [⟨t.uid, 0, 6, k.ops + 1⟩] }

theorem State.gldxSeat_empty {s : State} {c g : Nat} {t : Train} {x : Seat} (hw : t.writeRegs = [])
    (hr : s.readReg c x.inst.handle g = .wait none) (targets : List Nat) : s.gldxSeat c t x g targets =
      (s.updCore c (Core.withGldxWait t x g targets), t.pendAll x.n targets ((s.core c).ops + 1)) := by
  have hop : s.newOp c = ((s.core c).ops + 1, s.updCore c (fun k => { k with ops := k.ops + 1 })) := rfl
  rw [State.gldxSeat, hr, hw]
  simp only [hop, State.startOp, State.updCore_updCore, List.foldl_nil]
  rfl

end

/-! ## O31 -/

/-- Memory, every frame of a core but h, and every register of h but g are as they were. -/
def State.keepsOtherRegs (s s' : State) (c h g : Nat) : Prop :=
  s'.mem = s.mem ∧ (∀ j, j ≠ h → s'.frame c j = s.frame c j) ∧
    ∀ k, k ≠ g → (s'.frame c h).reg k = (s.frame c h).reg k ∧ (s'.frame c h).full k = (s.frame c h).full k

theorem State.changesFrame.keepsOtherRegs {s s1 : State} {c h g : Nat} (h1 : s.changesFrame s1 c h)
    (hregs : ∀ k, k ≠ g → (s1.frame c h).reg k = (s.frame c h).reg k ∧ (s1.frame c h).full k = (s.frame c h).full k) (u : Train) :
    s.keepsOtherRegs (s1.putTrain c u) c h g := by
  refine ⟨h1.mem, fun j hj => ?_, fun k hk => ?_⟩
  · rw [State.frame_putTrain, h1.frames j hj]
  · rw [State.frame_putTrain]
    exact hregs k hk

section
variable {s : State} {t : Train} {x : Seat}

/-- `gstx` writes R to its register and fills it, unless pipe 1 has written it in the cycle. -/
theorem execGstx_one (ht : Issuing s t) (hx : t.seats = [x]) {g : Nat} (hL : (t.slot x.n t.pc .l).toNat = g)
    (hg : g < (s.frame s.cur.1 x.inst.handle).carryCount) (hb : (s.frame s.cur.1 x.inst.handle).binds = []) :
    ∃ s', execGstx s = .next s' ∧ s.stands s' t.retired ∧ s.keepsOtherRegs s' s.cur.1 x.inst.handle g ∧
      (s'.frame s.cur.1 x.inst.handle).reg g = (if s.overtaken s.cur.1 t x.inst.handle g then (s.frame s.cur.1 x.inst.handle).reg g
        else t.slot x.n t.pc .r) ∧
      (s'.frame s.cur.1 x.inst.handle).full g = (if s.overtaken s.cur.1 t x.inst.handle g then (s.frame s.cur.1 x.inst.handle).full g
        else true) := by
  subst hL
  have h1 := (s.seatPrepared_changesFrame s.cur.1 x).trans
    (State.issueWrite_changesFrame _ s.cur.1 t x.inst.handle (t.slot x.n t.pc .l).toNat (t.slot x.n t.pc .r))
  refine ⟨_, writeInstr_one ht hx (indexedWrite_unbound hg hb _) h1, h1.stands _, h1.keepsOtherRegs (fun k hk => ?_) _, ?_, ?_⟩
  · simp [State.reg_issueWrite, State.full_issueWrite, hk]
  · rw [State.frame_putTrain, State.reg_issueWrite, State.overtaken_seatPrepared, State.frame_seatPrepared]
    cases s.overtaken s.cur.1 t x.inst.handle (t.slot x.n t.pc .l).toNat <;> simp
  · rw [State.frame_putTrain, State.full_issueWrite, State.overtaken_seatPrepared, State.frame_seatPrepared]
    cases s.overtaken s.cur.1 t x.inst.handle (t.slot x.n t.pc .l).toNat <;> simp

/-- `gempty` leaves its register empty, unless pipe 1 has written it in the cycle. -/
theorem execGempty_one (ht : Issuing s t) (hx : t.seats = [x]) {g : Nat} (hL : (t.slot x.n t.pc .l).toNat = g)
    (hg : g < (s.frame s.cur.1 x.inst.handle).carryCount) (hb : (s.frame s.cur.1 x.inst.handle).binds = []) :
    ∃ s', execGempty s = .next s' ∧ s.stands s' t.retired ∧ s.keepsOtherRegs s' s.cur.1 x.inst.handle g ∧
      (s'.frame s.cur.1 x.inst.handle).full g = (if s.overtaken s.cur.1 t x.inst.handle g then (s.frame s.cur.1 x.inst.handle).full g
        else false) := by
  subst hL
  have h1 := (s.seatPrepared_changesFrame s.cur.1 x).trans
    (State.emptyReg_changesFrame _ s.cur.1 t x.inst.handle (t.slot x.n t.pc .l).toNat)
  refine ⟨_, writeInstr_one ht hx (indexedWrite_unbound hg hb _) h1, h1.stands _, h1.keepsOtherRegs (fun k hk => ?_) _, ?_⟩
  · simp [State.reg_emptyReg_ne _ _ _ _ _ hk, State.full_emptyReg, hk]
  · rw [State.frame_putTrain, State.full_emptyReg, State.overtaken_seatPrepared, State.frame_seatPrepared]
    cases s.overtaken s.cur.1 t x.inst.handle (t.slot x.n t.pc .l).toNat <;> simp

/-- `gldx` of a full register gives its seat the value, late. -/
theorem execGldx_full (ht : Issuing s t) (hx : t.seats = [x]) {g : Nat} (hL : (t.slot x.n t.pc .l).toNat = g)
    (hg : g < (s.frame s.cur.1 x.inst.handle).carryCount) (hb : (s.frame s.cur.1 x.inst.handle).binds = [])
    (hfull : (s.frame s.cur.1 x.inst.handle).full g = true) (herr : (s.core s.cur.1).regErr (s.frame s.cur.1 x.inst.handle) g = false)
    (a b : BitVec 8) :
    ∃ s', execGldx a b s = .next s' ∧ s'.mem = s.mem ∧ (∀ j, s'.frame s.cur.1 j = s.frame s.cur.1 j) ∧
      s.givesLate s' t x [(a.toNat, (s.frame s.cur.1 x.inst.handle).reg g), (b.toNat, (s.frame s.cur.1 x.inst.handle).reg g)] 0 6 := by
  subst hL
  have hread := State.readReg_full hb hfull herr
  have h1 := s.seatPrepared_changesFrame s.cur.1 x
  obtain ⟨s2, u, h2⟩ : ∃ s2 u, s.gldxSeat s.cur.1 t x (t.slot x.n t.pc .l).toNat [a.toNat, b.toNat] = (s2, u) := ⟨_, _, rfl⟩
  have hlate := State.issueLate_behind ht h1 (by simp) ((State.gldxSeat_full hread _).symm.trans h2)
  refine ⟨_, execGldx_one ht hx hg (by simp [hread]) (by simp [hread]) h2, hlate.mem.trans h1.mem, fun j => ?_,
    _, hlate.train, hlate.stands, hlate.result⟩
  rw [hlate.frames]
  by_cases hj : j = x.inst.handle
  · rw [hj, State.frame_seatPrepared]
  · exact h1.frames j hj

/-- `gldx` of an empty register leaves its targets pending on a wait for it. -/
theorem execGldx_empty (ht : Issuing s t) (hx : t.seats = [x]) {g : Nat} (hL : (t.slot x.n t.pc .l).toNat = g)
    (hg : g < (s.frame s.cur.1 x.inst.handle).carryCount) (hempty : (s.frame s.cur.1 x.inst.handle).full g = false) (a b : BitVec 8) :
    ∃ s' u op, execGldx a b s = .next s' ∧ s'.mem = s.mem ∧ (∀ j, s'.frame s.cur.1 j = s.frame s.cur.1 j) ∧
      u = { t.retired with pend := u.pend } ∧ s.stands s' u ∧ s.opens s' t 0 6 op ∧
      (s'.core s.cur.1).regWaits = (s.core s.cur.1).regWaits ++ [gldxWait t x g [a.toNat, b.toNat] op] ∧
      ∀ v ∈ [a.toNat, b.toNat], 4 ≤ v → (x.n * 256 + v, op) ∈ u.pend := by
  subst hL
  have hread := State.readReg_empty hempty
  have hseat := State.gldxSeat_empty ht.noEntry hread [a.toNat, b.toNat]
  have hu := t.pendAll_eq x.n [a.toNat, b.toNat] ((s.core s.cur.1).ops + 1)
  have hexec := execGldx_one ht hx hg (by simp [hread]) (by simp [hread]) hseat
  rw [State.retireUid_putTrain (t := t) (by rw [State.core_updCore_same]; exact ht.found) (by rw [hu])] at hexec
  refine ⟨_, _, _, hexec, rfl, fun j => ?_, congrArg Train.retired hu, ?_, ⟨Nat.lt_succ_self _, ?_⟩, ?_,
    fun v hv h4 => t.mem_pendAll x.n _ hv h4⟩
  · rw [State.frame_putTrain]
    exact (s.updCore_keepsFrames s.cur.1 rfl).2 s.cur.1 j
  · rw [State.stands, State.trains_putTrain, State.core_updCore_same]
    rfl
  · rw [State.putTrain, State.core_updCore_same, State.core_updCore_same]
    exact List.mem_append_right _ (List.mem_singleton_self _)
  · rw [State.putTrain, State.core_updCore_same, State.core_updCore_same]
    rfl

end

/-- Settles O31: gstx and gempty are one indexed write each, behind which the train retires; gldx of a full register is one late result, of an
empty one a wait. -/
theorem carriedRegistersByIndex : Obligations.CarriedRegistersByIndex := by
  unfold Obligations.CarriedRegistersByIndex
  intro s t x ht hx c h f g others hg hb
  refine ⟨execGstx_one ht hx rfl hg hb, execGempty_one ht hx rfl hg hb, fun a b => ⟨fun hfull herr => ?_, fun hempty => ?_⟩⟩
  · obtain ⟨s', hexec, hmem, hframes, hlate⟩ := execGldx_full ht hx rfl hg hb hfull herr a b
    have hframe := hframes h
    refine ⟨s', hexec, ⟨hmem, fun j _ => hframes j, fun k _ => ?_⟩, ?_, ?_, hlate⟩
    · rw [hframe]
      exact ⟨rfl, rfl⟩
    · rw [hframe]
    · rw [hframe]
      exact hfull
  · obtain ⟨s', u, op, hexec, hmem, hframes, hwait⟩ := execGldx_empty ht hx rfl hg hempty a b
    have hframe := hframes h
    refine ⟨s', u, op, hexec, ⟨hmem, fun j _ => hframes j, fun k _ => ?_⟩, hwait⟩
    rw [hframe]
    exact ⟨rfl, rfl⟩

end Sys2Proof.Machine
end

section
namespace Sys2Proof.Machine

/-!
# O32: recipes bound, dropped and cleared

Each of the three acts once for the frame of its seat. `rcpset` of a frame without bindings passes every check, binds its register and writes the
value; a register that no binding depends on is cleared without a preparation, a dropped one behind its rebuilt value.
-/

/-! ## One frame of an instruction -/

theorem State.eachFrame_one {s s1 : State} {c : Nat} {t : Train} {f : State → Nat → FrameRes} {h : Nat} {o : LaneOut}
    (hf : f s h = .done s1 o) : s.eachFrame c t f [h] [] [] = .ok (s1, t, [(h, o)]) := by
  rw [State.eachFrame, hf]
  rfl

section
variable {s s1 : State} {t : Train} {x : Seat} {o : LaneOut}

/-- An instruction that acts by frames acts once for a train of one seat. -/
theorem frameInstr_one {f : Nat → Train → State → Nat → FrameRes} (ht : Issuing s t) (hx : t.seats = [x])
    (hf : f s.cur.1 t s x.inst.handle = .done s1 o) (fin : Nat → State → Train → List (Nat × LaneOut) → State) :
    frameInstr s f fin = .next (fin s.cur.1 s1 t [(x.inst.handle, o)]) := by
  have hhandles : t.handles = [x.inst.handle] := by rw [Train.handles, hx]; rfl
  rw [frameInstr, withTrain_some s t _ ht.current, State.prepare_noEntry s s.cur.1 t ht.noEntry]
  dsimp only
  rw [hhandles, State.eachFrame_one hf]

/-- One that has no result retires behind what it has done to the frame. -/
theorem frameInstr_one_retires {f : Nat → Train → State → Nat → FrameRes} (ht : Issuing s t) (hx : t.seats = [x])
    (hf : f s.cur.1 t s x.inst.handle = .done s1 o) (h1 : s.changesFrame s1 s.cur.1 x.inst.handle) :
    frameInstr s f (fun c st t _ => (st.putTrain c t).retireUid c t.uid) = .next (s1.putTrain s.cur.1 t.retired) := by
  rw [frameInstr_one ht hx hf, ht.retires_behind h1]

/-- Memory and every frame of a core but h are as they were. -/
def State.keepsOtherFrames (s s' : State) (c h : Nat) : Prop := s'.mem = s.mem ∧ ∀ j, j ≠ h → s'.frame c j = s.frame c j

theorem State.changesFrame.keepsOtherFrames {c h : Nat} (h1 : s.changesFrame s1 c h) (u : Train) :
    s.keepsOtherFrames (s1.putTrain c u) c h :=
  ⟨h1.mem, fun j hj => (State.frame_putTrain ..).trans (h1.frames j hj)⟩

end

/-! ## rcpset (R202) -/

/-- In a frame without bindings a recipe may be set on a register that is none of its sources. -/
theorem State.rcpCheck_unbound {f : Frame} (hb : f.binds = []) {srcs : List Nat} {g : Nat} (hg : g ∉ srcs) (s : State) (c : Nat) :
    s.rcpCheck c f g srcs = none := by
  have hplain : srcs.find? (fun k => (f.binding? k).isSome) = none :=
    List.find?_eq_none.mpr (fun k _ => by simp [Frame.binding?_of_unbound hb])
  simp [State.rcpCheck, hplain, State.dependants, hb, hg]

/-- What a recipe needs to be set on register g of a frame: its sources are other registers of the frame and full, and its operations need no feature
that is off. -/
structure State.rcpReady (s : State) (r : LaunchRef) (f : Frame) (body : List IWord) (g : Nat) : Prop where
  inRange : g < f.carryCount
  sources : ∀ k ∈ rcpSources body, k < f.carryCount ∧ f.full k = true ∧ k ≠ g
  features : s.recipeOff r body = false

/-- The bindings of a frame without bindings behind `rcpset`: the new one, unless the write of its register is overtaken (R193). -/
def State.rcpBinds (s : State) (c : Nat) (t : Train) (h : Nat) (b : Binding) : List Binding := if s.overtaken c t h b.reg then [] else [b]

/-- The state behind `rcpset` for a frame without bindings: the register bound, the value written. -/
def State.rcpDone (s : State) (c : Nat) (t : Train) (h : Nat) (b : Binding) (v : Word) : State :=
  (s.setFrame c h { s.frame c h with binds := s.rcpBinds c t h b }).issueWrite c t h b.reg v

section
variable (s : State) (c : Nat) (t : Train) (h : Nat) (b : Binding) (v : Word)

theorem State.rcpDone_changesFrame : s.changesFrame (s.rcpDone c t h b v) c h :=
  (s.setFrame_changesFrame c h _).trans (State.issueWrite_changesFrame _ c t h b.reg v)

theorem State.overtaken_rcpBinds (g : Nat) :
    (s.setFrame c h { s.frame c h with binds := s.rcpBinds c t h b }).overtaken c t h g = s.overtaken c t h g :=
  State.overtaken_congr (by rw [State.frame_setFrame_same]) t g

theorem State.reg_rcpDone (k : Nat) : ((s.rcpDone c t h b v).frame c h).reg k =
    if k = b.reg ∧ s.overtaken c t h b.reg = false then v else (s.frame c h).reg k := by
  rw [State.rcpDone, State.reg_issueWrite, State.overtaken_rcpBinds, State.frame_setFrame_same]
  rfl

theorem State.full_rcpDone (k : Nat) : ((s.rcpDone c t h b v).frame c h).full k =
    if k = b.reg ∧ s.overtaken c t h b.reg = false then true else (s.frame c h).full k := by
  rw [State.rcpDone, State.full_issueWrite, State.overtaken_rcpBinds, State.frame_setFrame_same]
  rfl

theorem State.binds_rcpDone : ((s.rcpDone c t h b v).frame c h).binds = s.rcpBinds c t h b := by
  rw [State.rcpDone, State.binds_issueWrite, State.frame_setFrame_same]

/-- The register holds the value and is bound, unless the write is overtaken. -/
theorem State.frame_rcpDone_bound :
    if s.overtaken c t h b.reg then ((s.rcpDone c t h b v).frame c h).reg b.reg = (s.frame c h).reg b.reg ∧
      ((s.rcpDone c t h b v).frame c h).full b.reg = (s.frame c h).full b.reg ∧ ((s.rcpDone c t h b v).frame c h).binds = []
    else ((s.rcpDone c t h b v).frame c h).reg b.reg = v ∧ ((s.rcpDone c t h b v).frame c h).full b.reg = true ∧
      ((s.rcpDone c t h b v).frame c h).binds = [b] := by
  rw [State.reg_rcpDone, State.full_rcpDone, State.binds_rcpDone, State.rcpBinds]
  cases s.overtaken c t h b.reg <;> simp

theorem State.mode_rcpDone : ((s.rcpDone c t h b v).frame c h).mode = (s.frame c h).mode := by
  rw [State.rcpDone, State.mode_issueWrite, State.frame_setFrame_same]

end

theorem State.rcpsetFrame_unbound {s : State} {c : Nat} {t : Train} {h rcp g : Nat} {body : List IWord} {v : Word} {fl : Flags}
    (hbody : ((s.core c).recipe? (s.frame c h).asid (s.frame c h).prog rcp).getD [] = body) (hb : (s.frame c h).binds = [])
    (hready : s.rcpReady t.launch (s.frame c h) body g)
    (heval : s.rcpEval c h t.failed (s.frame c h) body ((s.frame c h).mode &&& 0xF7#64) = .ok v fl) :
    s.rcpsetFrame c t rcp g h = .done (s.rcpDone c t h ⟨g, rcp, false, (s.frame c h).mode &&& 0xF7#64, none⟩ v) ⟨v, fl⟩ := by
  obtain ⟨hg, hsrc, hoff⟩ := hready
  have hrange : (rcpSources body).find? (fun k => decide ((s.frame c h).carryCount ≤ k)) = none :=
    List.find?_eq_none.mpr (fun k hk => by simpa using (hsrc k hk).1)
  have hfull : (rcpSources body).find? (fun k => !(s.frame c h).full k) = none :=
    List.find?_eq_none.mpr (fun k hk => by simp [(hsrc k hk).2.1])
  have hwait : (rcpSources body).any (fun k => !(s.frame c h).full k && (NMap.get? (s.frame c h).writer k).isSome) = false :=
    List.any_eq_false.mpr (fun k hk => by simp [(hsrc k hk).2.1])
  have hcheck := State.rcpCheck_unbound hb (fun hmem => (hsrc g hmem).2.2 rfl) s c
  simp only [State.rcpsetFrame, hbody, if_neg (Nat.not_le.mpr hg), hrange, hcheck, hwait, hfull, hoff, heval,
    State.prepWrite_unbound hb, hb, List.filter_nil, List.nil_append, Bool.false_eq_true, if_false]
  rfl

/-- The late results of one seat. -/
theorem State.issueLates_one (s : State) (c : Nat) (t : Train) (targets : List Nat) (wbit path : Nat) (kind : LateKind) (x : Seat) (o : LaneOut) :
    s.issueLates c t targets wbit path kind [(x, o)] =
      (let r := s.issueLate c t x targets (targets.map (fun g => (g, o.val))) o.val o.fl wbit path kind
       (r.1.putTrain c r.2).retireUid c t.uid) := by
  have hsort : seatsByTag s c ([(x, o)].map (fun p => p.1)) = [x] := rfl
  rw [State.issueLates, hsort]
  simp

section
variable {s : State} {t : Train} {x : Seat}

/-- `rcpset` in a frame without bindings binds and writes its register, and gives the value late. -/
theorem execRcpset_unbound {a r : BitVec 8} {g : BitVec 7} {body : List IWord} {v : Word} {fl : Flags} {f : Frame} (ht : Issuing s t)
    (hx : t.seats = [x]) (hf : s.frame s.cur.1 x.inst.handle = f)
    (hbody : ((s.core s.cur.1).recipe? f.asid f.prog r.toNat).getD [] = body) (hb : f.binds = [])
    (hready : s.rcpReady t.launch f body g.toNat)
    (heval : s.rcpEval s.cur.1 x.inst.handle t.failed f body (f.mode &&& 0xF7#64) = .ok v fl) :
    ∃ s' u, execRcpset a r g s = .next s' ∧
      s.lateBehind (s.rcpDone s.cur.1 t x.inst.handle ⟨g.toNat, r.toNat, false, f.mode &&& 0xF7#64, none⟩ v) s' t u x [(a.toNat, v)] fl 0 6 := by
  subst hf
  obtain ⟨s2, u, h2⟩ : ∃ s2 u, (s.rcpDone s.cur.1 t x.inst.handle
      ⟨g.toNat, r.toNat, false, (s.frame s.cur.1 x.inst.handle).mode &&& 0xF7#64, none⟩ v).issueLate s.cur.1 t x [a.toNat] [(a.toNat, v)] v fl
      0 6 .own = (s2, u) := ⟨_, _, rfl⟩
  refine ⟨_, _, ?_, State.issueLate_behind ht (s.rcpDone_changesFrame _ _ _ _ _) (by simp) h2⟩
  rw [execRcpset, frameInstr_one ht hx (State.rcpsetFrame_unbound hbody hb hready heval)]
  simp only [hx, List.filterMap_cons, List.filterMap_nil, List.find?_cons, beq_self_eq_true, Option.map_some, State.issueLates_one,
    List.map_cons, List.map_nil, h2]

/-! ## rcpdrop and rcpclr (R206) -/

/-- The bindings of a register dropped. -/
def Frame.drop (f : Frame) (g : Nat) : Frame :=
  { f with binds := f.binds.map (fun b => if b.reg = g then { b with dropped := true } else b) }

theorem execRcpdrop_one {g : BitVec 7} (ht : Issuing s t) (hx : t.seats = [x])
    (hg : g.toNat < (s.frame s.cur.1 x.inst.handle).carryCount) :
    execRcpdrop g s = .next ((s.setFrame s.cur.1 x.inst.handle ((s.frame s.cur.1 x.inst.handle).drop g.toNat)).putTrain s.cur.1 t.retired) := by
  refine frameInstr_one_retires (o := ⟨0, 0⟩) ht hx ?_ (s.setFrame_changesFrame _ _ _)
  simp [Nat.not_le.mpr hg, Frame.drop]

/-- A register's bindings removed. -/
def Frame.unbind (f : Frame) (g : Nat) : Frame := { f with binds := f.binds.filter (fun b => b.reg != g) }

theorem Frame.binding?_unbind (f : Frame) (g : Nat) : (f.unbind g).binding? g = none := by
  simp [Frame.unbind, Frame.binding?]

theorem execRcpclr_untagged {g : BitVec 7} (ht : Issuing s t) (hx : t.seats = [x])
    (hg : g.toNat < (s.frame s.cur.1 x.inst.handle).carryCount) (hb : (s.frame s.cur.1 x.inst.handle).binding? g.toNat = none) :
    execRcpclr g s = .next (s.putTrain s.cur.1 t.retired) := by
  refine frameInstr_one_retires (o := ⟨0, 0⟩) ht hx ?_ (s.changesFrame_refl _ _)
  simp [Nat.not_le.mpr hg, hb]

/-- `rcpclr` of a tagged register that no binding depends on: its value rebuilt where it is dropped, then its binding removed. -/
theorem execRcpclr_tagged {g : BitVec 7} {b : Binding} {f2 : Frame} {n : Nat} (ht : Issuing s t) (hx : t.seats = [x])
    (hg : g.toNat < (s.frame s.cur.1 x.inst.handle).carryCount) (hb : (s.frame s.cur.1 x.inst.handle).binding? g.toNat = some b)
    (hdeps : s.dependants s.cur.1 (s.frame s.cur.1 x.inst.handle) g.toNat = [])
    (hmat : s.materialise s.cur.1 x.inst.handle t.failed (s.frame s.cur.1 x.inst.handle) b = .ok f2 n) :
    execRcpclr g s = .next ((s.setPrepared s.cur.1 x.inst.handle (f2.unbind g.toNat) n).putTrain s.cur.1 t.retired) := by
  refine frameInstr_one_retires (o := ⟨0, 0⟩) ht hx ?_ (s.setPrepared_changesFrame _ _ _ _)
  simp [Nat.not_le.mpr hg, hb, State.prepWrite_noDependants hdeps, hmat, Frame.unbind]

theorem State.materialise_kept {b : Binding} (hd : b.dropped = false) (c h : Nat) (failed : List (Nat × Nat)) (f : Frame) :
    s.materialise c h failed f b = .ok f 0 := by
  simp [State.materialise, hd]

theorem State.materialise_dropped {c h : Nat} {failed : List (Nat × Nat)} {f : Frame} {b : Binding} {v : Word} {fl : Flags}
    (hd : b.dropped = true) (hv : s.rebuild c h failed f (s.replayOf c f b) = .ok v fl) (hfree : (s.core c).slotFree h f = true) :
    s.materialise c h failed f b = .ok (f.storeBack b.reg v) 1 := by
  simp [State.materialise, hd, hv, hfree]

end

/-- Settles O32: rcpset binds its register and gives the value late; rcpdrop marks the register's bindings; rcpclr removes them, behind the value
rebuilt where it is dropped. -/
theorem recipesBindDropAndClear : Obligations.RecipesBindDropAndClear := by
  unfold Obligations.RecipesBindDropAndClear
  intro s t x a r g ht hx c h f body others hg
  refine ⟨fun hb hsrc hoff v fl heval => ?_, ?_, fun hdeps => ⟨fun hnone => ?_, fun b hb => ⟨fun hkept => ?_, fun v fl hdrop hv hfree => ?_⟩⟩⟩
  · have h1 := s.rcpDone_changesFrame c t h ⟨g.toNat, r.toNat, false, f.mode &&& 0xF7#64, none⟩ v
    obtain ⟨s', u, hexec, hlate⟩ := execRcpset_unbound ht hx rfl rfl hb ⟨hg, hsrc, hoff⟩ heval
    have hframe := hlate.frames h
    refine ⟨s', u, hexec, ⟨hlate.mem.trans h1.mem, fun j hj => (hlate.frames j).trans (h1.frames j hj)⟩, ?_, ?_, fun k hk => ?_,
      hlate.train, hlate.stands, hlate.result⟩
    · rw [hframe]
      exact s.frame_rcpDone_bound c t h ⟨g.toNat, r.toNat, false, f.mode &&& 0xF7#64, none⟩ v
    · rw [hframe, State.mode_rcpDone]
    · rw [hframe, State.reg_rcpDone, if_neg (fun hkg => hk hkg.1)]
  · have h1 := s.setFrame_changesFrame c h (f.drop g.toNat)
    refine ⟨_, execRcpdrop_one ht hx hg, h1.stands _, h1.keepsOtherFrames _, ?_⟩
    rw [State.frame_putTrain, State.frame_setFrame_same]
    rfl
  · have h1 := s.changesFrame_refl c h
    exact ⟨_, execRcpclr_untagged ht hx hg hnone, h1.stands _, h1.keepsOtherFrames _, State.frame_putTrain ..⟩
  · have h1 := s.setPrepared_changesFrame c h (f.unbind g.toNat) 0
    refine ⟨_, execRcpclr_tagged ht hx hg hb hdeps (State.materialise_kept hkept ..), h1.stands _, h1.keepsOtherFrames _, ?_⟩
    rw [State.frame_putTrain, State.frame_setPrepared]
    rfl
  · have h1 := s.setPrepared_changesFrame c h ((f.storeBack b.reg v).unbind g.toNat) 1
    refine ⟨_, execRcpclr_tagged ht hx hg hb hdeps (State.materialise_dropped hdrop hv hfree), h1.stands _, h1.keepsOtherFrames _, ?_, ?_⟩
    · rw [State.frame_putTrain, State.frame_setPrepared, ← Frame.reg_of_binding? hb]
      exact NMap.getD_set_same _ _ _ _
    · rw [State.frame_putTrain, State.frame_setPrepared]
      exact Frame.binding?_unbind _ _

end Sys2Proof.Machine
end
